-- ==== Sys2Proof/Word.lean ====
section
/-! DEFINITION. The words of the Yilyn Y4 (00 R5): bytes, 32-bit and 64-bit words, 96-bit
instruction words, and the small closed types that instruction operands and events are made of. -/

namespace Sys2Proof

/-- A byte, the smallest addressable unit (00 R5). -/
abbrev Byte := BitVec 8
/-- A 32-bit word: one general register (01 R12). -/
abbrev Word := BitVec 32
/-- A 64-bit word: a register pair, an address, a system register (02 R48). -/
abbrev DWord := BitVec 64
/-- A 96-bit instruction word (06 R149). -/
abbrev IWord := BitVec 96

/-- Vector types of TYPE, 03 R77. Code 0xE names none. -/
inductive VType where
  | b32 | i8 | i16 | i32 | i64 | n8 | n16 | n32 | n64 | f16 | bf16 | f19 | f32 | f64 | slot
  deriving DecidableEq, Repr

/-- The guard G, 06 R149 and R151: bit 19 negates, bits 18:16 name the predicate. -/
structure Guard where
  neg : Bool
  p : BitVec 3
  deriving DecidableEq, Repr

/-- The hint field H, 06 R153; `low` are the three bits that are reserved and ignored. -/
structure Hints where
  fin : Bool
  flg : BitVec 2
  reuse : Bool
  yld : Bool
  low : BitVec 3
  deriving DecidableEq, Repr

/-- What every instruction word but a stretch header carries beside its operands: guard, TYPE,
MOD and hints (06 R149). -/
structure Head where
  g : Guard
  ty : VType
  md : BitVec 4
  h : Hints
  deriving DecidableEq, Repr

/-- A register specifier, 02 R46: class and index. -/
inductive Spec where
  /-- class 0b00, a general register -/
  | v (i : BitVec 8)
  /-- class 0b01, a constant bank word -/
  | k (i : BitVec 8)
  /-- class 0b10, a special register -/
  | sp (i : BitVec 8)
  /-- class 0b11, a signed 8-bit immediate -/
  | imm (i : BitVec 8)
  deriving DecidableEq, Repr

/-- SCOPE of 06 R162, narrowest first. -/
inductive Scope where
  | crew | valley | plain | device | domain
  deriving DecidableEq, Repr

/-- SPACE of 06 R162. -/
inductive Space where
  | g | l | s | v | p
  deriving DecidableEq, Repr

/-- RTYPE of 06 R162. -/
inductive RType where
  | own | wt | si | uc | ro
  deriving DecidableEq, Repr

/-- The X field of format M, 06 R162. -/
structure MemF where
  scope : Scope
  space : Space
  rtype : RType
  scale : BitVec 3
  ofs : BitVec 20
  deriving DecidableEq, Repr

/-- A flit of the fabric, 20 R398, with the payload flit or data flit that follows it. -/
structure Flit where
  kind : BitVec 8
  size : BitVec 8
  dst : BitVec 16
  src : BitVec 16
  job : BitVec 16
  epoch : BitVec 16
  fn : BitVec 16
  seq : BitVec 32
  addr : BitVec 64
  time : BitVec 64
  data : List Byte
  payload : List Byte
  deriving DecidableEq, Repr

/-- What firmware enables at reset, the capability list of 22 R442: bit 12q + c of `clusen` for
cluster c of plain q, channels per stack, ports. -/
structure Caps where
  clusen : BitVec 192
  clusin : BitVec 192
  chan : List Nat
  ports : BitVec 32
  feat : BitVec 64
  deriving DecidableEq, Repr

/-- An access a control core makes (18 R387 to R389): to memory or to the system register block. -/
inductive Access where
  | load (addr len : Nat)
  | store (addr : Nat) (bytes : List Byte)
  | regRead (index : Nat)
  | regWrite (index : Nat) (v : DWord)
  deriving DecidableEq, Repr

/-- An agent that system code may declare dead, 05 R148. -/
inductive Agent where
  | l1 (core : Nat)
  | copyEngine (cluster : Nat)
  | matrixEngine (cluster : Nat)
  | control (plain : Nat)
  | peer (dev : Nat)
  deriving DecidableEq, Repr

end Sys2Proof
end

