-- ==== Sys2Proof/Machine/Bits.lean ====
section
/-! DEFINITION. Helpers the operations share: sparse tables, little-endian byte strings (00 R5), the
slot arithmetic of program counters (06 R158), the check trailer CRC-32C (06 R156), and the bit
operations of 09 R229. -/

namespace Sys2Proof

/-- A sparse table: keys rise strictly. -/
abbrev Tab (α : Type) := List (Nat × α)

/-- The entry at a key. -/
def Tab.find {α : Type} (k : Nat) : List (Nat × α) → Option α
  | [] => none
  | (k', a) :: t => if k = k' then some a else Tab.find k t

/-- The table with the entry at `k` set, keys kept rising. -/
def Tab.put {α : Type} (k : Nat) (a : α) : List (Nat × α) → List (Nat × α)
  | [] => [(k, a)]
  | (k', b) :: t =>
      if k < k' then (k, a) :: (k', b) :: t
      else if k = k' then (k, a) :: t
      else (k', b) :: Tab.put k a t

/-- The table without the entry at `k`. -/
def Tab.drop {α : Type} (k : Nat) : List (Nat × α) → List (Nat × α)
  | [] => []
  | (k', b) :: t => if k = k' then Tab.drop k t else (k', b) :: Tab.drop k t

/-- The entry at a key, or a default. -/
def Tab.getD {α : Type} (k : Nat) (d : α) (t : List (Nat × α)) : α := (Tab.find k t).getD d

/-- The table with the entry at `k`, where there is one, changed by `f`. -/
def Tab.modify {α : Type} (k : Nat) (f : α → α) : List (Nat × α) → List (Nat × α)
  | [] => []
  | (k', b) :: t => if k = k' then (k', f b) :: t else (k', b) :: Tab.modify k f t

/-- The keys of a table. -/
def Tab.keys {α : Type} (t : List (Nat × α)) : List Nat := t.map (·.1)

/-- `n` in `n` little-endian bytes of `v` (00 R5). -/
def leBytes : Nat → Nat → List Byte
  | 0, _ => []
  | n + 1, v => BitVec.ofNat 8 v :: leBytes n (v / 256)

/-- The number whose little-endian bytes are given (00 R5). -/
def leNat : List Byte → Nat
  | [] => 0
  | b :: t => b.toNat + 256 * leNat t

/-- Numbers `a`, `a + 1`, … of which there are `n`. -/
def rangeFrom (a : Nat) : Nat → List Nat
  | 0 => []
  | n + 1 => a :: rangeFrom (a + 1) n

/-- The positions below 32 whose bit is set in a mask. -/
def maskList (m : Nat) : List Nat := (List.range 32).filter m.testBit

/-- The mask with the given positions set. -/
def listMask (l : List Nat) : Nat := l.foldl (fun m i => m ||| (1 <<< i)) 0

/-! ### Program counters, 06 R158 -/

/-- N(pc): the slot number of a program counter. -/
def slotN (pc : DWord) : Nat := 5 * (pc.toNat / 64) + (pc.toNat % 64) / 12

/-- SlotPC(n): the address of slot number n, modulo 2^56. -/
def slotPC (n : Int) : DWord := BitVec.ofNat 64 ((64 * (n / 5) + 12 * (n % 5)) % (2 ^ 56 : Int)).toNat

/-- The slot after a program counter. -/
def nextPC (pc : DWord) : DWord := slotPC (slotN pc + 1)

/-- Whether an address is a slot address: bits 63:56 zero and bits 5:0 a slot offset. -/
def isSlotPC (pc : DWord) : Bool :=
  pc.toNat < 2 ^ 56 && pc.toNat % 64 % 12 == 0 && decide (pc.toNat % 64 ≤ 48)

/-- The address of a slot displacement (06 R158): target := SlotPC(N(pc) + SExt(X, 64)). -/
def branchPC (pc : DWord) (x : Word) : DWord := slotPC ((slotN pc : Int) + x.toInt)

/-! ### CRC-32C, 06 R156 -/

/-- One bit of the reflected CRC-32C register. -/
def crcBit (c : Nat) : Nat := if c % 2 = 1 then (c / 2) ^^^ 0x82F63B78 else c / 2

/-- One byte into the CRC register. -/
def crcByte (c : Nat) (b : Byte) : Nat :=
  crcBit (crcBit (crcBit (crcBit (crcBit (crcBit (crcBit (crcBit (c ^^^ b.toNat))))))))

/-- The CRC-32C of RFC 3720 with the parameters of 06 R156. -/
def crc32c (bs : List Byte) : Nat := (bs.foldl crcByte 0xFFFFFFFF) ^^^ 0xFFFFFFFF

/-! ### Bit operations, 09 R229 -/

/-- The number of set bits among the low `n`. -/
def popCount : Nat → Nat → Nat
  | 0, _ => 0
  | n + 1, x => x % 2 + popCount n (x / 2)

/-- The low `n` bits reversed. -/
def revBits : Nat → Nat → Nat
  | 0, _ => 0
  | n + 1, x => (x % 2) * 2 ^ n + revBits n (x / 2)

/-- Zero bits above the highest set bit of an `n`-bit word. -/
def leadZeros : Nat → Nat → Nat
  | 0, _ => 0
  | n + 1, x => if x.testBit n then 0 else 1 + leadZeros n x

/-- Zero bits below the lowest set bit of an `n`-bit word. -/
def trailZeros : Nat → Nat → Nat
  | 0, _ => 0
  | n + 1, x => if x % 2 = 1 then 0 else 1 + trailZeros n (x / 2)

/-- The bits of a number needed to write it: 0 for 0. -/
def bitLen (n : Nat) : Nat := if n = 0 then 0 else Nat.log2 n + 1

/-- Floor of the square root, by bits from `2^k` down. -/
def isqrtAux : Nat → Nat → Nat → Nat
  | 0, _, r => r
  | k + 1, n, r => if (r + 2 ^ k) * (r + 2 ^ k) ≤ n then isqrtAux k n (r + 2 ^ k) else isqrtAux k n r

/-- Floor of the square root. -/
def isqrt (n : Nat) : Nat := isqrtAux (bitLen n / 2 + 1) n 0

/-- The xorshift32 step of 03 R94. -/
def xorshift32 (x : Word) : Word :=
  let a := x ^^^ (x <<< 13)
  let b := a ^^^ (a >>> 17)
  b ^^^ (b <<< 5)

end Sys2Proof
end

