-- ==== Sys2Proof/Machine/Operands.lean ====
section
/-! DEFINITION. Operand classes: what each operand of an instruction word may name (02 R46 to R48 and
the class tables of 08 to 16), which registers it reads and writes, and the checks of TYPE, MOD and
the memory fields (06 R152, R162). -/

namespace Sys2Proof

/-- The TYPE code of 03 R77. -/
def VType.code : VType → BitVec 4
  | .b32 => 0 | .i8 => 1 | .i16 => 2 | .i32 => 3 | .i64 => 4 | .n8 => 5 | .n16 => 6 | .n32 => 7
  | .n64 => 8 | .f16 => 9 | .bf16 => 10 | .f19 => 11 | .f32 => 12 | .f64 => 13 | .slot => 15

/-- The type a TYPE code names; 0xE names none (03 R77). -/
def VType.ofCode (c : BitVec 4) : Option VType :=
  match c.toNat with
  | 0 => some .b32 | 1 => some .i8 | 2 => some .i16 | 3 => some .i32 | 4 => some .i64
  | 5 => some .n8 | 6 => some .n16 | 7 => some .n32 | 8 => some .n64 | 9 => some .f16
  | 10 => some .bf16 | 11 => some .f19 | 12 => some .f32 | 13 => some .f64 | 15 => some .slot
  | _ => none

/-- Registers a value of the type takes: 2 for the pair types (03 R77). -/
def VType.rw : VType → Nat
  | .i64 | .n64 | .f64 => 2
  | _ => 1

/-- Width of the type in bits (03 R77; f19 sits in 32 bits). -/
def VType.bits : VType → Nat
  | .i8 | .n8 => 8
  | .i16 | .n16 | .f16 | .bf16 => 16
  | .i64 | .n64 | .f64 => 64
  | _ => 32

/-- Bytes of one element in memory (11 R276). -/
def VType.bytes (t : VType) : Nat := t.bits / 8

/-- Whether the type is a signed integer (03 R77). -/
def VType.signed : VType → Bool
  | .i8 | .i16 | .i32 | .i64 => true
  | _ => false

/-- CNT of 06 R162 as an element count. -/
def cntOf (md : BitVec 4) : Nat :=
  match (md.extractLsb' 0 2).toNat with
  | 0 => 1 | 1 => 2 | _ => 4

/-- ORD of 06 R162. -/
def ordOf (md : BitVec 4) : Nat := (md.extractLsb' 2 2).toNat

/-- The scope number of 06 R162. -/
def Scope.code : Scope → BitVec 3
  | .crew => 0 | .valley => 1 | .plain => 2 | .device => 3 | .domain => 4
/-- The scope a number names; 5 to 7 are reserved. -/
def Scope.ofCode (c : BitVec 3) : Option Scope :=
  match c.toNat with
  | 0 => some .crew | 1 => some .valley | 2 => some .plain | 3 => some .device | 4 => some .domain
  | _ => none
/-- The space number of 06 R162. -/
def Space.code : Space → BitVec 3
  | .g => 0 | .l => 1 | .s => 2 | .v => 3 | .p => 4
/-- The space a number names; 5 to 7 are reserved. -/
def Space.ofCode (c : BitVec 3) : Option Space :=
  match c.toNat with
  | 0 => some .g | 1 => some .l | 2 => some .s | 3 => some .v | 4 => some .p
  | _ => none
/-- The request type number of 06 R162. -/
def RType.code : RType → BitVec 3
  | .own => 0 | .wt => 1 | .si => 2 | .uc => 3 | .ro => 4
/-- The request type a number names; 5 to 7 are reserved. -/
def RType.ofCode (c : BitVec 3) : Option RType :=
  match c.toNat with
  | 0 => some .own | 1 => some .wt | 2 => some .si | 3 => some .uc | 4 => some .ro
  | _ => none

/-- The 10 bits of a specifier, 02 R46. -/
def Spec.bits : Spec → BitVec 10
  | .v i => 0#2 ++ i
  | .k i => 1#2 ++ i
  | .sp i => 2#2 ++ i
  | .imm i => 3#2 ++ i

/-- The specifier of 10 bits, 02 R46. -/
def Spec.ofBits (b : BitVec 10) : Spec :=
  match (b.extractLsb' 8 2).toNat with
  | 0 => .v (b.extractLsb' 0 8)
  | 1 => .k (b.extractLsb' 0 8)
  | 2 => .sp (b.extractLsb' 0 8)
  | _ => .imm (b.extractLsb' 0 8)

/-- A predicate, class 0b10 index 0x00 to 0x07. -/
def Spec.isPred : Spec → Bool
  | .sp i => decide (i.toNat < 8)
  | _ => false

/-- Special register indices that 02 R51 assigns. -/
def spAssigned (i : Nat) : Bool :=
  decide (i ≤ 7) || (decide (0x10 ≤ i) && decide (i ≤ 0x1B)) || (decide (0x20 ≤ i) && decide (i ≤ 0x2B))
  || (decide (0x30 ≤ i) && decide (i ≤ 0x53)) || (decide (0x58 ≤ i) && decide (i ≤ 0x6F))
  || (decide (0x80 ≤ i) && decide (i ≤ 0x83)) || (decide (0xC0 ≤ i) && decide (i ≤ 0xC3))
  || (decide (0xC8 ≤ i) && decide (i ≤ 0xCB))

/-- Special registers that may be a 64-bit destination (09 R221): tpc1, tva1, tpc2, tva2. -/
def spDst64 (i : Nat) : Bool := i == 0xC0 || i == 0xC2 || i == 0xC8 || i == 0xCA

/-- What an operand may be and does. `w` is its width in registers. -/
inductive Role where
  /-- a source of any class (02 R46) -/
  | src (w : Nat)
  /-- a destination of class 0b00 or 0b10 (09 R221) -/
  | dst (w : Nat)
  /-- a destination of class 0b00 -/
  | vdst (w : Nat)
  /-- a destination of class 0b00, or #0 for none -/
  | vdst0 (w : Nat)
  /-- a predicate written -/
  | pred
  /-- a predicate read -/
  | predS
  /-- a general register of width `w`, or a predicate, written -/
  | vorp (w : Nat)
  /-- the target of an indirect transfer (08 R196) -/
  | target
  /-- an immediate from 0 to `m` -/
  | sel (m : Nat)
  /-- `n` consecutive general registers read, the first a multiple of `al` -/
  | vread (n al : Nat)
  /-- `n` consecutive general registers written -/
  | vwrite (n al : Nat)
  /-- `n` consecutive general registers read and written -/
  | vrw (n al : Nat)
  /-- general registers named, neither read nor written as values -/
  | vname (n al : Nat)
  /-- general registers dropped (10 R260) -/
  | vdrop (n al : Nat)
  /-- the source of ST: general registers, or one constant or immediate element (11 R278) -/
  | stsrc (n al : Nat)
  /-- the base of a memory operand in a space (11 R274) -/
  | base (sp : Space)
  /-- a barrier register (11 R274) -/
  | bar
  /-- a convergence register (12 R297) -/
  | cvr
  /-- a copy channel (12 R297) -/
  | chan
  /-- a 64-bit address or #0 (12 R297) -/
  | addr
  /-- a 64-bit pair of class 0b00 or 0b01 (16 R343) -/
  | pair
  /-- #0 -/
  | zero
  /-- an immediate from 1 to 8 (10 R244) -/
  | n8
  /-- an immediate naming a source type, 1 to 13 (09 R241) -/
  | stype
  /-- general registers of a number that a format slot gives (09 R242) -/
  | cvtn
  deriving DecidableEq, Repr

/-- An operand with its role. -/
structure Use where
  role : Role
  sp : Spec
  deriving DecidableEq, Repr

/-- Registers the operand spans when it names general registers. -/
def Role.span : Role → Nat
  | .src w | .dst w | .vdst w | .vdst0 w | .vorp w => w
  | .vread n _ | .vwrite n _ | .vrw n _ | .vname n _ | .vdrop n _ | .stsrc n _ => n
  | .target | .addr | .pair => 2
  | .base .g => 2
  | _ => 1

/-- What the first register's index must be a multiple of. -/
def Role.align : Role → Nat
  | .src w | .dst w | .vdst w | .vdst0 w | .vorp w => w
  | .vread _ a | .vwrite _ a | .vrw _ a | .vname _ a | .vdrop _ a | .stsrc _ a => a
  | .target | .addr | .pair => 2
  | .base .g => 2
  | _ => 1

/-- The classes an operand accepts, and within a class the index (02 R47 but for REGS). -/
def Use.okStatic (u : Use) : Bool :=
  match u.sp with
  | .v i =>
      (match u.role with
        | .pred | .predS | .sel _ | .bar | .cvr | .chan | .zero | .n8 | .stype => false
        | _ => true)
      && i.toNat % u.role.align == 0 && decide (i.toNat + u.role.span ≤ 256)
  | .k i =>
      (match u.role with
        | .src _ | .target | .base _ | .addr | .pair => true
        | .stsrc n al => n == al
        | _ => false)
      && i.toNat % u.role.align == 0
  | .sp i =>
      (match u.role with
        | .src _ | .target | .base _ => spAssigned i.toNat
        | .dst w => spAssigned i.toNat && (w == 1 || spDst64 i.toNat)
        | .pred | .predS | .vorp _ => decide (i.toNat < 8)
        | .bar => decide (0x30 ≤ i.toNat) && decide (i.toNat ≤ 0x3F)
        | .cvr => decide (0x40 ≤ i.toNat) && decide (i.toNat ≤ 0x4F)
        | .chan => decide (0x50 ≤ i.toNat) && decide (i.toNat ≤ 0x53)
        | _ => false)
  | .imm i =>
      (match u.role with
        | .src _ => true
        | .vdst0 _ | .addr | .zero => i == 0
        | .base .g => i == 0
        | .base _ => true
        | .sel m => decide (i.toNat ≤ m)
        | .stsrc n al => n == al
        | .n8 => decide (1 ≤ i.toNat) && decide (i.toNat ≤ 8)
        | .stype => decide (1 ≤ i.toNat) && decide (i.toNat ≤ 13)
        | _ => false)

/-- The part of 02 R47 that depends on the launch's REGS. -/
def Use.okRegs (regs : Nat) (u : Use) : Bool :=
  match u.sp with
  | .v i => decide (i.toNat + u.role.span ≤ regs)
  | _ => true

/-- Whether the operand names a level-2 trap register (02 R47, 06 R165). -/
def Use.level2 (u : Use) : Bool :=
  match u.sp with
  | .sp i => decide (0xC8 ≤ i.toNat) && decide (i.toNat ≤ 0xCB)
  | _ => false

/-- Names of registers for the interlock of 01 R34: general register i is i, predicate pn is
0x200 + n. -/
def regNames (n : Nat) : Spec → List Nat
  | .v i => rangeFrom i.toNat n
  | .sp i => if i.toNat < 7 then [0x200 + i.toNat] else []
  | _ => []

/-- Registers the operand reads. -/
def Use.reads (u : Use) : List Nat :=
  match u.role with
  | .src _ | .predS | .target | .vread _ _ | .vrw _ _ | .stsrc _ _ | .base _ | .addr | .pair =>
      regNames u.role.span u.sp
  | _ => []

/-- Registers the operand writes. -/
def Use.writes (u : Use) : List Nat :=
  match u.role with
  | .dst _ | .vdst _ | .vdst0 _ | .pred | .vorp _ | .vwrite _ _ | .vrw _ _ => regNames u.role.span u.sp
  | _ => []

/-- Registers the operand drops. -/
def Use.drops (u : Use) : List Nat :=
  match u.role with
  | .vdrop n _ => regNames n u.sp
  | _ => []

/-- Registers the operand names without reading or writing them (10 R261). -/
def Use.names (u : Use) : List Nat :=
  match u.role with
  | .vname n _ => regNames n u.sp
  | _ => []

/-- The name of predicate pQ in MOD<2:0> (10 R244); p7 is discarded. -/
def pqNames (md : BitVec 4) : List Nat :=
  let q := (md.extractLsb' 0 3).toNat
  if q < 7 then [0x200 + q] else []

/-- MOD layouts (06 R152 and the instruction tables). -/
inductive MdKind where
  | zero | bit0 | one | rnd | rna | cvtw | ftz | pq | bit3 | mem | pk | unpk
  deriving DecidableEq, Repr

/-- Whether MOD has a value that the layout defines. -/
def MdKind.ok (k : MdKind) (ty : VType) (md : BitVec 4) : Bool :=
  let low := (md.extractLsb' 0 3).toNat
  match k with
  | .zero => md == 0
  | .bit0 => decide (md.toNat ≤ 1)
  | .one => md == 1
  | .rnd => decide (low ≤ 4)
  | .rna => decide (low ≤ 5)
  | .cvtw => decide (low ≤ 5) || (low == 6 && (ty == .i8 || ty == .n8))
  | .ftz => low == 0
  | .pq => !md.getLsbD 3
  | .bit3 => low == 0
  | .mem => decide (ordOf md ≤ 2) && (md.extractLsb' 0 2 != 3)
  | .pk => !md.getLsbD 3
  | .unpk => md.getLsbD 3

/-- SCALE and RTYPE of format M (06 R162). -/
def memOk (m : MemF) : Bool := decide (m.scale.toNat ≤ 4) && (m.space == .g || m.rtype == .own)

/-- The access size is at most 16 bytes (11 R276). -/
def sizeOk (h : Head) : Bool := decide (h.ty.bytes * cntOf h.md ≤ 16)

/-- ORD of a load: none with SCOPE 0, or .acq (06 R162, 11 R276). -/
def loadOrd (md : BitVec 4) (m : MemF) : Bool :=
  (ordOf md == 0 && m.scope == .crew) || ordOf md == 1

/-- ORD of a store: none with SCOPE 0, or .rel; never .ro (06 R162, 11 R276). -/
def storeOrd (md : BitVec 4) (m : MemF) : Bool :=
  ((ordOf md == 0 && m.scope == .crew) || ordOf md == 2) && m.rtype != .ro

/-- What ATOM accepts of MOD and X (11 R273, R282). -/
def atomOk (h : Head) (m : MemF) : Bool :=
  (h.md.extractLsb' 0 2 == 0) && (ordOf h.md != 0 || m.scope == .crew) && m.space != .l
  && m.rtype != .ro && m.scale == 0

/-- The immediate of a float format I word (06 R161). -/
def fimmOk (ty : VType) (x : Word) : Bool :=
  match ty with
  | .f19 => x.extractLsb' 0 13 == 0
  | .f16 | .bf16 => x.extractLsb' 16 16 == 0
  | _ => true

/-- The number a class 0b11 specifier holds, 0 for another class. -/
def Spec.immNat : Spec → Nat
  | .imm i => i.toNat
  | _ => 0

/-- The first general register of a specifier. -/
def Spec.vIndex : Spec → Nat
  | .v i => i.toNat
  | _ => 0

/-- The width in registers of the source type that a CVTW names in B (09 R241). -/
def stypeWords (b : Spec) : Nat :=
  if b.immNat = 4 ∨ b.immNat = 8 ∨ b.immNat = 13 then 2 else 1

end Sys2Proof
end

