-- ==== Sys2Proof/Syntax.lean ====
section
/-! DEFINITION. Every row of the opcode table as a constructor of `Instr`: the stretch header, the
instruction words of 06 R163 with their operands (guard, TYPE, MOD and hints in `h`), and the
events of the table with the data that comes with them, after the words. Each docstring names the rule that gives
the row its meaning. -/

namespace Sys2Proof

/-- One constructor per row of the opcode table. -/
inductive Instr where
  /-- STRH, R19 -/
  | strh (wait : BitVec 12) (sa : BitVec 5) (sb : BitVec 5) (len : BitVec 5) (pri : BitVec 3)
  /-- NOP, R196 -/
  | nop (h : Head)
  /-- BRA, R197 -/
  | bra (h : Head) (x : BitVec 32)
  /-- BRX, R197 -/
  | brx (h : Head) (a : Spec)
  /-- CALL, R197 -/
  | call (h : Head) (d : Spec) (x : BitVec 32)
  /-- CALLX, R197 -/
  | callx (h : Head) (d : Spec) (a : Spec)
  /-- RET, R197 -/
  | ret (h : Head) (a : Spec)
  /-- LOOP, R200 -/
  | loop (h : Head) (a : Spec) (x : BitVec 32)
  /-- LOOPX, R200 -/
  | loopx (h : Head) (a : Spec) (x : BitVec 32)
  /-- LBRK, R202 -/
  | lbrk (h : Head)
  /-- EXIT, R205 -/
  | exit (h : Head)
  /-- YIELD, R206 -/
  | yield (h : Head)
  /-- PHASE, R207 -/
  | phase (h : Head)
  /-- TRAP, R215 -/
  | trap (h : Head) (code : BitVec 16)
  /-- TRET, R216 -/
  | tret (h : Head)
  /-- RPT, R210 -/
  | rpt (h : Head) (cnt : BitVec 6) (dstep : BitVec 3) (astep : BitVec 3) (bstep : BitVec 3)
  /-- WAITF, R217 -/
  | waitf (h : Head) (mask : BitVec 12)
  /-- SETMODE, R218 -/
  | setmode (h : Head) (value : BitVec 6) (mask : BitVec 6)
  /-- SETPERF, R219 -/
  | setperf (h : Head) (a : Spec)
  /-- GETCLK, R220 -/
  | getclk (h : Head) (d : Spec) (a : Spec)
  /-- IADD, R225 -/
  | iadd (h : Head) (d : Spec) (a : Spec) (b : Spec)
  /-- IADD_IMM, R225 -/
  | iaddImm (h : Head) (d : Spec) (a : Spec) (x : BitVec 32)
  /-- ISUB, R225 -/
  | isub (h : Head) (d : Spec) (a : Spec) (b : Spec)
  /-- ISUB_IMM, R225 -/
  | isubImm (h : Head) (d : Spec) (a : Spec) (x : BitVec 32)
  /-- INEG, R225 -/
  | ineg (h : Head) (d : Spec) (a : Spec)
  /-- IABS, R225 -/
  | iabs (h : Head) (d : Spec) (a : Spec)
  /-- IMUL, R225 -/
  | imul (h : Head) (d : Spec) (a : Spec) (b : Spec)
  /-- IMUL_IMM, R225 -/
  | imulImm (h : Head) (d : Spec) (a : Spec) (x : BitVec 32)
  /-- IMULHI, R225 -/
  | imulhi (h : Head) (d : Spec) (a : Spec) (b : Spec)
  /-- IMULHI_IMM, R225 -/
  | imulhiImm (h : Head) (d : Spec) (a : Spec) (x : BitVec 32)
  /-- IMAD, R225 -/
  | imad (h : Head) (d : Spec) (a : Spec) (b : Spec) (c : Spec)
  /-- IMADW, R225 -/
  | imadw (h : Head) (d : Spec) (a : Spec) (b : Spec) (c : Spec)
  /-- IDIV, R227 -/
  | idiv (h : Head) (d : Spec) (a : Spec) (b : Spec)
  /-- IDIV_IMM, R227 -/
  | idivImm (h : Head) (d : Spec) (a : Spec) (x : BitVec 32)
  /-- IREM, R227 -/
  | irem (h : Head) (d : Spec) (a : Spec) (b : Spec)
  /-- IREM_IMM, R227 -/
  | iremImm (h : Head) (d : Spec) (a : Spec) (x : BitVec 32)
  /-- IMIN, R225 -/
  | imin (h : Head) (d : Spec) (a : Spec) (b : Spec)
  /-- IMIN_IMM, R225 -/
  | iminImm (h : Head) (d : Spec) (a : Spec) (x : BitVec 32)
  /-- IMAX, R225 -/
  | imax (h : Head) (d : Spec) (a : Spec) (b : Spec)
  /-- IMAX_IMM, R225 -/
  | imaxImm (h : Head) (d : Spec) (a : Spec) (x : BitVec 32)
  /-- ISAD, R225 -/
  | isad (h : Head) (d : Spec) (a : Spec) (b : Spec) (c : Spec)
  /-- IDP4, R225 -/
  | idp4 (h : Head) (d : Spec) (a : Spec) (b : Spec) (c : Spec)
  /-- IDP2, R225 -/
  | idp2 (h : Head) (d : Spec) (a : Spec) (b : Spec) (c : Spec)
  /-- LEA, R226 -/
  | lea (h : Head) (d : Spec) (a : Spec) (b : Spec) (sh : BitVec 5)
  /-- LEAW, R226 -/
  | leaw (h : Head) (d : Spec) (a : Spec) (b : Spec) (sh : BitVec 5)
  /-- AND, R228 -/
  | and (h : Head) (d : Spec) (a : Spec) (b : Spec)
  /-- AND_IMM, R228 -/
  | andImm (h : Head) (d : Spec) (a : Spec) (x : BitVec 32)
  /-- OR, R228 -/
  | or (h : Head) (d : Spec) (a : Spec) (b : Spec)
  /-- OR_IMM, R228 -/
  | orImm (h : Head) (d : Spec) (a : Spec) (x : BitVec 32)
  /-- XOR, R228 -/
  | xor (h : Head) (d : Spec) (a : Spec) (b : Spec)
  /-- XOR_IMM, R228 -/
  | xorImm (h : Head) (d : Spec) (a : Spec) (x : BitVec 32)
  /-- ANDN, R228 -/
  | andn (h : Head) (d : Spec) (a : Spec) (b : Spec)
  /-- ANDN_IMM, R228 -/
  | andnImm (h : Head) (d : Spec) (a : Spec) (x : BitVec 32)
  /-- NOT, R228 -/
  | not (h : Head) (d : Spec) (a : Spec)
  /-- BOOL3, R228 -/
  | bool3 (h : Head) (d : Spec) (a : Spec) (b : Spec) (c : Spec) (tbl : BitVec 8)
  /-- SHL, R228 -/
  | shl (h : Head) (d : Spec) (a : Spec) (b : Spec)
  /-- SHL_IMM, R228 -/
  | shlImm (h : Head) (d : Spec) (a : Spec) (x : BitVec 32)
  /-- SHR, R228 -/
  | shr (h : Head) (d : Spec) (a : Spec) (b : Spec)
  /-- SHR_IMM, R228 -/
  | shrImm (h : Head) (d : Spec) (a : Spec) (x : BitVec 32)
  /-- SAR, R228 -/
  | sar (h : Head) (d : Spec) (a : Spec) (b : Spec)
  /-- SAR_IMM, R228 -/
  | sarImm (h : Head) (d : Spec) (a : Spec) (x : BitVec 32)
  /-- ROT, R228 -/
  | rot (h : Head) (d : Spec) (a : Spec) (b : Spec)
  /-- ROT_IMM, R228 -/
  | rotImm (h : Head) (d : Spec) (a : Spec) (x : BitVec 32)
  /-- XSHR, R228 -/
  | xshr (h : Head) (d : Spec) (a : Spec) (b : Spec) (c : Spec)
  /-- BFX, R229 -/
  | bfx (h : Head) (d : Spec) (a : Spec) (pos : BitVec 8) (len : BitVec 8)
  /-- BFI, R229 -/
  | bfi (h : Head) (d : Spec) (a : Spec) (b : Spec) (pos : BitVec 8) (len : BitVec 8)
  /-- BREV, R229 -/
  | brev (h : Head) (d : Spec) (a : Spec)
  /-- POPC, R229 -/
  | popc (h : Head) (d : Spec) (a : Spec)
  /-- CLZ, R229 -/
  | clz (h : Head) (d : Spec) (a : Spec)
  /-- CTZ, R229 -/
  | ctz (h : Head) (d : Spec) (a : Spec)
  /-- BPICK, R230 -/
  | bpick (h : Head) (d : Spec) (a : Spec) (b : Spec) (codes : BitVec 20)
  /-- ICMP, R231 -/
  | icmp (h : Head) (d : Spec) (a : Spec) (b : Spec) (cmp : BitVec 4) (join : BitVec 2)
  /-- ICMPV, R231 -/
  | icmpv (h : Head) (d : Spec) (a : Spec) (b : Spec) (cmp : BitVec 4) (join : BitVec 2)
  /-- FCMP, R232 -/
  | fcmp (h : Head) (d : Spec) (a : Spec) (b : Spec) (cmp : BitVec 4) (join : BitVec 2)
  /-- FCMPV, R232 -/
  | fcmpv (h : Head) (d : Spec) (a : Spec) (b : Spec) (cmp : BitVec 4) (join : BitVec 2)
  /-- PBOOL3, R233 -/
  | pbool3 (h : Head) (d : Spec) (a : Spec) (b : Spec) (c : Spec) (tbl : BitVec 8)
  /-- PMOV_GET, R233 -/
  | pmovGet (h : Head) (d : Spec)
  /-- PMOV_SET, R233 -/
  | pmovSet (h : Head) (a : Spec) (mask : BitVec 7)
  /-- SEL, R234 -/
  | sel (h : Head) (d : Spec) (a : Spec) (b : Spec) (pc : BitVec 3) (ng : BitVec 1)
  /-- MOV, R234 -/
  | mov (h : Head) (d : Spec) (a : Spec)
  /-- MOVI, R234 -/
  | movi (h : Head) (d : Spec) (x : BitVec 32)
  /-- MOVW, R234 -/
  | movw (h : Head) (d : Spec) (a : Spec)
  /-- FADD, R235 -/
  | fadd (h : Head) (d : Spec) (a : Spec) (b : Spec)
  /-- FADD_IMM, R235 -/
  | faddImm (h : Head) (d : Spec) (a : Spec) (x : BitVec 32)
  /-- FSUB, R235 -/
  | fsub (h : Head) (d : Spec) (a : Spec) (b : Spec)
  /-- FSUB_IMM, R235 -/
  | fsubImm (h : Head) (d : Spec) (a : Spec) (x : BitVec 32)
  /-- FMUL, R235 -/
  | fmul (h : Head) (d : Spec) (a : Spec) (b : Spec)
  /-- FMUL_IMM, R235 -/
  | fmulImm (h : Head) (d : Spec) (a : Spec) (x : BitVec 32)
  /-- FFMA, R235 -/
  | ffma (h : Head) (d : Spec) (a : Spec) (b : Spec) (c : Spec)
  /-- FDIV, R235 -/
  | fdiv (h : Head) (d : Spec) (a : Spec) (b : Spec)
  /-- FSQRT, R235 -/
  | fsqrt (h : Head) (d : Spec) (a : Spec)
  /-- FRCP, R239 -/
  | frcp (h : Head) (d : Spec) (a : Spec)
  /-- FRSQ, R239 -/
  | frsq (h : Head) (d : Spec) (a : Spec)
  /-- FMIN, R236 -/
  | fmin (h : Head) (d : Spec) (a : Spec) (b : Spec)
  /-- FMIN_IMM, R236 -/
  | fminImm (h : Head) (d : Spec) (a : Spec) (x : BitVec 32)
  /-- FMAX, R236 -/
  | fmax (h : Head) (d : Spec) (a : Spec) (b : Spec)
  /-- FMAX_IMM, R236 -/
  | fmaxImm (h : Head) (d : Spec) (a : Spec) (x : BitVec 32)
  /-- FABS, R237 -/
  | fabs (h : Head) (d : Spec) (a : Spec)
  /-- FNEG, R237 -/
  | fneg (h : Head) (d : Spec) (a : Spec)
  /-- FCPYS, R237 -/
  | fcpys (h : Head) (d : Spec) (a : Spec) (b : Spec)
  /-- FCLASS, R237 -/
  | fclass (h : Head) (d : Spec) (a : Spec) (mask : BitVec 10)
  /-- FRND, R238 -/
  | frnd (h : Head) (d : Spec) (a : Spec)
  /-- FFRAC, R238 -/
  | ffrac (h : Head) (d : Spec) (a : Spec)
  /-- FEXP2, R239 -/
  | fexp2 (h : Head) (d : Spec) (a : Spec)
  /-- FLOG2, R239 -/
  | flog2 (h : Head) (d : Spec) (a : Spec)
  /-- FSIN, R239 -/
  | fsin (h : Head) (d : Spec) (a : Spec)
  /-- FCOS, R239 -/
  | fcos (h : Head) (d : Spec) (a : Spec)
  /-- FTANH, R239 -/
  | ftanh (h : Head) (d : Spec) (a : Spec)
  /-- FSCALE, R235 -/
  | fscale (h : Head) (d : Spec) (a : Spec) (b : Spec)
  /-- FGETEXP, R238 -/
  | fgetexp (h : Head) (d : Spec) (a : Spec)
  /-- HADD2, R240 -/
  | hadd2 (h : Head) (d : Spec) (a : Spec) (b : Spec)
  /-- HADD2_IMM, R240 -/
  | hadd2Imm (h : Head) (d : Spec) (a : Spec) (x : BitVec 32)
  /-- HMUL2, R240 -/
  | hmul2 (h : Head) (d : Spec) (a : Spec) (b : Spec)
  /-- HMUL2_IMM, R240 -/
  | hmul2Imm (h : Head) (d : Spec) (a : Spec) (x : BitVec 32)
  /-- HFMA2, R240 -/
  | hfma2 (h : Head) (d : Spec) (a : Spec) (b : Spec) (c : Spec)
  /-- HMIN2, R240 -/
  | hmin2 (h : Head) (d : Spec) (a : Spec) (b : Spec)
  /-- HMIN2_IMM, R240 -/
  | hmin2Imm (h : Head) (d : Spec) (a : Spec) (x : BitVec 32)
  /-- HMAX2, R240 -/
  | hmax2 (h : Head) (d : Spec) (a : Spec) (b : Spec)
  /-- HMAX2_IMM, R240 -/
  | hmax2Imm (h : Head) (d : Spec) (a : Spec) (x : BitVec 32)
  /-- CVTN_PK, R242 -/
  | cvtnPk (h : Head) (d : Spec) (a : Spec) (b : Spec)
  /-- CVTN_UNPK, R242 -/
  | cvtnUnpk (h : Head) (d : Spec) (a : Spec) (b : Spec)
  /-- CVTW, R241 -/
  | cvtw (h : Head) (d : Spec) (a : Spec) (b : Spec)
  /-- VBLKX, R243 -/
  | vblkx (h : Head) (d : Spec) (a : Spec) (b : Spec) (idx : BitVec 3)
  /-- LANEX_PICK, R249 -/
  | lanexPick (h : Head) (d : Spec) (a : Spec) (b : Spec) (mask : BitVec 32)
  /-- LANEX_BACK, R249 -/
  | lanexBack (h : Head) (d : Spec) (a : Spec) (b : Spec) (mask : BitVec 32)
  /-- LANEX_FWD, R249 -/
  | lanexFwd (h : Head) (d : Spec) (a : Spec) (b : Spec) (mask : BitVec 32)
  /-- LANEX_FLIP, R249 -/
  | lanexFlip (h : Head) (d : Spec) (a : Spec) (b : Spec) (mask : BitVec 32)
  /-- LANEX_ROT, R249 -/
  | lanexRot (h : Head) (d : Spec) (a : Spec) (b : Spec) (mask : BitVec 32)
  /-- POLL_ALL, R250 -/
  | pollAll (h : Head) (d : Spec) (a : Spec) (mask : BitVec 32)
  /-- POLL_ANY, R250 -/
  | pollAny (h : Head) (d : Spec) (a : Spec) (mask : BitVec 32)
  /-- POLL_MASK, R250 -/
  | pollMask (h : Head) (d : Spec) (a : Spec) (mask : BitVec 32)
  /-- POLL_SAME, R250 -/
  | pollSame (h : Head) (d : Spec) (a : Spec) (mask : BitVec 32)
  /-- POLL_COUNT, R250 -/
  | pollCount (h : Head) (d : Spec) (a : Spec) (mask : BitVec 32)
  /-- PEERS_GROUP, R251 -/
  | peersGroup (h : Head) (d : Spec) (a : Spec) (mask : BitVec 32)
  /-- PEERS_WHOLE, R251 -/
  | peersWhole (h : Head) (d : Spec) (a : Spec) (mask : BitVec 32)
  /-- MRED_ADD, R252 -/
  | mredAdd (h : Head) (d : Spec) (a : Spec) (b : Spec) (mask : BitVec 32)
  /-- MRED_MIN, R252 -/
  | mredMin (h : Head) (d : Spec) (a : Spec) (b : Spec) (mask : BitVec 32)
  /-- MRED_MAX, R252 -/
  | mredMax (h : Head) (d : Spec) (a : Spec) (b : Spec) (mask : BitVec 32)
  /-- MRED_AND, R252 -/
  | mredAnd (h : Head) (d : Spec) (a : Spec) (b : Spec) (mask : BitVec 32)
  /-- MRED_OR, R252 -/
  | mredOr (h : Head) (d : Spec) (a : Spec) (b : Spec) (mask : BitVec 32)
  /-- MRED_XOR, R252 -/
  | mredXor (h : Head) (d : Spec) (a : Spec) (b : Spec) (mask : BitVec 32)
  /-- SCAN_ADD, R253 -/
  | scanAdd (h : Head) (d : Spec) (a : Spec) (mask : BitVec 32)
  /-- SCAN_MIN, R253 -/
  | scanMin (h : Head) (d : Spec) (a : Spec) (mask : BitVec 32)
  /-- SCAN_MAX, R253 -/
  | scanMax (h : Head) (d : Spec) (a : Spec) (mask : BitVec 32)
  /-- SCAN_AND, R253 -/
  | scanAnd (h : Head) (d : Spec) (a : Spec) (mask : BitVec 32)
  /-- SCAN_OR, R253 -/
  | scanOr (h : Head) (d : Spec) (a : Spec) (mask : BitVec 32)
  /-- SCAN_XOR, R253 -/
  | scanXor (h : Head) (d : Spec) (a : Spec) (mask : BitVec 32)
  /-- REDX_ADD, R253 -/
  | redxAdd (h : Head) (d : Spec) (a : Spec) (mask : BitVec 32)
  /-- REDX_MIN, R253 -/
  | redxMin (h : Head) (d : Spec) (a : Spec) (mask : BitVec 32)
  /-- REDX_MAX, R253 -/
  | redxMax (h : Head) (d : Spec) (a : Spec) (mask : BitVec 32)
  /-- REDX_AND, R253 -/
  | redxAnd (h : Head) (d : Spec) (a : Spec) (mask : BitVec 32)
  /-- REDX_OR, R253 -/
  | redxOr (h : Head) (d : Spec) (a : Spec) (mask : BitVec 32)
  /-- REDX_XOR, R253 -/
  | redxXor (h : Head) (d : Spec) (a : Spec) (mask : BitVec 32)
  /-- HIST, R255 -/
  | hist (h : Head) (d : Spec) (a : Spec) (b : Spec) (mask : BitVec 32)
  /-- HMRG, R256 -/
  | hmrg (h : Head) (d : Spec) (a : Spec) (b : Spec) (mask : BitVec 32)
  /-- SLICE, R258 -/
  | slice (h : Head) (d : Spec) (n : BitVec 4)
  /-- RCPMAT, R259 -/
  | rcpmat (h : Head) (a : Spec)
  /-- RCPDROP, R260 -/
  | rcpdrop (h : Head) (d : Spec)
  /-- RCPSTAT, R261 -/
  | rcpstat (h : Head) (d : Spec) (a : Spec)
  /-- AFADD, R264 -/
  | afadd (h : Head) (d : Spec) (a : Spec) (b : Spec)
  /-- AFSUB, R264 -/
  | afsub (h : Head) (d : Spec) (a : Spec) (b : Spec)
  /-- AFSCL, R264 -/
  | afscl (h : Head) (d : Spec) (a : Spec) (b : Spec)
  /-- AFMUL, R265 -/
  | afmul (h : Head) (d : Spec) (a : Spec) (b : Spec)
  /-- AFSQR, R265 -/
  | afsqr (h : Head) (d : Spec) (a : Spec)
  /-- AFREC, R266 -/
  | afrec (h : Head) (d : Spec) (a : Spec)
  /-- AFCOND, R268 -/
  | afcond (h : Head) (d : Spec) (a : Spec) (b : Spec) (k : BitVec 3) (rad : BitVec 1)
  /-- AFBND, R269 -/
  | afbnd (h : Head) (d : Spec) (a : Spec)
  /-- AFINI, R270 -/
  | afini (h : Head) (d : Spec) (a : Spec) (b : Spec) (sym : BitVec 16)
  /-- AFSYM, R270 -/
  | afsym (h : Head) (d : Spec)
  /-- AFLD, R271 -/
  | afld (h : Head) (d : Spec) (a : Spec) (b : Spec) (m : MemF)
  /-- AFST, R271 -/
  | afst (h : Head) (d : Spec) (a : Spec) (b : Spec) (m : MemF)
  /-- LD, R277 -/
  | ld (h : Head) (d : Spec) (a : Spec) (b : Spec) (m : MemF)
  /-- ST, R278 -/
  | st (h : Head) (d : Spec) (a : Spec) (b : Spec) (m : MemF)
  /-- PREF, R279 -/
  | pref (h : Head) (a : Spec) (b : Spec) (m : MemF)
  /-- ATOM_ADD, R281 -/
  | atomAdd (h : Head) (d : Spec) (a : Spec) (b : Spec) (m : MemF)
  /-- ATOM_MIN, R281 -/
  | atomMin (h : Head) (d : Spec) (a : Spec) (b : Spec) (m : MemF)
  /-- ATOM_MAX, R281 -/
  | atomMax (h : Head) (d : Spec) (a : Spec) (b : Spec) (m : MemF)
  /-- ATOM_AND, R281 -/
  | atomAnd (h : Head) (d : Spec) (a : Spec) (b : Spec) (m : MemF)
  /-- ATOM_OR, R281 -/
  | atomOr (h : Head) (d : Spec) (a : Spec) (b : Spec) (m : MemF)
  /-- ATOM_XOR, R281 -/
  | atomXor (h : Head) (d : Spec) (a : Spec) (b : Spec) (m : MemF)
  /-- ATOM_EXCH, R281 -/
  | atomExch (h : Head) (d : Spec) (a : Spec) (b : Spec) (m : MemF)
  /-- ATOM_INC, R281 -/
  | atomInc (h : Head) (d : Spec) (a : Spec) (b : Spec) (m : MemF)
  /-- ATOM_DEC, R281 -/
  | atomDec (h : Head) (d : Spec) (a : Spec) (b : Spec) (m : MemF)
  /-- ATOM_CAS, R281 -/
  | atomCas (h : Head) (d : Spec) (a : Spec) (b : Spec) (m : MemF)
  /-- ATOM_FADD, R281 -/
  | atomFadd (h : Head) (d : Spec) (a : Spec) (b : Spec) (m : MemF)
  /-- ATOM_FMIN, R281 -/
  | atomFmin (h : Head) (d : Spec) (a : Spec) (b : Spec) (m : MemF)
  /-- ATOM_FMAX, R281 -/
  | atomFmax (h : Head) (d : Spec) (a : Spec) (b : Spec) (m : MemF)
  /-- LEASE, R283 -/
  | lease (h : Head) (d : Spec) (a : Spec) (b : Spec) (m : MemF)
  /-- LEND, R285 -/
  | lend (h : Head) (d : Spec)
  /-- FENCE_ACQ, R287 -/
  | fenceAcq (h : Head) (scope : Scope)
  /-- FENCE_REL, R287 -/
  | fenceRel (h : Head) (scope : Scope)
  /-- FENCE_AR, R287 -/
  | fenceAr (h : Head) (scope : Scope)
  /-- FENCE_SC, R287 -/
  | fenceSc (h : Head) (scope : Scope)
  /-- ROINV, R288 -/
  | roinv (h : Head)
  /-- CINV, R289 -/
  | cinv (h : Head) (a : Spec) (b : Spec)
  /-- CINV_DISCARD, R289 -/
  | cinvDiscard (h : Head) (a : Spec) (b : Spec)
  /-- CWB, R289 -/
  | cwb (h : Head) (a : Spec) (b : Spec)
  /-- CRESIZE, R291 -/
  | cresize (h : Head) (a : Spec)
  /-- BNINIT, R292 -/
  | bninit (h : Head) (a : Spec) (b : Spec)
  /-- BNARR, R292 -/
  | bnarr (h : Head) (d : Spec) (a : Spec)
  /-- BNWAIT, R292 -/
  | bnwait (h : Head) (a : Spec) (b : Spec)
  /-- BNTEST, R292 -/
  | bntest (h : Head) (d : Spec) (a : Spec) (b : Spec)
  /-- MBARR, R294 -/
  | mbarr (h : Head) (d : Spec) (a : Spec) (b : Spec) (m : MemF)
  /-- MBWAIT, R295 -/
  | mbwait (h : Head) (a : Spec) (b : Spec) (m : MemF)
  /-- CPGO, R306 -/
  | cpgo (h : Head) (a : Spec) (b : Spec)
  /-- CPSTAT, R307 -/
  | cpstat (h : Head) (d : Spec) (a : Spec) (b : Spec)
  /-- CVINIT, R320 -/
  | cvinit (h : Head) (d : Spec) (a : Spec) (b : Spec)
  /-- MXSIGN, R320 -/
  | mxsign (h : Head) (d : Spec) (a : Spec)
  /-- MXPOST, R317 -/
  | mxpost (h : Head) (d : Spec) (a : Spec)
  /-- MXSTAT, R321 -/
  | mxstat (h : Head) (d : Spec) (a : Spec)
  /-- MSEND, R325 -/
  | msend (h : Head) (a : Spec) (b : Spec) (hx : BitVec 8)
  /-- EQPOST, R323 -/
  | eqpost (h : Head) (a : Spec) (b : Spec) (c : Spec)
  /-- WAITQ, R328 -/
  | waitq (h : Head) (d : Spec)
  /-- QWAVE, R328 -/
  | qwave (h : Head) (d : Spec)
  /-- SRD, R344 -/
  | srd (h : Head) (d : Spec) (sreg : BitVec 12)
  /-- SWR, R344 -/
  | swr (h : Head) (a : Spec) (sreg : BitVec 12)
  /-- TRETS, R341 -/
  | trets (h : Head)
  /-- TLBINV, R345 -/
  | tlbinv (h : Head) (a : Spec) (b : Spec) (kind : BitVec 2)
  /-- ICINV, R346 -/
  | icinv (h : Head)
  /-- RCPFLUSH, R347 -/
  | rcpflush (h : Head) (d : Spec) (a : Spec)
  /-- CTXSAVE, R350 -/
  | ctxsave (h : Head) (d : Spec) (a : Spec) (b : Spec)
  /-- CTXLOAD, R352 -/
  | ctxload (h : Head) (d : Spec) (a : Spec) (b : Spec)
  /-- PARK, R348 -/
  | park (h : Head) (a : Spec)
  /-- PARK_REL, R348 -/
  | parkRel (h : Head) (a : Spec)
  /-- HALT, R349 -/
  | halt (h : Head) (a : Spec)
  /-- STEST, R353 -/
  | stest (h : Head) (d : Spec) (test : BitVec 8)
  /-- SETPERF_SYS_CAP, R354 -/
  | setperfSysCap (h : Head) (d : Spec) (a : Spec) (b : Spec)
  /-- SETPERF_SYS_PERMITS, R354 -/
  | setperfSysPermits (h : Head) (d : Spec) (a : Spec) (b : Spec)
  /-- CONVOY_ARBITRATION, R22 -/
  | convoyArbitration (part : Nat)
  /-- THREAD_STARVED, R23 -/
  | threadStarved (t : Nat)
  /-- PREEMPTION_TAKE_EFFECT, R28 -/
  | preemptionTakeEffect (t : Nat)
  /-- LONG_LATENCY_COMPLETE, R32 -/
  | longLatencyComplete (op : Nat)
  /-- PHASE_BOUNDARY, R42 -/
  | phaseBoundary (l : Nat)
  /-- QTAIL_WRITE, R358 -/
  | qtailWrite (q : Nat) (v : Word)
  /-- LAUNCH_WINDOW_ENTRY, R359 -/
  | launchWindowEntry (q : Nat) (n : Nat)
  /-- LAUNCH_PRIORITY_AGING, R361 -/
  | launchPriorityAging (l : Nat)
  /-- CANDIDATE_HOLD, R361 -/
  | candidateHold (l : Nat)
  /-- VALLEY_BIND, R366 -/
  | valleyBind (l : Nat) (plain : Nat)
  /-- CREW_START, R40 -/
  | crewStart (crew : Nat)
  /-- LAUNCH_COMPLETE, R144 -/
  | launchComplete (l : Nat)
  /-- SLICE_PREEMPT, R369 -/
  | slicePreempt (l : Nat) (cluster : Nat)
  /-- SLICE_RESTORE, R369 -/
  | sliceRestore (slice : Nat) (cluster : Nat)
  /-- STOP_CLEAR, R364 -/
  | stopClear (q : Nat)
  /-- REGENERATION_COMPLETE, R65 -/
  | regenerationComplete (part : Nat)
  /-- HOME_STORE_MERGE, R112 -/
  | homeStoreMerge (op : Nat)
  /-- LEASE_TIMER_EXPIRY, R286 -/
  | leaseTimerExpiry (t : Nat)
  /-- LEASE_AGE_GRANT, R283 -/
  | leaseAgeGrant (t : Nat)
  /-- REMOTE_LEASE_EXPIRY, R143 -/
  | remoteLeaseExpiry (core : Nat) (line : Nat)
  /-- DELAYED_WRITE_PERFORM, R143 -/
  | delayedWritePerform (op : Nat)
  /-- PTPERR_EXCEEDED, R404 -/
  | ptperrExceeded (err : Word)
  /-- HOST_WRITE, R138 -/
  | hostWrite (fn : Nat) (addr : Nat) (bytes : List Byte)
  /-- HOST_READ, R139 -/
  | hostRead (fn : Nat) (addr : Nat) (len : Nat)
  /-- HOST_LINK_SWITCH, R417 -/
  | hostLinkSwitch
  /-- COPY_RECORD_READ, R302 -/
  | copyRecordRead (crew : Nat) (ch : Nat)
  /-- COPY_RECORD_COMPLETE, R304 -/
  | copyRecordComplete (crew : Nat) (ch : Nat)
  /-- MATRIX_PASS_GRANT, R316 -/
  | matrixPassGrant (cluster : Nat)
  /-- MATRIX_ENTRY_AGED, R316 -/
  | matrixEntryAged (cluster : Nat) (j : Nat)
  /-- MATRIX_PASS_COMPLETE, R312 -/
  | matrixPassComplete (cluster : Nat)
  /-- MATRIX_JOB_COMPLETE, R318 -/
  | matrixJobComplete (cluster : Nat) (j : Nat)
  /-- RESERVATION_GRANT, R431 -/
  | reservationGrant (cluster : Nat)
  /-- RESERVATION_AGED, R431 -/
  | reservationAged (cluster : Nat) (j : Nat)
  /-- EVENT_RECORD_APPEND, R372 -/
  | eventRecordAppend (n : Nat)
  /-- HANDLER_START, R326 -/
  | handlerStart (l : Nat)
  /-- FLIT_READ, R403 -/
  | flitRead (f : Flit)
  /-- FLIT_WRITE, R403 -/
  | flitWrite (f : Flit)
  /-- FLIT_ATOMIC, R403 -/
  | flitAtomic (f : Flit)
  /-- FLIT_RESPONSE, R403 -/
  | flitResponse (f : Flit)
  /-- FLIT_REFUSAL, R402 -/
  | flitRefusal (f : Flit)
  /-- FLIT_MESSAGE, R406 -/
  | flitMessage (f : Flit)
  /-- FLIT_ACKNOWLEDGE, R406 -/
  | flitAcknowledge (f : Flit)
  /-- FLIT_BUSY, R406 -/
  | flitBusy (f : Flit)
  /-- FLIT_REPAIR, R408 -/
  | flitRepair (f : Flit)
  /-- FLIT_WAVE, R410 -/
  | flitWave (f : Flit)
  /-- FLIT_WAVE_REPLY, R410 -/
  | flitWaveReply (f : Flit)
  /-- FLIT_QUIET, R410 -/
  | flitQuiet (f : Flit)
  /-- FLIT_PHASE_ARRIVE, R411 -/
  | flitPhaseArrive (f : Flit)
  /-- FLIT_PHASE_GO, R411 -/
  | flitPhaseGo (f : Flit)
  /-- FLIT_KILL_NOTICE, R412 -/
  | flitKillNotice (f : Flit)
  /-- PORT_RETRAIN, R397 -/
  | portRetrain (port : Nat)
  /-- REMOTE_TIMEOUT, R402 -/
  | remoteTimeout (op : Nat)
  /-- MESSAGE_RETRANSMIT, R406 -/
  | messageRetransmit (job : Nat) (dst : Nat)
  /-- STREAM_ABANDON, R407 -/
  | streamAbandon (job : Nat) (dst : Nat)
  /-- REPAIR_SEND, R408 -/
  | repairSend (job : Nat) (dst : Nat)
  /-- LOCAL_WAVE, R410 -/
  | localWave (job : Nat)
  /-- WAVE_TIMEOUT, R410 -/
  | waveTimeout (job : Nat)
  /-- FJSYNC, R414 -/
  | fjsync (job : Nat)
  /-- ENGRES_CHANNEL_RESUME, R386 -/
  | engresChannelResume (v : Word)
  /-- ENGRES_JOB_POST, R386 -/
  | engresJobPost (v : Word)
  /-- ATBASE_WRITE, R390 -/
  | atbaseWrite (t : Nat) (v : DWord)
  /-- PTEN_WRITE, R392 -/
  | ptenWrite (q : Nat) (v : Word)
  /-- PTEN_APPLY, R392 -/
  | ptenApply (q : Nat)
  /-- SUPMAP_WRITE, R423 -/
  | supmapWrite (k : Nat) (v : Word)
  /-- SUPMAP_APPLY, R423 -/
  | supmapApply (n : Nat)
  /-- MEXTGO, R444 -/
  | mextgo (v : Word)
  /-- ATTREQ, R445 -/
  | attreq (v : DWord)
  /-- ATTESTATION_REPORT_DONE, R445 -/
  | attestationReportDone
  /-- MCSTAT_CLEAR, R437 -/
  | mcstatClear (i : Nat) (v : DWord)
  /-- REGISTER_WRITE, R344 -/
  | registerWrite (index : Nat) (v : DWord)
  /-- POWER_INTERVAL_END, R425 -/
  | powerIntervalEnd
  /-- REPLAY_RATE_EXCURSION, R429 -/
  | replayRateExcursion (core : Nat)
  /-- HBM_SCRUB, R434 -/
  | hbmScrub (addr : Nat) (bad : Bool)
  /-- THERMAL_STEP, R446 -/
  | thermalStep (die : Nat) (temp : Nat)
  /-- THERMAL_TRIP, R446 -/
  | thermalTrip (die : Nat)
  /-- SUPPLY_OUT_OF_REGULATION, R438 -/
  | supplyOutOfRegulation (d : Nat)
  /-- SELFTEST_HOLD, R440 -/
  | selftestHold
  /-- SELFTEST_CLUSTER_READY, R440 -/
  | selftestClusterReady
  /-- SELFTEST_HOLD_TIMEOUT, R440 -/
  | selftestHoldTimeout
  /-- DEVICE_RESET, R443 -/
  | deviceReset (caps : Caps)
  /-- SYSCALL_EXIT, R374 -/
  | syscallExit (code : Nat)
  /-- IMAGE_LOAD, R193 -/
  | imageLoad (addr : Nat) (size : Nat)
  /-- IMAGE_UNLOAD, R374 -/
  | imageUnload (hd : Nat)
  /-- FUNC_REF, R374 -/
  | funcRef (hd : Nat) (name : Nat)
  /-- MEM_ALLOC, R374 -/
  | memAlloc (size : Nat) (flags : Nat)
  /-- MEM_FREE, R374 -/
  | memFree (addr : Nat)
  /-- QUEUE_OPEN, R374 -/
  | queueOpen (mode : Nat) (prio : Nat)
  /-- QUEUE_CLOSE, R374 -/
  | queueClose (q : Nat)
  /-- LAUNCH_SUBMIT, R374 -/
  | launchSubmit (q : Nat) (rcd : Nat) (dev : Nat)
  /-- LAUNCH_STATUS, R374 -/
  | launchStatus (ctx : Nat)
  /-- LAUNCH_RESIZE, R365 -/
  | launchResize (ctx : Nat) (dies : Nat)
  /-- LAUNCH_CANCEL, R374 -/
  | launchCancel (ctx : Nat)
  /-- EVQ_OPEN, R374 -/
  | evqOpen (plain : Nat) (entries : Nat)
  /-- EVQ_READ, R374 -/
  | evqRead (qw : Nat) (buf : Nat) (max : Nat) (timeout : Nat)
  /-- QUEUE_RESTART, R374 -/
  | queueRestart (q : Nat)
  /-- TIME_GET, R374 -/
  | timeGet
  /-- EXCLUSIVE_OWNERSHIP_GRANT, R128 -/
  | exclusiveOwnershipGrant (core : Nat) (line : Nat)
  /-- HOST_ACKNOWLEDGE, R419 -/
  | hostAcknowledge (op : Nat)
  /-- CONTROL_CORE_ACCESS, R389 -/
  | controlCoreAccess (master : Nat) (k : Access)
  /-- AGENT_DECLARED_DEAD, R148 -/
  | agentDeclaredDead (agent : Agent)
  /-- LINK_TRAINING_END, R397 -/
  | linkTrainingEnd (port : Nat) (ok : Bool)
  /-- HOSTSEL_WRITE, R417 -/
  | hostselWrite (v : Word)
  deriving DecidableEq, Repr

end Sys2Proof
end

