-- ==== Sys2Proof/Machine/InstrInfo.lean ====
section
/-! DEFINITION. What each instruction word is made of: its head, its operands with their roles, the
types and MOD values its row accepts (the instruction tables of 08 to 12 and 16), and the limits of
its X fields. -/

namespace Sys2Proof

/-- The guard, TYPE, MOD and hints of an instruction word (06 R149); none for a stretch header or
an event. -/
def Instr.head : Instr → Option Head
  | .nop h => some h
  | .bra h _ => some h
  | .brx h _ => some h
  | .call h _ _ => some h
  | .callx h _ _ => some h
  | .ret h _ => some h
  | .loop h _ _ => some h
  | .loopx h _ _ => some h
  | .lbrk h => some h
  | .exit h => some h
  | .yield h => some h
  | .phase h => some h
  | .trap h _ => some h
  | .tret h => some h
  | .rpt h _ _ _ _ => some h
  | .waitf h _ => some h
  | .setmode h _ _ => some h
  | .setperf h _ => some h
  | .getclk h _ _ => some h
  | .iadd h _ _ _ => some h
  | .iaddImm h _ _ _ => some h
  | .isub h _ _ _ => some h
  | .isubImm h _ _ _ => some h
  | .ineg h _ _ => some h
  | .iabs h _ _ => some h
  | .imul h _ _ _ => some h
  | .imulImm h _ _ _ => some h
  | .imulhi h _ _ _ => some h
  | .imulhiImm h _ _ _ => some h
  | .imad h _ _ _ _ => some h
  | .imadw h _ _ _ _ => some h
  | .idiv h _ _ _ => some h
  | .idivImm h _ _ _ => some h
  | .irem h _ _ _ => some h
  | .iremImm h _ _ _ => some h
  | .imin h _ _ _ => some h
  | .iminImm h _ _ _ => some h
  | .imax h _ _ _ => some h
  | .imaxImm h _ _ _ => some h
  | .isad h _ _ _ _ => some h
  | .idp4 h _ _ _ _ => some h
  | .idp2 h _ _ _ _ => some h
  | .lea h _ _ _ _ => some h
  | .leaw h _ _ _ _ => some h
  | .and h _ _ _ => some h
  | .andImm h _ _ _ => some h
  | .or h _ _ _ => some h
  | .orImm h _ _ _ => some h
  | .xor h _ _ _ => some h
  | .xorImm h _ _ _ => some h
  | .andn h _ _ _ => some h
  | .andnImm h _ _ _ => some h
  | .not h _ _ => some h
  | .bool3 h _ _ _ _ _ => some h
  | .shl h _ _ _ => some h
  | .shlImm h _ _ _ => some h
  | .shr h _ _ _ => some h
  | .shrImm h _ _ _ => some h
  | .sar h _ _ _ => some h
  | .sarImm h _ _ _ => some h
  | .rot h _ _ _ => some h
  | .rotImm h _ _ _ => some h
  | .xshr h _ _ _ _ => some h
  | .bfx h _ _ _ _ => some h
  | .bfi h _ _ _ _ _ => some h
  | .brev h _ _ => some h
  | .popc h _ _ => some h
  | .clz h _ _ => some h
  | .ctz h _ _ => some h
  | .bpick h _ _ _ _ => some h
  | .icmp h _ _ _ _ _ => some h
  | .icmpv h _ _ _ _ _ => some h
  | .fcmp h _ _ _ _ _ => some h
  | .fcmpv h _ _ _ _ _ => some h
  | .pbool3 h _ _ _ _ _ => some h
  | .pmovGet h _ => some h
  | .pmovSet h _ _ => some h
  | .sel h _ _ _ _ _ => some h
  | .mov h _ _ => some h
  | .movi h _ _ => some h
  | .movw h _ _ => some h
  | .fadd h _ _ _ => some h
  | .faddImm h _ _ _ => some h
  | .fsub h _ _ _ => some h
  | .fsubImm h _ _ _ => some h
  | .fmul h _ _ _ => some h
  | .fmulImm h _ _ _ => some h
  | .ffma h _ _ _ _ => some h
  | .fdiv h _ _ _ => some h
  | .fsqrt h _ _ => some h
  | .frcp h _ _ => some h
  | .frsq h _ _ => some h
  | .fmin h _ _ _ => some h
  | .fminImm h _ _ _ => some h
  | .fmax h _ _ _ => some h
  | .fmaxImm h _ _ _ => some h
  | .fabs h _ _ => some h
  | .fneg h _ _ => some h
  | .fcpys h _ _ _ => some h
  | .fclass h _ _ _ => some h
  | .frnd h _ _ => some h
  | .ffrac h _ _ => some h
  | .fexp2 h _ _ => some h
  | .flog2 h _ _ => some h
  | .fsin h _ _ => some h
  | .fcos h _ _ => some h
  | .ftanh h _ _ => some h
  | .fscale h _ _ _ => some h
  | .fgetexp h _ _ => some h
  | .hadd2 h _ _ _ => some h
  | .hadd2Imm h _ _ _ => some h
  | .hmul2 h _ _ _ => some h
  | .hmul2Imm h _ _ _ => some h
  | .hfma2 h _ _ _ _ => some h
  | .hmin2 h _ _ _ => some h
  | .hmin2Imm h _ _ _ => some h
  | .hmax2 h _ _ _ => some h
  | .hmax2Imm h _ _ _ => some h
  | .cvtnPk h _ _ _ => some h
  | .cvtnUnpk h _ _ _ => some h
  | .cvtw h _ _ _ => some h
  | .vblkx h _ _ _ _ => some h
  | .lanexPick h _ _ _ _ => some h
  | .lanexBack h _ _ _ _ => some h
  | .lanexFwd h _ _ _ _ => some h
  | .lanexFlip h _ _ _ _ => some h
  | .lanexRot h _ _ _ _ => some h
  | .pollAll h _ _ _ => some h
  | .pollAny h _ _ _ => some h
  | .pollMask h _ _ _ => some h
  | .pollSame h _ _ _ => some h
  | .pollCount h _ _ _ => some h
  | .peersGroup h _ _ _ => some h
  | .peersWhole h _ _ _ => some h
  | .mredAdd h _ _ _ _ => some h
  | .mredMin h _ _ _ _ => some h
  | .mredMax h _ _ _ _ => some h
  | .mredAnd h _ _ _ _ => some h
  | .mredOr h _ _ _ _ => some h
  | .mredXor h _ _ _ _ => some h
  | .scanAdd h _ _ _ => some h
  | .scanMin h _ _ _ => some h
  | .scanMax h _ _ _ => some h
  | .scanAnd h _ _ _ => some h
  | .scanOr h _ _ _ => some h
  | .scanXor h _ _ _ => some h
  | .redxAdd h _ _ _ => some h
  | .redxMin h _ _ _ => some h
  | .redxMax h _ _ _ => some h
  | .redxAnd h _ _ _ => some h
  | .redxOr h _ _ _ => some h
  | .redxXor h _ _ _ => some h
  | .hist h _ _ _ _ => some h
  | .hmrg h _ _ _ _ => some h
  | .slice h _ _ => some h
  | .rcpmat h _ => some h
  | .rcpdrop h _ => some h
  | .rcpstat h _ _ => some h
  | .afadd h _ _ _ => some h
  | .afsub h _ _ _ => some h
  | .afscl h _ _ _ => some h
  | .afmul h _ _ _ => some h
  | .afsqr h _ _ => some h
  | .afrec h _ _ => some h
  | .afcond h _ _ _ _ _ => some h
  | .afbnd h _ _ => some h
  | .afini h _ _ _ _ => some h
  | .afsym h _ => some h
  | .afld h _ _ _ _ => some h
  | .afst h _ _ _ _ => some h
  | .ld h _ _ _ _ => some h
  | .st h _ _ _ _ => some h
  | .pref h _ _ _ => some h
  | .atomAdd h _ _ _ _ => some h
  | .atomMin h _ _ _ _ => some h
  | .atomMax h _ _ _ _ => some h
  | .atomAnd h _ _ _ _ => some h
  | .atomOr h _ _ _ _ => some h
  | .atomXor h _ _ _ _ => some h
  | .atomExch h _ _ _ _ => some h
  | .atomInc h _ _ _ _ => some h
  | .atomDec h _ _ _ _ => some h
  | .atomCas h _ _ _ _ => some h
  | .atomFadd h _ _ _ _ => some h
  | .atomFmin h _ _ _ _ => some h
  | .atomFmax h _ _ _ _ => some h
  | .lease h _ _ _ _ => some h
  | .lend h _ => some h
  | .fenceAcq h _ => some h
  | .fenceRel h _ => some h
  | .fenceAr h _ => some h
  | .fenceSc h _ => some h
  | .roinv h => some h
  | .cinv h _ _ => some h
  | .cinvDiscard h _ _ => some h
  | .cwb h _ _ => some h
  | .cresize h _ => some h
  | .bninit h _ _ => some h
  | .bnarr h _ _ => some h
  | .bnwait h _ _ => some h
  | .bntest h _ _ _ => some h
  | .mbarr h _ _ _ _ => some h
  | .mbwait h _ _ _ => some h
  | .cpgo h _ _ => some h
  | .cpstat h _ _ _ => some h
  | .cvinit h _ _ _ => some h
  | .mxsign h _ _ => some h
  | .mxpost h _ _ => some h
  | .mxstat h _ _ => some h
  | .msend h _ _ _ => some h
  | .eqpost h _ _ _ => some h
  | .waitq h _ => some h
  | .qwave h _ => some h
  | .srd h _ _ => some h
  | .swr h _ _ => some h
  | .trets h => some h
  | .tlbinv h _ _ _ => some h
  | .icinv h => some h
  | .rcpflush h _ _ => some h
  | .ctxsave h _ _ _ => some h
  | .ctxload h _ _ _ => some h
  | .park h _ => some h
  | .parkRel h _ => some h
  | .halt h _ => some h
  | .stest h _ _ => some h
  | .setperfSysCap h _ _ _ => some h
  | .setperfSysPermits h _ _ _ => some h
  | _ => none

/-- The operands of an instruction word with their roles. -/
def Instr.uses : Instr → List Use
  | .brx _ a => [⟨(.target), a⟩]
  | .call _ d _ => [⟨(.vdst 2), d⟩]
  | .callx _ d a => [⟨(.vdst 2), d⟩, ⟨(.target), a⟩]
  | .ret _ a => [⟨(.target), a⟩]
  | .loop _ a _ => [⟨(.src 1), a⟩]
  | .loopx _ a _ => [⟨(.src 1), a⟩]
  | .setperf _ a => [⟨(.src 1), a⟩]
  | .getclk _ d a => [⟨(.vdst 2), d⟩, ⟨(.sel 1), a⟩]
  | .iadd h d a b => [⟨(.dst h.ty.rw), d⟩, ⟨(.src h.ty.rw), a⟩, ⟨(.src h.ty.rw), b⟩]
  | .iaddImm h d a _ => [⟨(.dst h.ty.rw), d⟩, ⟨(.src h.ty.rw), a⟩]
  | .isub h d a b => [⟨(.dst h.ty.rw), d⟩, ⟨(.src h.ty.rw), a⟩, ⟨(.src h.ty.rw), b⟩]
  | .isubImm h d a _ => [⟨(.dst h.ty.rw), d⟩, ⟨(.src h.ty.rw), a⟩]
  | .ineg h d a => [⟨(.dst h.ty.rw), d⟩, ⟨(.src h.ty.rw), a⟩]
  | .iabs h d a => [⟨(.dst h.ty.rw), d⟩, ⟨(.src h.ty.rw), a⟩]
  | .imul h d a b => [⟨(.dst h.ty.rw), d⟩, ⟨(.src h.ty.rw), a⟩, ⟨(.src h.ty.rw), b⟩]
  | .imulImm h d a _ => [⟨(.dst h.ty.rw), d⟩, ⟨(.src h.ty.rw), a⟩]
  | .imulhi h d a b => [⟨(.dst h.ty.rw), d⟩, ⟨(.src h.ty.rw), a⟩, ⟨(.src h.ty.rw), b⟩]
  | .imulhiImm h d a _ => [⟨(.dst h.ty.rw), d⟩, ⟨(.src h.ty.rw), a⟩]
  | .imad h d a b c => [⟨(.dst h.ty.rw), d⟩, ⟨(.src h.ty.rw), a⟩, ⟨(.src h.ty.rw), b⟩, ⟨(.src h.ty.rw), c⟩]
  | .imadw _ d a b c => [⟨(.dst 2), d⟩, ⟨(.src 1), a⟩, ⟨(.src 1), b⟩, ⟨(.src 2), c⟩]
  | .idiv h d a b => [⟨(.dst h.ty.rw), d⟩, ⟨(.src h.ty.rw), a⟩, ⟨(.src h.ty.rw), b⟩]
  | .idivImm h d a _ => [⟨(.dst h.ty.rw), d⟩, ⟨(.src h.ty.rw), a⟩]
  | .irem h d a b => [⟨(.dst h.ty.rw), d⟩, ⟨(.src h.ty.rw), a⟩, ⟨(.src h.ty.rw), b⟩]
  | .iremImm h d a _ => [⟨(.dst h.ty.rw), d⟩, ⟨(.src h.ty.rw), a⟩]
  | .imin h d a b => [⟨(.dst h.ty.rw), d⟩, ⟨(.src h.ty.rw), a⟩, ⟨(.src h.ty.rw), b⟩]
  | .iminImm h d a _ => [⟨(.dst h.ty.rw), d⟩, ⟨(.src h.ty.rw), a⟩]
  | .imax h d a b => [⟨(.dst h.ty.rw), d⟩, ⟨(.src h.ty.rw), a⟩, ⟨(.src h.ty.rw), b⟩]
  | .imaxImm h d a _ => [⟨(.dst h.ty.rw), d⟩, ⟨(.src h.ty.rw), a⟩]
  | .isad _ d a b c => [⟨(.dst 1), d⟩, ⟨(.src 1), a⟩, ⟨(.src 1), b⟩, ⟨(.src 1), c⟩]
  | .idp4 _ d a b c => [⟨(.dst 1), d⟩, ⟨(.src 1), a⟩, ⟨(.src 1), b⟩, ⟨(.src 1), c⟩]
  | .idp2 _ d a b c => [⟨(.dst 1), d⟩, ⟨(.src 1), a⟩, ⟨(.src 1), b⟩, ⟨(.src 1), c⟩]
  | .lea _ d a b _ => [⟨(.dst 1), d⟩, ⟨(.src 1), a⟩, ⟨(.src 1), b⟩]
  | .leaw _ d a b _ => [⟨(.dst 2), d⟩, ⟨(.src 2), a⟩, ⟨(.src 1), b⟩]
  | .and h d a b => [⟨(.dst h.ty.rw), d⟩, ⟨(.src h.ty.rw), a⟩, ⟨(.src h.ty.rw), b⟩]
  | .andImm h d a _ => [⟨(.dst h.ty.rw), d⟩, ⟨(.src h.ty.rw), a⟩]
  | .or h d a b => [⟨(.dst h.ty.rw), d⟩, ⟨(.src h.ty.rw), a⟩, ⟨(.src h.ty.rw), b⟩]
  | .orImm h d a _ => [⟨(.dst h.ty.rw), d⟩, ⟨(.src h.ty.rw), a⟩]
  | .xor h d a b => [⟨(.dst h.ty.rw), d⟩, ⟨(.src h.ty.rw), a⟩, ⟨(.src h.ty.rw), b⟩]
  | .xorImm h d a _ => [⟨(.dst h.ty.rw), d⟩, ⟨(.src h.ty.rw), a⟩]
  | .andn h d a b => [⟨(.dst h.ty.rw), d⟩, ⟨(.src h.ty.rw), a⟩, ⟨(.src h.ty.rw), b⟩]
  | .andnImm h d a _ => [⟨(.dst h.ty.rw), d⟩, ⟨(.src h.ty.rw), a⟩]
  | .not h d a => [⟨(.dst h.ty.rw), d⟩, ⟨(.src h.ty.rw), a⟩]
  | .bool3 _ d a b c _ => [⟨(.dst 1), d⟩, ⟨(.src 1), a⟩, ⟨(.src 1), b⟩, ⟨(.src 1), c⟩]
  | .shl h d a b => [⟨(.dst h.ty.rw), d⟩, ⟨(.src h.ty.rw), a⟩, ⟨(.src 1), b⟩]
  | .shlImm h d a _ => [⟨(.dst h.ty.rw), d⟩, ⟨(.src h.ty.rw), a⟩]
  | .shr h d a b => [⟨(.dst h.ty.rw), d⟩, ⟨(.src h.ty.rw), a⟩, ⟨(.src 1), b⟩]
  | .shrImm h d a _ => [⟨(.dst h.ty.rw), d⟩, ⟨(.src h.ty.rw), a⟩]
  | .sar h d a b => [⟨(.dst h.ty.rw), d⟩, ⟨(.src h.ty.rw), a⟩, ⟨(.src 1), b⟩]
  | .sarImm h d a _ => [⟨(.dst h.ty.rw), d⟩, ⟨(.src h.ty.rw), a⟩]
  | .rot h d a b => [⟨(.dst h.ty.rw), d⟩, ⟨(.src h.ty.rw), a⟩, ⟨(.src 1), b⟩]
  | .rotImm h d a _ => [⟨(.dst h.ty.rw), d⟩, ⟨(.src h.ty.rw), a⟩]
  | .xshr _ d a b c => [⟨(.dst 1), d⟩, ⟨(.src 1), a⟩, ⟨(.src 1), b⟩, ⟨(.src 1), c⟩]
  | .bfx h d a _ _ => [⟨(.dst h.ty.rw), d⟩, ⟨(.src h.ty.rw), a⟩]
  | .bfi h d a b _ _ => [⟨(.dst h.ty.rw), d⟩, ⟨(.src h.ty.rw), a⟩, ⟨(.src h.ty.rw), b⟩]
  | .brev h d a => [⟨(.dst h.ty.rw), d⟩, ⟨(.src h.ty.rw), a⟩]
  | .popc h d a => [⟨(.dst 1), d⟩, ⟨(.src h.ty.rw), a⟩]
  | .clz h d a => [⟨(.dst 1), d⟩, ⟨(.src h.ty.rw), a⟩]
  | .ctz h d a => [⟨(.dst 1), d⟩, ⟨(.src h.ty.rw), a⟩]
  | .bpick _ d a b _ => [⟨(.dst 1), d⟩, ⟨(.src 1), a⟩, ⟨(.src 1), b⟩]
  | .icmp h d a b _ _ => [⟨(.pred), d⟩, ⟨(.src h.ty.rw), a⟩, ⟨(.src h.ty.rw), b⟩]
  | .icmpv h d a b _ join => [⟨(if join == 0 then .vdst 1 else .vrw 1 1), d⟩, ⟨(.src h.ty.rw), a⟩, ⟨(.src h.ty.rw), b⟩]
  | .fcmp h d a b _ _ => [⟨(.pred), d⟩, ⟨(.src h.ty.rw), a⟩, ⟨(.src h.ty.rw), b⟩]
  | .fcmpv h d a b _ join => [⟨(if join == 0 then .vdst 1 else .vrw 1 1), d⟩, ⟨(.src h.ty.rw), a⟩, ⟨(.src h.ty.rw), b⟩]
  | .pbool3 _ d a b c _ => [⟨(.pred), d⟩, ⟨(.predS), a⟩, ⟨(.predS), b⟩, ⟨(.predS), c⟩]
  | .pmovGet _ d => [⟨(.dst 1), d⟩]
  | .pmovSet _ a _ => [⟨(.src 1), a⟩]
  | .sel h d a b pc _ => [⟨(.dst h.ty.rw), d⟩, ⟨(.src h.ty.rw), a⟩, ⟨(.src h.ty.rw), b⟩, ⟨.predS, .sp (pc.setWidth 8)⟩]
  | .mov h d a => [⟨(.dst h.ty.rw), d⟩, ⟨(.src h.ty.rw), a⟩]
  | .movi _ d _ => [⟨(.dst 1), d⟩]
  | .movw _ d a => [⟨(.dst 2), d⟩, ⟨(.src 1), a⟩]
  | .fadd h d a b => [⟨(.dst h.ty.rw), d⟩, ⟨(.src h.ty.rw), a⟩, ⟨(.src h.ty.rw), b⟩]
  | .faddImm h d a _ => [⟨(.dst h.ty.rw), d⟩, ⟨(.src h.ty.rw), a⟩]
  | .fsub h d a b => [⟨(.dst h.ty.rw), d⟩, ⟨(.src h.ty.rw), a⟩, ⟨(.src h.ty.rw), b⟩]
  | .fsubImm h d a _ => [⟨(.dst h.ty.rw), d⟩, ⟨(.src h.ty.rw), a⟩]
  | .fmul h d a b => [⟨(.dst h.ty.rw), d⟩, ⟨(.src h.ty.rw), a⟩, ⟨(.src h.ty.rw), b⟩]
  | .fmulImm h d a _ => [⟨(.dst h.ty.rw), d⟩, ⟨(.src h.ty.rw), a⟩]
  | .ffma h d a b c => [⟨(.dst h.ty.rw), d⟩, ⟨(.src h.ty.rw), a⟩, ⟨(.src h.ty.rw), b⟩, ⟨(.src h.ty.rw), c⟩]
  | .fdiv h d a b => [⟨(.dst h.ty.rw), d⟩, ⟨(.src h.ty.rw), a⟩, ⟨(.src h.ty.rw), b⟩]
  | .fsqrt h d a => [⟨(.dst h.ty.rw), d⟩, ⟨(.src h.ty.rw), a⟩]
  | .frcp h d a => [⟨(.dst h.ty.rw), d⟩, ⟨(.src h.ty.rw), a⟩]
  | .frsq h d a => [⟨(.dst h.ty.rw), d⟩, ⟨(.src h.ty.rw), a⟩]
  | .fmin h d a b => [⟨(.dst h.ty.rw), d⟩, ⟨(.src h.ty.rw), a⟩, ⟨(.src h.ty.rw), b⟩]
  | .fminImm h d a _ => [⟨(.dst h.ty.rw), d⟩, ⟨(.src h.ty.rw), a⟩]
  | .fmax h d a b => [⟨(.dst h.ty.rw), d⟩, ⟨(.src h.ty.rw), a⟩, ⟨(.src h.ty.rw), b⟩]
  | .fmaxImm h d a _ => [⟨(.dst h.ty.rw), d⟩, ⟨(.src h.ty.rw), a⟩]
  | .fabs h d a => [⟨(.dst h.ty.rw), d⟩, ⟨(.src h.ty.rw), a⟩]
  | .fneg h d a => [⟨(.dst h.ty.rw), d⟩, ⟨(.src h.ty.rw), a⟩]
  | .fcpys h d a b => [⟨(.dst h.ty.rw), d⟩, ⟨(.src h.ty.rw), a⟩, ⟨(.src h.ty.rw), b⟩]
  | .fclass h d a _ => [⟨(.vorp h.ty.rw), d⟩, ⟨(.src h.ty.rw), a⟩]
  | .frnd h d a => [⟨(.dst h.ty.rw), d⟩, ⟨(.src h.ty.rw), a⟩]
  | .ffrac h d a => [⟨(.dst h.ty.rw), d⟩, ⟨(.src h.ty.rw), a⟩]
  | .fexp2 h d a => [⟨(.dst h.ty.rw), d⟩, ⟨(.src h.ty.rw), a⟩]
  | .flog2 h d a => [⟨(.dst h.ty.rw), d⟩, ⟨(.src h.ty.rw), a⟩]
  | .fsin h d a => [⟨(.dst h.ty.rw), d⟩, ⟨(.src h.ty.rw), a⟩]
  | .fcos h d a => [⟨(.dst h.ty.rw), d⟩, ⟨(.src h.ty.rw), a⟩]
  | .ftanh h d a => [⟨(.dst h.ty.rw), d⟩, ⟨(.src h.ty.rw), a⟩]
  | .fscale h d a b => [⟨(.dst h.ty.rw), d⟩, ⟨(.src h.ty.rw), a⟩, ⟨(.src 1), b⟩]
  | .fgetexp h d a => [⟨(.dst h.ty.rw), d⟩, ⟨(.src h.ty.rw), a⟩]
  | .hadd2 h d a b => [⟨(.dst h.ty.rw), d⟩, ⟨(.src h.ty.rw), a⟩, ⟨(.src h.ty.rw), b⟩]
  | .hadd2Imm h d a _ => [⟨(.dst h.ty.rw), d⟩, ⟨(.src h.ty.rw), a⟩]
  | .hmul2 h d a b => [⟨(.dst h.ty.rw), d⟩, ⟨(.src h.ty.rw), a⟩, ⟨(.src h.ty.rw), b⟩]
  | .hmul2Imm h d a _ => [⟨(.dst h.ty.rw), d⟩, ⟨(.src h.ty.rw), a⟩]
  | .hfma2 _ d a b c => [⟨(.dst 1), d⟩, ⟨(.src 1), a⟩, ⟨(.src 1), b⟩, ⟨(.src 1), c⟩]
  | .hmin2 h d a b => [⟨(.dst h.ty.rw), d⟩, ⟨(.src h.ty.rw), a⟩, ⟨(.src h.ty.rw), b⟩]
  | .hmin2Imm h d a _ => [⟨(.dst h.ty.rw), d⟩, ⟨(.src h.ty.rw), a⟩]
  | .hmax2 h d a b => [⟨(.dst h.ty.rw), d⟩, ⟨(.src h.ty.rw), a⟩, ⟨(.src h.ty.rw), b⟩]
  | .hmax2Imm h d a _ => [⟨(.dst h.ty.rw), d⟩, ⟨(.src h.ty.rw), a⟩]
  | .cvtnPk _ d a b => [⟨(.dst 1), d⟩, ⟨(.cvtn), a⟩, ⟨(.src 1), b⟩]
  | .cvtnUnpk _ d a b => [⟨(.cvtn), d⟩, ⟨(.src 1), a⟩, ⟨(.src 1), b⟩]
  | .cvtw h d a b => [⟨(.dst h.ty.rw), d⟩, ⟨(.src (stypeWords b)), a⟩, ⟨(.stype), b⟩]
  | .vblkx _ d a b _ => [⟨(.dst 1), d⟩, ⟨(.src 1), a⟩, ⟨(.src 1), b⟩]
  | .lanexPick h d a b _ => [⟨(.vdst h.ty.rw), d⟩, ⟨(.src h.ty.rw), a⟩, ⟨(.src 1), b⟩]
  | .lanexBack h d a b _ => [⟨(.vdst h.ty.rw), d⟩, ⟨(.src h.ty.rw), a⟩, ⟨(.src 1), b⟩]
  | .lanexFwd h d a b _ => [⟨(.vdst h.ty.rw), d⟩, ⟨(.src h.ty.rw), a⟩, ⟨(.src 1), b⟩]
  | .lanexFlip h d a b _ => [⟨(.vdst h.ty.rw), d⟩, ⟨(.src h.ty.rw), a⟩, ⟨(.src 1), b⟩]
  | .lanexRot h d a b _ => [⟨(.vdst h.ty.rw), d⟩, ⟨(.src h.ty.rw), a⟩, ⟨(.src 1), b⟩]
  | .pollAll _ d a _ => [⟨(.vorp 1), d⟩, ⟨(.src 1), a⟩]
  | .pollAny _ d a _ => [⟨(.vorp 1), d⟩, ⟨(.src 1), a⟩]
  | .pollMask _ d a _ => [⟨(.vdst 1), d⟩, ⟨(.src 1), a⟩]
  | .pollSame _ d a _ => [⟨(.vorp 1), d⟩, ⟨(.src 1), a⟩]
  | .pollCount _ d a _ => [⟨(.vdst 1), d⟩, ⟨(.src 1), a⟩]
  | .peersGroup h d a _ => [⟨(.vdst 1), d⟩, ⟨(.src h.ty.rw), a⟩]
  | .peersWhole h d a _ => [⟨(.vdst 1), d⟩, ⟨(.src h.ty.rw), a⟩]
  | .mredAdd h d a b _ => [⟨(.vwrite (h.ty.rw + 1) h.ty.rw), d⟩, ⟨(.src 1), a⟩, ⟨(.src h.ty.rw), b⟩]
  | .mredMin h d a b _ => [⟨(.vwrite (h.ty.rw + 1) h.ty.rw), d⟩, ⟨(.src 1), a⟩, ⟨(.src h.ty.rw), b⟩]
  | .mredMax h d a b _ => [⟨(.vwrite (h.ty.rw + 1) h.ty.rw), d⟩, ⟨(.src 1), a⟩, ⟨(.src h.ty.rw), b⟩]
  | .mredAnd h d a b _ => [⟨(.vwrite (h.ty.rw + 1) h.ty.rw), d⟩, ⟨(.src 1), a⟩, ⟨(.src h.ty.rw), b⟩]
  | .mredOr h d a b _ => [⟨(.vwrite (h.ty.rw + 1) h.ty.rw), d⟩, ⟨(.src 1), a⟩, ⟨(.src h.ty.rw), b⟩]
  | .mredXor h d a b _ => [⟨(.vwrite (h.ty.rw + 1) h.ty.rw), d⟩, ⟨(.src 1), a⟩, ⟨(.src h.ty.rw), b⟩]
  | .scanAdd h d a _ => [⟨(.vdst h.ty.rw), d⟩, ⟨(.src h.ty.rw), a⟩]
  | .scanMin h d a _ => [⟨(.vdst h.ty.rw), d⟩, ⟨(.src h.ty.rw), a⟩]
  | .scanMax h d a _ => [⟨(.vdst h.ty.rw), d⟩, ⟨(.src h.ty.rw), a⟩]
  | .scanAnd h d a _ => [⟨(.vdst h.ty.rw), d⟩, ⟨(.src h.ty.rw), a⟩]
  | .scanOr h d a _ => [⟨(.vdst h.ty.rw), d⟩, ⟨(.src h.ty.rw), a⟩]
  | .scanXor h d a _ => [⟨(.vdst h.ty.rw), d⟩, ⟨(.src h.ty.rw), a⟩]
  | .redxAdd h d a _ => [⟨(.vdst h.ty.rw), d⟩, ⟨(.src h.ty.rw), a⟩]
  | .redxMin h d a _ => [⟨(.vdst h.ty.rw), d⟩, ⟨(.src h.ty.rw), a⟩]
  | .redxMax h d a _ => [⟨(.vdst h.ty.rw), d⟩, ⟨(.src h.ty.rw), a⟩]
  | .redxAnd h d a _ => [⟨(.vdst h.ty.rw), d⟩, ⟨(.src h.ty.rw), a⟩]
  | .redxOr h d a _ => [⟨(.vdst h.ty.rw), d⟩, ⟨(.src h.ty.rw), a⟩]
  | .redxXor h d a _ => [⟨(.vdst h.ty.rw), d⟩, ⟨(.src h.ty.rw), a⟩]
  -- HIST reads and writes each of its bin registers, whether a lane counts in it or not (DESIGN CHOICE, log entry 66)
  | .hist _ d a b _ => [⟨(.vrw b.immNat 1), d⟩, ⟨(.src 1), a⟩, ⟨(.n8), b⟩]
  | .hmrg _ d a b _ => [⟨(.vwrite b.immNat 1), d⟩, ⟨(.vread b.immNat 1), a⟩, ⟨(.n8), b⟩]
  | .slice _ d _ => [⟨(.vname 1 1), d⟩]
  | .rcpmat h a => [⟨(.vread h.ty.rw h.ty.rw), a⟩]
  | .rcpdrop h d => [⟨(.vdrop h.ty.rw h.ty.rw), d⟩]
  | .rcpstat _ d a => [⟨(.vdst 1), d⟩, ⟨(.vname 1 1), a⟩]
  | .afadd _ d a b => [⟨(.vwrite 16 16), d⟩, ⟨(.vread 16 16), a⟩, ⟨(.vread 16 16), b⟩]
  | .afsub _ d a b => [⟨(.vwrite 16 16), d⟩, ⟨(.vread 16 16), a⟩, ⟨(.vread 16 16), b⟩]
  | .afscl _ d a b => [⟨(.vwrite 16 16), d⟩, ⟨(.vread 16 16), a⟩, ⟨(.src 2), b⟩]
  | .afmul _ d a b => [⟨(.vwrite 16 16), d⟩, ⟨(.vread 16 16), a⟩, ⟨(.vread 16 16), b⟩]
  | .afsqr _ d a => [⟨(.vwrite 16 16), d⟩, ⟨(.vread 16 16), a⟩]
  | .afrec _ d a => [⟨(.vwrite 16 16), d⟩, ⟨(.vread 16 16), a⟩]
  | .afcond _ d a b _ _ => [⟨(.vwrite 16 16), d⟩, ⟨(.vread 16 16), a⟩, ⟨(.src 1), b⟩]
  | .afbnd _ d a => [⟨(.vwrite 4 2), d⟩, ⟨(.vread 16 16), a⟩]
  | .afini _ d a b _ => [⟨(.vwrite 16 16), d⟩, ⟨(.src 2), a⟩, ⟨(.src 2), b⟩]
  | .afsym _ d => [⟨(.vdst 1), d⟩]
  | .afld _ d a b m => [⟨(.vwrite 16 16), d⟩, ⟨(.base m.space), a⟩, ⟨(.src 1), b⟩]
  | .afst _ d a b m => [⟨(.vread 16 16), d⟩, ⟨(.base m.space), a⟩, ⟨(.src 1), b⟩]
  | .ld h d a b m => [⟨(.vwrite (cntOf h.md * h.ty.rw) h.ty.rw), d⟩, ⟨(.base m.space), a⟩, ⟨(.src 1), b⟩]
  | .st h d a b m => [⟨(.stsrc (cntOf h.md * h.ty.rw) h.ty.rw), d⟩, ⟨(.base m.space), a⟩, ⟨(.src 1), b⟩]
  | .pref _ a b m => [⟨(.base m.space), a⟩, ⟨(.src 1), b⟩]
  | .atomAdd h d a b m => [⟨(.vdst0 h.ty.rw), d⟩, ⟨(.base m.space), a⟩, ⟨(.src h.ty.rw), b⟩]
  | .atomMin h d a b m => [⟨(.vdst0 h.ty.rw), d⟩, ⟨(.base m.space), a⟩, ⟨(.src h.ty.rw), b⟩]
  | .atomMax h d a b m => [⟨(.vdst0 h.ty.rw), d⟩, ⟨(.base m.space), a⟩, ⟨(.src h.ty.rw), b⟩]
  | .atomAnd h d a b m => [⟨(.vdst0 h.ty.rw), d⟩, ⟨(.base m.space), a⟩, ⟨(.src h.ty.rw), b⟩]
  | .atomOr h d a b m => [⟨(.vdst0 h.ty.rw), d⟩, ⟨(.base m.space), a⟩, ⟨(.src h.ty.rw), b⟩]
  | .atomXor h d a b m => [⟨(.vdst0 h.ty.rw), d⟩, ⟨(.base m.space), a⟩, ⟨(.src h.ty.rw), b⟩]
  | .atomExch h d a b m => [⟨(.vdst0 h.ty.rw), d⟩, ⟨(.base m.space), a⟩, ⟨(.src h.ty.rw), b⟩]
  | .atomInc h d a b m => [⟨(.vdst0 h.ty.rw), d⟩, ⟨(.base m.space), a⟩, ⟨(.src h.ty.rw), b⟩]
  | .atomDec h d a b m => [⟨(.vdst0 h.ty.rw), d⟩, ⟨(.base m.space), a⟩, ⟨(.src h.ty.rw), b⟩]
  | .atomCas h d a b m => [⟨(.vdst0 h.ty.rw), d⟩, ⟨(.base m.space), a⟩, ⟨(.vread (2 * h.ty.rw) 2), b⟩]
  | .atomFadd h d a b m => [⟨(.vdst0 h.ty.rw), d⟩, ⟨(.base m.space), a⟩, ⟨(.src h.ty.rw), b⟩]
  | .atomFmin h d a b m => [⟨(.vdst0 h.ty.rw), d⟩, ⟨(.base m.space), a⟩, ⟨(.src h.ty.rw), b⟩]
  | .atomFmax h d a b m => [⟨(.vdst0 h.ty.rw), d⟩, ⟨(.base m.space), a⟩, ⟨(.src h.ty.rw), b⟩]
  | .lease _ d a b m => [⟨(.pred), d⟩, ⟨(.base m.space), a⟩, ⟨(.src 1), b⟩]
  | .lend _ d => [⟨(.pred), d⟩]
  | .cinv _ a b => [⟨(.base .g), a⟩, ⟨(.src 1), b⟩]
  | .cinvDiscard _ a b => [⟨(.base .g), a⟩, ⟨(.src 1), b⟩]
  | .cwb _ a b => [⟨(.base .g), a⟩, ⟨(.src 1), b⟩]
  | .cresize _ a => [⟨(.src 1), a⟩]
  | .bninit _ a b => [⟨(.bar), a⟩, ⟨(.src 1), b⟩]
  | .bnarr _ d a => [⟨(.vdst0 1), d⟩, ⟨(.bar), a⟩]
  | .bnwait _ a b => [⟨(.bar), a⟩, ⟨(.src 1), b⟩]
  | .bntest _ d a b => [⟨(.pred), d⟩, ⟨(.bar), a⟩, ⟨(.src 1), b⟩]
  | .mbarr _ d a b m => [⟨(.vdst0 1), d⟩, ⟨(.base m.space), a⟩, ⟨(.src 1), b⟩]
  | .mbwait _ a b m => [⟨(.base m.space), a⟩, ⟨(.src 1), b⟩]
  | .cpgo _ a b => [⟨(.chan), a⟩, ⟨(.addr), b⟩]
  | .cpstat _ d a b => [⟨(.vdst (if b == .imm 0 then 1 else 2)), d⟩, ⟨(.chan), a⟩, ⟨(.sel 2), b⟩]
  | .cvinit _ d a b => [⟨(.cvr), d⟩, ⟨(.src 1), a⟩, ⟨(.addr), b⟩]
  | .mxsign _ d a => [⟨(.pred), d⟩, ⟨(.cvr), a⟩]
  | .mxpost _ d a => [⟨(.pred), d⟩, ⟨(.addr), a⟩]
  | .mxstat _ d a => [⟨(.vdst 1), d⟩, ⟨(.addr), a⟩]
  | .msend _ a b _ => [⟨(.vread 16 1), a⟩, ⟨(.src 1), b⟩]
  | .eqpost _ a b c => [⟨(.src 1), a⟩, ⟨(.src 1), b⟩, ⟨(.vread 2 2), c⟩]
  | .waitq _ d => [⟨(.vdst0 2), d⟩]
  | .qwave _ d => [⟨(.vdst 2), d⟩]
  | .srd h d _ => [⟨(.vdst h.ty.rw), d⟩]
  | .swr h a _ => [⟨(.src h.ty.rw), a⟩]
  | .tlbinv _ a b kind => [⟨(if kind == 1 then .pair else .zero), a⟩, ⟨(if kind == 2 then .zero else .src 1), b⟩]
  | .rcpflush _ d a => [⟨(.vdst 1), d⟩, ⟨(.src 1), a⟩]
  | .ctxsave _ d a b => [⟨(.vdst 1), d⟩, ⟨(.src 1), a⟩, ⟨(.pair), b⟩]
  | .ctxload _ d a b => [⟨(.vdst 1), d⟩, ⟨(.src 1), a⟩, ⟨(.pair), b⟩]
  | .park _ a => [⟨(.src 1), a⟩]
  | .parkRel _ a => [⟨(.src 1), a⟩]
  | .halt _ a => [⟨(.src 1), a⟩]
  | .stest _ d _ => [⟨(.vdst 1), d⟩]
  | .setperfSysCap _ d a b => [⟨(.vdst0 1), d⟩, ⟨(.src 1), a⟩, ⟨(.src 1), b⟩]
  | .setperfSysPermits _ d a b => [⟨(.vdst0 1), d⟩, ⟨(.src 1), a⟩, ⟨(.src 1), b⟩]
  | _ => []

/-- The TYPE codes an instruction word accepts. -/
def Instr.types : Instr → List VType
  | .iadd _ _ _ _ => [.i32, .n32, .i64, .n64]
  | .iaddImm _ _ _ _ => [.i32, .n32, .i64, .n64]
  | .isub _ _ _ _ => [.i32, .n32, .i64, .n64]
  | .isubImm _ _ _ _ => [.i32, .n32, .i64, .n64]
  | .ineg _ _ _ => [.i32, .i64]
  | .iabs _ _ _ => [.i32, .i64]
  | .imul _ _ _ _ => [.i32, .n32, .i64, .n64]
  | .imulImm _ _ _ _ => [.i32, .n32, .i64, .n64]
  | .imulhi _ _ _ _ => [.i32, .n32, .i64, .n64]
  | .imulhiImm _ _ _ _ => [.i32, .n32, .i64, .n64]
  | .imad _ _ _ _ _ => [.i32, .n32, .i64, .n64]
  | .imadw _ _ _ _ _ => [.i32, .n32]
  | .idiv _ _ _ _ => [.i32, .n32, .i64, .n64]
  | .idivImm _ _ _ _ => [.i32, .n32, .i64, .n64]
  | .irem _ _ _ _ => [.i32, .n32, .i64, .n64]
  | .iremImm _ _ _ _ => [.i32, .n32, .i64, .n64]
  | .imin _ _ _ _ => [.i32, .n32, .i64, .n64]
  | .iminImm _ _ _ _ => [.i32, .n32, .i64, .n64]
  | .imax _ _ _ _ => [.i32, .n32, .i64, .n64]
  | .imaxImm _ _ _ _ => [.i32, .n32, .i64, .n64]
  | .isad _ _ _ _ _ => [.i32, .n32]
  | .idp4 _ _ _ _ _ => [.i8, .n8]
  | .idp2 _ _ _ _ _ => [.i16, .n16]
  | .leaw _ _ _ _ _ => [.i32, .n32]
  | .and _ _ _ _ => [.b32, .n64]
  | .andImm _ _ _ _ => [.b32, .n64]
  | .or _ _ _ _ => [.b32, .n64]
  | .orImm _ _ _ _ => [.b32, .n64]
  | .xor _ _ _ _ => [.b32, .n64]
  | .xorImm _ _ _ _ => [.b32, .n64]
  | .andn _ _ _ _ => [.b32, .n64]
  | .andnImm _ _ _ _ => [.b32, .n64]
  | .not _ _ _ => [.b32, .n64]
  | .shl _ _ _ _ => [.b32, .n64]
  | .shlImm _ _ _ _ => [.b32, .n64]
  | .shr _ _ _ _ => [.b32, .n64]
  | .shrImm _ _ _ _ => [.b32, .n64]
  | .sar _ _ _ _ => [.i32, .i64]
  | .sarImm _ _ _ _ => [.i32, .i64]
  | .rot _ _ _ _ => [.b32, .n64]
  | .rotImm _ _ _ _ => [.b32, .n64]
  | .bfx _ _ _ _ _ => [.i32, .n32, .i64, .n64]
  | .bfi _ _ _ _ _ _ => [.b32, .n64]
  | .brev _ _ _ => [.b32, .n64]
  | .popc _ _ _ => [.b32, .n64]
  | .clz _ _ _ => [.b32, .n64]
  | .ctz _ _ _ => [.b32, .n64]
  | .icmp _ _ _ _ _ _ => [.i32, .n32, .i64, .n64]
  | .icmpv _ _ _ _ _ _ => [.i32, .n32, .i64, .n64]
  | .fcmp _ _ _ _ _ _ => [.f16, .bf16, .f19, .f32, .f64]
  | .fcmpv _ _ _ _ _ _ => [.f16, .bf16, .f19, .f32, .f64]
  | .sel _ _ _ _ _ _ => [.b32, .n64]
  | .mov _ _ _ => [.b32, .n64]
  | .movw _ _ _ => [.i8, .i16, .i32, .n8, .n16, .n32]
  | .fadd _ _ _ _ => [.f16, .bf16, .f19, .f32, .f64]
  | .faddImm _ _ _ _ => [.f16, .bf16, .f19, .f32, .f64]
  | .fsub _ _ _ _ => [.f16, .bf16, .f19, .f32, .f64]
  | .fsubImm _ _ _ _ => [.f16, .bf16, .f19, .f32, .f64]
  | .fmul _ _ _ _ => [.f16, .bf16, .f19, .f32, .f64]
  | .fmulImm _ _ _ _ => [.f16, .bf16, .f19, .f32, .f64]
  | .ffma _ _ _ _ _ => [.f16, .bf16, .f19, .f32, .f64]
  | .fdiv _ _ _ _ => [.f32, .f64]
  | .fsqrt _ _ _ => [.f32, .f64]
  | .frcp _ _ _ => [.f32, .f64]
  | .frsq _ _ _ => [.f32, .f64]
  | .fmin _ _ _ _ => [.f16, .bf16, .f19, .f32, .f64]
  | .fminImm _ _ _ _ => [.f16, .bf16, .f19, .f32, .f64]
  | .fmax _ _ _ _ => [.f16, .bf16, .f19, .f32, .f64]
  | .fmaxImm _ _ _ _ => [.f16, .bf16, .f19, .f32, .f64]
  | .fabs _ _ _ => [.f16, .bf16, .f19, .f32, .f64]
  | .fneg _ _ _ => [.f16, .bf16, .f19, .f32, .f64]
  | .fcpys _ _ _ _ => [.f16, .bf16, .f19, .f32, .f64]
  | .fclass _ _ _ _ => [.f16, .bf16, .f19, .f32, .f64]
  | .frnd _ _ _ => [.f16, .bf16, .f19, .f32, .f64]
  | .ffrac _ _ _ => [.f16, .bf16, .f19, .f32, .f64]
  | .fexp2 _ _ _ => [.f16, .f32]
  | .flog2 _ _ _ => [.f16, .f32]
  | .fsin _ _ _ => [.f16, .f32]
  | .fcos _ _ _ => [.f16, .f32]
  | .ftanh _ _ _ => [.f16, .f32]
  | .fscale _ _ _ _ => [.f16, .bf16, .f19, .f32, .f64]
  | .fgetexp _ _ _ => [.f16, .bf16, .f19, .f32, .f64]
  | .hadd2 _ _ _ _ => [.f16, .bf16]
  | .hadd2Imm _ _ _ _ => [.f16, .bf16]
  | .hmul2 _ _ _ _ => [.f16, .bf16]
  | .hmul2Imm _ _ _ _ => [.f16, .bf16]
  | .hfma2 _ _ _ _ _ => [.f16, .bf16]
  | .hmin2 _ _ _ _ => [.f16, .bf16]
  | .hmin2Imm _ _ _ _ => [.f16, .bf16]
  | .hmax2 _ _ _ _ => [.f16, .bf16]
  | .hmax2Imm _ _ _ _ => [.f16, .bf16]
  | .cvtnPk _ _ _ _ => [.slot]
  | .cvtnUnpk _ _ _ _ => [.slot]
  | .cvtw _ _ _ _ => [.i8, .i16, .i32, .i64, .n8, .n16, .n32, .n64, .f16, .bf16, .f19, .f32, .f64]
  | .vblkx _ _ _ _ _ => [.slot]
  | .lanexPick _ _ _ _ _ => [.b32, .n64]
  | .lanexBack _ _ _ _ _ => [.b32, .n64]
  | .lanexFwd _ _ _ _ _ => [.b32, .n64]
  | .lanexFlip _ _ _ _ _ => [.b32, .n64]
  | .lanexRot _ _ _ _ _ => [.b32, .n64]
  | .peersGroup _ _ _ _ => [.b32, .n64]
  | .peersWhole _ _ _ _ => [.b32, .n64]
  | .mredAdd _ _ _ _ _ => [.i32, .n32, .i64, .n64, .f32, .f64]
  | .mredMin _ _ _ _ _ => [.i32, .n32, .i64, .n64, .f32, .f64]
  | .mredMax _ _ _ _ _ => [.i32, .n32, .i64, .n64, .f32, .f64]
  | .mredAnd _ _ _ _ _ => [.b32, .n64]
  | .mredOr _ _ _ _ _ => [.b32, .n64]
  | .mredXor _ _ _ _ _ => [.b32, .n64]
  | .scanAdd _ _ _ _ => [.i32, .n32, .i64, .n64, .f32, .f64]
  | .scanMin _ _ _ _ => [.i32, .n32, .i64, .n64, .f32, .f64]
  | .scanMax _ _ _ _ => [.i32, .n32, .i64, .n64, .f32, .f64]
  | .scanAnd _ _ _ _ => [.b32, .n64]
  | .scanOr _ _ _ _ => [.b32, .n64]
  | .scanXor _ _ _ _ => [.b32, .n64]
  | .redxAdd _ _ _ _ => [.i32, .n32, .i64, .n64, .f32, .f64]
  | .redxMin _ _ _ _ => [.i32, .n32, .i64, .n64, .f32, .f64]
  | .redxMax _ _ _ _ => [.i32, .n32, .i64, .n64, .f32, .f64]
  | .redxAnd _ _ _ _ => [.b32, .n64]
  | .redxOr _ _ _ _ => [.b32, .n64]
  | .redxXor _ _ _ _ => [.b32, .n64]
  | .hist _ _ _ _ _ => [.n32]
  | .hmrg _ _ _ _ _ => [.n32]
  | .rcpmat _ _ => [.b32, .n64]
  | .rcpdrop _ _ => [.b32, .n64]
  | .ld _ _ _ _ _ => [.b32, .i8, .i16, .i32, .i64, .n8, .n16, .n32, .n64, .f16, .bf16, .f32, .f64]
  | .st _ _ _ _ _ => [.b32, .i8, .i16, .i32, .i64, .n8, .n16, .n32, .n64, .f16, .bf16, .f32, .f64]
  | .atomAdd _ _ _ _ _ => [.i32, .n32, .i64, .n64]
  | .atomMin _ _ _ _ _ => [.i32, .n32, .i64, .n64]
  | .atomMax _ _ _ _ _ => [.i32, .n32, .i64, .n64]
  | .atomAnd _ _ _ _ _ => [.i32, .n32, .i64, .n64]
  | .atomOr _ _ _ _ _ => [.i32, .n32, .i64, .n64]
  | .atomXor _ _ _ _ _ => [.i32, .n32, .i64, .n64]
  | .atomExch _ _ _ _ _ => [.i32, .n32, .i64, .n64]
  | .atomInc _ _ _ _ _ => [.n32, .n64]
  | .atomDec _ _ _ _ _ => [.n32, .n64]
  | .atomCas _ _ _ _ _ => [.i32, .n32, .i64, .n64]
  | .atomFadd _ _ _ _ _ => [.f32, .f64, .f16, .bf16]
  | .atomFmin _ _ _ _ _ => [.f32, .f64]
  | .atomFmax _ _ _ _ _ => [.f32, .f64]
  | .srd _ _ _ => [.b32, .n64]
  | .swr _ _ _ => [.b32, .n64]
  | _ => [.b32]

/-- The MOD layout of an instruction word. -/
def Instr.mdKind : Instr → MdKind
  | .tret _ => .bit0
  | .iadd _ _ _ _ => .bit0
  | .iaddImm _ _ _ _ => .bit0
  | .isub _ _ _ _ => .bit0
  | .isubImm _ _ _ _ => .bit0
  | .ineg _ _ _ => .bit0
  | .iabs _ _ _ => .bit0
  | .imad _ _ _ _ _ => .bit0
  | .fcmp _ _ _ _ _ _ => .ftz
  | .fcmpv _ _ _ _ _ _ => .ftz
  | .fadd _ _ _ _ => .rnd
  | .faddImm _ _ _ _ => .rnd
  | .fsub _ _ _ _ => .rnd
  | .fsubImm _ _ _ _ => .rnd
  | .fmul _ _ _ _ => .rnd
  | .fmulImm _ _ _ _ => .rnd
  | .ffma _ _ _ _ _ => .rnd
  | .fdiv _ _ _ _ => .rnd
  | .fsqrt _ _ _ => .rnd
  | .frcp _ _ _ => .ftz
  | .frsq _ _ _ => .ftz
  | .fmin _ _ _ _ => .bit0
  | .fminImm _ _ _ _ => .bit0
  | .fmax _ _ _ _ => .bit0
  | .fmaxImm _ _ _ _ => .bit0
  | .frnd _ _ _ => .rna
  | .ffrac _ _ _ => .ftz
  | .fexp2 _ _ _ => .ftz
  | .flog2 _ _ _ => .ftz
  | .fsin _ _ _ => .ftz
  | .fcos _ _ _ => .ftz
  | .ftanh _ _ _ => .ftz
  | .fscale _ _ _ _ => .rnd
  | .hadd2 _ _ _ _ => .rnd
  | .hadd2Imm _ _ _ _ => .rnd
  | .hmul2 _ _ _ _ => .rnd
  | .hmul2Imm _ _ _ _ => .rnd
  | .hfma2 _ _ _ _ _ => .rnd
  | .hmin2 _ _ _ _ => .bit0
  | .hmin2Imm _ _ _ _ => .bit0
  | .hmax2 _ _ _ _ => .bit0
  | .hmax2Imm _ _ _ _ => .bit0
  | .cvtnPk _ _ _ _ => .pk
  | .cvtnUnpk _ _ _ _ => .unpk
  | .cvtw _ _ _ _ => .cvtw
  | .vblkx _ _ _ _ _ => .pq
  | .lanexPick _ _ _ _ _ => .pq
  | .lanexBack _ _ _ _ _ => .pq
  | .lanexFwd _ _ _ _ _ => .pq
  | .lanexFlip _ _ _ _ _ => .pq
  | .lanexRot _ _ _ _ _ => .pq
  | .peersGroup _ _ _ _ => .pq
  | .peersWhole _ _ _ _ => .pq
  | .mredAdd _ _ _ _ _ => .pq
  | .mredMin _ _ _ _ _ => .pq
  | .mredMax _ _ _ _ _ => .pq
  | .mredAnd _ _ _ _ _ => .pq
  | .mredOr _ _ _ _ _ => .pq
  | .mredXor _ _ _ _ _ => .pq
  | .scanAdd _ _ _ _ => .bit3
  | .scanMin _ _ _ _ => .bit3
  | .scanMax _ _ _ _ => .bit3
  | .scanAnd _ _ _ _ => .bit3
  | .scanOr _ _ _ _ => .bit3
  | .scanXor _ _ _ _ => .bit3
  | .hist _ _ _ _ _ => .pq
  | .rcpstat _ _ _ => .pq
  | .afld _ _ _ _ _ => .mem
  | .afst _ _ _ _ _ => .mem
  | .ld _ _ _ _ _ => .mem
  | .st _ _ _ _ _ => .mem
  | .atomAdd _ _ _ _ _ => .mem
  | .atomMin _ _ _ _ _ => .mem
  | .atomMax _ _ _ _ _ => .mem
  | .atomAnd _ _ _ _ _ => .mem
  | .atomOr _ _ _ _ _ => .mem
  | .atomXor _ _ _ _ _ => .mem
  | .atomExch _ _ _ _ _ => .mem
  | .atomInc _ _ _ _ _ => .mem
  | .atomDec _ _ _ _ _ => .mem
  | .atomCas _ _ _ _ _ => .mem
  | .atomFadd _ _ _ _ _ => .mem
  | .atomFmin _ _ _ _ _ => .mem
  | .atomFmax _ _ _ _ _ => .mem
  | .lease _ _ _ _ _ => .bit0
  | .bntest _ _ _ _ => .bit0
  | .trets _ => .bit0
  | .ctxsave _ _ _ _ => .bit0
  | .parkRel _ _ => .one
  | _ => .zero

/-- The limits an instruction's description puts on its X fields. -/
def Instr.extra : Instr → Bool
  | .bfx h _ _ pos len => decide (pos.toNat < h.ty.bits && len.toNat ≤ h.ty.bits)
  | .bfi h _ _ _ pos len => decide (pos.toNat < h.ty.bits && len.toNat ≤ h.ty.bits)
  | .icmp _ _ _ _ cmp _ => decide (cmp.toNat ≤ 5)
  | .icmpv _ _ _ _ cmp _ => decide (cmp.toNat ≤ 5)
  | .fcmp _ _ _ _ cmp _ => decide (cmp.toNat ≤ 13)
  | .fcmpv _ _ _ _ cmp _ => decide (cmp.toNat ≤ 13)
  | .faddImm h _ _ x => fimmOk h.ty x
  | .fsubImm h _ _ x => fimmOk h.ty x
  | .fmulImm h _ _ x => fimmOk h.ty x
  | .fminImm h _ _ x => fimmOk h.ty x
  | .fmaxImm h _ _ x => fimmOk h.ty x
  | .fclass _ d _ mask => (d.isPred || mask == 0)
  | .lanexPick _ _ _ _ mask => (mask != 0)
  | .lanexBack _ _ _ _ mask => (mask != 0)
  | .lanexFwd _ _ _ _ mask => (mask != 0)
  | .lanexFlip _ _ _ _ mask => (mask != 0)
  | .lanexRot _ _ _ _ mask => (mask != 0)
  | .pollAll _ _ _ mask => (mask != 0)
  | .pollAny _ _ _ mask => (mask != 0)
  | .pollMask _ _ _ mask => (mask != 0)
  | .pollSame _ _ _ mask => (mask != 0)
  | .pollCount _ _ _ mask => (mask != 0)
  | .peersGroup _ _ _ mask => (mask != 0)
  | .peersWhole _ _ _ mask => (mask != 0)
  | .mredAdd _ _ _ _ mask => (mask != 0)
  | .mredMin _ _ _ _ mask => (mask != 0)
  | .mredMax _ _ _ _ mask => (mask != 0)
  | .mredAnd _ _ _ _ mask => (mask != 0)
  | .mredOr _ _ _ _ mask => (mask != 0)
  | .mredXor _ _ _ _ mask => (mask != 0)
  | .scanAdd _ _ _ mask => (mask != 0)
  | .scanMin _ _ _ mask => (mask != 0)
  | .scanMax _ _ _ mask => (mask != 0)
  | .scanAnd _ _ _ mask => (mask != 0)
  | .scanOr _ _ _ mask => (mask != 0)
  | .scanXor _ _ _ mask => (mask != 0)
  | .redxAdd _ _ _ mask => (mask != 0)
  | .redxMin _ _ _ mask => (mask != 0)
  | .redxMax _ _ _ mask => (mask != 0)
  | .redxAnd _ _ _ mask => (mask != 0)
  | .redxOr _ _ _ mask => (mask != 0)
  | .redxXor _ _ _ mask => (mask != 0)
  | .hist _ _ _ _ mask => (mask != 0)
  | .hmrg _ _ _ _ mask => (mask != 0)
  | .slice _ _ n => decide (1 ≤ n.toNat && n.toNat ≤ 8)
  | .afcond _ _ _ _ k _ => decide (k.toNat ≤ 6)
  | .afld h _ _ _ m => (memOk m && (h.md.extractLsb' 0 2 == 0) && loadOrd h.md m)
  | .afst h _ _ _ m => (memOk m && (h.md.extractLsb' 0 2 == 0) && storeOrd h.md m)
  | .ld h _ _ _ m => (memOk m && sizeOk h && loadOrd h.md m)
  | .st h _ _ _ m => (memOk m && sizeOk h && storeOrd h.md m)
  | .pref _ _ _ m => (memOk m && m.space == .g && m.scope == .crew)
  | .atomAdd h _ _ _ m => (memOk m && atomOk h m)
  | .atomMin h _ _ _ m => (memOk m && atomOk h m)
  | .atomMax h _ _ _ m => (memOk m && atomOk h m)
  | .atomAnd h _ _ _ m => (memOk m && atomOk h m)
  | .atomOr h _ _ _ m => (memOk m && atomOk h m)
  | .atomXor h _ _ _ m => (memOk m && atomOk h m)
  | .atomExch h _ _ _ m => (memOk m && atomOk h m)
  | .atomInc h _ _ _ m => (memOk m && atomOk h m)
  | .atomDec h _ _ _ m => (memOk m && atomOk h m)
  | .atomCas h _ _ _ m => (memOk m && atomOk h m)
  | .atomFadd h _ _ _ m => (memOk m && atomOk h m)
  | .atomFmin h _ _ _ m => (memOk m && atomOk h m)
  | .atomFmax h _ _ _ m => (memOk m && atomOk h m)
  | .lease _ _ _ _ m => (memOk m && m.space == .g && m.rtype == .own && m.scale == 0)
  | .mbarr _ _ _ _ m => (memOk m && m.space == .g && m.rtype == .own && m.scale == 0)
  | .mbwait _ _ _ m => (memOk m && m.space == .g && m.rtype == .own && m.scale == 0)
  | .tlbinv _ _ _ kind => decide (kind.toNat ≤ 2)
  | .stest _ _ test => decide (test.toNat ≤ 6)
  | _ => true

/-- Control transfers of 01 R20: they may stand only last in a stretch. -/
def Instr.isTransfer : Instr → Bool
  | .bra _ _ => true
  | .brx _ _ => true
  | .call _ _ _ => true
  | .callx _ _ _ => true
  | .ret _ _ => true
  | .lbrk _ => true
  | .exit _ => true
  | .yield _ => true
  | .phase _ => true
  | .tret _ => true
  | .trets _ => true
  | _ => false

/-- System instructions, OPs 0x90 to 0x97 (06 R165). -/
def Instr.isSystem : Instr → Bool
  | .srd _ _ _ => true
  | .swr _ _ _ => true
  | .trets _ => true
  | .tlbinv _ _ _ _ => true
  | .icinv _ => true
  | .rcpflush _ _ _ => true
  | .ctxsave _ _ _ _ => true
  | .ctxload _ _ _ _ => true
  | .park _ _ => true
  | .parkRel _ _ => true
  | .halt _ _ => true
  | .stest _ _ _ => true
  | .setperfSysCap _ _ _ _ => true
  | .setperfSysPermits _ _ _ _ => true
  | _ => false

/-- Cross-lane instructions, OPs 0x50 to 0x57 (10 R244). -/
def Instr.isCrossLane : Instr → Bool
  | .lanexPick _ _ _ _ _ => true
  | .lanexBack _ _ _ _ _ => true
  | .lanexFwd _ _ _ _ _ => true
  | .lanexFlip _ _ _ _ _ => true
  | .lanexRot _ _ _ _ _ => true
  | .pollAll _ _ _ _ => true
  | .pollAny _ _ _ _ => true
  | .pollMask _ _ _ _ => true
  | .pollSame _ _ _ _ => true
  | .pollCount _ _ _ _ => true
  | .peersGroup _ _ _ _ => true
  | .peersWhole _ _ _ _ => true
  | .mredAdd _ _ _ _ _ => true
  | .mredMin _ _ _ _ _ => true
  | .mredMax _ _ _ _ _ => true
  | .mredAnd _ _ _ _ _ => true
  | .mredOr _ _ _ _ _ => true
  | .mredXor _ _ _ _ _ => true
  | .scanAdd _ _ _ _ => true
  | .scanMin _ _ _ _ => true
  | .scanMax _ _ _ _ => true
  | .scanAnd _ _ _ _ => true
  | .scanOr _ _ _ _ => true
  | .scanXor _ _ _ _ => true
  | .redxAdd _ _ _ _ => true
  | .redxMin _ _ _ _ => true
  | .redxMax _ _ _ _ => true
  | .redxAnd _ _ _ _ => true
  | .redxOr _ _ _ _ => true
  | .redxXor _ _ _ _ => true
  | .hist _ _ _ _ _ => true
  | .hmrg _ _ _ _ _ => true
  | _ => false

/-- Lane-local instructions of 06 R164. -/
def Instr.isLaneLocal : Instr → Bool
  | .nop _ => true
  | .bra _ _ => true
  | .brx _ _ => true
  | .iadd _ _ _ _ => true
  | .iaddImm _ _ _ _ => true
  | .isub _ _ _ _ => true
  | .isubImm _ _ _ _ => true
  | .ineg _ _ _ => true
  | .iabs _ _ _ => true
  | .imul _ _ _ _ => true
  | .imulImm _ _ _ _ => true
  | .imulhi _ _ _ _ => true
  | .imulhiImm _ _ _ _ => true
  | .imad _ _ _ _ _ => true
  | .imadw _ _ _ _ _ => true
  | .idiv _ _ _ _ => true
  | .idivImm _ _ _ _ => true
  | .irem _ _ _ _ => true
  | .iremImm _ _ _ _ => true
  | .imin _ _ _ _ => true
  | .iminImm _ _ _ _ => true
  | .imax _ _ _ _ => true
  | .imaxImm _ _ _ _ => true
  | .isad _ _ _ _ _ => true
  | .idp4 _ _ _ _ _ => true
  | .idp2 _ _ _ _ _ => true
  | .lea _ _ _ _ _ => true
  | .leaw _ _ _ _ _ => true
  | .and _ _ _ _ => true
  | .andImm _ _ _ _ => true
  | .or _ _ _ _ => true
  | .orImm _ _ _ _ => true
  | .xor _ _ _ _ => true
  | .xorImm _ _ _ _ => true
  | .andn _ _ _ _ => true
  | .andnImm _ _ _ _ => true
  | .not _ _ _ => true
  | .bool3 _ _ _ _ _ _ => true
  | .shl _ _ _ _ => true
  | .shlImm _ _ _ _ => true
  | .shr _ _ _ _ => true
  | .shrImm _ _ _ _ => true
  | .sar _ _ _ _ => true
  | .sarImm _ _ _ _ => true
  | .rot _ _ _ _ => true
  | .rotImm _ _ _ _ => true
  | .xshr _ _ _ _ _ => true
  | .bfx _ _ _ _ _ => true
  | .bfi _ _ _ _ _ _ => true
  | .brev _ _ _ => true
  | .popc _ _ _ => true
  | .clz _ _ _ => true
  | .ctz _ _ _ => true
  | .bpick _ _ _ _ _ => true
  | .icmp _ _ _ _ _ _ => true
  | .icmpv _ _ _ _ _ _ => true
  | .fcmp _ _ _ _ _ _ => true
  | .fcmpv _ _ _ _ _ _ => true
  | .pbool3 _ _ _ _ _ _ => true
  | .pmovGet _ _ => true
  | .pmovSet _ _ _ => true
  | .sel _ _ _ _ _ _ => true
  | .mov _ _ _ => true
  | .movi _ _ _ => true
  | .movw _ _ _ => true
  | .fadd _ _ _ _ => true
  | .faddImm _ _ _ _ => true
  | .fsub _ _ _ _ => true
  | .fsubImm _ _ _ _ => true
  | .fmul _ _ _ _ => true
  | .fmulImm _ _ _ _ => true
  | .ffma _ _ _ _ _ => true
  | .fdiv _ _ _ _ => true
  | .fsqrt _ _ _ => true
  | .frcp _ _ _ => true
  | .frsq _ _ _ => true
  | .fmin _ _ _ _ => true
  | .fminImm _ _ _ _ => true
  | .fmax _ _ _ _ => true
  | .fmaxImm _ _ _ _ => true
  | .fabs _ _ _ => true
  | .fneg _ _ _ => true
  | .fcpys _ _ _ _ => true
  | .fclass _ _ _ _ => true
  | .frnd _ _ _ => true
  | .ffrac _ _ _ => true
  | .fexp2 _ _ _ => true
  | .flog2 _ _ _ => true
  | .fsin _ _ _ => true
  | .fcos _ _ _ => true
  | .ftanh _ _ _ => true
  | .fscale _ _ _ _ => true
  | .fgetexp _ _ _ => true
  | .hadd2 _ _ _ _ => true
  | .hadd2Imm _ _ _ _ => true
  | .hmul2 _ _ _ _ => true
  | .hmul2Imm _ _ _ _ => true
  | .hfma2 _ _ _ _ _ => true
  | .hmin2 _ _ _ _ => true
  | .hmin2Imm _ _ _ _ => true
  | .hmax2 _ _ _ _ => true
  | .hmax2Imm _ _ _ _ => true
  | .cvtnPk _ _ _ _ => true
  | .cvtnUnpk _ _ _ _ => true
  | .cvtw _ _ _ _ => true
  | .vblkx _ _ _ _ _ => true
  | _ => false

/-- Instructions that make or order accesses: an acquire comes before them (05 R125). -/
def Instr.isAccess : Instr → Bool
  | .afld _ _ _ _ _ => true
  | .afst _ _ _ _ _ => true
  | .ld _ _ _ _ _ => true
  | .st _ _ _ _ _ => true
  | .atomAdd _ _ _ _ _ => true
  | .atomMin _ _ _ _ _ => true
  | .atomMax _ _ _ _ _ => true
  | .atomAnd _ _ _ _ _ => true
  | .atomOr _ _ _ _ _ => true
  | .atomXor _ _ _ _ _ => true
  | .atomExch _ _ _ _ _ => true
  | .atomInc _ _ _ _ _ => true
  | .atomDec _ _ _ _ _ => true
  | .atomCas _ _ _ _ _ => true
  | .atomFadd _ _ _ _ _ => true
  | .atomFmin _ _ _ _ _ => true
  | .atomFmax _ _ _ _ _ => true
  | .lease _ _ _ _ _ => true
  | .lend _ _ => true
  | .fenceAcq _ _ => true
  | .fenceRel _ _ => true
  | .fenceAr _ _ => true
  | .fenceSc _ _ => true
  | .roinv _ => true
  | .cinv _ _ _ => true
  | .cinvDiscard _ _ _ => true
  | .cwb _ _ _ => true
  | .cresize _ _ => true
  | .bninit _ _ _ => true
  | .bnarr _ _ _ => true
  | .bnwait _ _ _ => true
  | .bntest _ _ _ _ => true
  | .mbarr _ _ _ _ _ => true
  | .mbwait _ _ _ _ => true
  | .cpgo _ _ _ => true
  | .cpstat _ _ _ _ => true
  | .cvinit _ _ _ _ => true
  | .mxsign _ _ _ => true
  | .mxpost _ _ _ => true
  | .mxstat _ _ _ => true
  | .msend _ _ _ _ => true
  | .eqpost _ _ _ _ => true
  | .waitq _ _ => true
  | .qwave _ _ => true
  | _ => false

/-- Instructions that write memory as one of their own accesses: stores, atomics, arrivals at a memory barrier. -/
def Instr.writesMemory : Instr → Bool
  | .afst _ _ _ _ _ => true
  | .st _ _ _ _ _ => true
  | .atomAdd _ _ _ _ _ => true
  | .atomMin _ _ _ _ _ => true
  | .atomMax _ _ _ _ _ => true
  | .atomAnd _ _ _ _ _ => true
  | .atomOr _ _ _ _ _ => true
  | .atomXor _ _ _ _ _ => true
  | .atomExch _ _ _ _ _ => true
  | .atomInc _ _ _ _ _ => true
  | .atomDec _ _ _ _ _ => true
  | .atomCas _ _ _ _ _ => true
  | .atomFadd _ _ _ _ _ => true
  | .atomFmin _ _ _ _ _ => true
  | .atomFmax _ _ _ _ _ => true
  | .mbarr _ _ _ _ _ => true
  | .eqpost _ _ _ _ => true
  | .msend _ _ _ _ => true
  | _ => false

/-- Long-latency instructions (01 R32, 06 R164). -/
def Instr.isLongLatency : Instr → Bool
  | .afld _ _ _ _ _ => true
  | .ld _ _ _ _ _ => true
  | .atomAdd _ d _ _ _ => d != .imm 0
  | .atomMin _ d _ _ _ => d != .imm 0
  | .atomMax _ d _ _ _ => d != .imm 0
  | .atomAnd _ d _ _ _ => d != .imm 0
  | .atomOr _ d _ _ _ => d != .imm 0
  | .atomXor _ d _ _ _ => d != .imm 0
  | .atomExch _ d _ _ _ => d != .imm 0
  | .atomInc _ d _ _ _ => d != .imm 0
  | .atomDec _ d _ _ _ => d != .imm 0
  | .atomCas _ d _ _ _ => d != .imm 0
  | .atomFadd _ d _ _ _ => d != .imm 0
  | .atomFmin _ d _ _ _ => d != .imm 0
  | .atomFmax _ d _ _ _ => d != .imm 0
  | .lease _ _ _ _ _ => true
  | _ => false

/-- RCPDROP, which drops a register without regenerating it (10 R260). -/
def Instr.isDrop : Instr → Bool
  | .rcpdrop _ _ => true
  | _ => false

/-- Cross-lane instructions that leave some contributing lanes' destinations unwritten (10 R252, R255). -/
def Instr.partialWrite : Instr → Bool
  | .mredAdd _ _ _ _ _ => true
  | .mredMin _ _ _ _ _ => true
  | .mredMax _ _ _ _ _ => true
  | .mredAnd _ _ _ _ _ => true
  | .mredOr _ _ _ _ _ => true
  | .mredXor _ _ _ _ _ => true
  | .hist _ _ _ _ _ => true
  | _ => false

/-- Predicates an instruction reads or writes beside its operands: pQ, and those of PMOV. -/
def Instr.morePreds : Instr → List Nat
  | .pmovGet _ _ => rangeFrom 0x200 7
  | .pmovSet _ _ mask => ((List.range 7).filter fun n => mask.getLsbD n).map (0x200 + ·)
  | .lanexPick h _ _ _ _ => pqNames h.md
  | .lanexBack h _ _ _ _ => pqNames h.md
  | .lanexFwd h _ _ _ _ => pqNames h.md
  | .lanexFlip h _ _ _ _ => pqNames h.md
  | .lanexRot h _ _ _ _ => pqNames h.md
  | .peersGroup h _ _ _ => pqNames h.md
  | .peersWhole h _ _ _ => pqNames h.md
  | .mredAdd h _ _ _ _ => pqNames h.md
  | .mredMin h _ _ _ _ => pqNames h.md
  | .mredMax h _ _ _ _ => pqNames h.md
  | .mredAnd h _ _ _ _ => pqNames h.md
  | .mredOr h _ _ _ _ => pqNames h.md
  | .mredXor h _ _ _ _ => pqNames h.md
  | .hist h _ _ _ _ => pqNames h.md
  | .rcpstat h _ _ => pqNames h.md
  | _ => []

/-- The format slot of CVTN, and whether its slot operand is written (09 R242). -/
def Instr.cvtnSlot : Instr → Option (Nat × Bool)
  | .cvtnPk h _ _ _ => some ((h.md.extractLsb' 0 3).toNat, false)
  | .cvtnUnpk h _ _ _ => some ((h.md.extractLsb' 0 3).toNat, true)
  | _ => none

end Sys2Proof
end

