-- ==== Sys2Proof/WellFormed.lean ====
section
/-! DEFINITION. Which instructions the spec lets stand in a word, as far as the word alone decides it
(06 R150, R152, R166): TYPE and MOD accepted, every operand of a class its row lists, X fields within
their limits. The part of 02 R47 that depends on a launch's REGS is checked when the word issues. -/

namespace Sys2Proof

/-- An instruction word that is legal for its row whatever the launch; headers and events always
are. -/
def Instr.wf (i : Instr) : Bool :=
  match i.head with
  | none => true
  | some h =>
      i.types.contains h.ty && i.mdKind.ok h.ty h.md && i.uses.all Use.okStatic && i.extra

/-- As a proposition. -/
abbrev Instr.WellFormed (i : Instr) : Prop := i.wf = true

end Sys2Proof
end

