-- ==== Sys2Proof/Decode.lean ====
section
/-! DEFINITION. The decoder: 96 bits to an instruction or a rejection by name (06 R149 to R166), and
the encoder from the same encoding tables. A word decodes only if assembling the instruction again
gives the word back, so that a reserved bit set is a rejection (06 R150). -/

namespace Sys2Proof

/-- The fields of an instruction word, 06 R149. -/
structure Fields where
  op : BitVec 8
  fn : BitVec 6
  d : BitVec 10
  a : BitVec 10
  b : BitVec 10
  x : BitVec 32
  g : BitVec 4
  ty : BitVec 4
  md : BitVec 4
  h : BitVec 8
  deriving DecidableEq, Repr

/-- The fields of a word, 06 R149. -/
def Fields.ofWord (w : IWord) : Fields :=
  ⟨w.extractLsb' 88 8, w.extractLsb' 82 6, w.extractLsb' 72 10, w.extractLsb' 62 10, w.extractLsb' 52 10,
   w.extractLsb' 20 32, w.extractLsb' 16 4, w.extractLsb' 12 4, w.extractLsb' 8 4, w.extractLsb' 0 8⟩

/-- The word of the fields, 06 R149. -/
def Fields.toWord (f : Fields) : IWord :=
  f.op ++ f.fn ++ f.d ++ f.a ++ f.b ++ f.x ++ f.g ++ f.ty ++ f.md ++ f.h

/-- Why a word is no instruction (06 R166). -/
inductive DecodeError where
  /-- OP 0x00 or 0xFF: raises on every member, whatever the guard -/
  | illegalOp
  /-- a reserved or unassigned OP or FN, or TYPE 0xE -/
  | unassigned
  /-- a specifier, TYPE, MOD or X value the instruction does not accept -/
  | forbidden
  /-- a reserved bit set -/
  | reservedBits
  deriving DecidableEq, Repr

/-- The guard of its four bits (06 R151). -/
def Guard.ofBits (b : BitVec 4) : Guard := ⟨b.getLsbD 3, b.extractLsb' 0 3⟩
/-- The four bits of a guard. -/
def Guard.bits (g : Guard) : BitVec 4 := BitVec.ofBool g.neg ++ g.p
/-- The hints of their eight bits (06 R153). -/
def Hints.ofBits (b : BitVec 8) : Hints :=
  ⟨b.getLsbD 7, b.extractLsb' 5 2, b.getLsbD 4, b.getLsbD 3, b.extractLsb' 0 3⟩
/-- The eight bits of the hints. -/
def Hints.bits (h : Hints) : BitVec 8 :=
  BitVec.ofBool h.fin ++ h.flg ++ BitVec.ofBool h.reuse ++ BitVec.ofBool h.yld ++ h.low

/-- The X field of format M (06 R162). -/
def MemF.word (m : MemF) : BitVec 32 := m.scope.code ++ m.space.code ++ m.rtype.code ++ m.scale ++ m.ofs
/-- Format M of an X field; none where SCOPE, SPACE or RTYPE is reserved. -/
def MemF.ofWord (x : BitVec 32) : Option MemF :=
  match Scope.ofCode (x.extractLsb' 29 3), Space.ofCode (x.extractLsb' 26 3), RType.ofCode (x.extractLsb' 23 3) with
  | some sc, some sp, some rt => some ⟨sc, sp, rt, x.extractLsb' 20 3, x.extractLsb' 0 20⟩
  | _, _, _ => none

/-- The head of the fields, with TYPE already read. -/
def Fields.head (f : Fields) (t : VType) : Head := ⟨Guard.ofBits f.g, t, f.md, Hints.ofBits f.h⟩

/-- The fields of an instruction word with this head, OP and FN; unused fields are 0. -/
def mkFields (op : BitVec 8) (fn : BitVec 6) (h : Head) (d a b : BitVec 10) (x : BitVec 32) : Fields :=
  ⟨op, fn, d, a, b, x, h.g.bits, h.ty.code, h.md, h.h.bits⟩

/-- The fields of an instruction, by the encoding tables of 06 R163 and the instruction chapters. -/
def Instr.fields : Instr → Option Fields
  | .nop h => some (mkFields 0x02 0x00 h 0 0 0 (0))
  | .bra h x => some (mkFields 0x03 0x00 h 0 0 0 (x))
  | .brx h a => some (mkFields 0x03 0x01 h 0 a.bits 0 (0))
  | .call h d x => some (mkFields 0x04 0x00 h d.bits 0 0 (x))
  | .callx h d a => some (mkFields 0x04 0x01 h d.bits a.bits 0 (0))
  | .ret h a => some (mkFields 0x04 0x02 h 0 a.bits 0 (0))
  | .loop h a x => some (mkFields 0x05 0x00 h 0 a.bits 0 (x))
  | .loopx h a x => some (mkFields 0x05 0x01 h 0 a.bits 0 (x))
  | .lbrk h => some (mkFields 0x05 0x02 h 0 0 0 (0))
  | .exit h => some (mkFields 0x06 0x00 h 0 0 0 (0))
  | .yield h => some (mkFields 0x06 0x01 h 0 0 0 (0))
  | .phase h => some (mkFields 0x06 0x02 h 0 0 0 (0))
  | .trap h code => some (mkFields 0x07 0x00 h 0 0 0 (code.setWidth 32))
  | .tret h => some (mkFields 0x07 0x01 h 0 0 0 (0))
  | .rpt h cnt dstep astep bstep => some (mkFields 0x08 0x00 h 0 0 0 (cnt.setWidth 32 ||| (dstep.setWidth 32 <<< 6) ||| (astep.setWidth 32 <<< 9) ||| (bstep.setWidth 32 <<< 12)))
  | .waitf h mask => some (mkFields 0x09 0x00 h 0 0 0 (mask.setWidth 32))
  | .setmode h value mask => some (mkFields 0x0A 0x00 h 0 0 0 (value.setWidth 32 ||| (mask.setWidth 32 <<< 8)))
  | .setperf h a => some (mkFields 0x0A 0x01 h 0 a.bits 0 (0))
  | .getclk h d a => some (mkFields 0x0A 0x02 h d.bits a.bits 0 (0))
  | .iadd h d a b => some (mkFields 0x10 0x00 h d.bits a.bits b.bits (0))
  | .iaddImm h d a x => some (mkFields 0x10 0x20 h d.bits a.bits 0 (x))
  | .isub h d a b => some (mkFields 0x10 0x01 h d.bits a.bits b.bits (0))
  | .isubImm h d a x => some (mkFields 0x10 0x21 h d.bits a.bits 0 (x))
  | .ineg h d a => some (mkFields 0x10 0x02 h d.bits a.bits 0 (0))
  | .iabs h d a => some (mkFields 0x10 0x03 h d.bits a.bits 0 (0))
  | .imul h d a b => some (mkFields 0x11 0x00 h d.bits a.bits b.bits (0))
  | .imulImm h d a x => some (mkFields 0x11 0x20 h d.bits a.bits 0 (x))
  | .imulhi h d a b => some (mkFields 0x11 0x01 h d.bits a.bits b.bits (0))
  | .imulhiImm h d a x => some (mkFields 0x11 0x21 h d.bits a.bits 0 (x))
  | .imad h d a b c => some (mkFields 0x11 0x02 h d.bits a.bits b.bits (c.bits.setWidth 32))
  | .imadw h d a b c => some (mkFields 0x11 0x03 h d.bits a.bits b.bits (c.bits.setWidth 32))
  | .idiv h d a b => some (mkFields 0x12 0x00 h d.bits a.bits b.bits (0))
  | .idivImm h d a x => some (mkFields 0x12 0x20 h d.bits a.bits 0 (x))
  | .irem h d a b => some (mkFields 0x12 0x01 h d.bits a.bits b.bits (0))
  | .iremImm h d a x => some (mkFields 0x12 0x21 h d.bits a.bits 0 (x))
  | .imin h d a b => some (mkFields 0x13 0x00 h d.bits a.bits b.bits (0))
  | .iminImm h d a x => some (mkFields 0x13 0x20 h d.bits a.bits 0 (x))
  | .imax h d a b => some (mkFields 0x13 0x01 h d.bits a.bits b.bits (0))
  | .imaxImm h d a x => some (mkFields 0x13 0x21 h d.bits a.bits 0 (x))
  | .isad h d a b c => some (mkFields 0x13 0x02 h d.bits a.bits b.bits (c.bits.setWidth 32))
  | .idp4 h d a b c => some (mkFields 0x19 0x00 h d.bits a.bits b.bits (c.bits.setWidth 32))
  | .idp2 h d a b c => some (mkFields 0x19 0x01 h d.bits a.bits b.bits (c.bits.setWidth 32))
  | .lea h d a b sh => some (mkFields 0x14 0x00 h d.bits a.bits b.bits (sh.setWidth 32))
  | .leaw h d a b sh => some (mkFields 0x14 0x01 h d.bits a.bits b.bits (sh.setWidth 32))
  | .and h d a b => some (mkFields 0x15 0x00 h d.bits a.bits b.bits (0))
  | .andImm h d a x => some (mkFields 0x15 0x20 h d.bits a.bits 0 (x))
  | .or h d a b => some (mkFields 0x15 0x01 h d.bits a.bits b.bits (0))
  | .orImm h d a x => some (mkFields 0x15 0x21 h d.bits a.bits 0 (x))
  | .xor h d a b => some (mkFields 0x15 0x02 h d.bits a.bits b.bits (0))
  | .xorImm h d a x => some (mkFields 0x15 0x22 h d.bits a.bits 0 (x))
  | .andn h d a b => some (mkFields 0x15 0x03 h d.bits a.bits b.bits (0))
  | .andnImm h d a x => some (mkFields 0x15 0x23 h d.bits a.bits 0 (x))
  | .not h d a => some (mkFields 0x15 0x04 h d.bits a.bits 0 (0))
  | .bool3 h d a b c tbl => some (mkFields 0x15 0x05 h d.bits a.bits b.bits (c.bits.setWidth 32 ||| (tbl.setWidth 32 <<< 12)))
  | .shl h d a b => some (mkFields 0x16 0x00 h d.bits a.bits b.bits (0))
  | .shlImm h d a x => some (mkFields 0x16 0x20 h d.bits a.bits 0 (x))
  | .shr h d a b => some (mkFields 0x16 0x01 h d.bits a.bits b.bits (0))
  | .shrImm h d a x => some (mkFields 0x16 0x21 h d.bits a.bits 0 (x))
  | .sar h d a b => some (mkFields 0x16 0x02 h d.bits a.bits b.bits (0))
  | .sarImm h d a x => some (mkFields 0x16 0x22 h d.bits a.bits 0 (x))
  | .rot h d a b => some (mkFields 0x16 0x03 h d.bits a.bits b.bits (0))
  | .rotImm h d a x => some (mkFields 0x16 0x23 h d.bits a.bits 0 (x))
  | .xshr h d a b c => some (mkFields 0x16 0x04 h d.bits a.bits b.bits (c.bits.setWidth 32))
  | .bfx h d a pos len => some (mkFields 0x17 0x00 h d.bits a.bits 0 (pos.setWidth 32 ||| (len.setWidth 32 <<< 8)))
  | .bfi h d a b pos len => some (mkFields 0x17 0x01 h d.bits a.bits b.bits (pos.setWidth 32 ||| (len.setWidth 32 <<< 8)))
  | .brev h d a => some (mkFields 0x17 0x02 h d.bits a.bits 0 (0))
  | .popc h d a => some (mkFields 0x17 0x03 h d.bits a.bits 0 (0))
  | .clz h d a => some (mkFields 0x17 0x04 h d.bits a.bits 0 (0))
  | .ctz h d a => some (mkFields 0x17 0x05 h d.bits a.bits 0 (0))
  | .bpick h d a b codes => some (mkFields 0x18 0x00 h d.bits a.bits b.bits (codes.setWidth 32))
  | .icmp h d a b cmp join => some (mkFields 0x28 0x00 h d.bits a.bits b.bits (cmp.setWidth 32 ||| (join.setWidth 32 <<< 4)))
  | .icmpv h d a b cmp join => some (mkFields 0x28 0x01 h d.bits a.bits b.bits (cmp.setWidth 32 ||| (join.setWidth 32 <<< 4)))
  | .fcmp h d a b cmp join => some (mkFields 0x29 0x00 h d.bits a.bits b.bits (cmp.setWidth 32 ||| (join.setWidth 32 <<< 4)))
  | .fcmpv h d a b cmp join => some (mkFields 0x29 0x01 h d.bits a.bits b.bits (cmp.setWidth 32 ||| (join.setWidth 32 <<< 4)))
  | .pbool3 h d a b c tbl => some (mkFields 0x2A 0x00 h d.bits a.bits b.bits (c.bits.setWidth 32 ||| (tbl.setWidth 32 <<< 12)))
  | .pmovGet h d => some (mkFields 0x2A 0x01 h d.bits 0 0 (0))
  | .pmovSet h a mask => some (mkFields 0x2A 0x01 h 0 a.bits 0 ((mask.setWidth 32 <<< 8) ||| 1))
  | .sel h d a b pc ng => some (mkFields 0x2B 0x00 h d.bits a.bits b.bits (pc.setWidth 32 ||| (ng.setWidth 32 <<< 3)))
  | .mov h d a => some (mkFields 0x2C 0x00 h d.bits a.bits 0 (0))
  | .movi h d x => some (mkFields 0x2C 0x01 h d.bits 0 0 (x))
  | .movw h d a => some (mkFields 0x2C 0x02 h d.bits a.bits 0 (0))
  | .fadd h d a b => some (mkFields 0x30 0x00 h d.bits a.bits b.bits (0))
  | .faddImm h d a x => some (mkFields 0x30 0x20 h d.bits a.bits 0 (x))
  | .fsub h d a b => some (mkFields 0x30 0x01 h d.bits a.bits b.bits (0))
  | .fsubImm h d a x => some (mkFields 0x30 0x21 h d.bits a.bits 0 (x))
  | .fmul h d a b => some (mkFields 0x30 0x02 h d.bits a.bits b.bits (0))
  | .fmulImm h d a x => some (mkFields 0x30 0x22 h d.bits a.bits 0 (x))
  | .ffma h d a b c => some (mkFields 0x30 0x03 h d.bits a.bits b.bits (c.bits.setWidth 32))
  | .fdiv h d a b => some (mkFields 0x31 0x00 h d.bits a.bits b.bits (0))
  | .fsqrt h d a => some (mkFields 0x31 0x01 h d.bits a.bits 0 (0))
  | .frcp h d a => some (mkFields 0x31 0x02 h d.bits a.bits 0 (0))
  | .frsq h d a => some (mkFields 0x31 0x03 h d.bits a.bits 0 (0))
  | .fmin h d a b => some (mkFields 0x32 0x00 h d.bits a.bits b.bits (0))
  | .fminImm h d a x => some (mkFields 0x32 0x20 h d.bits a.bits 0 (x))
  | .fmax h d a b => some (mkFields 0x32 0x01 h d.bits a.bits b.bits (0))
  | .fmaxImm h d a x => some (mkFields 0x32 0x21 h d.bits a.bits 0 (x))
  | .fabs h d a => some (mkFields 0x33 0x00 h d.bits a.bits 0 (0))
  | .fneg h d a => some (mkFields 0x33 0x01 h d.bits a.bits 0 (0))
  | .fcpys h d a b => some (mkFields 0x33 0x02 h d.bits a.bits b.bits (0))
  | .fclass h d a mask => some (mkFields 0x34 0x00 h d.bits a.bits 0 (mask.setWidth 32))
  | .frnd h d a => some (mkFields 0x35 0x00 h d.bits a.bits 0 (0))
  | .ffrac h d a => some (mkFields 0x35 0x01 h d.bits a.bits 0 (0))
  | .fexp2 h d a => some (mkFields 0x36 0x00 h d.bits a.bits 0 (0))
  | .flog2 h d a => some (mkFields 0x36 0x01 h d.bits a.bits 0 (0))
  | .fsin h d a => some (mkFields 0x36 0x02 h d.bits a.bits 0 (0))
  | .fcos h d a => some (mkFields 0x36 0x03 h d.bits a.bits 0 (0))
  | .ftanh h d a => some (mkFields 0x36 0x04 h d.bits a.bits 0 (0))
  | .fscale h d a b => some (mkFields 0x37 0x00 h d.bits a.bits b.bits (0))
  | .fgetexp h d a => some (mkFields 0x37 0x01 h d.bits a.bits 0 (0))
  | .hadd2 h d a b => some (mkFields 0x38 0x00 h d.bits a.bits b.bits (0))
  | .hadd2Imm h d a x => some (mkFields 0x38 0x20 h d.bits a.bits 0 (x))
  | .hmul2 h d a b => some (mkFields 0x38 0x01 h d.bits a.bits b.bits (0))
  | .hmul2Imm h d a x => some (mkFields 0x38 0x21 h d.bits a.bits 0 (x))
  | .hfma2 h d a b c => some (mkFields 0x38 0x02 h d.bits a.bits b.bits (c.bits.setWidth 32))
  | .hmin2 h d a b => some (mkFields 0x38 0x03 h d.bits a.bits b.bits (0))
  | .hmin2Imm h d a x => some (mkFields 0x38 0x23 h d.bits a.bits 0 (x))
  | .hmax2 h d a b => some (mkFields 0x38 0x04 h d.bits a.bits b.bits (0))
  | .hmax2Imm h d a x => some (mkFields 0x38 0x24 h d.bits a.bits 0 (x))
  | .cvtnPk h d a b => some (mkFields 0x48 0x00 h d.bits a.bits b.bits (0))
  | .cvtnUnpk h d a b => some (mkFields 0x48 0x00 h d.bits a.bits b.bits (0))
  | .cvtw h d a b => some (mkFields 0x49 0x00 h d.bits a.bits b.bits (0))
  | .vblkx h d a b idx => some (mkFields 0x4A 0x00 h d.bits a.bits b.bits (idx.setWidth 32))
  | .lanexPick h d a b mask => some (mkFields 0x50 0x00 h d.bits a.bits b.bits (mask))
  | .lanexBack h d a b mask => some (mkFields 0x50 0x01 h d.bits a.bits b.bits (mask))
  | .lanexFwd h d a b mask => some (mkFields 0x50 0x02 h d.bits a.bits b.bits (mask))
  | .lanexFlip h d a b mask => some (mkFields 0x50 0x03 h d.bits a.bits b.bits (mask))
  | .lanexRot h d a b mask => some (mkFields 0x50 0x04 h d.bits a.bits b.bits (mask))
  | .pollAll h d a mask => some (mkFields 0x51 0x00 h d.bits a.bits 0 (mask))
  | .pollAny h d a mask => some (mkFields 0x51 0x01 h d.bits a.bits 0 (mask))
  | .pollMask h d a mask => some (mkFields 0x51 0x02 h d.bits a.bits 0 (mask))
  | .pollSame h d a mask => some (mkFields 0x51 0x03 h d.bits a.bits 0 (mask))
  | .pollCount h d a mask => some (mkFields 0x51 0x04 h d.bits a.bits 0 (mask))
  | .peersGroup h d a mask => some (mkFields 0x52 0x00 h d.bits a.bits 0 (mask))
  | .peersWhole h d a mask => some (mkFields 0x52 0x01 h d.bits a.bits 0 (mask))
  | .mredAdd h d a b mask => some (mkFields 0x53 0x00 h d.bits a.bits b.bits (mask))
  | .mredMin h d a b mask => some (mkFields 0x53 0x01 h d.bits a.bits b.bits (mask))
  | .mredMax h d a b mask => some (mkFields 0x53 0x02 h d.bits a.bits b.bits (mask))
  | .mredAnd h d a b mask => some (mkFields 0x53 0x03 h d.bits a.bits b.bits (mask))
  | .mredOr h d a b mask => some (mkFields 0x53 0x04 h d.bits a.bits b.bits (mask))
  | .mredXor h d a b mask => some (mkFields 0x53 0x05 h d.bits a.bits b.bits (mask))
  | .scanAdd h d a mask => some (mkFields 0x54 0x00 h d.bits a.bits 0 (mask))
  | .scanMin h d a mask => some (mkFields 0x54 0x01 h d.bits a.bits 0 (mask))
  | .scanMax h d a mask => some (mkFields 0x54 0x02 h d.bits a.bits 0 (mask))
  | .scanAnd h d a mask => some (mkFields 0x54 0x03 h d.bits a.bits 0 (mask))
  | .scanOr h d a mask => some (mkFields 0x54 0x04 h d.bits a.bits 0 (mask))
  | .scanXor h d a mask => some (mkFields 0x54 0x05 h d.bits a.bits 0 (mask))
  | .redxAdd h d a mask => some (mkFields 0x55 0x00 h d.bits a.bits 0 (mask))
  | .redxMin h d a mask => some (mkFields 0x55 0x01 h d.bits a.bits 0 (mask))
  | .redxMax h d a mask => some (mkFields 0x55 0x02 h d.bits a.bits 0 (mask))
  | .redxAnd h d a mask => some (mkFields 0x55 0x03 h d.bits a.bits 0 (mask))
  | .redxOr h d a mask => some (mkFields 0x55 0x04 h d.bits a.bits 0 (mask))
  | .redxXor h d a mask => some (mkFields 0x55 0x05 h d.bits a.bits 0 (mask))
  | .hist h d a b mask => some (mkFields 0x56 0x00 h d.bits a.bits b.bits (mask))
  | .hmrg h d a b mask => some (mkFields 0x57 0x00 h d.bits a.bits b.bits (mask))
  | .slice h d n => some (mkFields 0x58 0x00 h d.bits 0 0 (n.setWidth 32))
  | .rcpmat h a => some (mkFields 0x59 0x00 h 0 a.bits 0 (0))
  | .rcpdrop h d => some (mkFields 0x5A 0x00 h d.bits 0 0 (0))
  | .rcpstat h d a => some (mkFields 0x5B 0x00 h d.bits a.bits 0 (0))
  | .afadd h d a b => some (mkFields 0x5C 0x00 h d.bits a.bits b.bits (0))
  | .afsub h d a b => some (mkFields 0x5C 0x01 h d.bits a.bits b.bits (0))
  | .afscl h d a b => some (mkFields 0x5C 0x02 h d.bits a.bits b.bits (0))
  | .afmul h d a b => some (mkFields 0x5D 0x00 h d.bits a.bits b.bits (0))
  | .afsqr h d a => some (mkFields 0x5D 0x01 h d.bits a.bits 0 (0))
  | .afrec h d a => some (mkFields 0x5D 0x02 h d.bits a.bits 0 (0))
  | .afcond h d a b k rad => some (mkFields 0x5E 0x00 h d.bits a.bits b.bits (k.setWidth 32 ||| (rad.setWidth 32 <<< 3)))
  | .afbnd h d a => some (mkFields 0x5E 0x01 h d.bits a.bits 0 (0))
  | .afini h d a b sym => some (mkFields 0x5E 0x02 h d.bits a.bits b.bits (sym.setWidth 32))
  | .afsym h d => some (mkFields 0x5E 0x03 h d.bits 0 0 (0))
  | .afld h d a b m => some (mkFields 0x5F 0x00 h d.bits a.bits b.bits (m.word))
  | .afst h d a b m => some (mkFields 0x5F 0x01 h d.bits a.bits b.bits (m.word))
  | .ld h d a b m => some (mkFields 0x60 0x00 h d.bits a.bits b.bits (m.word))
  | .st h d a b m => some (mkFields 0x61 0x00 h d.bits a.bits b.bits (m.word))
  | .pref h a b m => some (mkFields 0x62 0x00 h 0 a.bits b.bits (m.word))
  | .atomAdd h d a b m => some (mkFields 0x70 0x00 h d.bits a.bits b.bits (m.word))
  | .atomMin h d a b m => some (mkFields 0x70 0x01 h d.bits a.bits b.bits (m.word))
  | .atomMax h d a b m => some (mkFields 0x70 0x02 h d.bits a.bits b.bits (m.word))
  | .atomAnd h d a b m => some (mkFields 0x70 0x03 h d.bits a.bits b.bits (m.word))
  | .atomOr h d a b m => some (mkFields 0x70 0x04 h d.bits a.bits b.bits (m.word))
  | .atomXor h d a b m => some (mkFields 0x70 0x05 h d.bits a.bits b.bits (m.word))
  | .atomExch h d a b m => some (mkFields 0x70 0x06 h d.bits a.bits b.bits (m.word))
  | .atomInc h d a b m => some (mkFields 0x70 0x07 h d.bits a.bits b.bits (m.word))
  | .atomDec h d a b m => some (mkFields 0x70 0x08 h d.bits a.bits b.bits (m.word))
  | .atomCas h d a b m => some (mkFields 0x70 0x09 h d.bits a.bits b.bits (m.word))
  | .atomFadd h d a b m => some (mkFields 0x70 0x0A h d.bits a.bits b.bits (m.word))
  | .atomFmin h d a b m => some (mkFields 0x70 0x0B h d.bits a.bits b.bits (m.word))
  | .atomFmax h d a b m => some (mkFields 0x70 0x0C h d.bits a.bits b.bits (m.word))
  | .lease h d a b m => some (mkFields 0x71 0x00 h d.bits a.bits b.bits (m.word))
  | .lend h d => some (mkFields 0x71 0x01 h d.bits 0 0 (0))
  | .fenceAcq h scope => some (mkFields 0x78 0x00 h 0 0 0 (scope.code.setWidth 32))
  | .fenceRel h scope => some (mkFields 0x78 0x01 h 0 0 0 (scope.code.setWidth 32))
  | .fenceAr h scope => some (mkFields 0x78 0x02 h 0 0 0 (scope.code.setWidth 32))
  | .fenceSc h scope => some (mkFields 0x78 0x03 h 0 0 0 (scope.code.setWidth 32))
  | .roinv h => some (mkFields 0x79 0x00 h 0 0 0 (0))
  | .cinv h a b => some (mkFields 0x79 0x01 h 0 a.bits b.bits (0))
  | .cinvDiscard h a b => some (mkFields 0x79 0x02 h 0 a.bits b.bits (0))
  | .cwb h a b => some (mkFields 0x79 0x03 h 0 a.bits b.bits (0))
  | .cresize h a => some (mkFields 0x79 0x04 h 0 a.bits 0 (0))
  | .bninit h a b => some (mkFields 0x7A 0x00 h 0 a.bits b.bits (0))
  | .bnarr h d a => some (mkFields 0x7A 0x01 h d.bits a.bits 0 (0))
  | .bnwait h a b => some (mkFields 0x7A 0x02 h 0 a.bits b.bits (0))
  | .bntest h d a b => some (mkFields 0x7A 0x03 h d.bits a.bits b.bits (0))
  | .mbarr h d a b m => some (mkFields 0x7B 0x00 h d.bits a.bits b.bits (m.word))
  | .mbwait h a b m => some (mkFields 0x7B 0x01 h 0 a.bits b.bits (m.word))
  | .cpgo h a b => some (mkFields 0x80 0x00 h 0 a.bits b.bits (0))
  | .cpstat h d a b => some (mkFields 0x80 0x01 h d.bits a.bits b.bits (0))
  | .cvinit h d a b => some (mkFields 0x81 0x00 h d.bits a.bits b.bits (0))
  | .mxsign h d a => some (mkFields 0x81 0x01 h d.bits a.bits 0 (0))
  | .mxpost h d a => some (mkFields 0x81 0x02 h d.bits a.bits 0 (0))
  | .mxstat h d a => some (mkFields 0x81 0x03 h d.bits a.bits 0 (0))
  | .msend h a b hx => some (mkFields 0x88 0x00 h 0 a.bits b.bits (hx.setWidth 32))
  | .eqpost h a b c => some (mkFields 0x89 0x00 h 0 a.bits b.bits (c.bits.setWidth 32))
  | .waitq h d => some (mkFields 0x8A 0x00 h d.bits 0 0 (0))
  | .qwave h d => some (mkFields 0x8A 0x01 h d.bits 0 0 (0))
  | .srd h d sreg => some (mkFields 0x90 0x00 h d.bits 0 0 (sreg.setWidth 32))
  | .swr h a sreg => some (mkFields 0x90 0x01 h 0 a.bits 0 (sreg.setWidth 32))
  | .trets h => some (mkFields 0x91 0x00 h 0 0 0 (0))
  | .tlbinv h a b kind => some (mkFields 0x92 0x00 h 0 a.bits b.bits (kind.setWidth 32))
  | .icinv h => some (mkFields 0x92 0x01 h 0 0 0 (0))
  | .rcpflush h d a => some (mkFields 0x93 0x00 h d.bits a.bits 0 (0))
  | .ctxsave h d a b => some (mkFields 0x94 0x00 h d.bits a.bits b.bits (0))
  | .ctxload h d a b => some (mkFields 0x94 0x01 h d.bits a.bits b.bits (0))
  | .park h a => some (mkFields 0x95 0x00 h 0 a.bits 0 (0))
  | .parkRel h a => some (mkFields 0x95 0x00 h 0 a.bits 0 (0))
  | .halt h a => some (mkFields 0x95 0x01 h 0 a.bits 0 (0))
  | .stest h d test => some (mkFields 0x96 0x00 h d.bits 0 0 (test.setWidth 32))
  | .setperfSysCap h d a b => some (mkFields 0x97 0x00 h d.bits a.bits b.bits (0))
  | .setperfSysPermits h d a b => some (mkFields 0x97 0x00 h d.bits a.bits b.bits (1))
  | _ => none

/-- The word of a stretch header, 06 R154. -/
def headerWord (wait : BitVec 12) (sa sb len : BitVec 5) (pri : BitVec 3) : IWord :=
  0x01#8 ++ 0#6 ++ wait ++ sa ++ sb ++ len ++ pri ++ 0#52

/-- The header fields of a word with OP 0x01, 06 R154, read whatever its reserved bits hold. -/
def headerOf (w : IWord) : Instr :=
  .strh (w.extractLsb' 70 12) (w.extractLsb' 65 5) (w.extractLsb' 60 5) (w.extractLsb' 55 5) (w.extractLsb' 52 3)

/-- Whether a header's reserved bits are all 0 (06 R155). -/
def headerClean (w : IWord) : Bool := (w.extractLsb' 82 6 == 0) && (w.extractLsb' 0 52 == 0)

/-- The instruction of the fields under OP 0x02. -/
def Fields.build02 (f : Fields) (h : Head) : Option Instr :=
  match f.fn.toNat with
  | 0x00 => some (.nop h)
  | _ => none

/-- The instruction of the fields under OP 0x03. -/
def Fields.build03 (f : Fields) (h : Head) : Option Instr :=
  match f.fn.toNat with
  | 0x00 => some (.bra h f.x)
  | 0x01 => some (.brx h (Spec.ofBits f.a))
  | _ => none

/-- The instruction of the fields under OP 0x04. -/
def Fields.build04 (f : Fields) (h : Head) : Option Instr :=
  match f.fn.toNat with
  | 0x00 => some (.call h (Spec.ofBits f.d) f.x)
  | 0x01 => some (.callx h (Spec.ofBits f.d) (Spec.ofBits f.a))
  | 0x02 => some (.ret h (Spec.ofBits f.a))
  | _ => none

/-- The instruction of the fields under OP 0x05. -/
def Fields.build05 (f : Fields) (h : Head) : Option Instr :=
  match f.fn.toNat with
  | 0x00 => some (.loop h (Spec.ofBits f.a) f.x)
  | 0x01 => some (.loopx h (Spec.ofBits f.a) f.x)
  | 0x02 => some (.lbrk h)
  | _ => none

/-- The instruction of the fields under OP 0x06. -/
def Fields.build06 (f : Fields) (h : Head) : Option Instr :=
  match f.fn.toNat with
  | 0x00 => some (.exit h)
  | 0x01 => some (.yield h)
  | 0x02 => some (.phase h)
  | _ => none

/-- The instruction of the fields under OP 0x07. -/
def Fields.build07 (f : Fields) (h : Head) : Option Instr :=
  match f.fn.toNat with
  | 0x00 => some (.trap h (f.x.extractLsb' 0 16))
  | 0x01 => some (.tret h)
  | _ => none

/-- The instruction of the fields under OP 0x08. -/
def Fields.build08 (f : Fields) (h : Head) : Option Instr :=
  match f.fn.toNat with
  | 0x00 => some (.rpt h (f.x.extractLsb' 0 6) (f.x.extractLsb' 6 3) (f.x.extractLsb' 9 3) (f.x.extractLsb' 12 3))
  | _ => none

/-- The instruction of the fields under OP 0x09. -/
def Fields.build09 (f : Fields) (h : Head) : Option Instr :=
  match f.fn.toNat with
  | 0x00 => some (.waitf h (f.x.extractLsb' 0 12))
  | _ => none

/-- The instruction of the fields under OP 0x0A. -/
def Fields.build0A (f : Fields) (h : Head) : Option Instr :=
  match f.fn.toNat with
  | 0x00 => some (.setmode h (f.x.extractLsb' 0 6) (f.x.extractLsb' 8 6))
  | 0x01 => some (.setperf h (Spec.ofBits f.a))
  | 0x02 => some (.getclk h (Spec.ofBits f.d) (Spec.ofBits f.a))
  | _ => none

/-- The instruction of the fields under OP 0x10. -/
def Fields.build10 (f : Fields) (h : Head) : Option Instr :=
  match f.fn.toNat with
  | 0x00 => some (.iadd h (Spec.ofBits f.d) (Spec.ofBits f.a) (Spec.ofBits f.b))
  | 0x01 => some (.isub h (Spec.ofBits f.d) (Spec.ofBits f.a) (Spec.ofBits f.b))
  | 0x02 => some (.ineg h (Spec.ofBits f.d) (Spec.ofBits f.a))
  | 0x03 => some (.iabs h (Spec.ofBits f.d) (Spec.ofBits f.a))
  | 0x20 => some (.iaddImm h (Spec.ofBits f.d) (Spec.ofBits f.a) f.x)
  | 0x21 => some (.isubImm h (Spec.ofBits f.d) (Spec.ofBits f.a) f.x)
  | _ => none

/-- The instruction of the fields under OP 0x11. -/
def Fields.build11 (f : Fields) (h : Head) : Option Instr :=
  match f.fn.toNat with
  | 0x00 => some (.imul h (Spec.ofBits f.d) (Spec.ofBits f.a) (Spec.ofBits f.b))
  | 0x01 => some (.imulhi h (Spec.ofBits f.d) (Spec.ofBits f.a) (Spec.ofBits f.b))
  | 0x02 => some (.imad h (Spec.ofBits f.d) (Spec.ofBits f.a) (Spec.ofBits f.b) (Spec.ofBits (f.x.extractLsb' 0 10)))
  | 0x03 => some (.imadw h (Spec.ofBits f.d) (Spec.ofBits f.a) (Spec.ofBits f.b) (Spec.ofBits (f.x.extractLsb' 0 10)))
  | 0x20 => some (.imulImm h (Spec.ofBits f.d) (Spec.ofBits f.a) f.x)
  | 0x21 => some (.imulhiImm h (Spec.ofBits f.d) (Spec.ofBits f.a) f.x)
  | _ => none

/-- The instruction of the fields under OP 0x12. -/
def Fields.build12 (f : Fields) (h : Head) : Option Instr :=
  match f.fn.toNat with
  | 0x00 => some (.idiv h (Spec.ofBits f.d) (Spec.ofBits f.a) (Spec.ofBits f.b))
  | 0x01 => some (.irem h (Spec.ofBits f.d) (Spec.ofBits f.a) (Spec.ofBits f.b))
  | 0x20 => some (.idivImm h (Spec.ofBits f.d) (Spec.ofBits f.a) f.x)
  | 0x21 => some (.iremImm h (Spec.ofBits f.d) (Spec.ofBits f.a) f.x)
  | _ => none

/-- The instruction of the fields under OP 0x13. -/
def Fields.build13 (f : Fields) (h : Head) : Option Instr :=
  match f.fn.toNat with
  | 0x00 => some (.imin h (Spec.ofBits f.d) (Spec.ofBits f.a) (Spec.ofBits f.b))
  | 0x01 => some (.imax h (Spec.ofBits f.d) (Spec.ofBits f.a) (Spec.ofBits f.b))
  | 0x02 => some (.isad h (Spec.ofBits f.d) (Spec.ofBits f.a) (Spec.ofBits f.b) (Spec.ofBits (f.x.extractLsb' 0 10)))
  | 0x20 => some (.iminImm h (Spec.ofBits f.d) (Spec.ofBits f.a) f.x)
  | 0x21 => some (.imaxImm h (Spec.ofBits f.d) (Spec.ofBits f.a) f.x)
  | _ => none

/-- The instruction of the fields under OP 0x14. -/
def Fields.build14 (f : Fields) (h : Head) : Option Instr :=
  match f.fn.toNat with
  | 0x00 => some (.lea h (Spec.ofBits f.d) (Spec.ofBits f.a) (Spec.ofBits f.b) (f.x.extractLsb' 0 5))
  | 0x01 => some (.leaw h (Spec.ofBits f.d) (Spec.ofBits f.a) (Spec.ofBits f.b) (f.x.extractLsb' 0 5))
  | _ => none

/-- The instruction of the fields under OP 0x15. -/
def Fields.build15 (f : Fields) (h : Head) : Option Instr :=
  match f.fn.toNat with
  | 0x00 => some (.and h (Spec.ofBits f.d) (Spec.ofBits f.a) (Spec.ofBits f.b))
  | 0x01 => some (.or h (Spec.ofBits f.d) (Spec.ofBits f.a) (Spec.ofBits f.b))
  | 0x02 => some (.xor h (Spec.ofBits f.d) (Spec.ofBits f.a) (Spec.ofBits f.b))
  | 0x03 => some (.andn h (Spec.ofBits f.d) (Spec.ofBits f.a) (Spec.ofBits f.b))
  | 0x04 => some (.not h (Spec.ofBits f.d) (Spec.ofBits f.a))
  | 0x05 => some (.bool3 h (Spec.ofBits f.d) (Spec.ofBits f.a) (Spec.ofBits f.b) (Spec.ofBits (f.x.extractLsb' 0 10)) (f.x.extractLsb' 12 8))
  | 0x20 => some (.andImm h (Spec.ofBits f.d) (Spec.ofBits f.a) f.x)
  | 0x21 => some (.orImm h (Spec.ofBits f.d) (Spec.ofBits f.a) f.x)
  | 0x22 => some (.xorImm h (Spec.ofBits f.d) (Spec.ofBits f.a) f.x)
  | 0x23 => some (.andnImm h (Spec.ofBits f.d) (Spec.ofBits f.a) f.x)
  | _ => none

/-- The instruction of the fields under OP 0x16. -/
def Fields.build16 (f : Fields) (h : Head) : Option Instr :=
  match f.fn.toNat with
  | 0x00 => some (.shl h (Spec.ofBits f.d) (Spec.ofBits f.a) (Spec.ofBits f.b))
  | 0x01 => some (.shr h (Spec.ofBits f.d) (Spec.ofBits f.a) (Spec.ofBits f.b))
  | 0x02 => some (.sar h (Spec.ofBits f.d) (Spec.ofBits f.a) (Spec.ofBits f.b))
  | 0x03 => some (.rot h (Spec.ofBits f.d) (Spec.ofBits f.a) (Spec.ofBits f.b))
  | 0x04 => some (.xshr h (Spec.ofBits f.d) (Spec.ofBits f.a) (Spec.ofBits f.b) (Spec.ofBits (f.x.extractLsb' 0 10)))
  | 0x20 => some (.shlImm h (Spec.ofBits f.d) (Spec.ofBits f.a) f.x)
  | 0x21 => some (.shrImm h (Spec.ofBits f.d) (Spec.ofBits f.a) f.x)
  | 0x22 => some (.sarImm h (Spec.ofBits f.d) (Spec.ofBits f.a) f.x)
  | 0x23 => some (.rotImm h (Spec.ofBits f.d) (Spec.ofBits f.a) f.x)
  | _ => none

/-- The instruction of the fields under OP 0x17. -/
def Fields.build17 (f : Fields) (h : Head) : Option Instr :=
  match f.fn.toNat with
  | 0x00 => some (.bfx h (Spec.ofBits f.d) (Spec.ofBits f.a) (f.x.extractLsb' 0 8) (f.x.extractLsb' 8 8))
  | 0x01 => some (.bfi h (Spec.ofBits f.d) (Spec.ofBits f.a) (Spec.ofBits f.b) (f.x.extractLsb' 0 8) (f.x.extractLsb' 8 8))
  | 0x02 => some (.brev h (Spec.ofBits f.d) (Spec.ofBits f.a))
  | 0x03 => some (.popc h (Spec.ofBits f.d) (Spec.ofBits f.a))
  | 0x04 => some (.clz h (Spec.ofBits f.d) (Spec.ofBits f.a))
  | 0x05 => some (.ctz h (Spec.ofBits f.d) (Spec.ofBits f.a))
  | _ => none

/-- The instruction of the fields under OP 0x18. -/
def Fields.build18 (f : Fields) (h : Head) : Option Instr :=
  match f.fn.toNat with
  | 0x00 => some (.bpick h (Spec.ofBits f.d) (Spec.ofBits f.a) (Spec.ofBits f.b) (f.x.extractLsb' 0 20))
  | _ => none

/-- The instruction of the fields under OP 0x19. -/
def Fields.build19 (f : Fields) (h : Head) : Option Instr :=
  match f.fn.toNat with
  | 0x00 => some (.idp4 h (Spec.ofBits f.d) (Spec.ofBits f.a) (Spec.ofBits f.b) (Spec.ofBits (f.x.extractLsb' 0 10)))
  | 0x01 => some (.idp2 h (Spec.ofBits f.d) (Spec.ofBits f.a) (Spec.ofBits f.b) (Spec.ofBits (f.x.extractLsb' 0 10)))
  | _ => none

/-- The instruction of the fields under OP 0x28. -/
def Fields.build28 (f : Fields) (h : Head) : Option Instr :=
  match f.fn.toNat with
  | 0x00 => some (.icmp h (Spec.ofBits f.d) (Spec.ofBits f.a) (Spec.ofBits f.b) (f.x.extractLsb' 0 4) (f.x.extractLsb' 4 2))
  | 0x01 => some (.icmpv h (Spec.ofBits f.d) (Spec.ofBits f.a) (Spec.ofBits f.b) (f.x.extractLsb' 0 4) (f.x.extractLsb' 4 2))
  | _ => none

/-- The instruction of the fields under OP 0x29. -/
def Fields.build29 (f : Fields) (h : Head) : Option Instr :=
  match f.fn.toNat with
  | 0x00 => some (.fcmp h (Spec.ofBits f.d) (Spec.ofBits f.a) (Spec.ofBits f.b) (f.x.extractLsb' 0 4) (f.x.extractLsb' 4 2))
  | 0x01 => some (.fcmpv h (Spec.ofBits f.d) (Spec.ofBits f.a) (Spec.ofBits f.b) (f.x.extractLsb' 0 4) (f.x.extractLsb' 4 2))
  | _ => none

/-- The instruction of the fields under OP 0x2A. -/
def Fields.build2A (f : Fields) (h : Head) : Option Instr :=
  match f.fn.toNat with
  | 0x00 => some (.pbool3 h (Spec.ofBits f.d) (Spec.ofBits f.a) (Spec.ofBits f.b) (Spec.ofBits (f.x.extractLsb' 0 10)) (f.x.extractLsb' 12 8))
  | 0x01 => if f.x.getLsbD 0 then some (.pmovSet h (Spec.ofBits f.a) (f.x.extractLsb' 8 7)) else some (.pmovGet h (Spec.ofBits f.d))
  | _ => none

/-- The instruction of the fields under OP 0x2B. -/
def Fields.build2B (f : Fields) (h : Head) : Option Instr :=
  match f.fn.toNat with
  | 0x00 => some (.sel h (Spec.ofBits f.d) (Spec.ofBits f.a) (Spec.ofBits f.b) (f.x.extractLsb' 0 3) (f.x.extractLsb' 3 1))
  | _ => none

/-- The instruction of the fields under OP 0x2C. -/
def Fields.build2C (f : Fields) (h : Head) : Option Instr :=
  match f.fn.toNat with
  | 0x00 => some (.mov h (Spec.ofBits f.d) (Spec.ofBits f.a))
  | 0x01 => some (.movi h (Spec.ofBits f.d) f.x)
  | 0x02 => some (.movw h (Spec.ofBits f.d) (Spec.ofBits f.a))
  | _ => none

/-- The instruction of the fields under OP 0x30. -/
def Fields.build30 (f : Fields) (h : Head) : Option Instr :=
  match f.fn.toNat with
  | 0x00 => some (.fadd h (Spec.ofBits f.d) (Spec.ofBits f.a) (Spec.ofBits f.b))
  | 0x01 => some (.fsub h (Spec.ofBits f.d) (Spec.ofBits f.a) (Spec.ofBits f.b))
  | 0x02 => some (.fmul h (Spec.ofBits f.d) (Spec.ofBits f.a) (Spec.ofBits f.b))
  | 0x03 => some (.ffma h (Spec.ofBits f.d) (Spec.ofBits f.a) (Spec.ofBits f.b) (Spec.ofBits (f.x.extractLsb' 0 10)))
  | 0x20 => some (.faddImm h (Spec.ofBits f.d) (Spec.ofBits f.a) f.x)
  | 0x21 => some (.fsubImm h (Spec.ofBits f.d) (Spec.ofBits f.a) f.x)
  | 0x22 => some (.fmulImm h (Spec.ofBits f.d) (Spec.ofBits f.a) f.x)
  | _ => none

/-- The instruction of the fields under OP 0x31. -/
def Fields.build31 (f : Fields) (h : Head) : Option Instr :=
  match f.fn.toNat with
  | 0x00 => some (.fdiv h (Spec.ofBits f.d) (Spec.ofBits f.a) (Spec.ofBits f.b))
  | 0x01 => some (.fsqrt h (Spec.ofBits f.d) (Spec.ofBits f.a))
  | 0x02 => some (.frcp h (Spec.ofBits f.d) (Spec.ofBits f.a))
  | 0x03 => some (.frsq h (Spec.ofBits f.d) (Spec.ofBits f.a))
  | _ => none

/-- The instruction of the fields under OP 0x32. -/
def Fields.build32 (f : Fields) (h : Head) : Option Instr :=
  match f.fn.toNat with
  | 0x00 => some (.fmin h (Spec.ofBits f.d) (Spec.ofBits f.a) (Spec.ofBits f.b))
  | 0x01 => some (.fmax h (Spec.ofBits f.d) (Spec.ofBits f.a) (Spec.ofBits f.b))
  | 0x20 => some (.fminImm h (Spec.ofBits f.d) (Spec.ofBits f.a) f.x)
  | 0x21 => some (.fmaxImm h (Spec.ofBits f.d) (Spec.ofBits f.a) f.x)
  | _ => none

/-- The instruction of the fields under OP 0x33. -/
def Fields.build33 (f : Fields) (h : Head) : Option Instr :=
  match f.fn.toNat with
  | 0x00 => some (.fabs h (Spec.ofBits f.d) (Spec.ofBits f.a))
  | 0x01 => some (.fneg h (Spec.ofBits f.d) (Spec.ofBits f.a))
  | 0x02 => some (.fcpys h (Spec.ofBits f.d) (Spec.ofBits f.a) (Spec.ofBits f.b))
  | _ => none

/-- The instruction of the fields under OP 0x34. -/
def Fields.build34 (f : Fields) (h : Head) : Option Instr :=
  match f.fn.toNat with
  | 0x00 => some (.fclass h (Spec.ofBits f.d) (Spec.ofBits f.a) (f.x.extractLsb' 0 10))
  | _ => none

/-- The instruction of the fields under OP 0x35. -/
def Fields.build35 (f : Fields) (h : Head) : Option Instr :=
  match f.fn.toNat with
  | 0x00 => some (.frnd h (Spec.ofBits f.d) (Spec.ofBits f.a))
  | 0x01 => some (.ffrac h (Spec.ofBits f.d) (Spec.ofBits f.a))
  | _ => none

/-- The instruction of the fields under OP 0x36. -/
def Fields.build36 (f : Fields) (h : Head) : Option Instr :=
  match f.fn.toNat with
  | 0x00 => some (.fexp2 h (Spec.ofBits f.d) (Spec.ofBits f.a))
  | 0x01 => some (.flog2 h (Spec.ofBits f.d) (Spec.ofBits f.a))
  | 0x02 => some (.fsin h (Spec.ofBits f.d) (Spec.ofBits f.a))
  | 0x03 => some (.fcos h (Spec.ofBits f.d) (Spec.ofBits f.a))
  | 0x04 => some (.ftanh h (Spec.ofBits f.d) (Spec.ofBits f.a))
  | _ => none

/-- The instruction of the fields under OP 0x37. -/
def Fields.build37 (f : Fields) (h : Head) : Option Instr :=
  match f.fn.toNat with
  | 0x00 => some (.fscale h (Spec.ofBits f.d) (Spec.ofBits f.a) (Spec.ofBits f.b))
  | 0x01 => some (.fgetexp h (Spec.ofBits f.d) (Spec.ofBits f.a))
  | _ => none

/-- The instruction of the fields under OP 0x38. -/
def Fields.build38 (f : Fields) (h : Head) : Option Instr :=
  match f.fn.toNat with
  | 0x00 => some (.hadd2 h (Spec.ofBits f.d) (Spec.ofBits f.a) (Spec.ofBits f.b))
  | 0x01 => some (.hmul2 h (Spec.ofBits f.d) (Spec.ofBits f.a) (Spec.ofBits f.b))
  | 0x02 => some (.hfma2 h (Spec.ofBits f.d) (Spec.ofBits f.a) (Spec.ofBits f.b) (Spec.ofBits (f.x.extractLsb' 0 10)))
  | 0x03 => some (.hmin2 h (Spec.ofBits f.d) (Spec.ofBits f.a) (Spec.ofBits f.b))
  | 0x04 => some (.hmax2 h (Spec.ofBits f.d) (Spec.ofBits f.a) (Spec.ofBits f.b))
  | 0x20 => some (.hadd2Imm h (Spec.ofBits f.d) (Spec.ofBits f.a) f.x)
  | 0x21 => some (.hmul2Imm h (Spec.ofBits f.d) (Spec.ofBits f.a) f.x)
  | 0x23 => some (.hmin2Imm h (Spec.ofBits f.d) (Spec.ofBits f.a) f.x)
  | 0x24 => some (.hmax2Imm h (Spec.ofBits f.d) (Spec.ofBits f.a) f.x)
  | _ => none

/-- The instruction of the fields under OP 0x48. -/
def Fields.build48 (f : Fields) (h : Head) : Option Instr :=
  match f.fn.toNat with
  | 0x00 => if f.md.getLsbD 3 then some (.cvtnUnpk h (Spec.ofBits f.d) (Spec.ofBits f.a) (Spec.ofBits f.b)) else some (.cvtnPk h (Spec.ofBits f.d) (Spec.ofBits f.a) (Spec.ofBits f.b))
  | _ => none

/-- The instruction of the fields under OP 0x49. -/
def Fields.build49 (f : Fields) (h : Head) : Option Instr :=
  match f.fn.toNat with
  | 0x00 => some (.cvtw h (Spec.ofBits f.d) (Spec.ofBits f.a) (Spec.ofBits f.b))
  | _ => none

/-- The instruction of the fields under OP 0x4A. -/
def Fields.build4A (f : Fields) (h : Head) : Option Instr :=
  match f.fn.toNat with
  | 0x00 => some (.vblkx h (Spec.ofBits f.d) (Spec.ofBits f.a) (Spec.ofBits f.b) (f.x.extractLsb' 0 3))
  | _ => none

/-- The instruction of the fields under OP 0x50. -/
def Fields.build50 (f : Fields) (h : Head) : Option Instr :=
  match f.fn.toNat with
  | 0x00 => some (.lanexPick h (Spec.ofBits f.d) (Spec.ofBits f.a) (Spec.ofBits f.b) f.x)
  | 0x01 => some (.lanexBack h (Spec.ofBits f.d) (Spec.ofBits f.a) (Spec.ofBits f.b) f.x)
  | 0x02 => some (.lanexFwd h (Spec.ofBits f.d) (Spec.ofBits f.a) (Spec.ofBits f.b) f.x)
  | 0x03 => some (.lanexFlip h (Spec.ofBits f.d) (Spec.ofBits f.a) (Spec.ofBits f.b) f.x)
  | 0x04 => some (.lanexRot h (Spec.ofBits f.d) (Spec.ofBits f.a) (Spec.ofBits f.b) f.x)
  | _ => none

/-- The instruction of the fields under OP 0x51. -/
def Fields.build51 (f : Fields) (h : Head) : Option Instr :=
  match f.fn.toNat with
  | 0x00 => some (.pollAll h (Spec.ofBits f.d) (Spec.ofBits f.a) f.x)
  | 0x01 => some (.pollAny h (Spec.ofBits f.d) (Spec.ofBits f.a) f.x)
  | 0x02 => some (.pollMask h (Spec.ofBits f.d) (Spec.ofBits f.a) f.x)
  | 0x03 => some (.pollSame h (Spec.ofBits f.d) (Spec.ofBits f.a) f.x)
  | 0x04 => some (.pollCount h (Spec.ofBits f.d) (Spec.ofBits f.a) f.x)
  | _ => none

/-- The instruction of the fields under OP 0x52. -/
def Fields.build52 (f : Fields) (h : Head) : Option Instr :=
  match f.fn.toNat with
  | 0x00 => some (.peersGroup h (Spec.ofBits f.d) (Spec.ofBits f.a) f.x)
  | 0x01 => some (.peersWhole h (Spec.ofBits f.d) (Spec.ofBits f.a) f.x)
  | _ => none

/-- The instruction of the fields under OP 0x53. -/
def Fields.build53 (f : Fields) (h : Head) : Option Instr :=
  match f.fn.toNat with
  | 0x00 => some (.mredAdd h (Spec.ofBits f.d) (Spec.ofBits f.a) (Spec.ofBits f.b) f.x)
  | 0x01 => some (.mredMin h (Spec.ofBits f.d) (Spec.ofBits f.a) (Spec.ofBits f.b) f.x)
  | 0x02 => some (.mredMax h (Spec.ofBits f.d) (Spec.ofBits f.a) (Spec.ofBits f.b) f.x)
  | 0x03 => some (.mredAnd h (Spec.ofBits f.d) (Spec.ofBits f.a) (Spec.ofBits f.b) f.x)
  | 0x04 => some (.mredOr h (Spec.ofBits f.d) (Spec.ofBits f.a) (Spec.ofBits f.b) f.x)
  | 0x05 => some (.mredXor h (Spec.ofBits f.d) (Spec.ofBits f.a) (Spec.ofBits f.b) f.x)
  | _ => none

/-- The instruction of the fields under OP 0x54. -/
def Fields.build54 (f : Fields) (h : Head) : Option Instr :=
  match f.fn.toNat with
  | 0x00 => some (.scanAdd h (Spec.ofBits f.d) (Spec.ofBits f.a) f.x)
  | 0x01 => some (.scanMin h (Spec.ofBits f.d) (Spec.ofBits f.a) f.x)
  | 0x02 => some (.scanMax h (Spec.ofBits f.d) (Spec.ofBits f.a) f.x)
  | 0x03 => some (.scanAnd h (Spec.ofBits f.d) (Spec.ofBits f.a) f.x)
  | 0x04 => some (.scanOr h (Spec.ofBits f.d) (Spec.ofBits f.a) f.x)
  | 0x05 => some (.scanXor h (Spec.ofBits f.d) (Spec.ofBits f.a) f.x)
  | _ => none

/-- The instruction of the fields under OP 0x55. -/
def Fields.build55 (f : Fields) (h : Head) : Option Instr :=
  match f.fn.toNat with
  | 0x00 => some (.redxAdd h (Spec.ofBits f.d) (Spec.ofBits f.a) f.x)
  | 0x01 => some (.redxMin h (Spec.ofBits f.d) (Spec.ofBits f.a) f.x)
  | 0x02 => some (.redxMax h (Spec.ofBits f.d) (Spec.ofBits f.a) f.x)
  | 0x03 => some (.redxAnd h (Spec.ofBits f.d) (Spec.ofBits f.a) f.x)
  | 0x04 => some (.redxOr h (Spec.ofBits f.d) (Spec.ofBits f.a) f.x)
  | 0x05 => some (.redxXor h (Spec.ofBits f.d) (Spec.ofBits f.a) f.x)
  | _ => none

/-- The instruction of the fields under OP 0x56. -/
def Fields.build56 (f : Fields) (h : Head) : Option Instr :=
  match f.fn.toNat with
  | 0x00 => some (.hist h (Spec.ofBits f.d) (Spec.ofBits f.a) (Spec.ofBits f.b) f.x)
  | _ => none

/-- The instruction of the fields under OP 0x57. -/
def Fields.build57 (f : Fields) (h : Head) : Option Instr :=
  match f.fn.toNat with
  | 0x00 => some (.hmrg h (Spec.ofBits f.d) (Spec.ofBits f.a) (Spec.ofBits f.b) f.x)
  | _ => none

/-- The instruction of the fields under OP 0x58. -/
def Fields.build58 (f : Fields) (h : Head) : Option Instr :=
  match f.fn.toNat with
  | 0x00 => some (.slice h (Spec.ofBits f.d) (f.x.extractLsb' 0 4))
  | _ => none

/-- The instruction of the fields under OP 0x59. -/
def Fields.build59 (f : Fields) (h : Head) : Option Instr :=
  match f.fn.toNat with
  | 0x00 => some (.rcpmat h (Spec.ofBits f.a))
  | _ => none

/-- The instruction of the fields under OP 0x5A. -/
def Fields.build5A (f : Fields) (h : Head) : Option Instr :=
  match f.fn.toNat with
  | 0x00 => some (.rcpdrop h (Spec.ofBits f.d))
  | _ => none

/-- The instruction of the fields under OP 0x5B. -/
def Fields.build5B (f : Fields) (h : Head) : Option Instr :=
  match f.fn.toNat with
  | 0x00 => some (.rcpstat h (Spec.ofBits f.d) (Spec.ofBits f.a))
  | _ => none

/-- The instruction of the fields under OP 0x5C. -/
def Fields.build5C (f : Fields) (h : Head) : Option Instr :=
  match f.fn.toNat with
  | 0x00 => some (.afadd h (Spec.ofBits f.d) (Spec.ofBits f.a) (Spec.ofBits f.b))
  | 0x01 => some (.afsub h (Spec.ofBits f.d) (Spec.ofBits f.a) (Spec.ofBits f.b))
  | 0x02 => some (.afscl h (Spec.ofBits f.d) (Spec.ofBits f.a) (Spec.ofBits f.b))
  | _ => none

/-- The instruction of the fields under OP 0x5D. -/
def Fields.build5D (f : Fields) (h : Head) : Option Instr :=
  match f.fn.toNat with
  | 0x00 => some (.afmul h (Spec.ofBits f.d) (Spec.ofBits f.a) (Spec.ofBits f.b))
  | 0x01 => some (.afsqr h (Spec.ofBits f.d) (Spec.ofBits f.a))
  | 0x02 => some (.afrec h (Spec.ofBits f.d) (Spec.ofBits f.a))
  | _ => none

/-- The instruction of the fields under OP 0x5E. -/
def Fields.build5E (f : Fields) (h : Head) : Option Instr :=
  match f.fn.toNat with
  | 0x00 => some (.afcond h (Spec.ofBits f.d) (Spec.ofBits f.a) (Spec.ofBits f.b) (f.x.extractLsb' 0 3) (f.x.extractLsb' 3 1))
  | 0x01 => some (.afbnd h (Spec.ofBits f.d) (Spec.ofBits f.a))
  | 0x02 => some (.afini h (Spec.ofBits f.d) (Spec.ofBits f.a) (Spec.ofBits f.b) (f.x.extractLsb' 0 16))
  | 0x03 => some (.afsym h (Spec.ofBits f.d))
  | _ => none

/-- The instruction of the fields under OP 0x5F. -/
def Fields.build5F (f : Fields) (h : Head) : Option Instr :=
  match f.fn.toNat with
  | 0x00 => (MemF.ofWord f.x).map fun m => .afld h (Spec.ofBits f.d) (Spec.ofBits f.a) (Spec.ofBits f.b) m
  | 0x01 => (MemF.ofWord f.x).map fun m => .afst h (Spec.ofBits f.d) (Spec.ofBits f.a) (Spec.ofBits f.b) m
  | _ => none

/-- The instruction of the fields under OP 0x60. -/
def Fields.build60 (f : Fields) (h : Head) : Option Instr :=
  match f.fn.toNat with
  | 0x00 => (MemF.ofWord f.x).map fun m => .ld h (Spec.ofBits f.d) (Spec.ofBits f.a) (Spec.ofBits f.b) m
  | _ => none

/-- The instruction of the fields under OP 0x61. -/
def Fields.build61 (f : Fields) (h : Head) : Option Instr :=
  match f.fn.toNat with
  | 0x00 => (MemF.ofWord f.x).map fun m => .st h (Spec.ofBits f.d) (Spec.ofBits f.a) (Spec.ofBits f.b) m
  | _ => none

/-- The instruction of the fields under OP 0x62. -/
def Fields.build62 (f : Fields) (h : Head) : Option Instr :=
  match f.fn.toNat with
  | 0x00 => (MemF.ofWord f.x).map fun m => .pref h (Spec.ofBits f.a) (Spec.ofBits f.b) m
  | _ => none

/-- The instruction of the fields under OP 0x70. -/
def Fields.build70 (f : Fields) (h : Head) : Option Instr :=
  match f.fn.toNat with
  | 0x00 => (MemF.ofWord f.x).map fun m => .atomAdd h (Spec.ofBits f.d) (Spec.ofBits f.a) (Spec.ofBits f.b) m
  | 0x01 => (MemF.ofWord f.x).map fun m => .atomMin h (Spec.ofBits f.d) (Spec.ofBits f.a) (Spec.ofBits f.b) m
  | 0x02 => (MemF.ofWord f.x).map fun m => .atomMax h (Spec.ofBits f.d) (Spec.ofBits f.a) (Spec.ofBits f.b) m
  | 0x03 => (MemF.ofWord f.x).map fun m => .atomAnd h (Spec.ofBits f.d) (Spec.ofBits f.a) (Spec.ofBits f.b) m
  | 0x04 => (MemF.ofWord f.x).map fun m => .atomOr h (Spec.ofBits f.d) (Spec.ofBits f.a) (Spec.ofBits f.b) m
  | 0x05 => (MemF.ofWord f.x).map fun m => .atomXor h (Spec.ofBits f.d) (Spec.ofBits f.a) (Spec.ofBits f.b) m
  | 0x06 => (MemF.ofWord f.x).map fun m => .atomExch h (Spec.ofBits f.d) (Spec.ofBits f.a) (Spec.ofBits f.b) m
  | 0x07 => (MemF.ofWord f.x).map fun m => .atomInc h (Spec.ofBits f.d) (Spec.ofBits f.a) (Spec.ofBits f.b) m
  | 0x08 => (MemF.ofWord f.x).map fun m => .atomDec h (Spec.ofBits f.d) (Spec.ofBits f.a) (Spec.ofBits f.b) m
  | 0x09 => (MemF.ofWord f.x).map fun m => .atomCas h (Spec.ofBits f.d) (Spec.ofBits f.a) (Spec.ofBits f.b) m
  | 0x0A => (MemF.ofWord f.x).map fun m => .atomFadd h (Spec.ofBits f.d) (Spec.ofBits f.a) (Spec.ofBits f.b) m
  | 0x0B => (MemF.ofWord f.x).map fun m => .atomFmin h (Spec.ofBits f.d) (Spec.ofBits f.a) (Spec.ofBits f.b) m
  | 0x0C => (MemF.ofWord f.x).map fun m => .atomFmax h (Spec.ofBits f.d) (Spec.ofBits f.a) (Spec.ofBits f.b) m
  | _ => none

/-- The instruction of the fields under OP 0x71. -/
def Fields.build71 (f : Fields) (h : Head) : Option Instr :=
  match f.fn.toNat with
  | 0x00 => (MemF.ofWord f.x).map fun m => .lease h (Spec.ofBits f.d) (Spec.ofBits f.a) (Spec.ofBits f.b) m
  | 0x01 => some (.lend h (Spec.ofBits f.d))
  | _ => none

/-- The instruction of the fields under OP 0x78. -/
def Fields.build78 (f : Fields) (h : Head) : Option Instr :=
  match f.fn.toNat with
  | 0x00 => (Scope.ofCode (f.x.extractLsb' 0 3)).map fun sc => .fenceAcq h sc
  | 0x01 => (Scope.ofCode (f.x.extractLsb' 0 3)).map fun sc => .fenceRel h sc
  | 0x02 => (Scope.ofCode (f.x.extractLsb' 0 3)).map fun sc => .fenceAr h sc
  | 0x03 => (Scope.ofCode (f.x.extractLsb' 0 3)).map fun sc => .fenceSc h sc
  | _ => none

/-- The instruction of the fields under OP 0x79. -/
def Fields.build79 (f : Fields) (h : Head) : Option Instr :=
  match f.fn.toNat with
  | 0x00 => some (.roinv h)
  | 0x01 => some (.cinv h (Spec.ofBits f.a) (Spec.ofBits f.b))
  | 0x02 => some (.cinvDiscard h (Spec.ofBits f.a) (Spec.ofBits f.b))
  | 0x03 => some (.cwb h (Spec.ofBits f.a) (Spec.ofBits f.b))
  | 0x04 => some (.cresize h (Spec.ofBits f.a))
  | _ => none

/-- The instruction of the fields under OP 0x7A. -/
def Fields.build7A (f : Fields) (h : Head) : Option Instr :=
  match f.fn.toNat with
  | 0x00 => some (.bninit h (Spec.ofBits f.a) (Spec.ofBits f.b))
  | 0x01 => some (.bnarr h (Spec.ofBits f.d) (Spec.ofBits f.a))
  | 0x02 => some (.bnwait h (Spec.ofBits f.a) (Spec.ofBits f.b))
  | 0x03 => some (.bntest h (Spec.ofBits f.d) (Spec.ofBits f.a) (Spec.ofBits f.b))
  | _ => none

/-- The instruction of the fields under OP 0x7B. -/
def Fields.build7B (f : Fields) (h : Head) : Option Instr :=
  match f.fn.toNat with
  | 0x00 => (MemF.ofWord f.x).map fun m => .mbarr h (Spec.ofBits f.d) (Spec.ofBits f.a) (Spec.ofBits f.b) m
  | 0x01 => (MemF.ofWord f.x).map fun m => .mbwait h (Spec.ofBits f.a) (Spec.ofBits f.b) m
  | _ => none

/-- The instruction of the fields under OP 0x80. -/
def Fields.build80 (f : Fields) (h : Head) : Option Instr :=
  match f.fn.toNat with
  | 0x00 => some (.cpgo h (Spec.ofBits f.a) (Spec.ofBits f.b))
  | 0x01 => some (.cpstat h (Spec.ofBits f.d) (Spec.ofBits f.a) (Spec.ofBits f.b))
  | _ => none

/-- The instruction of the fields under OP 0x81. -/
def Fields.build81 (f : Fields) (h : Head) : Option Instr :=
  match f.fn.toNat with
  | 0x00 => some (.cvinit h (Spec.ofBits f.d) (Spec.ofBits f.a) (Spec.ofBits f.b))
  | 0x01 => some (.mxsign h (Spec.ofBits f.d) (Spec.ofBits f.a))
  | 0x02 => some (.mxpost h (Spec.ofBits f.d) (Spec.ofBits f.a))
  | 0x03 => some (.mxstat h (Spec.ofBits f.d) (Spec.ofBits f.a))
  | _ => none

/-- The instruction of the fields under OP 0x88. -/
def Fields.build88 (f : Fields) (h : Head) : Option Instr :=
  match f.fn.toNat with
  | 0x00 => some (.msend h (Spec.ofBits f.a) (Spec.ofBits f.b) (f.x.extractLsb' 0 8))
  | _ => none

/-- The instruction of the fields under OP 0x89. -/
def Fields.build89 (f : Fields) (h : Head) : Option Instr :=
  match f.fn.toNat with
  | 0x00 => some (.eqpost h (Spec.ofBits f.a) (Spec.ofBits f.b) (Spec.ofBits (f.x.extractLsb' 0 10)))
  | _ => none

/-- The instruction of the fields under OP 0x8A. -/
def Fields.build8A (f : Fields) (h : Head) : Option Instr :=
  match f.fn.toNat with
  | 0x00 => some (.waitq h (Spec.ofBits f.d))
  | 0x01 => some (.qwave h (Spec.ofBits f.d))
  | _ => none

/-- The instruction of the fields under OP 0x90. -/
def Fields.build90 (f : Fields) (h : Head) : Option Instr :=
  match f.fn.toNat with
  | 0x00 => some (.srd h (Spec.ofBits f.d) (f.x.extractLsb' 0 12))
  | 0x01 => some (.swr h (Spec.ofBits f.a) (f.x.extractLsb' 0 12))
  | _ => none

/-- The instruction of the fields under OP 0x91. -/
def Fields.build91 (f : Fields) (h : Head) : Option Instr :=
  match f.fn.toNat with
  | 0x00 => some (.trets h)
  | _ => none

/-- The instruction of the fields under OP 0x92. -/
def Fields.build92 (f : Fields) (h : Head) : Option Instr :=
  match f.fn.toNat with
  | 0x00 => some (.tlbinv h (Spec.ofBits f.a) (Spec.ofBits f.b) (f.x.extractLsb' 0 2))
  | 0x01 => some (.icinv h)
  | _ => none

/-- The instruction of the fields under OP 0x93. -/
def Fields.build93 (f : Fields) (h : Head) : Option Instr :=
  match f.fn.toNat with
  | 0x00 => some (.rcpflush h (Spec.ofBits f.d) (Spec.ofBits f.a))
  | _ => none

/-- The instruction of the fields under OP 0x94. -/
def Fields.build94 (f : Fields) (h : Head) : Option Instr :=
  match f.fn.toNat with
  | 0x00 => some (.ctxsave h (Spec.ofBits f.d) (Spec.ofBits f.a) (Spec.ofBits f.b))
  | 0x01 => some (.ctxload h (Spec.ofBits f.d) (Spec.ofBits f.a) (Spec.ofBits f.b))
  | _ => none

/-- The instruction of the fields under OP 0x95. -/
def Fields.build95 (f : Fields) (h : Head) : Option Instr :=
  match f.fn.toNat with
  | 0x00 => if f.md.getLsbD 0 then some (.parkRel h (Spec.ofBits f.a)) else some (.park h (Spec.ofBits f.a))
  | 0x01 => some (.halt h (Spec.ofBits f.a))
  | _ => none

/-- The instruction of the fields under OP 0x96. -/
def Fields.build96 (f : Fields) (h : Head) : Option Instr :=
  match f.fn.toNat with
  | 0x00 => some (.stest h (Spec.ofBits f.d) (f.x.extractLsb' 0 8))
  | _ => none

/-- The instruction of the fields under OP 0x97. -/
def Fields.build97 (f : Fields) (h : Head) : Option Instr :=
  match f.fn.toNat with
  | 0x00 => if f.x.getLsbD 0 then some (.setperfSysPermits h (Spec.ofBits f.d) (Spec.ofBits f.a) (Spec.ofBits f.b)) else some (.setperfSysCap h (Spec.ofBits f.d) (Spec.ofBits f.a) (Spec.ofBits f.b))
  | _ => none

/-- The instruction of the fields, before its checks; none where OP or FN is unassigned. -/
def Fields.build (f : Fields) (h : Head) : Option Instr :=
  match f.op.toNat with
  | 0x02 => f.build02 h
  | 0x03 => f.build03 h
  | 0x04 => f.build04 h
  | 0x05 => f.build05 h
  | 0x06 => f.build06 h
  | 0x07 => f.build07 h
  | 0x08 => f.build08 h
  | 0x09 => f.build09 h
  | 0x0A => f.build0A h
  | 0x10 => f.build10 h
  | 0x11 => f.build11 h
  | 0x12 => f.build12 h
  | 0x13 => f.build13 h
  | 0x14 => f.build14 h
  | 0x15 => f.build15 h
  | 0x16 => f.build16 h
  | 0x17 => f.build17 h
  | 0x18 => f.build18 h
  | 0x19 => f.build19 h
  | 0x28 => f.build28 h
  | 0x29 => f.build29 h
  | 0x2A => f.build2A h
  | 0x2B => f.build2B h
  | 0x2C => f.build2C h
  | 0x30 => f.build30 h
  | 0x31 => f.build31 h
  | 0x32 => f.build32 h
  | 0x33 => f.build33 h
  | 0x34 => f.build34 h
  | 0x35 => f.build35 h
  | 0x36 => f.build36 h
  | 0x37 => f.build37 h
  | 0x38 => f.build38 h
  | 0x48 => f.build48 h
  | 0x49 => f.build49 h
  | 0x4A => f.build4A h
  | 0x50 => f.build50 h
  | 0x51 => f.build51 h
  | 0x52 => f.build52 h
  | 0x53 => f.build53 h
  | 0x54 => f.build54 h
  | 0x55 => f.build55 h
  | 0x56 => f.build56 h
  | 0x57 => f.build57 h
  | 0x58 => f.build58 h
  | 0x59 => f.build59 h
  | 0x5A => f.build5A h
  | 0x5B => f.build5B h
  | 0x5C => f.build5C h
  | 0x5D => f.build5D h
  | 0x5E => f.build5E h
  | 0x5F => f.build5F h
  | 0x60 => f.build60 h
  | 0x61 => f.build61 h
  | 0x62 => f.build62 h
  | 0x70 => f.build70 h
  | 0x71 => f.build71 h
  | 0x78 => f.build78 h
  | 0x79 => f.build79 h
  | 0x7A => f.build7A h
  | 0x7B => f.build7B h
  | 0x80 => f.build80 h
  | 0x81 => f.build81 h
  | 0x88 => f.build88 h
  | 0x89 => f.build89 h
  | 0x8A => f.build8A h
  | 0x90 => f.build90 h
  | 0x91 => f.build91 h
  | 0x92 => f.build92 h
  | 0x93 => f.build93 h
  | 0x94 => f.build94 h
  | 0x95 => f.build95 h
  | 0x96 => f.build96 h
  | 0x97 => f.build97 h
  | _ => none

/-- The word of an instruction; none for an event. -/
def encode : Instr → Option IWord
  | .strh wait sa sb len pri => some (headerWord wait sa sb len pri)
  | i => i.fields.map Fields.toWord

/-- The instruction a word is, or why it is none (06 R163, R166). -/
def decodeWord (w : IWord) : Except DecodeError Instr :=
  let f := Fields.ofWord w
  if f.op = 0x00 ∨ f.op = 0xFF then .error .illegalOp
  else if f.op = 0x01 then
    if headerClean w then .ok (headerOf w) else .error .reservedBits
  else
    match VType.ofCode f.ty with
    | none => .error .unassigned
    | some t =>
      match f.build (f.head t) with
      | none => .error .unassigned
      | some i =>
        if i.wf then
          if encode i = some w then .ok i else .error .reservedBits
        else .error .forbidden

/-- The instruction the decoder reads from an opcode-table word: 96 bits, the first byte in bits 7:0
(00 R5). A word given fewer bits has zeros above. -/
def decodeTableWord (nbits w : Nat) : Option Instr :=
  match decodeWord (BitVec.ofNat 96 (w % 2 ^ nbits)) with
  | .ok i => some i
  | .error _ => none

end Sys2Proof
end

