-- ==== Sys2Proof/Config.lean ====
section
/-! DEFINITION. What the spec leaves to one implementation or leaves open: constants without a body
(free values: no proof sees them), and the fixed sizes of the EBY4-1T0 (00 R2). -/

namespace Sys2Proof.Config

/-- A fresh value that the spec leaves open: applied to `State.free`, which the step advances
(log entry 7). -/
opaque freeByte : Nat → Byte
/-- As `freeByte`, one 64-bit word. -/
opaque freeDWord : Nat → DWord

/-- Which value within the stated bound an approximated function of 09 R239 gives: function number,
type code and operand (log entry 8). Only its residue modulo the number of admissible values is
used. -/
opaque approx : Nat → Nat → Nat → Nat

/-- The signature of an attestation report, 22 R445, one byte per position (log entry 9). -/
opaque signature : List Byte → Nat → Byte
/-- The serial number of the device, 22 R445 (log entry 9). -/
opaque serial : Nat → Byte
/-- The fused minimum security version, 22 R443, R445 (log entry 9). -/
opaque securityVersion : Nat → Byte
/-- The attestation public key, and the certificates of a report, 22 R445: measurement 0 and position
(log entry 9). -/
opaque attestationKey : List Byte → Nat → Byte
opaque certificate : List Byte → Nat → Byte
/-- Bytes of certificates in a report (log entry 9). -/
opaque certificateLength : Nat → Nat
/-- What the loader's translator writes for a portable section, 07 R185: source bytes and position
(log entry 9). -/
opaque translated : List Byte → Nat → Byte
/-- How many fetch blocks the translator writes for a function, less one (log entry 9). -/
opaque translatedBlocks : List Byte → Nat

/-- Where in the blocks that the translator writes for a source the code of a loop or a tile stands: source and offset in it,
to a slot number (log entry 9). -/
opaque translatedSlot : List Byte → Nat → Nat
/-- The values of a container's shape parameters when the translator binds its tiles, 07 R187: which load, and the parameter's
number (log entry 9). -/
opaque shapeParam : Nat → Nat → Int

/-- Which of the 32,768 words of an FP64 accumulator tile stands at a place of its two tiles, and at which place a word
stands (log entry 16). Only the residues modulo 32,768 are used. -/
opaque wideWord : Nat → Nat
opaque widePlace : Nat → Nat

/-- Clusters of the device, 00 R2. -/
def clusters : Nat := 192
/-- Cores of the device, 00 R2. -/
def cores : Nat := 768
/-- Row-register entries of a partition, 02 R55. -/
def poolEntries : Nat := 2048
/-- Entries of the reserve, 02 R56. -/
def reserveEntries : Nat := 64
/-- Descriptors of a partition's recipe store, 02 R63. -/
def recipeStore : Nat := 1024
/-- Eligible registers a thread holds at most, 02 R62. -/
def eligMax : Nat := 32
/-- Instructions a lane's loop buffer holds, 01 R29. -/
def loopBuffer : Nat := 48
/-- Partition cycles after which a ready thread is starved, 01 R23. -/
def starveCycles : Nat := 4096
/-- Shadow buffers of a core, 11 R283. -/
def shadowBuffers : Nat := 8
/-- Probe queue entries of a core, 11 R283. -/
def probeEntries : Nat := 32

end Sys2Proof.Config
end

