-- ==== Sys2Proof/Machine/Float.lean ====
section
/-! DEFINITION. Number formats and rounding (03 R79 to R97): a float value as sign, integer and power of
two, an exact result as a fraction, RoundTo with its flags, and the exact operations of 09 R235 to
R239 that the arithmetic, conversion, affine and matrix rules round. -/

namespace Sys2Proof.Fp

/-- fflg bits of 02 R53. -/
abbrev Flags := BitVec 5
/-- invalid operation -/
def NV : Flags := 16
/-- division by zero -/
def DZ : Flags := 8
/-- overflow -/
def OF : Flags := 4
/-- underflow -/
def UF : Flags := 2
/-- inexact -/
def NX : Flags := 1

/-- How the all-ones exponent reads (03 R80). -/
inductive Top where
  /-- ∞ and NaN as IEEE has them -/
  | ieee
  /-- ordinary but for one NaN code, the fraction all ones -/
  | oneNaN
  /-- ordinary throughout -/
  | ordinary
  deriving DecidableEq, Repr

/-- A float format (03 R80): exponent bits, fraction bits, bias, top exponent. -/
structure Fmt where
  e : Nat
  m : Nat
  bias : Nat
  top : Top
  deriving DecidableEq, Repr

def f64 : Fmt := ⟨11, 52, 1023, .ieee⟩
def f32 : Fmt := ⟨8, 23, 127, .ieee⟩
/-- F19 as its 19 bits; the register container holds them in bits 31:13 (03 R78). -/
def f19 : Fmt := ⟨8, 10, 127, .ieee⟩
def bf16 : Fmt := ⟨8, 7, 127, .ieee⟩
def f16 : Fmt := ⟨5, 10, 15, .ieee⟩
def e5m2 : Fmt := ⟨5, 2, 15, .ieee⟩
def e4m3 : Fmt := ⟨4, 3, 7, .oneNaN⟩
def e3m4 : Fmt := ⟨3, 4, 3, .oneNaN⟩
def e3m2 : Fmt := ⟨3, 2, 3, .ordinary⟩
def e2m3 : Fmt := ⟨2, 3, 1, .ordinary⟩
def e2m1 : Fmt := ⟨2, 1, 1, .ordinary⟩

/-- Bits of an encoding. -/
def Fmt.width (f : Fmt) : Nat := 1 + f.e + f.m
/-- The encoding of the largest finite magnitude, sign aside (03 R80). -/
def Fmt.maxEnc (f : Fmt) : Nat :=
  match f.top with
  | .ieee => (2 ^ f.e - 1) * 2 ^ f.m - 1
  | .oneNaN => 2 ^ (f.e + f.m) - 2
  | .ordinary => 2 ^ (f.e + f.m) - 1
/-- The canonical NaN, where the format has one (03 R80). -/
def Fmt.nan (f : Fmt) : Option Nat :=
  match f.top with
  | .ieee => some ((2 ^ f.e - 1) * 2 ^ f.m + 2 ^ (f.m - 1))
  | .oneNaN => some (2 ^ (f.e + f.m) - 1)
  | .ordinary => none
/-- The encoding of +∞; used only where the format has one. -/
def Fmt.inf (f : Fmt) : Nat := (2 ^ f.e - 1) * 2 ^ f.m
/-- The sign bit's weight. -/
def Fmt.signBit (f : Fmt) : Nat := 2 ^ (f.e + f.m)
/-- The exponent of the smallest normal number. -/
def Fmt.emin (f : Fmt) : Int := 1 - (f.bias : Int)

/-- A float value: NaN (signalling or quiet), ∞, or (−1)^neg × m × 2^e. -/
inductive Val where
  | nan (sig : Bool)
  | inf (neg : Bool)
  | fin (neg : Bool) (m : Nat) (e : Int)
  deriving DecidableEq, Repr

/-- The value of an encoding (03 R79, R80). -/
def decode (f : Fmt) (bits : Nat) : Val :=
  let neg := bits.testBit (f.e + f.m)
  let ex := bits / 2 ^ f.m % 2 ^ f.e
  let t := bits % 2 ^ f.m
  if f.top = .ieee ∧ ex = 2 ^ f.e - 1 then
    if t = 0 then .inf neg else .nan (f.m > 1 && !t.testBit (f.m - 1))
  else if f.top = .oneNaN ∧ ex = 2 ^ f.e - 1 ∧ t = 2 ^ f.m - 1 then .nan false
  else if ex = 0 then .fin neg t (f.emin - f.m)
  else .fin neg (2 ^ f.m + t) ((ex : Int) - f.bias - f.m)

/-- Whether an encoding is a subnormal number of the format. -/
def isSub (f : Fmt) (bits : Nat) : Bool :=
  bits / 2 ^ f.m % 2 ^ f.e == 0 && bits % 2 ^ f.m != 0

/-- An encoding with a subnormal read as zero of its sign (03 R96). -/
def flushIn (f : Fmt) (ftz : Bool) (bits : Nat) : Nat :=
  if ftz && isSub f bits then bits / f.signBit % 2 * f.signBit else bits

/-- Rounding modes (03 R90); `sr` carries its draw r (R94). -/
inductive Rnd where
  | rn | rz | ru | rd | rna | sr (r : Nat)
  deriving DecidableEq, Repr

/-- An exact result before rounding: its kind, with the flags its operands raised. A number is
(−1)^neg × n ÷ d. -/
inductive Ex where
  | nan
  | inf (neg : Bool)
  | num (neg : Bool) (n d : Nat)
  deriving DecidableEq, Repr

/-- The exact result with the flags raised so far. -/
structure Res where
  x : Ex
  fl : Flags := 0
  deriving DecidableEq, Repr

/-- m × 2^e as a fraction. -/
def frac (m : Nat) (e : Int) : Nat × Nat :=
  if e ≥ 0 then (m * 2 ^ e.toNat, 1) else (m, 2 ^ (-e).toNat)

/-- A finite value as an exact result. -/
def Val.ex : Val → Ex
  | .nan _ => .nan
  | .inf s => .inf s
  | .fin s m e => .num s (frac m e).1 (frac m e).2

/-- ⌊log2 (n ÷ d)⌋ for positive n and d. -/
def floorLog2 (n d : Nat) : Int :=
  let l : Int := (Nat.log2 n : Int) - (Nat.log2 d : Int)
  let le2 (k : Int) : Bool := if k ≥ 0 then decide (d * 2 ^ k.toNat ≤ n) else decide (d ≤ n * 2 ^ (-k).toNat)
  if le2 l then l else l - 1

/-- n ÷ d ÷ 2^q as a fraction. -/
def scale (n d : Nat) (q : Int) : Nat × Nat :=
  if q ≥ 0 then (n, d * 2 ^ q.toNat) else (n * 2 ^ (-q).toNat, d)

/-- Whether rounding k + r ÷ d (0 ≤ r < d) goes away from zero (03 R90, R94). -/
def roundUp (mode : Rnd) (neg : Bool) (k r d : Nat) : Bool :=
  match mode with
  | .rn => decide (d < 2 * r) || (2 * r == d && k % 2 == 1)
  | .rz => false
  | .ru => !neg && r != 0
  | .rd => neg && r != 0
  | .rna => r != 0 && decide (d ≤ 2 * r)
  | .sr rr => decide (rr < r * 65536 / d)

/-- The result of an overflow (03 R91), sign aside. -/
def overflowEnc (f : Fmt) (mode : Rnd) (sat neg : Bool) : Nat :=
  let toInf := match mode with
    | .rz => false
    | .ru => !neg
    | .rd => neg
    | _ => true
  if sat then f.maxEnc
  else match f.top with
    | .ieee => if toInf then f.inf else f.maxEnc
    | .oneNaN => if toInf then (f.nan).getD 0 else f.maxEnc
    | .ordinary => f.maxEnc

/-- RoundTo for a number (03 R90 to R92): the encoding and the flags. -/
def roundNum (f : Fmt) (mode : Rnd) (sat neg : Bool) (n d : Nat) : Nat × Flags :=
  let sgn := if neg then f.signBit else 0
  if n = 0 then (sgn, 0) else
  let l := floorLog2 n d
  let q := (if l < f.emin then f.emin else l) - f.m
  let s := scale n d q
  let k := s.1 / s.2
  let r := s.1 % s.2
  let k' := if roundUp mode neg k r s.2 then k + 1 else k
  let enc := if k' < 2 ^ f.m then k' else ((q + f.m + f.bias).toNat) * 2 ^ f.m + (k' - 2 ^ f.m)
  if enc > f.maxEnc then
    (let o := overflowEnc f mode sat neg
     if f.top = .oneNaN ∧ some o = f.nan then o else sgn + o, OF ||| NX)
  else
    (sgn + enc, if r = 0 then 0 else if l < f.emin then UF ||| NX else NX)

/-- RoundTo with the special results of 03 R91 to R93, flags of the operands included. -/
def roundTo (f : Fmt) (mode : Rnd) (sat : Bool) (r : Res) : Nat × Flags :=
  match r.x with
  | .nan => match f.nan with
      | some c => (c, r.fl)
      | none => (0, r.fl ||| NV)
  | .inf neg =>
      if f.top = .ieee ∧ sat = false then ((if neg then f.signBit else 0) + f.inf, r.fl)
      else if f.top = .oneNaN ∧ sat = false then ((f.nan).getD 0, r.fl ||| NV)
      else ((if neg then f.signBit else 0) + f.maxEnc, r.fl ||| NV)
  | .num neg n d => let o := roundNum f mode sat neg n d; (o.1, r.fl ||| o.2)

/-- An f32 encoding as f64, exactly: the bits of a NaN too, so that a signalling one stays one (DESIGN CHOICE, log
entry 49). -/
def widen32 (bits : Nat) : Nat :=
  match decode f32 bits with
  | .nan _ => bits / 2 ^ 31 % 2 * 2 ^ 63 + 0x7FF * 2 ^ 52 + bits % 2 ^ 23 * 2 ^ 29
  | v => (roundTo f64 .rn false ⟨v.ex, 0⟩).1

/-- The flush of a subnormal result (03 R96). -/
def flushOut (f : Fmt) (ftz : Bool) (o : Nat × Flags) : Nat × Flags :=
  if ftz && isSub f o.1 then (o.1 / f.signBit % 2 * f.signBit, o.2 ||| UF ||| NX) else o

/-- NV where an operand is a signalling NaN (03 R92). -/
def sigFl : Val → Flags
  | .nan true => NV
  | _ => 0

def Val.isNaN : Val → Bool
  | .nan _ => true
  | _ => false

def Val.neg : Val → Val
  | .nan s => .nan s
  | .inf s => .inf (!s)
  | .fin s m e => .fin (!s) m e

/-- The signed numerator of a value over 2^t, for t at or below its exponent. -/
def signedAt (neg : Bool) (m : Nat) (e t : Int) : Int :=
  let v : Int := (m * 2 ^ (e - t).toNat : Nat)
  if neg then -v else v

/-- Sum of two finite values, exact; a zero sum of opposite signs is +0, or −0 in RD (03 R90). -/
def sumEx (rd : Bool) (sa : Bool) (ma : Nat) (ea : Int) (sb : Bool) (mb : Nat) (eb : Int) : Ex :=
  if ma = 0 ∧ mb = 0 then .num (if sa = sb then sa else rd) 0 1
  else
    let t := if ea ≤ eb then ea else eb
    let v := signedAt sa ma ea t + signedAt sb mb eb t
    if v = 0 then .num rd 0 1
    else let f := frac v.natAbs t; .num (decide (v < 0)) f.1 f.2

/-- a + b (09 R235). -/
def add (rd : Bool) (a b : Val) : Res :=
  let fl := sigFl a ||| sigFl b
  match a, b with
  | .nan _, _ | _, .nan _ => ⟨.nan, fl⟩
  | .inf s, .inf t => if s = t then ⟨.inf s, fl⟩ else ⟨.nan, fl ||| NV⟩
  | .inf s, _ => ⟨.inf s, fl⟩
  | _, .inf s => ⟨.inf s, fl⟩
  | .fin sa ma ea, .fin sb mb eb => ⟨sumEx rd sa ma ea sb mb eb, fl⟩

/-- a × b as a value, with ∞ × 0 a NaN (09 R235). -/
def mulVal (a b : Val) : Val × Flags :=
  let fl := sigFl a ||| sigFl b
  match a, b with
  | .nan _, _ | _, .nan _ => (.nan false, fl)
  | .inf s, .inf t => (.inf (s != t), fl)
  | .inf s, .fin t m _ => if m = 0 then (.nan false, fl ||| NV) else (.inf (s != t), fl)
  | .fin t m _, .inf s => if m = 0 then (.nan false, fl ||| NV) else (.inf (s != t), fl)
  | .fin s m e, .fin t n f => (.fin (s != t) (m * n) (e + f), fl)

/-- a × b (09 R235). -/
def mul (a b : Val) : Res := let p := mulVal a b; ⟨p.1.ex, p.2⟩

/-- a × b + c, rounded once (09 R235). -/
def fma (rd : Bool) (a b c : Val) : Res :=
  let p := mulVal a b
  let r := add rd p.1 c
  ⟨r.x, r.fl ||| p.2⟩

/-- a ÷ b (09 R235). -/
def div (a b : Val) : Res :=
  let fl := sigFl a ||| sigFl b
  match a, b with
  | .nan _, _ | _, .nan _ => ⟨.nan, fl⟩
  | .inf _, .inf _ => ⟨.nan, fl ||| NV⟩
  | .inf s, .fin t _ _ => ⟨.inf (s != t), fl⟩
  | .fin s _ _, .inf t => ⟨.num (s != t) 0 1, fl⟩
  | .fin s m e, .fin t n f =>
      if n = 0 then (if m = 0 then ⟨.nan, fl ||| NV⟩ else ⟨.inf (s != t), fl ||| DZ⟩)
      else
        let q := frac m (e - f)
        ⟨.num (s != t) q.1 (q.2 * n), fl⟩

/-- A fraction that rounds as √(n ÷ d) does in every format of at most 60 fraction bits: exact where
the root is rational with denominator 2^p, else strictly between the multiples of 2^−p around the
root, p being large. -/
def sqrtFrac (n d : Nat) : Nat × Nat :=
  let p := 64 + ((floorLog2 d n).toNat + 1)
  let num := n * 2 ^ (2 * p)
  let r := isqrt (num / d)
  if r * r * d = num then (r, 2 ^ p) else (2 * r + 1, 2 ^ (p + 1))

/-- √a (09 R235). -/
def sqrt (a : Val) : Res :=
  match a with
  | .nan _ => ⟨.nan, sigFl a⟩
  | .inf s => if s then ⟨.nan, NV⟩ else ⟨.inf false, 0⟩
  | .fin s m e =>
      if m = 0 then ⟨.num s 0 1, 0⟩
      else if s then ⟨.nan, NV⟩
      else
        let f := frac m e
        let q := sqrtFrac f.1 f.2
        ⟨.num false q.1 q.2, 0⟩

/-- a × 2^b (09 R235): ±0, ±∞ and NaN return a. -/
def scaleB (a : Val) (b : Int) : Res :=
  match a with
  | .fin s m e =>
      -- beyond any format's range the result rounds alike, so b is cut to keep the numbers small
      let b' := if b > 4096 then 4096 else if b < -4096 then -4096 else b
      let f := frac m (e + b')
      ⟨.num s f.1 f.2, 0⟩
  | v => ⟨v.ex, sigFl v⟩

/-- The order of two values, NaN aside: −0 equals +0. -/
def lt (a b : Val) : Bool :=
  match a, b with
  | .inf s, .inf t => s && !t
  | .inf s, .fin _ _ _ => s
  | .fin _ _ _, .inf t => !t
  | .fin s m e, .fin t n f =>
      let k := if e ≤ f then e else f
      decide (signedAt s m e k < signedAt t n f k)
  | _, _ => false

/-- Equality of two values, NaN aside: −0 equals +0. -/
def eq (a b : Val) : Bool := !a.isNaN && !b.isNaN && !lt a b && !lt b a

def signOf : Val → Bool
  | .nan _ => false
  | .inf s => s
  | .fin s _ _ => s

/-- −0 below +0, else the order (03 R97). -/
def ltZ (a b : Val) : Bool := lt a b || (eq a b && signOf a && !signOf b)

/-- FMIN and FMAX (03 R97) on encodings: `mx` for the greater, `nanForm` for .nan. -/
def minMax (f : Fmt) (mx nanForm : Bool) (x y : Nat) : Nat × Flags :=
  let a := decode f x
  let b := decode f y
  let fl := sigFl a ||| sigFl b
  let cn := (f.nan).getD 0
  if a.isNaN && b.isNaN then (cn, fl)
  else if a.isNaN then (if nanForm then cn else y, fl)
  else if b.isNaN then (if nanForm then cn else x, fl)
  else if mx then (if ltZ a b then y else x, fl) else (if ltZ b a then y else x, fl)

/-- The class of 09 R237. -/
def classOf (f : Fmt) (bits : Nat) : Nat :=
  match decode f bits with
  | .inf s => if s then 0 else 7
  | .nan sg => if sg then 8 else 9
  | .fin s m _ =>
      if m = 0 then (if s then 3 else 4)
      else if isSub f bits then (if s then 2 else 5)
      else (if s then 1 else 6)

/-- Rounding to an integer (03 R95): sign, n ÷ d. -/
def roundInt (mode : Rnd) (neg : Bool) (n d : Nat) : Int × Bool :=
  let k := n / d
  let r := n % d
  let k' := if roundUp mode neg k r d then k + 1 else k
  (if neg then -(k' : Int) else (k' : Int), r != 0)

/-- Conversion to an integer type of `w` bits (03 R91, R92, R95): the value and the flags. -/
def toIntType (signed : Bool) (w : Nat) (mode : Rnd) (r : Res) : Int × Flags :=
  let lo : Int := if signed then -(2 ^ (w - 1) : Int) else 0
  let hi : Int := if signed then (2 ^ (w - 1) : Int) - 1 else (2 ^ w : Int) - 1
  match r.x with
  | .nan => (0, NV)
  | .inf neg => (if neg then lo else hi, NV)
  | .num neg n d =>
      let v := roundInt mode neg n d
      if v.1 < lo then (lo, NV) else if v.1 > hi then (hi, NV)
      else (v.1, r.fl ||| (if v.2 then NX else 0))

/-! ### Approximated functions, 09 R239 -/

/-- π × 2^420, rounded down. -/
def piN : Nat := 0x3243f6a8885a308d313198a2e03707344a4093822299f31d0082efa98ec4e6c89452821e638d01377be5466cf34e90c6cc0ac29b7c
/-- ln 2 × 2^420, rounded down. -/
def ln2N : Nat := 0xb17217f7d1cf79abc9e3b39803f2f6af40f343267298b62d8a0d175b8baafa2be7b876206debac98559552fb4afa1b10ed2eae35c
/-- The fixed-point unit of the functions below. -/
def one : Nat := 2 ^ 420

/-- The terms y^i ÷ i! from term `i` on, in units of 2^−420: `n` of them, summed. -/
def expSeries : Nat → Nat → Nat → Nat → Nat → Nat
  | 0, _, _, _, acc => acc
  | n + 1, y, i, t, acc => expSeries n y (i + 1) (t * y / one / (i + 1)) (acc + t)

/-- The terms z^(2k+1) ÷ (2k+1), in units of 2^−420, summed. -/
def atanhSeries : Nat → Nat → Nat → Nat → Nat → Nat
  | 0, _, _, _, acc => acc
  | n + 1, z2, k, t, acc => atanhSeries n z2 (k + 2) (t * z2 / one) (acc + t / k)

/-- The alternating terms of sine or cosine from term `i` on, in units of 2^−420, summed. -/
def trigSeries : Nat → Nat → Nat → Nat → Int → Int → Int
  | 0, _, _, _, _, acc => acc
  | n + 1, y2, i, t, sg, acc =>
      trigSeries n y2 (i + 2) (t * y2 / one / ((i + 1) * (i + 2))) (-sg) (acc + sg * (t : Int))

/-- 2^t for t in units of 2^−420: a number in the same units below 2, and a power of two. -/
def exp2Fix (t : Int) : Nat × Int :=
  let i := t / (one : Int)
  let f := (t % (one : Int)).toNat
  (expSeries 110 (f * ln2N / one) 0 one 0, i)

/-- log2 (n ÷ d) in units of 2^−420. -/
def log2Fix (n d : Nat) : Int :=
  let l := floorLog2 n d
  let s := scale n d l
  let m := s.1 * one / s.2
  let z := (m - one) * one / (m + one)
  let ln := 2 * atanhSeries 140 (z * z / one) 1 z 0
  l * (one : Int) + ((ln * one / ln2N : Nat) : Int)

/-- Sine (`quarter` 0) or cosine (`quarter` 1) of n ÷ d, the argument reduced by π itself, in units of
2^−420. -/
def sinFix (quarter n d : Nat) : Int :=
  let x := n * one / d
  let k := 2 * x / piN
  let r := (2 * x - k * piN) / 2
  let y2 := r * r / one
  let q := (k + quarter) % 4
  let v := if q % 2 = 0 then trigSeries 90 y2 1 r 1 0 else trigSeries 90 y2 0 one 1 0
  if q < 2 then v else -v

/-- tanh (n ÷ d) as a fraction. -/
def tanhFrac (n d : Nat) : Nat × Nat :=
  if n > 64 * d then (2 ^ 200 - 1, 2 ^ 200)
  else
    let e := exp2Fix (((2 * n * one / d) * one / ln2N : Nat) : Int)
    let v := e.1 * 2 ^ e.2.toNat
    (v - one, v + one)

/-- a − a³ ÷ k for a = n ÷ d: the sine (k = 6) or hyperbolic tangent (k = 3) of a number below 2^−64, past the precision of
the series. -/
def cubicFrac (k n d : Nat) : Nat × Nat := (k * n * (d * d) - n * (n * n), k * (d * (d * d)))

/-- The encodings near n ÷ d that lie within `bound` ulps of it (09 R239); below a power of two they lie half as far
apart. -/
def within (f : Fmt) (bound n d : Nat) : List Nat :=
  let lo := (roundNum f .rz false false n d).1
  let l := floorLog2 n d
  let q := (if l < f.emin then f.emin else l) - f.m
  let x := scale n d q
  let near (c : Nat) : Bool :=
    match decode f c with
    | .fin _ m e =>
        let v := scale (frac m e).1 (frac m e).2 q
        let a := v.1 * x.2
        let b := x.1 * v.2
        decide ((if a ≤ b then b - a else a - b) ≤ bound * (x.2 * v.2))
    | _ => false
  ([lo - 4, lo - 3, lo - 2, lo - 1, lo, lo + 1, lo + 2].filter fun c => decide (c ≤ f.maxEnc) && near c).eraseDups

/-- A value within the bound (09 R239): which one is a free choice of the implementation, a function
of the operand bits alone. -/
def pick (f : Fmt) (bound fn ty bits : Nat) (neg : Bool) (n d : Nat) : Nat × Flags :=
  let rn := roundNum f .rn false neg n d
  if rn.2 &&& OF ≠ 0 then rn
  else
    let c := within f bound n d
    let sgn := if neg then f.signBit else 0
    (sgn + c.getD (Config.approx fn ty bits % c.length) (rn.1 % f.signBit),
     NX ||| (if floorLog2 n d < f.emin then UF else 0))

/-- Whether a positive number m × 2^e is a power of two, and of which exponent. -/
def pow2Of (m : Nat) (e : Int) : Option Int :=
  if m ≠ 0 ∧ 2 ^ Nat.log2 m = m then some ((Nat.log2 m : Int) + e) else none

/-- The approximated functions of 09 R239 by number: 0 FRCP, 1 FRSQ, 2 FEXP2, 3 FLOG2, 4 FSIN, 5 FCOS,
6 FTANH, on an encoding of the format. FRCP, FRSQ and FLOG2 of ∞, which the rule does not name, are the limits there, with no
flag (DESIGN CHOICE, log entry 65). -/
def approxFn (fn ty : Nat) (f : Fmt) (bits : Nat) : Nat × Flags :=
  let bound := if fn ≤ 1 then 1 else if f.m = 10 then 1 else 2
  let a := decode f bits
  let exact (r : Res) := roundTo f .rn false r
  let signed (v : Int) : Nat × Flags :=
    if v = 0 then exact ⟨.num false 0 1, 0⟩
    else pick f bound fn ty bits (decide (v < 0)) v.natAbs one
  match a with
  | .nan _ => exact ⟨.nan, sigFl a⟩
  | .inf s =>
      match fn with
      | 0 => exact ⟨.num s 0 1, 0⟩
      | 1 => if s then exact ⟨.nan, NV⟩ else exact ⟨.num false 0 1, 0⟩
      | 2 => if s then exact ⟨.num false 0 1, 0⟩ else exact ⟨.inf false, 0⟩
      | 3 => if s then exact ⟨.nan, NV⟩ else exact ⟨.inf false, 0⟩
      | 6 => exact ⟨.num s 1 1, 0⟩
      | _ => exact ⟨.nan, NV⟩
  | .fin s m e =>
      if m = 0 then
        match fn with
        | 0 => exact ⟨.inf s, DZ⟩
        | 1 => exact ⟨.inf s, DZ⟩
        | 2 => exact ⟨.num false 1 1, 0⟩
        | 3 => exact ⟨.inf true, DZ⟩
        | 5 => exact ⟨.num false 1 1, 0⟩
        | _ => exact ⟨.num s 0 1, 0⟩
      else
        let q := frac m e
        let tiny := decide (q.1 * 2 ^ 64 ≤ q.2)
        match fn with
        | 0 =>
            match pow2Of m e with
            | some _ => exact ⟨.num s q.2 q.1, 0⟩
            | none => pick f bound fn ty bits s q.2 q.1
        | 1 =>
            if s then exact ⟨.nan, NV⟩
            else
              let r := sqrtFrac q.2 q.1
              match pow2Of m e with
              | some k => if k % 2 = 0 then exact ⟨.num false r.1 r.2, 0⟩ else pick f bound fn ty bits false r.1 r.2
              | none => pick f bound fn ty bits false r.1 r.2
        | 2 =>
            -- beyond ±2^12 the result overflows or underflows alike
            let big := decide (4096 * q.2 ≤ q.1)
            let x : Int := if big then (4096 * one : Nat) else ((q.1 * one / q.2 : Nat) : Int)
            if q.1 % q.2 = 0 then
              let i : Int := if big then 4096 else ((q.1 / q.2 : Nat) : Int)
              let v := frac 1 (if s then -i else i)
              exact ⟨.num false v.1 v.2, 0⟩
            else
              let r := exp2Fix (if s then -x else x)
              let v := frac r.1 (r.2 - 420)
              pick f bound fn ty bits false v.1 v.2
        | 3 =>
            if s then exact ⟨.nan, NV⟩
            else match pow2Of m e with
              | some k => exact ⟨.num (decide (k < 0)) k.natAbs 1, 0⟩
              | none => signed (log2Fix q.1 q.2)
        | 4 =>
            if tiny then let v := cubicFrac 6 q.1 q.2; pick f bound fn ty bits s v.1 v.2
            else let v := sinFix 0 q.1 q.2; signed (if s then -v else v)
        | 5 => signed (sinFix 1 q.1 q.2)
        | _ => let v := if tiny then cubicFrac 3 q.1 q.2 else tanhFrac q.1 q.2; pick f bound fn ty bits s v.1 v.2

end Sys2Proof.Fp
end

