-- ==== Sys2Proof/Machine/Formats.lean ====
section
/-! DEFINITION. The element and scale formats of the matrix operands (03 R81 to R86), the format slot
descriptor (R88, R89), and the quantiser of variable blocks (R87). -/

namespace Sys2Proof.Fp

/-- An element format: a float format, or an integer of a width (03 R82). -/
inductive Elem where
  | flt (f : Fmt)
  | int (signed : Bool) (w : Nat)
  deriving DecidableEq, Repr

/-- The element of a format code of 03 R82. -/
def elemOf (c : Nat) : Elem :=
  match c with
  | 0 => .flt f64 | 1 => .flt f32 | 2 => .flt f19 | 3 => .flt bf16 | 4 => .flt f16 | 5 => .flt e5m2
  | 6 => .flt e4m3 | 7 => .flt e3m4 | 8 => .flt e3m2 | 9 => .flt e2m3 | 10 => .flt e2m1
  | 11 => .int true 16 | 12 => .int true 8 | 13 => .int false 8 | 14 => .int true 4 | 15 => .int false 4
  | 16 => .flt e4m3 | 17 => .flt e5m2 | 18 => .flt e3m2 | 19 => .flt e2m3 | 20 => .flt e2m1
  | 21 => .flt e2m1 | 22 => .flt e2m1 | _ => .int true 4

/-- Bits an element takes in its stream; F19 sits in 32 (03 R82). -/
def elemWidth (c : Nat) : Nat :=
  if c = 2 then 32 else match elemOf c with
    | .flt f => f.width
    | .int _ w => w

/-- SCHEME of the format code's row (03 R82): 0 unscaled, 1 fixed 32, 2 fixed 16, 3 variable. -/
def schemeOf (c : Nat) : Nat := if c < 16 then 0 else if c < 21 then 1 else if c = 21 then 2 else 3

/-- SFMT of the format code's row (03 R82, R88). -/
def sfmtOf (c : Nat) : Nat := if c < 16 then 0 else if c = 21 then 2 else 1

/-- The native tile depth K of the format code (03 R82). -/
def tileK (c : Nat) : Nat :=
  match c with
  | 0 => 16 | 1 => 32 | 2 => 64 | 3 | 4 | 11 => 128 | 5 | 6 | 7 | 12 | 13 | 16 | 17 => 256 | _ => 512

/-- Whether a format's negative zero reads as +0: FP6, FP4 and the scaled formats (03 R84). -/
def negZeroPlus (c : Nat) : Bool := decide (8 ≤ c) && decide (c ≤ 10) || decide (16 ≤ c)

/-- The value of an element's bits, scale aside (03 R83, R84). -/
def elemVal (c bits : Nat) : Val :=
  match elemOf c with
  | .flt f =>
      match decode f (if c = 2 then bits / 2 ^ 13 else bits) with
      | .fin s m e => if m = 0 ∧ negZeroPlus c then .fin false 0 e else .fin s m e
      | v => v
  | .int sg w =>
      let b := bits % 2 ^ w
      if sg && b.testBit (w - 1) then .fin true (2 ^ w - b) 0 else .fin false b 0

/-- RoundTo an element format: its bits in the stream, and the flags. -/
def elemRound (c : Nat) (mode : Rnd) (sat : Bool) (r : Res) : Nat × Flags :=
  match elemOf c with
  | .flt f =>
      let o := roundTo f mode sat r
      (if c = 2 then o.1 * 2 ^ 13 else o.1, o.2)
  | .int sg w =>
      let o := toIntType sg w mode r
      ((o.1 % (2 ^ w : Int)).toNat, o.2)

/-- A scale byte (03 R81): E8M0 for SFMT 1, E4M3 with its sign ignored for SFMT 2. -/
def scaleVal (sfmt b : Nat) : Val :=
  if sfmt = 2 then decode e4m3 (b % 128)
  else if b % 256 = 255 then .nan false else .fin false 1 ((b % 256 : Nat) - 127 : Int)

/-- A format slot descriptor, 03 R88. -/
structure Slot where
  fmt : Nat
  rm : Nat
  sat : Bool
  t : Nat
  scheme : Nat
  sfmt : Nat
  estride : Nat
  bstride : Nat
  sstride : Nat
  boff : Int
  soff : Int
  word0 : Word
  deriving DecidableEq, Repr

/-- The descriptor of 32 bytes (03 R88). -/
def Slot.ofBytes (b : List Byte) : Slot :=
  let n := leNat b
  let f (lo w : Nat) := n / 2 ^ lo % 2 ^ w
  ⟨f 0 5, f 8 4, f 12 1 == 1, f 16 4, f 20 4, f 24 4, f 32 32, f 64 32, f 96 32,
   (BitVec.ofNat 64 (f 128 64)).toInt, (BitVec.ofNat 64 (f 192 64)).toInt, BitVec.ofNat 32 n⟩

/-- Whether a valid slot is malformed (03 R89). -/
def Slot.malformed (s : Slot) : Bool :=
  let w := s.word0.toNat
  decide (s.fmt > 23) || s.scheme != schemeOf s.fmt || s.sfmt != sfmtOf s.fmt
  || (s.t != 0 && s.scheme != 3) || decide (s.rm > 5) || (s.rm == 5 && decide (elemWidth s.fmt > 8))
  || ((s.boff != 0 || s.bstride != 0) && s.scheme != 3)
  || ((s.soff != 0 || s.sstride != 0) && s.scheme == 0)
  || s.estride % 32 != 0 || s.bstride % 32 != 0 || s.sstride % 32 != 0
  || s.boff % 32 != 0 || s.soff % 32 != 0
  || w / 2 ^ 28 != 0 || w / 2 ^ 13 % 8 != 0 || w / 2 ^ 5 % 8 != 0

/-- The slot's rounding mode with its draw for SR (03 R88). -/
def Slot.rnd (s : Slot) (r : Nat) : Rnd :=
  match s.rm with
  | 0 => .rn | 1 => .rz | 2 => .ru | 3 => .rd | 4 => .rna | _ => .sr r

/-- x times a scale (03 R84); a signalling NaN stays one, so that what reads the value records it (03 R92, R100). -/
def timesScale (v sc : Val) : Val :=
  match v with
  | .nan s => .nan s
  | _ => (mulVal v sc).1

/-- The value of a variable-block code with its block's side word (03 R86). R84's rule that a negative zero element has value
+0 is read as one about element codes: a special byte of 0x80 keeps its sign, −0 (DESIGN CHOICE, log entry 49). -/
def vblkVal (c code side : Nat) : Val :=
  let sc := scaleVal 1 (side / 256 % 256)
  if c = 22 ∧ code % 16 = 8 then timesScale (decode e4m3 (side % 256)) sc
  else timesScale (elemVal c (code % 16)) sc

/-- Element `i` of a packed row (03 R83): bits `w·i + w − 1` to `w·i` of the little-endian stream. -/
def elemAt (w : Nat) (row : List Byte) (i : Nat) : Nat :=
  let lo := w * i
  leNat ((row.drop (lo / 8)).take (w / 8 + 2)) / 2 ^ (lo % 8) % 2 ^ w

/-- A row of elements packed (03 R83). -/
def packRow (w : Nat) (es : List Nat) : List Byte :=
  let n := es.foldr (fun e acc => e % 2 ^ w + 2 ^ w * acc) 0
  leBytes ((w * es.length + 7) / 8) n

/-! ### Quantising a row into variable blocks, 03 R87 -/

/-- |x| as a fraction, 0 for NaN and ∞. -/
def magOf (v : Val) : Nat × Nat :=
  match v with
  | .fin _ m e => frac m e
  | _ => (0, 1)

def leFrac (a b : Nat × Nat) : Bool := decide (a.1 * b.2 ≤ b.1 * a.2)

/-- a > b × 2^t. -/
def aboveBy (a b : Nat × Nat) (t : Nat) : Bool := decide (a.1 * b.2 > b.1 * a.2 * 2 ^ t)

/-- Cut a row into blocks (03 R87 steps 1 and 2): the blocks, last first, each with its elements last
first. `m` is the running maximum, `cnt` the elements in the current block. -/
def cutBlocks (t : Nat) : List Val → (Nat × Nat) → Nat → List (List Val) → List (List Val)
  | [], _, _, bs => bs
  | v :: rest, m, cnt, bs =>
      let a := magOf v
      let opens := bs.isEmpty || cnt == 256 ||
        (a.1 != 0 && m.1 != 0 && (aboveBy a m t || aboveBy m a t))
      if opens then cutBlocks t rest a 1 ([v] :: bs)
      else
        let m' := if leFrac m a then a else m
        match bs with
        | b :: bs' => cutBlocks t rest m' (cnt + 1) ((v :: b) :: bs')
        | [] => cutBlocks t rest a 1 [[v]]

/-- The smallest integer e with x ≤ k × 2^e, for positive x. -/
def leastExp (x : Nat × Nat) (k : Nat) : Int :=
  let n := x.1
  let d := x.2 * k
  let l := floorLog2 n d
  let s := scale n d l
  if s.1 = s.2 then l else l + 1

def clampExp (e : Int) : Int := if e < -127 then -127 else if e > 127 then 127 else e

/-- The index of the first element of the largest magnitude. -/
def argMax : List (Nat × Nat) → Nat → (Nat × Nat) → Nat → Nat
  | [], _, _, best => best
  | a :: t, i, m, best => if leFrac a m then argMax t (i + 1) m best else argMax t (i + 1) a i

/-- A finished block (03 R87 step 3): the exponent and the index of the special element. -/
def blockExp (c : Nat) (b : List Val) : Int × Option Nat :=
  let ms := b.map magOf
  let i := argMax ms 0 (0, 1) 0
  let m := ms.getD i (0, 1)
  if m.1 = 0 then (0, none)
  else if c = 23 then (clampExp (leastExp m 7), none)
  else
    let rest := (ms.take i) ++ (ms.drop (i + 1))
    let m2 := rest.getD (argMax rest 0 (0, 1) 0) (0, 1)
    if m2.1 = 0 then
      -- m2 = 0 puts no lower bound on e2, so the largest element is the special one
      (clampExp (leastExp m 448), some i)
    else
      let e2 := leastExp m2 6
      let lim := frac 12 e2
      if leFrac m lim then (clampExp (leastExp m 6), none)
      else
        let e3 := leastExp m 448
        (clampExp (if e2 ≤ e3 then e3 else e2), some i)

/-- One element of a quantised row: code, flags. `sr` are the draws left. -/
def quantElem (c : Nat) (s : Slot) (e : Int) (special : Bool) (v : Val) (draw : Nat) : Nat × Flags × Option Nat :=
  let x := timesScale v (.fin false 1 (-e))
  let r : Res := ⟨x.ex, sigFl v⟩
  if special then
    let o := roundTo e4m3 .rn true r
    (8, o.2, some o.1)
  else
    let o := elemRound c (s.rnd draw) s.sat r
    (if c = 22 ∧ o.1 = 8 then 0 else o.1, o.2, none)

/-- The codes, the boundary bits, the side words, the flags and the rng left. -/
structure Quant where
  codes : List Nat
  bits : List Bool
  sides : List Nat
  fl : Flags
  rng : Word
  deriving DecidableEq, Repr

/-- The elements of one block written (03 R87 step 4). -/
def quantBlock (c : Nat) (s : Slot) (e : Int) (sp : Option Nat) : List Val → Nat → Quant × Nat → Quant × Nat
  | [], _, q => q
  | v :: t, i, (q, spec) =>
      let rng' := if s.rm = 5 then xorshift32 q.rng else q.rng
      let o := quantElem c s e (sp == some i) v (rng'.toNat / 65536)
      quantBlock c s e sp t (i + 1)
        ({ q with codes := q.codes ++ [o.1], bits := q.bits ++ [i == 0], fl := q.fl ||| o.2.1, rng := rng' },
         o.2.2.getD spec)

/-- All the blocks of a row written in order. -/
def quantBlocks (c : Nat) (s : Slot) : List (List Val) → Quant → Quant
  | [], q => q
  | b :: t, q =>
      let be := blockExp c b
      let r := quantBlock c s be.1 be.2 b 0 (q, 0)
      quantBlocks c s t { r.1 with sides := r.1.sides ++ [((be.1 + 127).toNat) * 256 + r.2] }

/-- A row of values quantised into the slot's variable-block format (03 R87). -/
def quantise (s : Slot) (row : List Val) (rng : Word) : Quant :=
  let bs := ((cutBlocks s.t row (0, 1) 0 []).map List.reverse).reverse
  quantBlocks s.fmt s bs ⟨[], [], [], 0, rng⟩

/-- The boundary bitmap's bytes (03 R85). -/
def bitmapBytes (bits : List Bool) : List Byte := packRow 1 (bits.map fun b => if b then 1 else 0)

/-- The block of element `i` under a bitmap, bit 0 read as 1 (03 R86). -/
def blockOf (bm : List Byte) (i : Nat) : Nat :=
  ((rangeFrom 1 i).filter fun j => (leNat bm).testBit j).length

end Sys2Proof.Fp
end

