-- ==== Sys2Proof/Machine/Alu.lean ====
section
/-! DEFINITION. The value functions of 09: what each arithmetic, logic, compare, select, move and
conversion instruction computes from the values of its operands, as functions of those values alone,
so that an instruction and a regenerating slice (02 R65) compute the same. -/

namespace Sys2Proof

/-- What a value function may read of its thread: operands, predicates, fmode, rng, format slots. -/
structure Rd where
  /-- the value of a specifier of `w` registers; an immediate sign-extended -/
  reg : Spec → Nat → DWord
  pred : Nat → Bool
  fmode : BitVec 6
  rng : Word
  slot : Nat → Option Fp.Slot

/-- What a value function gives: the value for D, fflg bits, the rng left, or a stop. -/
structure Out where
  v : DWord := 0
  fl : Fp.Flags := 0
  rng : Option Word := none
  /-- a cause raised in place of the write, with tva (09 R227) -/
  trap : Option (BitVec 8 × DWord) := none
  /-- the word is illegal for this launch (03 R89, 09 R242) -/
  illegal : Bool := false
  deriving DecidableEq, Repr

/-! ### Operands -/

/-- The float format of a scalar type (03 R77, R80). -/
def VType.fmt : VType → Fp.Fmt
  | .f16 => Fp.f16 | .bf16 => Fp.bf16 | .f19 => Fp.f19 | .f64 => Fp.f64 | _ => Fp.f32

/-- The encoding a register holds of a float type (03 R78). -/
def fget (t : VType) (x : DWord) : Nat :=
  match t with
  | .f16 | .bf16 => x.toNat % 2 ^ 16
  | .f19 => x.toNat % 2 ^ 32 / 2 ^ 13
  | .f64 => x.toNat
  | _ => x.toNat % 2 ^ 32

/-- The register value of an encoding of a float type (03 R78). -/
def fput (t : VType) (e : Nat) : DWord :=
  match t with
  | .f19 => BitVec.ofNat 64 (e * 2 ^ 13)
  | _ => BitVec.ofNat 64 e

/-- The type's value of a register as an exact integer (03 R78). -/
def intOf (t : VType) (x : DWord) : Int :=
  let n := x.toNat % 2 ^ t.bits
  if t.signed && n.testBit (t.bits - 1) then (n : Int) - 2 ^ t.bits else n

/-- An integer written in the type: reduced modulo 2^w, then extended to 32 bits (03 R78). -/
def intPut (t : VType) (v : Int) : DWord :=
  let n := (v % (2 ^ t.bits : Int)).toNat
  if t.signed && t.bits < 32 && n.testBit (t.bits - 1) then BitVec.ofNat 64 (n + 2 ^ 32 - 2 ^ t.bits)
  else BitVec.ofNat 64 n

/-- An operand read at a width as bits or an integer (02 R46 to R49). -/
def Rd.bits (r : Rd) (w : Nat) (s : Spec) : DWord :=
  let x := r.reg s w
  if w = 1 then (x.setWidth 32).setWidth 64 else x

/-- An operand read in a float type: an immediate is converted exactly (02 R49). -/
def Rd.flt (r : Rd) (t : VType) (s : Spec) : DWord :=
  match s with
  | .imm i => fput t (Fp.roundTo t.fmt .rn false ⟨.num (decide (i.toInt < 0)) i.toInt.natAbs 1, 0⟩).1
  | _ => r.bits t.rw s

/-- An operand read as a packed pair (02 R49). -/
def Rd.packed (r : Rd) (t : VType) (s : Spec) : DWord :=
  match s with
  | .imm _ => let e := r.flt t s; (e <<< 16) ||| e
  | _ => r.bits 1 s

/-- An operand read in the instruction's type. -/
def Rd.src (r : Rd) (t : VType) (s : Spec) : DWord :=
  match t with
  | .f16 | .bf16 | .f19 | .f32 | .f64 => r.flt t s
  | _ => r.bits t.rw s

/-- The B operand of a format I word (06 R161); the f32 pattern of an f64 operand is widened bit for bit, a signalling NaN too
(DESIGN CHOICE, log entry 49). -/
def immX (t : VType) (x : Word) : DWord :=
  match t with
  | .i64 => x.signExtend 64
  | .f64 => BitVec.ofNat 64 (Fp.widen32 x.toNat)
  | _ => x.setWidth 64

/-! ### Integer (09 R224 to R230) -/

/-- A result reduced modulo 2^w, or clamped under .sat (09 R224, R225). -/
def intRes (t : VType) (sat : Bool) (v : Int) : Out :=
  let lo : Int := if t.signed then -(2 ^ (t.bits - 1) : Int) else 0
  let hi : Int := if t.signed then (2 ^ (t.bits - 1) : Int) - 1 else (2 ^ t.bits : Int) - 1
  { v := intPut t (if sat then (if v < lo then lo else if v > hi then hi else v) else v) }

/-- MOD<0> of the integer group (09 R224). -/
def satOf (h : Head) : Bool := h.md.getLsbD 0

/-- A binary integer operation by its exact result. -/
def intBin (h : Head) (f : Int → Int → Int) (a b : DWord) : Out :=
  intRes h.ty (satOf h) (f (intOf h.ty a) (intOf h.ty b))

/-- IDIV and IREM (09 R227). -/
def intDiv (h : Head) (rem : Bool) (fmode : BitVec 6) (a b : DWord) : Out :=
  let x := intOf h.ty a
  let y := intOf h.ty b
  if y = 0 then
    if fmode.getLsbD 4 then { trap := some (0x08, BitVec.ofInt 64 x) }
    else if rem then intRes h.ty false x else intRes h.ty false (-1)
  else if rem then intRes h.ty false (x.tmod y) else intRes h.ty false (x.tdiv y)

/-- The lesser or the greater in the type's order. -/
def intMin (a b : Int) : Int := if b < a then b else a
def intMax (a b : Int) : Int := if a < b then b else a

/-- Σ of element products (09 R225, IDP4 and IDP2): `n` elements of the type. -/
def dotProd (t : VType) (n : Nat) (a b c : DWord) : Out :=
  let el (x : DWord) (j : Nat) : Int := intOf t (x >>> (t.bits * j))
  let s := (List.range n).foldl (fun acc j => acc + el a j * el b j) (intOf .i32 c)
  { v := intPut .n32 s }

/-- d := a + ext(b) × 2^s (09 R226). -/
def leaRes (w : Nat) (a b : Int) (s : Nat) : Out := { v := BitVec.ofNat 64 ((a + b * 2 ^ s) % (2 ^ w : Int)).toNat }

/-! ### Logic, shift and fields (09 R228 to R230) -/

/-- Bits of the type, zero above. -/
def bitsPut (t : VType) (x : DWord) : Out := { v := if t.rw = 1 then (x.setWidth 32).setWidth 64 else x }

/-- Bit (a_i + 2 b_i + 4 c_i) of a table, for each bit (09 R228). -/
def bool3 (tbl : BitVec 8) (a b c : Word) : Word :=
  let term (k : Nat) : Word :=
    if tbl.getLsbD k then
      (if k.testBit 0 then a else ~~~a) &&& (if k.testBit 1 then b else ~~~b) &&& (if k.testBit 2 then c else ~~~c)
    else 0
  term 0 ||| term 1 ||| term 2 ||| term 3 ||| term 4 ||| term 5 ||| term 6 ||| term 7

/-- SHL, SHR, SAR, ROT by a count read as n32 (09 R228): 0, 1, 2, 3. -/
def shiftRes (t : VType) (k : Nat) (a b : DWord) : Out :=
  let w := t.bits
  let x := a.toNat % 2 ^ w
  let s := b.toNat % 2 ^ 32
  match k with
  | 0 => { v := BitVec.ofNat 64 (if s < w then x * 2 ^ s % 2 ^ w else 0) }
  | 1 => { v := BitVec.ofNat 64 (if s < w then x / 2 ^ s else 0) }
  | 2 => { v := intPut t (if s < w then intOf t a / (2 ^ s : Int) else if intOf t a < 0 then -1 else 0) }
  | _ => let r := s % w; { v := BitVec.ofNat 64 (x * 2 ^ r % 2 ^ w + x / 2 ^ (w - r) % 2 ^ r) }

/-- The field of BFX and BFI: its low bit and its length, cut at the width (09 R229). -/
def fieldLen (w pos len : Nat) : Nat := if pos + len ≤ w then len else w - pos

/-- BFX (09 R229). -/
def bfxRes (t : VType) (pos len : Nat) (a : DWord) : Out :=
  let n := fieldLen t.bits pos len
  let x := a.toNat % 2 ^ t.bits / 2 ^ pos % 2 ^ n
  let v : Int := if t.signed && n != 0 && x.testBit (n - 1) then (x : Int) - 2 ^ n else x
  { v := intPut t v }

/-- BFI (09 R229). -/
def bfiRes (t : VType) (pos len : Nat) (a b : DWord) : Out :=
  let n := fieldLen t.bits pos len
  let x := a.toNat % 2 ^ t.bits
  let f := x / 2 ^ pos % 2 ^ n
  { v := BitVec.ofNat 64 (x - f * 2 ^ pos + b.toNat % 2 ^ n * 2 ^ pos) }

/-- One byte of BPICK (09 R230). -/
def bpickByte (src code : Nat) : Nat :=
  let b := src / 256 ^ (code % 8) % 256
  match code / 8 % 4 with
  | 0 => b
  | 1 => 0
  | 2 => if b.testBit 7 then 0xFF else 0
  | _ => 0xFF

/-- BPICK (09 R230). -/
def bpick (codes : BitVec 20) (a b : DWord) : Out :=
  let src := a.toNat % 2 ^ 32 + 2 ^ 32 * (b.toNat % 2 ^ 32)
  let byte (i : Nat) := bpickByte src (codes.toNat / 2 ^ (5 * i) % 32)
  { v := BitVec.ofNat 64 (byte 0 + 256 * byte 1 + 65536 * byte 2 + 16777216 * byte 3) }

/-! ### Compares (09 R231, R232) -/

/-- The relation of a CMP code below 6. -/
def cmpRel (c : Nat) (lt eq : Bool) : Bool :=
  match c with
  | 0 => eq | 1 => !eq | 2 => lt | 3 => lt || eq | 4 => !lt && !eq | _ => !lt

/-- JOIN (09 R231). -/
def joinRes (join : BitVec 2) (r old : Bool) : Bool :=
  match join.toNat with
  | 0 => r | 1 => r && old | 2 => r || old | _ => r != old

/-- Whether the destination's value before the instruction reads as true (09 R231). -/
def oldTruth (r : Rd) (d : Spec) : Bool := r.reg d 1 != 0

/-- A truth value as the word a destination takes. -/
def truth (b : Bool) : DWord := if b then 1 else 0

/-- ICMP and ICMPV (09 R231). -/
def icmpRes (h : Head) (cmp : BitVec 4) (join : BitVec 2) (old : Bool) (a b : DWord) : Out :=
  let x := intOf h.ty a
  let y := intOf h.ty b
  { v := truth (joinRes join (cmpRel cmp.toNat (decide (x < y)) (decide (x = y))) old) }

/-- MOD<3> of the float group: .ftz (06 R152). -/
def ftzBit (h : Head) : Bool := h.md.getLsbD 3

/-- FCMP and FCMPV (09 R232). -/
def fcmpRes (h : Head) (cmp : BitVec 4) (join : BitVec 2) (old : Bool) (a b : DWord) : Out :=
  let f := h.ty.fmt
  let x := Fp.decode f (Fp.flushIn f (ftzBit h) (fget h.ty a))
  let y := Fp.decode f (Fp.flushIn f (ftzBit h) (fget h.ty b))
  let un := x.isNaN || y.isNaN
  let c := cmp.toNat
  let rel := cmpRel (c % 6) (Fp.lt x y) (Fp.eq x y)
  let r := if c < 6 then !un && rel else if c < 12 then un || rel else if c = 12 then !un else un
  let sg := Fp.sigFl x ||| Fp.sigFl y
  { v := truth (joinRes join r old)
    fl := if un && decide (2 ≤ c) && decide (c ≤ 5) then Fp.NV else sg }

/-! ### Floating point (09 R235 to R240) -/

/-- The rounding mode of MOD<2:0> (06 R152), .dyn resolved by fmode.RM (02 R52). -/
def rndOf (md : BitVec 4) (fmode : BitVec 6) (draw : Nat) : Fp.Rnd :=
  let dir (n : Nat) : Fp.Rnd := match n with
    | 0 => .rn | 1 => .rz | 2 => .ru | _ => .rd
  match (md.extractLsb' 0 3).toNat with
  | 4 => dir (fmode.extractLsb' 0 2).toNat
  | 5 => .rna
  | 6 => .sr draw
  | n => dir n

/-- Whether flushing applies (03 R96). -/
def ftzOf (md : BitVec 4) (fmode : BitVec 6) : Bool :=
  md.getLsbD 3 || (md.extractLsb' 0 3 == 4 && fmode.getLsbD 3)

/-- An operation on encodings, rounded and flushed (03 R90 to R96). -/
def fpRound (t : VType) (md : BitVec 4) (fmode : BitVec 6) (res : Bool → (Nat → Fp.Val) → Fp.Res) : Nat × Fp.Flags :=
  let f := t.fmt
  let ftz := ftzOf md fmode
  let mode := rndOf md fmode 0
  Fp.flushOut f ftz (Fp.roundTo f mode false (res (mode == .rd) fun e => Fp.decode f (Fp.flushIn f ftz e)))

/-- A scalar float instruction that rounds. -/
def fpOut (t : VType) (o : Nat × Fp.Flags) : Out := { v := fput t o.1, fl := o.2 }

def fadd1 (t : VType) (md : BitVec 4) (fm : BitVec 6) (a b : Nat) : Nat × Fp.Flags :=
  fpRound t md fm fun rd v => Fp.add rd (v a) (v b)
def fsub1 (t : VType) (md : BitVec 4) (fm : BitVec 6) (a b : Nat) : Nat × Fp.Flags :=
  fpRound t md fm fun rd v => Fp.add rd (v a) (v b).neg
def fmul1 (t : VType) (md : BitVec 4) (fm : BitVec 6) (a b : Nat) : Nat × Fp.Flags :=
  fpRound t md fm fun _ v => Fp.mul (v a) (v b)
def ffma1 (t : VType) (md : BitVec 4) (fm : BitVec 6) (a b c : Nat) : Nat × Fp.Flags :=
  fpRound t md fm fun rd v => Fp.fma rd (v a) (v b) (v c)
def fdiv1 (t : VType) (md : BitVec 4) (fm : BitVec 6) (a b : Nat) : Nat × Fp.Flags :=
  fpRound t md fm fun _ v => Fp.div (v a) (v b)
def fsqrt1 (t : VType) (md : BitVec 4) (fm : BitVec 6) (a : Nat) : Nat × Fp.Flags :=
  fpRound t md fm fun _ v => Fp.sqrt (v a)
def fscale1 (t : VType) (md : BitVec 4) (fm : BitVec 6) (a : Nat) (b : Int) : Nat × Fp.Flags :=
  fpRound t md fm fun _ v => Fp.scaleB (v a) b

/-- A float operation of two operands on registers. -/
def fbin (h : Head) (fm : BitVec 6) (f : VType → BitVec 4 → BitVec 6 → Nat → Nat → Nat × Fp.Flags) (a b : DWord) : Out :=
  fpOut h.ty (f h.ty h.md fm (fget h.ty a) (fget h.ty b))

/-- A packed operation (09 R240): each half as the scalar operation. -/
def packOut (f : Nat → Nat × Fp.Flags) : Out :=
  let l := f 0
  let u := f 1
  { v := BitVec.ofNat 64 (l.1 + 65536 * u.1), fl := l.2 ||| u.2 }

/-- Element `i` of a packed pair (03 R77). -/
def half (x : DWord) (i : Nat) : Nat := x.toNat / 65536 ^ i % 65536

/-- FMIN and FMAX (09 R236). -/
def fminmax (h : Head) (mx : Bool) (a b : DWord) : Out :=
  fpOut h.ty (Fp.minMax h.ty.fmt mx (h.md.getLsbD 0) (fget h.ty a) (fget h.ty b))

/-- FABS, FNEG, FCPYS: the sign bit set to a value (09 R237). -/
def withSign (t : VType) (a : DWord) (s : Bool) : Out :=
  let f := t.fmt
  let e := fget t a % f.signBit
  { v := fput t (if s then f.signBit + e else e) }

/-- The sign bit of a float register. -/
def signBitOf (t : VType) (a : DWord) : Bool := (fget t a).testBit (t.fmt.e + t.fmt.m)

/-- FRND (09 R238): NV for a signalling NaN and no other flag. -/
def frndRes (h : Head) (fm : BitVec 6) (a : DWord) : Out :=
  let f := h.ty.fmt
  let ftz := ftzOf h.md fm
  let x := Fp.decode f (Fp.flushIn f ftz (fget h.ty a))
  match x with
  | .fin s m e =>
      let q := Fp.frac m e
      let r := Fp.roundInt (rndOf h.md fm 0) s q.1 q.2
      fpOut h.ty ((Fp.roundTo f .rn false ⟨.num s r.1.natAbs 1, 0⟩).1, 0)
  | v => fpOut h.ty (Fp.roundTo f .rn false ⟨v.ex, Fp.sigFl v⟩)

/-- FFRAC (09 R238). -/
def ffracRes (h : Head) (a : DWord) : Out :=
  let f := h.ty.fmt
  let x := Fp.decode f (Fp.flushIn f (ftzBit h) (fget h.ty a))
  match x with
  | .fin s m e =>
      let q := Fp.frac m e
      fpOut h.ty (Fp.flushOut f (ftzBit h) (Fp.roundTo f .rn false ⟨.num s (q.1 % q.2) q.2, 0⟩))
  | .inf _ => fpOut h.ty (Fp.roundTo f .rn false ⟨.nan, Fp.NV⟩)
  | v => fpOut h.ty (Fp.roundTo f .rn false ⟨v.ex, Fp.sigFl v⟩)

/-- FGETEXP (09 R238). -/
def fgetexpRes (h : Head) (a : DWord) : Out :=
  let f := h.ty.fmt
  let r : Fp.Res := match Fp.decode f (fget h.ty a) with
    | .nan s => ⟨.nan, if s then Fp.NV else 0⟩
    | .inf _ => ⟨.inf false, 0⟩
    | .fin _ m e =>
        if m = 0 then ⟨.inf true, Fp.DZ⟩
        else
          let l : Int := (Nat.log2 m : Int) + e
          ⟨.num (decide (l < 0)) l.natAbs 1, 0⟩
  fpOut h.ty (Fp.roundTo f .rn false r)

/-- An approximated function (09 R239). -/
def approxRes (h : Head) (fn : Nat) (a : DWord) : Out :=
  let f := h.ty.fmt
  let x := Fp.flushIn f (ftzBit h) (fget h.ty a)
  fpOut h.ty (Fp.flushOut f (ftzBit h) (Fp.approxFn fn h.ty.code.toNat f x))

/-! ### Conversions (09 R241 to R243) -/

/-- Whether a type is a float type. -/
def VType.isFloat : VType → Bool
  | .f16 | .bf16 | .f19 | .f32 | .f64 => true
  | _ => false

/-- CVTW (09 R241). -/
def cvtwRes (h : Head) (st : VType) (fm : BitVec 6) (rng : Word) (a : DWord) : Out :=
  let ftz := ftzOf h.md fm
  let sr := h.md.extractLsb' 0 3 == 6
  let rng' := if sr then xorshift32 rng else rng
  let mode := rndOf h.md fm (rng'.toNat / 65536)
  let r : Fp.Res :=
    if st.isFloat then
      let v := Fp.decode st.fmt (Fp.flushIn st.fmt ftz (fget st a))
      ⟨v.ex, Fp.sigFl v⟩
    else ⟨.num (decide (intOf st a < 0)) (intOf st a).natAbs 1, 0⟩
  let rn := if sr then some rng' else none
  if h.ty.isFloat then
    let o := Fp.flushOut h.ty.fmt ftz (Fp.roundTo h.ty.fmt mode false r)
    { v := fput h.ty o.1, fl := o.2, rng := rn }
  else
    let o := Fp.toIntType h.ty.signed h.ty.bits mode r
    { v := intPut h.ty o.1, fl := o.2, rng := rn }

/-- The source type that B names (09 R241). -/
def stypeOf (b : Spec) : VType := (VType.ofCode (BitVec.ofNat 4 b.immNat)).getD .f32

/-- Elements a CVTN moves (09 R242). -/
def cvtnCount (s : Fp.Slot) : Nat :=
  if Fp.elemWidth s.fmt = 16 then 2 else if Fp.elemWidth s.fmt = 4 then 8 else 4

/-- Whether CVTN accepts the slot (09 R242). -/
def cvtnOk (s : Fp.Slot) : Bool := decide (s.scheme ≤ 2) && decide (Fp.elemWidth s.fmt ≤ 16)

/-- The scale S of CVTN, none for a NaN scale (09 R242). -/
def cvtnScale (s : Fp.Slot) (b : DWord) : Fp.Val :=
  if s.scheme = 0 then .fin false 1 0 else Fp.scaleVal s.sfmt (b.toNat % 256)

/-- CVTN.pk on its f32 elements (09 R242): the elements' codes, the flags, the rng left. -/
def cvtnPack (s : Fp.Slot) (sc : Fp.Val) : List Nat → Word → List Nat × Fp.Flags × Word
  | [], rng => ([], 0, rng)
  | a :: t, rng =>
      let rng' := if s.rm = 5 then xorshift32 rng else rng
      let o : Nat × Fp.Flags :=
        if sc.isNaN then
          (match Fp.elemOf s.fmt with
            | .flt f => (f.nan).getD 0
            | .int _ _ => 0, Fp.NV)
        else Fp.elemRound s.fmt (s.rnd (rng'.toNat / 65536)) s.sat (Fp.div (Fp.decode Fp.f32 a) sc)
      let r := cvtnPack s sc t rng'
      (o.1 :: r.1, o.2 ||| r.2.1, r.2.2)

/-- One element of CVTN.unpk (09 R242). -/
def cvtnUnpack1 (s : Fp.Slot) (sc : Fp.Val) (w : Word) (i : Nat) : Nat × Fp.Flags :=
  let ew := Fp.elemWidth s.fmt
  let v := Fp.elemVal s.fmt (w.toNat / 2 ^ (ew * i) % 2 ^ ew)
  let p := Fp.mulVal v sc
  Fp.roundTo Fp.f32 .rn false ⟨p.1.ex, p.2⟩

/-- VBLKX (09 R243). -/
def vblkxRes (s : Fp.Slot) (idx : BitVec 3) (a b : DWord) : Out :=
  let v := Fp.vblkVal s.fmt (a.toNat / 2 ^ (4 * idx.toNat) % 16) (b.toNat % 65536)
  let o := Fp.roundTo Fp.f32 .rn false ⟨v.ex, 0⟩
  { v := BitVec.ofNat 64 o.1, fl := o.2 }

end Sys2Proof
end

