-- ==== Sys2Proof/Machine/State.lean ====
section
/-! DEFINITION. The state of the machine, as plain data: memory and time, threads, convoys, rows of
row-registers, crews, launches and contexts, cores, clusters, pending memory operations, engines,
queues, the fabric interface and the device registers; and the state right after reset. -/

namespace Sys2Proof.Machine

/-- There is no fault: what the spec calls an exception is taken, an event that is not enabled leaves the state as it is,
and a device that a fatal error has ended answers nothing but what 22 R435 names. -/
inductive Fault where
  deriving DecidableEq, Repr

/-- What the model does not do. -/
inductive Refusal where
  /-- an instruction without a meaning in this model, by its mnemonic; safe -/
  | notModelled (mnemonic : String)
  deriving DecidableEq, Repr

/-! ### Threads -/

/-- A hardware-loop level in use (01 R35, 08 R200) with the trap level that set it. -/
structure Loop where
  lc : Word
  ls : DWord
  le : DWord
  lvl : Nat
  deriving DecidableEq, Repr

/-- A pending LOOPX skip (08 R200) with the trap level that set it. -/
structure Skip where
  exit : DWord
  lvl : Nat
  deriving DecidableEq, Repr

/-- Repeat state (01 R36, 08 R210): repetition `idx` of `tot`, the three steps. -/
structure Rep where
  idx : Nat
  tot : Nat
  d : BitVec 3
  a : BitVec 3
  b : BitVec 3
  deriving DecidableEq, Repr

/-- An eligible register (02 R60, R71): slice address and length, depth, pinned inputs, order. -/
structure Elig where
  reg : Nat
  saddr : DWord
  len : Nat
  depth : Nat
  pins : List Nat
  seq : Nat
  deriving DecidableEq, Repr

/-- A slice in progress (02 R60): what it will make eligible, and the instructions left. -/
structure SliceRun where
  reg : Nat
  saddr : DWord
  len : Nat
  pins : List Nat
  left : Nat
  deriving DecidableEq, Repr

/-- A held lease (11 R283): line address, shadow bytes, the cycle its timer ends, its scope, its place in the order in
which leases were granted. -/
structure Lease where
  line : Nat
  shadow : List Byte
  ends : Nat
  scope : Scope
  age : Nat := 0
  /-- poisoned sectors of the line as it was shadowed (22 R434) -/
  bad : List Nat := []
  deriving DecidableEq, Repr

/-- A wait of 01 R38 at an instruction inside a stretch, with the values the instruction noted when it
first issued (01 R28). -/
inductive Wait where
  /-- none noted -/
  | none
  /-- a cross-lane rendezvous with the lanes of a mask (10 R245); `idx` is the repetition, `vals` the special registers it
  reads as they stood when it arrived (R248) -/
  | rendezvous (mask : Word) (idx : Nat) (vals : List (Nat × DWord))
  /-- BNWAIT with its token (11 R292) -/
  | barrier (bn : Nat) (tok : Nat)
  /-- MBWAIT at an address with its token (11 R295) -/
  | mbar (pa : Nat) (dev : Option Nat) (tok : Nat)
  /-- WAITQ with the wave it noted (12 R328) -/
  | quiet (w0 : Nat)
  /-- LEASE.age for a line with its timer and scope, its stamp in the thread (11 R283) -/
  | leaseAge (line timer : Nat) (scope : Scope)
  /-- an access to the scratch of a crew of the valley that has not started (01 R41) -/
  | valley (crew : Nat)
  /-- EQPOST on a full ring (12 R323) -/
  | ring (q : Nat)
  /-- a post to a reservation table without room, or of a card on another device (12 R316, R317) -/
  | post
  deriving DecidableEq, Repr

/-- Where a thread stands (01 R21, R42). -/
inductive Status where
  /-- ready, or held back only by its WAIT mask -/
  | ready
  /-- a member of a running convoy -/
  | running
  /-- waiting at an instruction -/
  | waiting
  /-- parked at PHASE -/
  | phase
  | exited
  deriving DecidableEq, Repr

/-- One thread (01 R12). Its key in `State.threads` is 4096 × crew id + tid. -/
structure Thread where
  pc : DWord
  hdr : DWord
  src : DWord
  v : List (Nat × Word) := []
  p : BitVec 7 := 0
  cf : List (Nat × Nat) := []
  loops : List Loop := []
  skips : List Skip := []
  rep : Option Rep := none
  /-- trap levels at which the repeat under way is one whose RPT was guarded off for the thread (08 R210) -/
  idle : List Nat := []
  fflg : BitVec 5 := 0
  fmode : BitVec 6 := 0
  rng : Word := 1
  tpc1 : DWord := 0
  tca1 : Word := 0
  tva1 : DWord := 0
  tst1 : Word := 0
  tpc2 : DWord := 0
  tca2 : Word := 0
  tva2 : DWord := 0
  tst2 : Word := 0
  tlvl : Nat := 0
  tslc : DWord := 0
  tfva : DWord := 0
  sscr : List (Nat × DWord) := []
  leases : List Lease := []
  broken : Bool := false
  stamp : Nat := 0
  perf : Nat := 2
  elig : List Elig := []
  slice : Option SliceRun := none
  /-- eligibilities that an RCPFLUSH ended while the lane stayed in recipe form: what its inputs were (16 R347) -/
  flushed : List Elig := []
  /-- affine registers in affine use (02 R75) -/
  affine : List Nat := []
  /-- registers dropped in this lane (02 R55) -/
  dropped : List Nat := []
  /-- frame index of 19 R393 -/
  frame : Nat := 0
  /-- stretches of the frame, from and to, that read zero and are not zero in memory: not mapped for writing to memory of this
  device when the thread started (04 R104) -/
  fresh : List (Nat × Nat) := []
  status : Status := .ready
  wait : Wait := .none
  parked : Bool := false
  /-- a pre-emption or asynchronous interrupt is pending (01 R28) -/
  preempt : Bool := false
  /-- the cycle the thread became ready, and for a flag the cycle its count last fell to zero (01 R21, R23) -/
  since : Nat := 0
  flagAt : List (Nat × Nat) := []
  starved : Bool := false
  /-- YIELD: joins no convoy at the next boundary while another of its lane can (08 R206) -/
  yielded : Bool := false
  /-- its previous stretch ended with YLD (01 R22) -/
  yld : Bool := false
  /-- performed-later writes of its crew that it has read, by operation (05 R126) -/
  observed : List Nat := []
  /-- the interlock stall it stands in has been counted (01 R34) -/
  stalled : Bool := false
  /-- where the transfer made by the current instruction goes -/
  jump : Option DWord := none
  deriving DecidableEq, Repr

/-! ### Convoys, partitions, rows -/

/-- A running convoy (01 R18, R24): its partition, the lane of a loop-buffer thread (01 R30), its
members, its program counter and the header of its stretch. -/
structure Convoy where
  part : Nat
  lane : Option Nat := none
  mem : List Nat
  pc : DWord
  hdr : DWord
  /-- the word now issuing -/
  word : IWord := 0
  wait : BitVec 12 := 0
  sa : BitVec 5 := 0
  sb : BitVec 5 := 0
  len : BitVec 5 := 0
  pri : BitVec 3 := 0
  /-- the fetch blocks of the stretch, as fetched when it began (16 R346) -/
  code : List (DWord × List Byte) := []
  deriving DecidableEq, Repr

/-- A partition: the stretches its loop buffers hold, by context and header, oldest first, each with
its instruction count (01 R29), and the row-register its RGU regenerates (02 R65). -/
structure Part where
  captured : List ((Nat × DWord) × Nat) := []
  rgu : Option (Nat × Nat) := none
  /-- row-registers of the instruction in issue and of the regeneration it needs, not to be converted (02 R63) -/
  busy : List (Nat × Nat) := []
  /-- row-registers whose eligibility that instruction ends, not to be converted (02 R61, R62) -/
  ending : List (Nat × Nat) := []
  deriving DecidableEq, Repr

/-- The form of a row-register (02 R55); an unlisted one is unwritten. -/
inductive Form where
  | value | recipe | mixed | spilled
  deriving DecidableEq, Repr

/-- The fault of a replayed load (02 R69): cause, address, and the slice that holds the load. -/
structure LaneFault where
  cause : BitVec 8
  addr : DWord
  slice : DWord
  deriving DecidableEq, Repr

/-- A row-register (02 R55, R64): its form, its descriptor, its last use, and whether it sits in a
reserve entry (R68). -/
structure RowReg where
  form : Form
  /-- lanes held as recipe: of a spilled register those that its words do not give -/
  lmask : Word := 0
  depth : Nat := 0
  len : Nat := 0
  saddr : DWord := 0
  used : Nat := 0
  reserve : Bool := false
  /-- lanes whose word in the save area is no longer theirs: dropped, or another thread's, since the spill (02 R55) -/
  skip : Word := 0
  /-- lanes whose replayed load faulted (02 R69) -/
  faults : List (Nat × LaneFault) := []
  /-- lanes whose entry or descriptor is poisoned (22 R434) -/
  bad : Word := 0
  deriving DecidableEq, Repr

/-- A row of a bundle (01 R16); its key is 128 × crew id + 32 × part + row. -/
structure Row where
  slot : Nat
  /-- its place in the register image of its core's save area (16 R351, log entry 10) -/
  img : Nat := 0
  regs : List (Nat × RowReg) := []
  deriving DecidableEq, Repr

/-! ### Crews -/

/-- A barrier register (11 R292). -/
structure Bar where
  expect : Nat := 0
  arr : Nat := 0
  phase : Nat := 0
  deriving DecidableEq, Repr

/-- A convergence register (12 R320). -/
structure Conv where
  count : Nat := 0
  awaited : Nat := 0
  card : DWord := 0
  init : Bool := false
  deriving DecidableEq, Repr

/-- Where an operation acts: physical memory, a remote device, host memory, or a scratch. -/
inductive Where where
  | mem (pa : Nat)
  /-- a replicated page: the copies' addresses, the primary first (04 R117) -/
  | repl (pas : List Nat)
  | remote (dev : Nat) (pa : Nat)
  | host (pa : Nat)
  | crewScratch (crew : Nat) (ofs : Nat)
  | plainScratch (launch plain : Nat) (ofs : Nat)
  deriving DecidableEq, Repr

/-- 16 bytes or fewer that a record still has to write: from a source place, or bytes already made
(12 R302, R303). -/
structure CopyPiece where
  src : Option Where
  data : List Byte
  dst : Where
  n : Nat
  /-- the destination address -/
  va : Nat := 0
  deriving DecidableEq, Repr

/-- A record that has issued: its own place, what is left to write, its conversion flags, and whether its word has been
written and it waits for that write to be performed (12 R304). -/
structure Plan where
  at_ : Where
  pieces : List CopyPiece
  fl : BitVec 5
  closing : Bool := false
  deriving DecidableEq, Repr

/-- A copy channel (12 R306, R307). -/
structure Chan where
  /-- 0 idle, 1 running, 2 parked, 3 faulted, 4 halted -/
  st : Nat := 0
  code : Nat := 0
  done : Nat := 0
  cur : DWord := 0
  fault : DWord := 0
  kick : Bool := false
  /-- halts at the next record boundary -/
  halt : Bool := false
  rng : Word := 1
  /-- the rng with which the current record first issued -/
  rngAt : Option Word := none
  /-- the current record as read, its 64 bytes, while it waits to issue or is in flight -/
  flight : Option (List Byte) := none
  /-- what it still has to do, once it has issued -/
  plan : Option Plan := none
  deriving DecidableEq, Repr

/-- What an accumulator tile holds (12 R312, R313): 128 rows of 128 words, or the first or the second half of the words of
the 128 rows of an FP64 tile (log entry 16). -/
inductive Tile where
  | words (rows : List (List Word))
  | wide (rows : List (List DWord))
  | half (rows : List (List DWord))
  deriving DecidableEq, Repr

/-- A job in a reservation table (12 R316). -/
structure MxJob where
  card : DWord
  crew : Nat
  ctx : Nat
  launch : Nat
  bytes : List Byte
  /-- the loop indices, LOOP0 first -/
  idx : List Nat := [0, 0, 0, 0, 0]
  fl : BitVec 5 := 0
  sat : Bool := false
  rng : Word := 1
  /-- clock it was posted or last granted -/
  since : Nat := 0
  seq : Nat := 0
  aged : Bool := false
  /-- granted the next pass, which waits for its reservation -/
  chosen : Bool := false
  running : Bool := false
  /-- ST of its card (12 R330) -/
  st : Nat := 1
  /-- its STATE has been written as done, and it waits for that write to be performed (12 R318) -/
  closing : Bool := false
  /-- the tiles that the down-converter of the pass granted reads, as they stood then (14 R331) -/
  kept : Option (List (Nat × Tile)) := none
  deriving DecidableEq, Repr

/-- A crew (01 R13 to R17). -/
structure Crew where
  launch : Nat
  ctx : Nat
  core : Nat
  /-- physical partition of each logical part (01 R15) -/
  place : List Nat := [0, 1, 2, 3]
  crew : Nat := 0
  valley : Nat := 0
  plain : Nat := 0
  die : Nat := 0
  handler : Bool := false
  started : Bool := false
  ended : Bool := false
  bar : List (Nat × Bar) := []
  cv : List (Nat × Conv) := []
  ch : List (Nat × Chan) := []
  scratch : List (Nat × Byte) := []
  ways : Nat := 0
  /-- the current symbol block: next symbol and last (02 R76); and the request out for a new one to another device -/
  block : Option (Nat × Nat) := none
  draw : Option Nat := none
  /-- memory barriers it subscribes to (11 R295) -/
  subs : List Nat := []
  /-- a PARK acts on it: no thread of it starts and no channel reads a record (16 R348) -/
  parked : Bool := false
  /-- threads of it that wait at a CRESIZE: the accesses of the others stall (04 R110) -/
  resizing : List Nat := []
  /-- cards of its jobs that faulted and may be posted again: they have not completed (08 R205) -/
  faulted : List DWord := []
  /-- jobs it posted that a PARK stopped (12 R319, 16 R348) -/
  stopped : List MxJob := []
  deriving DecidableEq, Repr

/-! ### Contexts -/

/-- An entry of the code forwarding table (16 R355). -/
structure Fwd where
  old : DWord := 0
  new : DWord := 0
  len : Word := 0
  deriving DecidableEq, Repr

/-- A context: its registers of 16 R336 and R355, 18 R376 and 19 R394. -/
structure Ctx where
  sys : Bool := false
  excl : Bool := false
  route : DWord := 0x000000010304011E
  tvec2 : DWord := 0
  croot : DWord := 0
  csave : List (Nat × DWord) := []
  lpvbase : DWord := 0
  fwd : List (Nat × Fwd) := []
  cap : Nat := 3
  permits : Nat := 0
  idle : Nat := 0
  killed : Bool := false
  /-- the crew that last posted a card, by card address (18 R386) -/
  posters : List (Nat × Nat) := []
  deriving DecidableEq, Repr

/-! ### Memory operations -/

/-- What a pending operation is (11). -/
inductive OpKind where
  | load
  | store
  /-- ATOM with its function number; `ret` for the returning form -/
  | atom (fn : Nat) (ret : Bool)
  | mbarr (ret : Bool)
  deriving DecidableEq, Repr

/-- What a remote request that holds its thread has come to: still out, answered, refused or timed out with the
cause it raises (20 R402). -/
inductive Held where
  | sent
  | ok
  | failed (cause : BitVec 8)
  deriving DecidableEq, Repr

/-- An issued memory operation that is not yet performed, or not yet written back (01 R32, 05 R128). -/
structure Op where
  th : Nat
  crew : Nat
  core : Nat
  kind : OpKind
  loc : Where
  va : DWord
  size : Nat
  space : Space
  rtype : RType
  ty : VType
  /-- first destination register and the predicate, for a result -/
  dst : Option Nat := none
  /-- registers that stay pending until the result is written (01 R34) -/
  pend : List Nat := []
  /-- the completion flag incremented (01 R32) -/
  flag : Option Nat := none
  /-- store bytes, or operand bytes of an atomic -/
  data : List Byte := []
  /-- the acquire's scope (05 R125) -/
  acq : Option Scope := none
  /-- a load's bytes already read, where order requires it before it completes -/
  early : Option (List Byte) := none
  /-- queued at the core that holds a lease on its line (11 R283) -/
  probing : Bool := false
  /-- affine load of a register (10 R271) -/
  affine : Option Nat := none
  /-- the domain time before which a write may not be performed (05 R143) -/
  notBefore : Option Nat := none
  /-- a remote request that holds its thread at the instruction until it is answered (20 R402, 01 R26) -/
  held : Option Held := none
  /-- the first of the quarters of one AFLD, which lower its flag together (05 R123) -/
  group : Option Nat := none
  /-- engines that have read the store before it was performed, as members of its crew (05 R120, R126) -/
  seenBy : List Nat := []
  /-- the cycle in which it was issued: threads of one instruction act in the order of their numbers (11 R275) -/
  cyc : Nat := 0
  /-- the offset in the thread's frame of an .l access, and which bytes of a load read zero for what has not been written since
  the thread started (04 R104) -/
  frame : Option Nat := none
  zero : List Nat := []
  deriving DecidableEq, Repr

/-! ### Cores -/

/-- A copy in an L1 that may be stale: .si, .ro of a crew, or a remote line under a read lease (04 R111, R113,
20 R404). -/
inductive CopyKind where
  | si
  | ro (crew : Nat)
  | leased (ends : Nat)
  deriving DecidableEq, Repr

structure Copy where
  kind : CopyKind
  dev : Option Nat
  line : Nat
  bytes : List Byte
  /-- offset in its line of the first byte it has; a remote copy has those that were read -/
  ofs : Nat := 0
  deriving DecidableEq, Repr

/-- A cached translation (18 R383): context, page base and size exponent, leaf entry. -/
structure Tlb where
  ctx : Nat
  va : Nat
  bits : Nat
  leaf : DWord
  deriving DecidableEq, Repr

/-- A core and its L1; an engine, which has cached translations alone, stands under its master id. -/
structure Core where
  copies : List Copy := []
  /-- lines held exclusive, with their dirty bytes by offset -/
  owned : List (Nat × List (Nat × Byte)) := []
  /-- operations waiting for a leased line, oldest first -/
  probes : List Nat := []
  tlb : List Tlb := []
  /-- cached table entries: context, physical address, entry (18 R383) -/
  walks : List (Nat × Nat × DWord) := []
  /-- cached fetch blocks by physical address -/
  icache : List (Nat × List Byte) := []
  dead : Bool := false
  deriving DecidableEq, Repr

/-! ### Launches -/

/-- A dependence range of a launch record (01 R44). -/
structure Range where
  mode : Nat
  base : Nat
  len : Nat
  deriving DecidableEq, Repr

/-- The fields of a launch record, 01 R44. -/
structure Rcd where
  entry : DWord := 0
  version : Nat := 1
  size : Nat := 256
  threads : Nat := 1
  crews : Nat := 1
  valleys : Nat := 1
  plains : Nat := 1
  dmin : Nat := 1
  dmax : Nat := 1
  flags : Nat := 0
  devs : Nat := 1
  regs : Nat := 16
  floor : Nat := 2
  vcap : Nat := 0
  l1lend : Nat := 0
  prio : Nat := 0
  cscr : Nat := 0
  pscr : Nat := 0
  lstack : Nat := 0
  kbank : DWord := 0
  fslot : DWord := 0
  trap1 : DWord := 0
  msgtab : DWord := 0
  msgn : Nat := 0
  hcrew : Nat := 0
  sympool : Nat := 0
  seed : Word := 0
  jobid : Nat := 0
  fsmask : Nat := 0
  nrange : Nat := 0
  evq : Word := 0
  evtag : Word := 0
  ranges : List Range := []
  deriving DecidableEq, Repr

/-- FLAGS bit 0, EXCL. -/
def Rcd.excl (r : Rcd) : Bool := r.flags % 2 == 1

/-- The counters of a job at one fabric interface (20 R409). -/
structure Count where
  i : Nat := 0
  c : Nat := 0
  l : Nat := 0
  u : Nat := 0
  deriving DecidableEq, Repr

/-- The counters of a job on this device, by die, and its waves (20 R409, R410). -/
structure JobCtr where
  dies : List (Nat × Count) := []
  /-- the most recent wave -/
  wave : Nat := 0
  /-- the wave at which the job was last declared quiet -/
  quiet : Option Nat := none
  /-- the sums of the wave before, for the two equal passes -/
  prev : Option (Nat × Nat × Nat × Nat) := none
  /-- when the next local wave is due, domain ns -/
  due : Nat := 0
  /-- the pass a wave is in, and its number -/
  pass : Nat := 0
  broken : Bool := false
  deriving DecidableEq, Repr

/-- A job table entry read from memory (20 R400). -/
structure Job where
  valid : Bool := false
  killed : Bool := false
  epoch : Nat := 0
  devs : Nat := 1
  self : Nat := 0
  dmap : List Nat := []
  ctr : JobCtr := {}
  deriving DecidableEq, Repr

/-- A message accepted for the handler crew and not started (12 R326). -/
structure Msg where
  srcDev : Nat
  handler : Nat
  payload : List Byte
  deriving DecidableEq, Repr

/-- A launch (01 R39 to R45, 17 R357 to R367). -/
structure Launch where
  q : Nat := 0
  n : Nat := 0
  lrec : DWord := 0
  rcd : Rcd := {}
  ctx : Nat := 0
  dev : Nat := 0
  entry : DWord := 0
  kbank : List Word := []
  slots : List Fp.Slot := []
  msgs : List DWord := []
  status : Nat := 0
  /-- a completion record or STATUS waits for ring room -/
  ending : Bool := false
  /-- the STATUS to be written when its record has been appended -/
  final : Nat := 0
  /-- its record has been read in the window of its queue (17 R359) -/
  entered : Bool := false
  readyAt : Option Nat := none
  /-- effective priority as last aged (17 R361) -/
  eff : Nat := 0
  candSince : Option Nat := none
  hold : Bool := false
  /-- since when it has had a valley to bind and has bound none (17 R369) -/
  unbound : Option Nat := none
  /-- physical die of each logical die -/
  dies : List Nat := []
  /-- the die target, and whether LAUNCH_RESIZE has set it (17 R365) -/
  target : Nat := 4
  resized : Bool := false
  /-- physical plain of logical plain p of logical die d, at 4 d + p -/
  map : List (Nat × Nat) := []
  /-- cluster of a bound valley, at (4 d + p) × 16 + valley -/
  bound : List (Nat × Nat) := []
  phase : Nat := 0
  /-- where the pool counter stands in the memory of plain 0 of launch device 0, for a launch with a pool (02 R76) -/
  poolAt : Option Nat := none
  /-- a launch_cancel or an exit ends it: its threads are halted as each comes to a point of 01 R28 (17 R374) -/
  cancelled : Bool := false
  /-- plain scratch by physical plain (04 R108) -/
  pscr : List (Nat × List (Nat × Byte)) := []
  hq : List Msg := []
  hcrewId : Option Nat := none
  /-- counters of a launch with no job entry (20 R400) -/
  own : Option JobCtr := none
  /-- when each slice was started or last restored, by cluster, domain ns (17 R369) -/
  since : List (Nat × Nat) := []
  base : Nat := 0
  /-- clusters from which its slice is being pre-empted -/
  leaving : List Nat := []
  /-- devices that have arrived at the end of the phase, at launch device 0 (20 R411) -/
  arrived : List Nat := []
  /-- this device's arrival has been sent -/
  told : Bool := false
  /-- every thread here has exited: it has arrived at every later phase (01 R42); and the devices that have said
  so, at launch device 0 -/
  gone : Bool := false
  goneDevs : List Nat := []
  deriving DecidableEq, Repr

/-! ### Engines -/

/-- A claimant of the current-reservation arbiter (22 R430). -/
structure Resv where
  /-- who: 0 to 3 an RPT burst on a core of the cluster, 4 a matrix pass, 5 a copy record -/
  who : Nat
  /-- the job or channel -/
  job : Nat := 0
  cost : Nat
  pri : Nat := 0
  since : Nat
  aged : Bool := false
  /-- of a burst that has not begun: where its convoy stands -/
  at_ : Option DWord := none
  deriving DecidableEq, Repr

/-- A cluster: matrix engine, current reservations, clock (12 R312, R316, 22 R426 to R431, R440). -/
structure Cluster where
  table : List MxJob := []
  tiles : List (Nat × Tile) := []
  /-- the context that wrote a tile last -/
  tileCtx : List (Nat × Nat) := []
  held : List Resv := []
  waiting : List Resv := []
  /-- clock in units of 50 MHz -/
  clk : Nat := 80
  claim : Bool := false
  claimAge : Nat := 0
  granted : Bool := false
  /-- charged for the interval: it held a grant and ran above 4.0 GHz in it -/
  charged : Bool := false
  /-- contexts whose own capped request has been 3 in the interval (22 R425) -/
  asked : List Nat := []
  /-- held for a self-test since, and found empty at, domain ns (22 R440) -/
  hold : Option Nat := none
  emptied : Option Nat := none
  deriving DecidableEq, Repr

/-! ### Fabric, banks, software -/

/-- A remote request not yet answered (20 R402). -/
structure Remote where
  op : Nat
  dev : Nat
  job : Nat
  at_ : Nat
  /-- the membership generation of the device asked, which its answer carries (05 R148) -/
  gen : Nat := 0
  deriving DecidableEq, Repr

/-- A read lease the home has granted (05 R143). -/
structure ReadLease where
  line : Nat
  dev : Nat
  ends : Nat
  /-- the home's cycle at which the lease is over with its guard, by its own counter (20 R405) -/
  lastCycle : Nat := 0
  deriving DecidableEq, Repr

/-- An access of the host or a control core that waits for a line, or behind another of the same master (05 R131, R139): its
master, its bytes or how many it reads; or the device register that it reads or writes. -/
structure Posted where
  master : Nat
  addr : Nat
  bytes : List Byte
  len : Nat
  reg : Option Nat := none
  deriving DecidableEq, Repr

/-- A message sent and not acknowledged (20 R406). -/
structure Sent where
  job : Nat
  dst : Nat
  /-- the sending die -/
  die : Nat := 0
  seq : Nat
  handler : Nat
  launch : Nat
  payload : List Byte
  deadline : Nat
  /-- when it is sent again, domain ns; 0 once its stream is abandoned and it counts in U (20 R407) -/
  retry : Nat
  deriving DecidableEq, Repr

/-- A message stream of a job between a die that sends and a device that receives, the other device `dev` (20 R406 to
R408). -/
structure Stream where
  job : Nat
  dev : Nat
  die : Nat := 0
  next : Nat := 0
  expect : Nat := 0
  abandoned : Bool := false
  repairing : Option Nat := none
  deriving DecidableEq, Repr

/-- A record waiting for ring room (17 R372). -/
structure Rec where
  queue : Nat
  bytes : List Byte
  /-- a launch whose STATUS waits for it -/
  launch : Option Nat := none
  /-- an engine's channel or job that waits for it -/
  owner : Option Nat := none
  deriving DecidableEq, Repr

/-- A machine-check bank (22 R436). -/
structure Bank where
  stat : DWord := 0
  addr : DWord := 0
  misc0 : DWord := 0
  misc1 : DWord := 0
  cnt : Nat := 0
  deriving DecidableEq, Repr

/-- The access table a target has loaded (18 R389): valid regions and permission words. -/
structure AccTable where
  /-- the regions' numbers, first and last 4 KiB unit -/
  regions : List (Nat × Nat × Nat) := []
  perms : List (Nat × Word) := []
  deriving DecidableEq, Repr

/-- A saved slice (17 R369). -/
structure SavedSlice where
  ctx : Nat
  launch : Nat
  plain : Nat
  cluster : Nat
  cores : List Nat
  readyAt : Nat
  deriving DecidableEq, Repr

/-- A supply domain (22 R424, R428, R429): BMAX, DPERM, its idle count, and whether a replay-rate excursion
holds its clusters. GRANT and ISO are computed. -/
structure Domain where
  bmax : Nat := 8
  dperm : Nat := 64
  idle : Nat := 0
  excess : Bool := false
  deriving DecidableEq, Repr

/-- A loaded container (07 R190 to R193): the addresses of its functions by symbol number, the names and
numbers of its kernels, its global symbols, and the memory it was loaded into. -/
structure Container where
  syms : List (Nat × DWord) := []
  kernels : List (List Byte × Nat) := []
  /-- of the manifest (07 R192): symbol and template index of each kernel table entry, SYSABI, and the devices per job -/
  kerns : List (Nat × Nat) := []
  sysabi : Nat := 0
  devMin : Nat := 0
  devMax : Nat := 0
  globals : List (List Byte × Nat) := []
  blocks : List Nat := []
  deriving DecidableEq, Repr

/-- A system call with its arguments (17 R374). -/
inductive SysCall where
  | launchCancel (ctx : Nat)
  | exit (code : Nat)
  | launchSubmit (q rcd dev : Nat)
  | launchStatus (ctx : Nat)
  | launchResize (ctx dies : Nat)
  | imageLoad (addr size : Nat)
  | imageUnload (hd : Nat)
  | funcRef (hd name : Nat)
  | memAlloc (size flags : Nat)
  | memFree (addr : Nat)
  | queueOpen (mode prio : Nat)
  | queueClose (q : Nat)
  | queueRestart (q : Nat)
  | evqOpen (plain entries : Nat)
  | evqRead (q buf max timeout : Nat)
  | timeGet
  deriving DecidableEq, Repr

/-- A system call that waits (17 R374). -/
inductive Call where
  | close (q : Nat)
  /-- EVQ_READ: queue word, buffer, maximum, and the domain time at which it gives up -/
  | read (q buf max due : Nat)
  /-- a call that waits for the stores its control core has posted (17 R373) -/
  | fenced (c : SysCall)
  deriving DecidableEq, Repr

/-- The save area's device-private content (16 R351), named by the ticket its records hold. -/
structure Image where
  ctx : Nat
  core : Nat
  crews : List (Nat × Crew)
  threads : List (Nat × Thread)
  rows : List (Nat × Row)
  tiles : List (Nat × Tile)
  deriving DecidableEq, Repr

/-! ### What acts next -/

/-- An error of the hardware that its checks find (06 R157, 22 R429, R433, R434). -/
inductive Upset where
  /-- a fetch check that fails on a core and passes when the block is fetched again -/
  | fetch (core : Nat)
  /-- a timing error of a core's pipelines: the stage works once more -/
  | replay (core : Nat)
  /-- a residue mismatch of a lane, once or, `twice`, again when the instruction is executed again -/
  | lane (part lane : Nat) (twice : Bool)
  /-- the same of a matrix engine's pass -/
  | pass (cluster : Nat) (twice : Bool)
  /-- the same of a record that a channel has in work -/
  | record (crew ch : Nat) (twice : Bool)
  /-- a clean copy, translation, code block or captured stretch of a core that cannot be corrected: dropped and fetched again -/
  | clean (core line : Nat)
  /-- a clean line of an L2 slice, or what the stack cache of a plain's HBM holds of a line: the same -/
  | cleanHome (pa : Nat) (stack : Bool)
  /-- the bytes that a lease has shadowed -/
  | shadow (pa : Nat) (twice : Bool)
  /-- a sector in HBM, read outside a scrub -/
  | hbm (pa : Nat) (twice : Bool)
  /-- a matrix engine's tile, or what it has in its buffers -/
  | tile (cluster tile : Nat) (twice : Bool)
  /-- the buffer of a copy channel -/
  | channel (crew ch : Nat) (twice : Bool)
  /-- a row-register: its entry or its descriptor; one bit, or `twice` two in each of some lanes -/
  | entry (row reg : Nat) (lanes : Word) (twice : Bool)
  /-- a dirty line in an L1 or an L2 slice, one bit or two of a 32-byte sector -/
  | sector (pa : Nat) (twice : Bool)
  /-- a scratch word -/
  | scratch (w : Where) (twice : Bool)
  /-- the directory of an L2 slice, by the line's address -/
  | directory (pa : Nat)
  /-- a flit of the network: sent again, or `lost` -/
  | network (lost : Bool)
  /-- a flit on a link of a port: replayed; `again` the flit whose check failed before -/
  | link (port : Nat) (again : Bool)
  deriving DecidableEq, Repr

/-- What an access of a master comes to (18 R389, 20 R416, R417). -/
inductive Reply where
  /-- performed, or accepted to be performed in its order -/
  | done
  /-- denied to a control core: a RISC-V access fault -/
  | accessFault
  /-- denied to the host: Unsupported Request -/
  | unsupported
  /-- in flight on a host link that was left: Completer Abort -/
  | aborted
  deriving DecidableEq, Repr

/-- Which agent acts in a step (log entry 1). The events of the opcode table act through `act`. -/
inductive Turn where
  /-- the partition issues the next word of its convoy -/
  | issue (part : Nat)
  /-- the thread in the loop buffer of a lane issues -/
  | issueLane (part lane : Nat)
  /-- an event of the opcode table -/
  | act (i : Instr)
  /-- cycles and nanoseconds pass -/
  | tick (cycles ns : Nat)
  /-- a core drops what its caches may drop at any time: copies, clean translations, code -/
  | evict (core : Nat)
  /-- a scratch access is performed -/
  | land (op : Nat)
  /-- a channel writes piece k of what its record still has to write -/
  | piece (crew ch k : Nat)
  /-- an error is found -/
  | upset (u : Upset)
  deriving DecidableEq, Repr

/-! ### The machine -/

/-- The whole machine. -/
structure State where
  mem : List Host.Cell := []
  poison : List Nat := []
  /-- poisoned 32-byte sectors of scratches, by their first byte (22 R434) -/
  scrPoison : List Where := []
  cycle : Nat := 0
  ns : Nat := 0
  ptpErr : Word := 0xFFFFFFFF
  threads : List (Nat × Thread) := []
  convoys : List Convoy := []
  parts : List (Nat × Part) := []
  rows : List (Nat × Row) := []
  crews : List (Nat × Crew) := []
  launches : List (Nat × Launch) := []
  ctxs : List (Nat × Ctx) := []
  /-- the settings the resident OS gives a context it creates (log entry 4) -/
  os : Ctx := {}
  cores : List (Nat × Core) := []
  clusters : List (Nat × Cluster) := []
  /-- destination lines owned by engines: line, engine, owner (05 R135) -/
  engOwned : List (Nat × Nat) := []
  acc : List (Nat × AccTable) := []
  ops : List (Nat × Op) := []
  remote : List Remote := []
  readLeases : List ReadLease := []
  /-- requests of peers that wait here: on a memory barrier, for a lease to end, behind a write
  (20 R403, 05 R143) -/
  wakers : List Flit := []
  /-- accesses of masters that wait, in the order in which they came (05 R139) -/
  posted : List Posted := []
  /-- arrivals at the end of a phase of a launch that this device has not read yet (20 R411) -/
  early : List Flit := []
  records : List Rec := []
  outbox : List Flit := []
  sent : List Sent := []
  streams : List Stream := []
  slices : List (Nat × SavedSlice) := []
  images : List (Nat × Image) := []
  jobs : List (Nat × Job) := []
  /-- device registers by system register number, where changed from reset (16 R335) -/
  regs : List (Nat × DWord) := []
  /-- PTEN and SUPMAP values written and held (18 R392, 22 R423) -/
  held : List (Nat × DWord) := []
  /-- writes of ENGRES that post a card and wait for room, with the card (18 R386) -/
  reposts : List (DWord × DWord) := []
  /-- how often in a row a port's check of the same flit has failed (20 R397) -/
  linkFails : List (Nat × Nat) := []
  domains : List (Nat × Domain) := []
  banks : List (Nat × Bank) := []
  /-- event counter n of a core, at 16 × core + n (22 R439) -/
  counters : List (Nat × Nat) := []
  /-- EVSEL of each master id (22 R439) -/
  evsel : List (Nat × Word) := []
  meas : List (Nat × List Byte) := []
  /-- membership generations by agent: its master id, a peer at 0x1000 up (05 R148) -/
  gens : List (Nat × Nat) := []
  caps : Caps
  /-- interrupts raised to the control cores: plain or bank number -/
  irqs : List Nat := []
  fatal : Bool := false
  recovery : Bool := false
  /-- AER uncorrectable fatal signalled, and MSI-X vectors of PF0 raised (22 R435) -/
  aer : Bool := false
  msix : List Nat := []
  /-- 10 µs intervals ended (22 R425) -/
  interval : Nat := 0
  /-- dies that are hot: 1 above 95 °C, 2 above 100 °C, 3 since then not yet below 95 °C (22 R446) -/
  hot : List (Nat × Nat) := []
  /-- where self-test rotation goes on, and when the last hold began, domain ns (22 R440) -/
  testNext : Nat := 0
  testFrom : Nat := 0
  containers : List (Nat × Container) := []
  /-- the plain on whose control core the control program runs (log entry 21) -/
  caller : Nat := 0
  /-- memory the resident OS has given out: virtual address, pages and plains; and the physical pages it has
  taken, first and how many (log entry 22) -/
  allocs : List (Nat × Nat) := []
  frames : List (Nat × Nat) := []
  /-- launches the control program has submitted, and calls of it that wait -/
  calls : List Nat := []
  waiting : List Call := []
  /-- what the last system call returned (17 R373) -/
  result : Int := 0
  report : List Byte := []
  /-- what the last access of the host or a control core came to -/
  reply : Reply := .done
  /-- what acts next, in order; with none left the model chooses (log entry 1), by a count of its own -/
  agenda : List Turn := []
  beat : Nat := 0
  /-- how many free values have been drawn (log entry 7) -/
  free : Nat := 0
  seq : Nat := 0
  deriving DecidableEq, Repr

/-- The capability list of a fully enabled part (22 R442, log entry 6). -/
def fullCaps : Caps :=
  { clusen := BitVec.ofNat 192 (2 ^ 192 - 1), clusin := BitVec.ofNat 192 (2 ^ 192 - 1)
    chan := List.replicate 16 32, ports := 0xFFFFF, feat := 0x7FF }

/-- The machine right after reset: memory with nothing listed, no thread, crew, launch or context,
nothing pending, every device register at its reset value (17 to 22). -/
def State.reset : State := { caps := fullCaps }

end Sys2Proof.Machine
end

