-- ==== Sys2Proof/Machine/Store.lean ====
section
/-! DEFINITION. Reading and updating the parts of the state, the bytes of memory in one canonical form
(00 R5, 04 R115), the lines the L1s hold (04 R111, R112), machine-check events (22 R437) and event
counters (22 R439). -/

namespace Sys2Proof.Machine

/-! ### Parts of the state -/

/-- A thread by key; the default stands for an empty slot, an exited thread (01 R14). -/
def State.th (s : State) (k : Nat) : Thread :=
  Tab.getD k { pc := 0, hdr := 0, src := 0, status := .exited } s.threads
/-- The state with a thread changed. -/
def State.setTh (s : State) (k : Nat) (f : Thread → Thread) : State :=
  { s with threads := Tab.modify k f s.threads }
/-- The crew of a thread key, and its tid (01 R14). -/
def crewOf (k : Nat) : Nat := k / 4096
def tidOf (k : Nat) : Nat := k % 4096
/-- lane, row and part of a thread (01 R14). -/
def laneOf (k : Nat) : Nat := k % 32
def rowOf (k : Nat) : Nat := k / 32 % 32
def partOf (k : Nat) : Nat := k / 1024 % 4
/-- The key of the thread's row in `State.rows`. -/
def rowKey (k : Nat) : Nat := k / 32
/-- The key of the thread on a lane of a row. -/
def laneKey (row lane : Nat) : Nat := row * 32 + lane

def State.cr (s : State) (c : Nat) : Crew := Tab.getD c { launch := 0, ctx := 0, core := 0 } s.crews
def State.setCr (s : State) (c : Nat) (f : Crew → Crew) : State := { s with crews := Tab.modify c f s.crews }
def State.la (s : State) (l : Nat) : Launch := Tab.getD l {} s.launches
def State.setLa (s : State) (l : Nat) (f : Launch → Launch) : State :=
  { s with launches := Tab.modify l f s.launches }
def State.cx (s : State) (c : Nat) : Ctx := Tab.getD c {} s.ctxs
def State.setCx (s : State) (c : Nat) (f : Ctx → Ctx) : State := { s with ctxs := Tab.modify c f s.ctxs }
def State.co (s : State) (c : Nat) : Core := Tab.getD c {} s.cores
/-- A core or cluster changed; it is listed from then on. -/
def State.setCo (s : State) (c : Nat) (f : Core → Core) : State := { s with cores := Tab.put c (f (s.co c)) s.cores }
def State.cl (s : State) (c : Nat) : Cluster := Tab.getD c {} s.clusters
def State.setCl (s : State) (c : Nat) (f : Cluster → Cluster) : State :=
  { s with clusters := Tab.put c (f (s.cl c)) s.clusters }
def State.pt (s : State) (p : Nat) : Part := Tab.getD p {} s.parts
def State.setPt (s : State) (p : Nat) (f : Part → Part) : State := { s with parts := Tab.put p (f (s.pt p)) s.parts }
def State.rw (s : State) (r : Nat) : Row := Tab.getD r { slot := 0 } s.rows
def State.setRw (s : State) (r : Nat) (f : Row → Row) : State := { s with rows := Tab.put r (f (s.rw r)) s.rows }

/-- The crew, launch and context of a thread, and its core. -/
def State.crewTh (s : State) (k : Nat) : Crew := s.cr (crewOf k)
def State.laTh (s : State) (k : Nat) : Launch := s.la (s.crewTh k).launch
def State.ctxTh (s : State) (k : Nat) : Nat := (s.crewTh k).ctx
def State.coreTh (s : State) (k : Nat) : Nat := (s.crewTh k).core
/-- The physical partition of a thread, 4 × core + its place (01 R15). -/
def State.partTh (s : State) (k : Nat) : Nat :=
  4 * s.coreTh k + (s.crewTh k).place.getD (partOf k) 0
/-- The physical partition of a row. -/
def State.partRow (s : State) (r : Nat) : Nat :=
  4 * (s.cr (r / 128)).core + (s.cr (r / 128)).place.getD (r / 32 % 4) 0
/-- REGS of a thread's launch (01 R44). -/
def State.regsTh (s : State) (k : Nat) : Nat := (s.laTh k).rcd.regs

/-- Whether a thread is live: not exited (01 R14). -/
def State.live (s : State) (k : Nat) : Bool := (s.th k).status != .exited

/-- Keys of the threads of a crew, of a context, of a row. -/
def State.crewThreads (s : State) (c : Nat) : List Nat := (Tab.keys s.threads).filter fun k => crewOf k == c
def State.ctxThreads (s : State) (c : Nat) : List Nat := (Tab.keys s.threads).filter fun k => s.ctxTh k == c
def State.rowThreads (s : State) (r : Nat) : List Nat := (Tab.keys s.threads).filter fun k => rowKey k == r

/-- System privilege (16 R334): at trap level 2, or in a system context. -/
def State.isSys (s : State) (k : Nat) : Bool := (s.th k).tlvl == 2 || (s.cx (s.ctxTh k)).sys

/-- The next number of `seq`. -/
def State.bump (s : State) : State := { s with seq := s.seq + 1 }

/-! ### Memory bytes -/

/-- What a byte that nothing has written reads as (log entry 2). -/
def unwrittenByte : Byte := 0

/-- One byte of home memory. -/
def readByte (m : List Host.Cell) (a : Nat) : Byte := Tab.getD a unwrittenByte m

/-- Memory with one byte written; the byte an unlisted address reads as is not listed. -/
def writeByte (m : List Host.Cell) (a : Nat) (b : Byte) : List Host.Cell :=
  if b = unwrittenByte then Tab.drop a m else Tab.put a b m

/-- Bytes from an address up. -/
def readBytes (m : List Host.Cell) (a : Nat) : Nat → List Byte
  | 0 => []
  | n + 1 => readByte m a :: readBytes m (a + 1) n

/-- Memory with bytes written from an address up. -/
def writeBytes (m : List Host.Cell) (a : Nat) : List Byte → List Host.Cell
  | [] => m
  | b :: t => writeBytes (writeByte m a b) (a + 1) t

/-- The canonical form of memory: addresses strictly rising, no byte listed that an unlisted address
reads as. -/
def Memory.wf : List Host.Cell → Bool
  | [] => true
  | [(_, b)] => b != unwrittenByte
  | (a, b) :: (a', b') :: t => b != unwrittenByte && decide (a < a') && Memory.wf ((a', b') :: t)

/-- The physical address space that holds host memory: bit 51 (20 R419). -/
def hostBase : Nat := 2 ^ 51

/-- Whether a local physical address has memory (04 R115): within its stack's enabled channels. -/
def State.paOk (s : State) (pa : Nat) : Bool :=
  decide (pa < 2 ^ 40) && decide (pa % 2 ^ 36 < 2 ^ 31 * s.caps.chan.getD (pa / 2 ^ 36) 0)

/-- The 128-byte line of an address. -/
def lineOf (a : Nat) : Nat := a / 128 * 128
/-- The 32-byte sector of an address. -/
def sectorOf (a : Nat) : Nat := a / 32 * 32

/-- The core that holds a line exclusive with dirty bytes, and those bytes (04 R111). -/
def State.ownerOf (s : State) (line : Nat) : Option (Nat × List (Nat × Byte)) :=
  s.cores.findSome? fun (c, co) => (Tab.find line co.owned).map fun d => (c, d)

/-- One byte as the coherent agents see it: the exclusive holder's dirty byte, else memory
(04 R112). -/
def State.cohByte (s : State) (pa : Nat) : Byte :=
  match s.ownerOf (lineOf pa) with
  | some (_, d) => (Tab.find (pa % 128) d).getD (readByte s.mem pa)
  | none => readByte s.mem pa

/-- Coherent bytes from an address up. -/
def State.coh (s : State) (pa : Nat) : Nat → List Byte
  | 0 => []
  | n + 1 => s.cohByte pa :: s.coh (pa + 1) n

/-- Dirty bytes of a line merged into memory. -/
def mergeDirty (m : List Host.Cell) (line : Nat) (d : List (Nat × Byte)) : List Host.Cell :=
  d.foldl (fun m (o, b) => writeByte m (line + o) b) m

/-- A line recalled from its exclusive holder: dirty bytes merged at the home (04 R112). -/
def State.recall (s : State) (line : Nat) : State :=
  match s.ownerOf line with
  | some (c, d) => { s with mem := mergeDirty s.mem line d }.setCo c fun co => { co with owned := Tab.drop line co.owned }
  | none => s

/-- A line recalled unless the core itself holds it. -/
def State.recallOthers (s : State) (core line : Nat) : State :=
  match s.ownerOf line with
  | some (c, _) => if c = core then s else s.recall line
  | none => s

/-- A write at the home slice: the holder recalled, the bytes merged (04 R112). -/
def State.homeWrite (s : State) (pa : Nat) (bs : List Byte) : State :=
  let s := s.recall (lineOf pa)
  { s with mem := writeBytes s.mem pa bs }

/-- A write over any number of lines, line by line. -/
def State.homeWriteAll (s : State) (pa : Nat) : List (Nat × Byte) → State
  | [] => s
  | (i, b) :: t => (s.homeWrite (pa + i) [b]).homeWriteAll pa t

/-- Bytes numbered from 0. -/
def numbered (bs : List Byte) : List (Nat × Byte) := (List.range bs.length).zip bs

/-- The poison left by a write: that of the sectors it covers whole is cleared (22 R434). -/
def cleanPoison (ps : List Nat) (pa n : Nat) : List Nat := ps.filter fun p => !(decide (pa ≤ p) && decide (p + 32 ≤ pa + n))

/-- A write of any length at the home slices. -/
def State.homeStore (s : State) (pa : Nat) (bs : List Byte) : State :=
  let s := s.homeWriteAll pa (numbered bs)
  { s with poison := cleanPoison s.poison pa bs.length }

/-- A byte written into a line the core holds exclusive from then on: a dirty byte of it (04 R111). -/
def State.ownByte (s : State) (core pa : Nat) (b : Byte) : State :=
  (s.recallOthers core (lineOf pa)).setCo core fun co =>
    { co with owned := Tab.put (lineOf pa) (Tab.put (pa % 128) b (Tab.getD (lineOf pa) [] co.owned)) co.owned }

/-- Bytes written by exclusive ownership, those of each line into that line. -/
def State.ownBytes (s : State) (core pa : Nat) : List (Nat × Byte) → State
  | [] => s
  | (i, b) :: t => (s.ownByte core (pa + i) b).ownBytes core pa t

/-- A write by exclusive ownership of the core's L1 (04 R111). -/
def State.ownWrite (s : State) (core pa : Nat) (bs : List Byte) : State :=
  let s := s.ownBytes core pa (numbered bs)
  { s with poison := cleanPoison s.poison pa bs.length }

/-- The .si, .ro or leased copy of a line a core holds. -/
def State.copyOf (s : State) (core : Nat) (dev : Option Nat) (line : Nat) (p : CopyKind → Bool) : Option Copy :=
  (s.co core).copies.find? fun c => c.dev == dev && c.line == line && p c.kind

/-- Bytes of a copy. -/
def Copy.read (c : Copy) (a n : Nat) : List Byte := (c.bytes.drop (a % 128 - c.ofs)).take n
/-- Whether a copy has some bytes. -/
def Copy.covers (c : Copy) (a n : Nat) : Bool := decide (c.ofs ≤ a % 128) && decide (a % 128 + n ≤ c.ofs + c.bytes.length)

/-- A list with bytes replaced from a position. -/
def patch (l : List Byte) (o : Nat) (bs : List Byte) : List Byte := l.take o ++ bs ++ l.drop (o + bs.length)

def CopyKind.isSi : CopyKind → Bool
  | .si => true
  | _ => false
def CopyKind.isRo : CopyKind → Bool
  | .ro _ => true
  | _ => false
def CopyKind.isLeased : CopyKind → Bool
  | .leased _ => true
  | _ => false

/-- The core's .si copy of a line refreshed with bytes (04 R111, 05 R122). -/
def State.refreshSi (s : State) (core : Nat) (dev : Option Nat) (a : Nat) (bs : List Byte) : State :=
  match s.copyOf core dev (lineOf a) CopyKind.isSi with
  | none => s
  | some _ => s.setCo core fun co =>
      { co with copies := co.copies.map fun c =>
          if c.dev == dev && c.line == lineOf a && c.kind.isSi then { c with bytes := patch c.bytes (a % 128) bs } else c }

/-- Copies of a core dropped by a predicate. -/
def State.dropCopies (s : State) (core : Nat) (p : Copy → Bool) : State :=
  s.setCo core fun co => { co with copies := co.copies.filter fun c => !p c }

/-- A copy taken. -/
def State.addCopy (s : State) (core : Nat) (c : Copy) : State :=
  s.setCo core fun co => { co with copies := co.copies ++ [c] }

/-! ### Machine-check events and counters -/

/-- An event of a bank (22 R437): severity, type, source, context, syndrome, address, misc. -/
structure McEvent where
  bank : Nat
  sev : Nat
  type : Nat
  skind : Nat
  sidx : Nat
  ctx : Option Nat := none
  synd : Nat := 0
  addr : Option DWord := none
  misc0 : DWord := 0
  misc1 : DWord := 0

/-- MCiSTAT of an event (22 R436). -/
def McEvent.stat (e : McEvent) (past : Bool) : DWord :=
  BitVec.ofNat 64 (2 ^ 63 + (if past then 2 ^ 62 else 0) + e.sev * 2 ^ 60 + (if e.addr.isSome then 2 ^ 59 else 0)
    + (if e.ctx.isSome then 2 ^ 58 else 0) + e.type * 2 ^ 48 + e.skind * 2 ^ 44 + e.sidx * 2 ^ 32
    + e.ctx.getD 0 * 2 ^ 16 + e.synd % 2 ^ 16)

/-- The plain whose control core a contained event of the source interrupts (22 R437). -/
def McEvent.plain (e : McEvent) : Nat :=
  match e.skind with
  | 0 => e.sidx / 48
  | 1 => e.sidx / 12
  | 2 => e.sidx
  | 3 => 4 * e.sidx
  | _ => 0

/-- An interrupt raised to a plain's control core. -/
def State.raiseIrq (s : State) (p : Nat) : State := { s with irqs := if s.irqs.contains p then s.irqs else s.irqs ++ [p] }

/-- An event acts in its bank (22 R437). -/
def State.logMc (s : State) (e : McEvent) : State :=
  let b := Tab.getD e.bank {} s.banks
  let val := b.stat.getLsbD 63
  let heldSev := (b.stat.toNat / 2 ^ 60) % 4
  let cnt := if e.sev = 1 then (if b.cnt < 2 ^ 32 - 1 then b.cnt + 1 else b.cnt) else b.cnt
  let take := !val || decide (e.sev > heldSev)
  let b' : Bank :=
    if take then ⟨e.stat (val), e.addr.getD 0, e.misc0, e.misc1, cnt⟩
    else { b with stat := b.stat ||| (BitVec.ofNat 64 (2 ^ 62)), cnt := cnt }
  let s := { s with banks := Tab.put e.bank b' s.banks }
  if take && e.sev == 2 then s.raiseIrq e.plain
  else if e.sev == 3 then (List.range 16).foldl State.raiseIrq s
  else s

/-- A core's event counter up by one, modulo 2^48 (22 R439). -/
def State.count (s : State) (core n : Nat) : State :=
  { s with counters := Tab.put (16 * core + n) ((Tab.getD (16 * core + n) 0 s.counters + 1) % 2 ^ 48) s.counters }

/-- The device cluster index of a core, its plain, its die (18 R387). -/
def clusterOfCore (c : Nat) : Nat := c / 4
def plainOfCore (c : Nat) : Nat := c / 48
def plainOfCluster (n : Nat) : Nat := n / 12
def dieOfPlain (q : Nat) : Nat := q / 4

/-- A device register, or its reset value (17 to 22). -/
def regReset (i : Nat) : DWord :=
  match i with
  | 0x510 => 1000      -- QUANT
  | 0x603 => 1000      -- LLEN
  | 0x604 => 1000      -- MSGLIFE
  | 0x607 => 10        -- WLOCAL
  | 0x608 => 100       -- RTO
  | 0x630 => 0x80000000 -- HOSTSEL
  | 0x718 => 20        -- REPLTGT
  | 0x720 => 0x800003E8 -- STCTL
  | 0x721 => 0xF       -- STSTAT
  | _ =>
      if 0x700 ≤ i ∧ i ≤ 0x70B then   -- SUPMAP: a cluster on the supply of its die's number (22 R423)
        BitVec.ofNat 64 ((List.range 16).foldl (fun n j => n + dieOfPlain (plainOfCluster (16 * (i - 0x700) + j)) * 4 ^ j) 0)
      else 0
def State.reg (s : State) (i : Nat) : DWord := Tab.getD i (regReset i) s.regs
def State.setReg (s : State) (i : Nat) (v : DWord) : State := { s with regs := Tab.put i v s.regs }

end Sys2Proof.Machine
end

