-- ==== Sys2Proof/Machine/Regs.lean ====
section
/-! DEFINITION. Registers of a thread: special registers (02 R51), reading and writing by specifier
(02 R46 to R49, 06 R168), and the row-register pool: entries, conversion to recipe form, spilling
(02 R55 to R63). -/

namespace Sys2Proof.Machine

/-! ### Special registers -/

/-- The channel status word (12 R307). -/
def Chan.word (c : Chan) : DWord := BitVec.ofNat 64 (c.st * 2 ^ 28 + c.code * 2 ^ 24 + c.done % 2 ^ 16)

/-- Repeat state as it stands in tst1 and tst2 (08 R214). -/
def repBits (r : Option Rep) : Nat :=
  match r with
  | none => 0
  | some r => 2 ^ 31 + r.d.toNat * 2 ^ 25 + r.a.toNat * 2 ^ 22 + r.b.toNat * 2 ^ 19 + r.idx * 2 ^ 13 + r.tot * 2 ^ 6

/-- The predicate n: p7 is always true (02 R51). -/
def Thread.pred (t : Thread) (n : Nat) : Bool := n == 7 || t.p.getLsbD n

/-- A special register's value (02 R51), 32-bit ones zero-extended. -/
def State.spRead (s : State) (k i : Nat) : DWord :=
  let t := s.th k
  let c := s.crewTh k
  let l := s.laTh k
  let n (x : Nat) : DWord := BitVec.ofNat 64 x
  if i ≤ 7 then n (if t.pred i then 1 else 0)
  else if 0x10 ≤ i ∧ i ≤ 0x1B then n (Tab.getD (i - 0x10) 0 t.cf)
  else if 0x20 ≤ i ∧ i ≤ 0x23 then ((t.loops[i - 0x20]?).map fun x => x.lc.setWidth 64).getD 0
  else if 0x24 ≤ i ∧ i ≤ 0x27 then ((t.loops[i - 0x24]?).map fun x => x.ls).getD 0
  else if 0x28 ≤ i ∧ i ≤ 0x2B then ((t.loops[i - 0x28]?).map fun x => x.le).getD 0
  else if 0x30 ≤ i ∧ i ≤ 0x3F then let b := Tab.getD (i - 0x30) {} c.bar; n (b.phase * 2 ^ 16 + b.arr)
  else if 0x40 ≤ i ∧ i ≤ 0x4F then n (Tab.getD (i - 0x40) {} c.cv).awaited
  else if 0x50 ≤ i ∧ i ≤ 0x53 then (Tab.getD (i - 0x50) {} c.ch).word
  else if 0x58 ≤ i ∧ i ≤ 0x5F then
    if l.rcd.fsmask.testBit (i - 0x58) then ((l.slots[i - 0x58]?).map fun x => x.word0.setWidth 64).getD 0 else 0
  else match i with
    | 0x60 => n (laneOf k) | 0x61 => n (rowOf k) | 0x62 => n (partOf k) | 0x63 => n (tidOf k)
    | 0x64 => n (if c.handler then 255 else c.crew) | 0x65 => n c.valley | 0x66 => n c.plain | 0x67 => n c.die
    | 0x68 => n l.dies.length | 0x69 => n l.dev | 0x6A => n l.phase | 0x6B => n l.rcd.threads
    | 0x6C => n l.rcd.crews | 0x6D => n l.rcd.valleys | 0x6E => n l.rcd.plains | 0x6F => n l.rcd.devs
    | 0x80 => n s.cycle | 0x81 => t.fflg.setWidth 64 | 0x82 => t.fmode.setWidth 64 | 0x83 => t.rng.setWidth 64
    | 0xC0 => t.tpc1 | 0xC1 => t.tca1.setWidth 64 | 0xC2 => t.tva1 | 0xC3 => t.tst1.setWidth 64
    | 0xC8 => t.tpc2 | 0xC9 => t.tca2.setWidth 64 | 0xCA => t.tva2 | 0xCB => t.tst2.setWidth 64
    | _ => 0

/-- A predicate written; p7 ignores it (06 R168). -/
def Thread.setPred (t : Thread) (n : Nat) (b : Bool) : Thread :=
  if n < 7 then { t with p := if b then t.p ||| (1#7 <<< n) else t.p &&& ~~~(1#7 <<< n) } else t

/-- fmode after a write: RM 0b100 to 0b111 leaves RM unchanged (02 R52). -/
def fmodeWrite (old new : BitVec 6) : BitVec 6 :=
  if new.getLsbD 2 then (new &&& 0x38) ||| (old &&& 0x07) else new

/-- A special register written (02 R51): read-only ones ignore it, reserved bits read 0. -/
def Thread.spWrite (t : Thread) (i : Nat) (v : DWord) : Thread :=
  match i with
  | 0x81 => { t with fflg := v.setWidth 5 }
  | 0x82 => { t with fmode := fmodeWrite t.fmode (v.setWidth 6) }
  | 0x83 => { t with rng := if v.setWidth 32 = (0 : Word) then 1 else v.setWidth 32 }
  | 0xC0 => { t with tpc1 := v &&& 0x00FFFFFFFFFFFFFF }
  | 0xC1 => { t with tca1 := (v &&& 0xFF).setWidth 32 }
  | 0xC2 => { t with tva1 := v }
  | 0xC3 => { t with tst1 := (v.setWidth 32) &&& 0xFFFFFFDF }
  | 0xC8 => { t with tpc2 := v &&& 0x00FFFFFFFFFFFFFF }
  | 0xC9 => { t with tca2 := (v &&& 0xFF).setWidth 32 }
  | 0xCA => { t with tva2 := v }
  | 0xCB => { t with tst2 := v.setWidth 32 }
  | _ => if i ≤ 6 then t.setPred i (v.setWidth 32 != (0 : Word)) else t

/-! ### Reading -/

/-- The word a thread reads of a general register, as far as it is held as a value (02 R55). -/
def Thread.vget (t : Thread) (i : Nat) : Word := Tab.getD i 0 t.v

/-- Even and odd halves as one value (02 R48). -/
def pairOf (lo hi : Word) : DWord := hi ++ lo

/-- A specifier's value at a width in registers (02 R46 to R49): an immediate sign-extended. -/
def State.regRead (s : State) (k : Nat) (sp : Spec) (w : Nat) : DWord :=
  match sp with
  | .v i =>
      if w = 1 then ((s.th k).vget i.toNat).setWidth 64
      else pairOf ((s.th k).vget i.toNat) ((s.th k).vget (i.toNat + 1))
  | .k i =>
      let kb := (s.laTh k).kbank
      if w = 1 then (kb.getD i.toNat 0).setWidth 64
      else pairOf (kb.getD i.toNat 0) (kb.getD (i.toNat + 1) 0)
  | .sp i => let v := s.spRead k i.toNat; if w = 1 then (v.setWidth 32).setWidth 64 else v
  | .imm i => if w = 1 then (i.signExtend 32).setWidth 64 else i.signExtend 64

/-- A 32-bit operand. -/
def State.r32 (s : State) (k : Nat) (sp : Spec) : Word := (s.regRead k sp 1).setWidth 32
/-- A 64-bit operand. -/
def State.r64 (s : State) (k : Nat) (sp : Spec) : DWord := s.regRead k sp 2

/-- What value functions read of a thread. -/
def State.rd (s : State) (k : Nat) : Rd :=
  { reg := fun sp w => s.regRead k sp w
    pred := (s.th k).pred
    fmode := (s.th k).fmode
    rng := (s.th k).rng
    slot := fun n => if (s.laTh k).rcd.fsmask.testBit n then (s.laTh k).slots[n]? else none }

/-- Whether a thread is in a repetition after the first of a repeat whose RPT was guarded off for it (08 R210). -/
def Thread.idles (t : Thread) : Bool := t.idle.contains t.tlvl && t.rep.any fun r => decide (0 < r.idx)

/-- The guard of a thread (06 R151); false in the repetitions that R210 guards off. -/
def State.guard (s : State) (k : Nat) (g : Guard) : Bool := !(s.th k).idles && ((s.th k).pred g.p.toNat) != g.neg

/-! ### The row-register pool -/

/-- The state of a row-register, none for unwritten (02 R55). -/
def State.rreg (s : State) (r g : Nat) : Option RowReg := Tab.find g (s.rw r).regs

/-- Whether a row-register's lane is held as recipe (02 R55). -/
def State.inRecipe (s : State) (k g : Nat) : Bool :=
  match s.rreg (rowKey k) g with
  | some x => (x.form == .recipe || x.form == .mixed) && x.lmask.getLsbD (laneOf k)
  | none => false

/-- Whether a form takes an entry. -/
def RowReg.entry (x : RowReg) : Bool := x.form == .value || x.form == .mixed

/-- Entries a row holds, those in the reserve aside. -/
def Row.entries (r : Row) : Nat := (r.regs.filter fun (_, x) => x.entry && !x.reserve).length

/-- FLOOR of a row's launch. -/
def State.floorRow (s : State) (r : Nat) : Nat := (s.la (s.cr (r / 128)).launch).rcd.floor

/-- Rows resident on a partition. -/
def State.partRows (s : State) (p : Nat) : List (Nat × Row) := s.rows.filter fun (r, _) => s.partRow r == p

/-- Entries free beyond every floor and the reserve (02 R57 step 1). -/
def State.freeEntries (s : State) (p : Nat) : Nat :=
  let need := (s.partRows p).foldl (fun n (r, x) =>
    n + (if s.floorRow r ≤ x.entries then x.entries else s.floorRow r)) 0
  Config.poolEntries - Config.reserveEntries - need

/-- Entries that the other rows of a row's partition hold. -/
def State.heldBeside (s : State) (r : Nat) : Nat :=
  (s.rows.filter fun e => e.1 != r).foldl (fun n (q, x) => if s.partRow q = s.partRow r then n + x.entries else n) 0

/-- How many entries a row can have of its floor: those on loan to other rows are not there to take (02 R56, R57). -/
def State.floorLeft (s : State) (r : Nat) : Nat :=
  Nat.min (s.floorRow r) (Config.poolEntries - Config.reserveEntries - s.heldBeside r)

/-- Entries a launch's rows hold on a partition (01 R44, VCAP). -/
def State.launchEntries (s : State) (p l : Nat) : Nat :=
  (s.partRows p).foldl (fun n (r, x) => if (s.cr (r / 128)).launch = l then n + x.entries else n) 0

/-- Whether one more entry keeps the launch within VCAP (02 R56). -/
def State.capOk (s : State) (p l : Nat) : Bool :=
  let v := (s.la l).rcd.vcap
  v == 0 || decide (s.launchEntries p l < v)

/-- Whether a row-register has a descriptor: some lane of it is held as recipe (02 R55, R64). -/
def RowReg.isRecipe (x : RowReg) : Bool := x.form == .recipe || x.form == .mixed || (x.form == .spilled && x.lmask != 0)

/-- Descriptors in use in a partition's recipe store (02 R63). -/
def State.descs (s : State) (p : Nat) : Nat :=
  (s.partRows p).foldl (fun n (_, x) => n + (x.regs.filter fun (_, y) => y.isRecipe).length) 0

/-- The eligibility entry of a register for a thread (02 R60). -/
def Thread.eligOf (t : Thread) (g : Nat) : Option Elig := t.elig.find? fun e => e.reg == g

/-- Registers of a thread whose value is still pending (01 R34). -/
def State.pendingRegs (s : State) (k : Nat) : List Nat :=
  s.ops.flatMap fun (_, o) => if o.th = k then o.pend else []

/-- Whether a row-register may be converted to recipe form (02 R63); the descriptor it would get. -/
def State.convertible (s : State) (r g : Nat) : Option Elig :=
  let live := (s.rowThreads r).filter s.live
  match s.rreg r g, live with
  | some x, k :: _ =>
      match (s.th k).eligOf g with
      | some e =>
          if x.form = .value
            ∧ live.all (fun j => match (s.th j).eligOf g with | some e' => e'.saddr == e.saddr | none => false)
            ∧ live.all (fun j => !(s.pendingRegs j).contains g)
            ∧ ¬ (s.pt (s.partRow r)).busy.contains (r, g) ∧ ¬ (s.pt (s.partRow r)).ending.contains (r, g)
            ∧ s.descs (s.partRow r) < Config.recipeStore
          then some e else none
      | none => none
  | _, _ => none

/-- A row-register converted to recipe form (02 R63): its words are no longer held. -/
def State.convert (s : State) (r g : Nat) (e : Elig) : State :=
  let live := (s.rowThreads r).filter s.live
  let s := live.foldl (fun s k => s.setTh k fun t => { t with v := Tab.drop g t.v }) s
  s.setRw r fun x => { x with regs := Tab.modify g (fun y =>
    { y with form := .recipe, lmask := BitVec.ofNat 32 (listMask (live.map laneOf)), depth := e.depth, len := e.len,
             saddr := e.saddr, reserve := false, bad := 0 }) x.regs }

/-- When a row-register's eligibility began: when the last live thread of its row made it eligible
(13 R329). -/
def State.eligBegan (s : State) (r g : Nat) : Nat :=
  ((s.rowThreads r).filter s.live).foldl (fun m k => match (s.th k).eligOf g with
    | some e => if m < e.seq then e.seq else m
    | none => m) 0

/-- The row-register of a row that is converted first (13 R329): the one eligible longest, a tie to the
lower index. -/
def State.firstConvertible (s : State) (r : Nat) : Option (Nat × Elig) :=
  ((s.rw r).regs.foldl (fun (best : Option (Nat × Nat × Elig)) (g, _) =>
    match s.convertible r g with
    | none => best
    | some e =>
        let n := s.eligBegan r g
        match best with
        | some (m, h, _) => if n < m ∨ (n = m ∧ g < h) then some (n, g, e) else best
        | none => some (n, g, e)) none).map fun (_, g, e) => (g, e)

/-- The IMG slot of a row-register in the save area that CSAVE names (02 R57, 16 R351). -/
def State.imgAddr (s : State) (r g : Nat) : Nat :=
  let c := s.cr (r / 128)
  let base := Tab.getD c.core 0 (s.cx c.ctx).csave
  base.toNat + 0x1000 + ((s.rw r).img * (s.la c.launch).rcd.regs + g) * 128

/-- A row-register spilled (02 R57 step 4): the words it holds; lanes held as recipe keep their descriptor. -/
def State.spill (s : State) (r g : Nat) : State :=
  let a := s.imgAddr r g
  let bytes := (List.range 32).flatMap fun l => leBytes 4 ((s.th (laneKey r l)).vget g).toNat
  let s := s.homeStore a bytes
  let s := (s.rowThreads r).foldl (fun s k => s.setTh k fun t => { t with v := Tab.drop g t.v }) s
  let s := s.setRw r fun x => { x with regs := Tab.modify g (fun y => { y with form := .spilled, reserve := false, skip := 0 }) x.regs }
  s.count (s.cr (r / 128)).core 1

/-- The row's least recently used value-form row-register (02 R57 step 4). -/
def State.lru (s : State) (r : Nat) : Option Nat :=
  let busy := (s.pt (s.partRow r)).busy
  ((s.rw r).regs.foldl (fun (best : Option (Nat × Nat)) (g, x) =>
    if x.form = .value ∧ ¬ x.reserve ∧ ¬ busy.contains (r, g) then
      match best with
      | some (_, u) => if x.used < u then some (g, x.used) else best
      | none => some (g, x.used)
    else best) none).map (·.1)

/-- The row of a partition, other than `r`, that gives up an entry at step 3 (13 R329): above its floor by the
most entries, a tie to the lower row slot. -/
def State.donorRow (s : State) (r : Nat) : Option (Nat × Nat × Elig) :=
  let p := s.partRow r
  let l := (s.cr (r / 128)).launch
  ((s.partRows p).foldl (fun (best : Option ((Nat × Nat) × (Nat × Nat × Elig))) (r', x) =>
    if r' ≠ r ∧ x.entries > s.floorRow r' ∧ (s.capOk p l ∨ (s.cr (r' / 128)).launch = l) then
      match s.firstConvertible r' with
      | none => best
      | some (g, e) =>
          let past := x.entries - s.floorRow r'
          match best with
          | some ((o, slot), _) => if past > o ∨ (past = o ∧ x.slot < slot) then some ((past, x.slot), (r', g, e)) else best
          | none => some ((past, x.slot), (r', g, e))
    else best) none).map (·.2)

/-- Steps 1 to 3 of 02 R57 for a row: the state with an entry to take, or none. A row below its floor takes one
from its floor; where that one is on loan, or its launch is at VCAP, the row that borrowed gives one up. -/
def State.findEntry (s : State) (r : Nat) : Option State :=
  let p := s.partRow r
  let l := (s.cr (r / 128)).launch
  let own := if (s.rw r).entries < s.floorRow r then none else s.firstConvertible r
  if ((s.rw r).entries < s.floorLeft r ∨ s.freeEntries p > 0) ∧ s.capOk p l then some s
  else match own with
    | some (g, e) => some (s.convert r g e)
    | none => (s.donorRow r).map fun (r', g, e) => s.convert r' g e

/-- The row of a partition, of any launch or of one, that has borrowed the most entries, a tie to the lower row slot. -/
def State.borrower (s : State) (p : Nat) (of : Option Nat) : Option Nat :=
  ((s.partRows p).foldl (fun (best : Option (Nat × Nat × Nat)) (r, x) =>
    let past := x.entries - s.floorRow r
    if of.any (· != (s.cr (r / 128)).launch) ∨ past = 0 then best
    else match best with
      | some (o, slot, _) => if past > o ∨ (past = o ∧ x.slot < slot) then some (past, x.slot, r) else best
      | none => some (past, x.slot, r)) none).map fun (_, _, r) => r

/-- The row that spills at step 4 of 02 R57: the row itself, or the one that borrowed its floor's entry. -/
def State.spillRow (s : State) (r : Nat) : Nat :=
  let p := s.partRow r
  let l := (s.cr (r / 128)).launch
  if (s.rw r).entries < s.floorRow r then (s.borrower p (if s.capOk p l then none else some l)).getD r else r

/-- An entry for a row (02 R57): the fourth step spills. Where every register of the row is one of the instruction in issue,
so that none can be spilled, the entry comes from the reserve, which the end of the instruction settles (DEDUCED, log
entry 47). Gives whether it did. -/
def State.takeEntry (s : State) (r : Nat) : Bool × State :=
  match s.findEntry r with
  | some s' => (false, s')
  | none => match s.lru (s.spillRow r) with
    | some g => (false, s.spill (s.spillRow r) g)
    | none => (true, s)

/-- A spilled row-register reloaded (02 R57): lanes whose saved word is no longer theirs read 0. -/
def State.reload (s : State) (r g : Nat) : State :=
  match s.rreg r g with
  | some x =>
      if x.form = .spilled then
        let a := s.imgAddr r g
        let e := s.takeEntry r
        let s := (e.2.rowThreads r).foldl (fun s' k =>
          if x.skip.getLsbD (laneOf k) || x.lmask.getLsbD (laneOf k) then s'
          else s'.setTh k fun t => { t with v := Tab.put g (BitVec.ofNat 32 (leNat (e.2.coh (a + 4 * laneOf k) 4))) t.v }) e.2
        let s := s.setRw r fun x => { x with regs := Tab.modify g (fun y =>
          { y with form := if y.lmask = 0 then .value else .mixed, skip := 0, reserve := e.1 }) x.regs }
        s.count (s.cr (r / 128)).core 1
      else s
  | none => s

/-- A row-register made ready for a write by one lane (02 R55, R57, R61): an entry is held, and the
lane leaves the descriptor. -/
def State.openReg (s : State) (k g : Nat) : State :=
  let r := rowKey k
  match s.rreg r g with
  | none =>
      let e := s.takeEntry r
      e.2.setRw r fun x => { x with regs := Tab.put g { form := .value, used := s.cycle, reserve := e.1 } x.regs }
  | some x =>
      let e := if x.form = .recipe then s.takeEntry r else (false, s.reload r g)
      e.2.setRw r fun y => { y with regs := Tab.modify g (fun z =>
        let m := if z.form = .value then 0 else z.lmask &&& ~~~(1#32 <<< laneOf k)
        { z with form := if m = 0 then .value else .mixed, lmask := m, used := s.cycle, reserve := z.reserve || e.1
                 faults := z.faults.filter fun (l, _) => l != laneOf k, bad := z.bad &&& ~~~(1#32 <<< laneOf k) }) y.regs }

/-- Eligibility ended: of the register itself and of everything pinned on it (02 R60, R61). -/
def Thread.endElig (t : Thread) (g : Nat) : Thread :=
  { t with elig := t.elig.filter fun e => e.reg != g && !e.pins.contains g }

/-- A word put into one general register of a thread (02 R55). -/
def State.putV (s : State) (k g : Nat) (v : Word) : State :=
  (s.openReg k g).setTh k fun t => { t with v := Tab.put g v t.v, dropped := t.dropped.filter (· != g) }

/-- A write to one general register of a thread (06 R168, 02 R55, R60). -/
def State.writeV (s : State) (k g : Nat) (v : Word) : State :=
  (s.openReg k g).setTh k fun t =>
    { t.endElig g with v := Tab.put g v t.v, dropped := t.dropped.filter (· != g) }

/-- Words put into consecutive general registers. -/
def State.putVs (s : State) (k g : Nat) : List Word → State
  | [] => s
  | v :: t => (s.putV k g v).putVs k (g + 1) t

/-- Consecutive general registers written. -/
def State.writeVs (s : State) (k g : Nat) : List Word → State
  | [] => s
  | v :: t => (s.writeV k g v).writeVs k (g + 1) t

/-- RegWrite (06 R168) at a width in registers. -/
def State.regWrite (s : State) (k : Nat) (sp : Spec) (w : Nat) (v : DWord) : State :=
  match sp with
  | .v i =>
      if w = 1 then s.writeV k i.toNat (v.setWidth 32)
      else (s.writeV k i.toNat (v.setWidth 32)).writeV k (i.toNat + 1) ((v >>> 32).setWidth 32)
  | .sp i => s.setTh k fun t => t.spWrite i.toNat (if w = 1 then (v.setWidth 32).setWidth 64 else v)
  | _ => s

/-- PredWrite by a specifier of class 0b10 (06 R168). -/
def State.predWrite (s : State) (k : Nat) (sp : Spec) (b : Bool) : State :=
  match sp with
  | .sp i => s.setTh k fun t => t.setPred i.toNat b
  | _ => s

/-- SetFlags (06 R168). -/
def State.setFlags (s : State) (k : Nat) (f : BitVec 5) : State :=
  if f = 0 then s else s.setTh k fun t => { t with fflg := t.fflg ||| f }

/-- What a value function gave, written (06 R168): the destination, the flags, the rng. -/
def State.writeOut (s : State) (k : Nat) (d : Spec) (w : Nat) (o : Out) : State :=
  let s := match o.rng with
    | some r => s.setTh k fun t => { t with rng := r }
    | none => s
  (s.setFlags k o.fl).regWrite k d w o.v

/-- A row-register that every live lane of its row has dropped is unwritten again (02 R55). -/
def State.freeDropped (s : State) (r g : Nat) : State :=
  let js := (s.rowThreads r).filter s.live
  if js.all fun j => (s.th j).dropped.contains g then
    (js.foldl (fun s j => s.setTh j fun t => { t with dropped := t.dropped.filter (· != g) }) s).setRw r
      fun x => { x with regs := Tab.drop g x.regs }
  else s

/-- A lane that gives up what a row-register holds of it: its word, its place in the descriptor, its fault. -/
def RowReg.leave (lane : Nat) (y : RowReg) : RowReg :=
  let m := y.lmask &&& ~~~(1#32 <<< lane)
  { y with lmask := m, form := if y.form = .mixed ∧ m = 0 then .value else y.form
           skip := if y.form = .spilled then y.skip ||| (1#32 <<< lane) else y.skip, faults := y.faults.filter fun f => f.1 != lane
           bad := y.bad &&& ~~~(1#32 <<< lane) }

/-- A register dropped in a thread's lane (10 R260). -/
def State.dropReg (s : State) (k g : Nat) : State :=
  let s := s.setTh k fun t =>
    { t.endElig g with v := Tab.drop g t.v
                       dropped := if t.dropped.contains g then t.dropped else t.dropped ++ [g]
                       affine := t.affine.filter fun n => 16 * n != g }
  (s.setRw (rowKey k) fun x => { x with regs := Tab.modify g (RowReg.leave (laneOf k)) x.regs }).freeDropped (rowKey k) g

end Sys2Proof.Machine
end

