-- ==== Sys2Proof/Machine/Memory.lean ====
section
/-! DEFINITION. Memory operations as the ordering chapter has them (04, 05, 11 R275 to R286): where an
access acts, what a load reads, when a store or atomic is performed, leases and the probe queue.
An issued operation stands in `State.ops` until it is performed, and a load or returning atomic until
its result is written back. -/

namespace Sys2Proof.Machine

/-! ### Places -/

/-- The first address of a place, and whether two places lie in one storage: the copies of a replicated page stand in memory
(04 R114, R117). -/
def Where.addr : Where → Nat
  | .mem a | .host a => a
  | .repl l => l.headD 0
  | .remote _ a => a
  | .crewScratch _ o => o
  | .plainScratch _ _ o => o

def Where.sameStore : Where → Where → Bool
  | .mem _, .mem _ | .host _, .host _ => true
  | .repl _, .repl _ | .mem _, .repl _ | .repl _, .mem _ => true
  | .remote d _, .remote e _ => d == e
  | .crewScratch c _, .crewScratch d _ => c == d
  | .plainScratch l p _, .plainScratch m q _ => l == m && p == q
  | _, _ => false

/-- Every address of a place: of a replicated one each copy's. -/
def Where.addrs : Where → List Nat
  | .repl l => l
  | w => [w.addr]

/-- Where in one access's bytes another begins: they touch a byte in common. A replicated place touches in any copy. -/
def meetAt (w : Where) (n : Nat) (w' : Where) (n' : Nat) : Option (Nat × Nat) :=
  if w.sameStore w' then
    w.addrs.findSome? fun a => (w'.addrs.find? fun b => decide (a < b + n') && decide (b < a + n)).map fun b => (a, b)
  else none

/-- Whether two accesses touch a byte in common. -/
def overlaps (w : Where) (n : Nat) (w' : Where) (n' : Nat) : Bool := (meetAt w n w' n').isSome

/-- The local memory line of a place, where it has one. -/
def Where.line : Where → Option Nat
  | .mem a => some (lineOf a)
  | _ => none

/-- The holder of a lease on a line (11 R283). -/
def State.leaseHolder (s : State) (line : Nat) : Option Nat :=
  s.threads.findSome? fun (k, t) => if t.leases.any fun l => l.line == line then some k else none

/-- The bytes of a leased line as they stood when the lease was taken, which is all that others see of it (05 R131). -/
def State.shadowOf (s : State) (line : Nat) : Option (List Byte) :=
  s.threads.findSome? fun (_, t) => (t.leases.find? fun l => l.line == line).map fun l => l.shadow

/-- Bytes within one line as its home has them for others: of a leased line what stood there before. -/
def State.homeBytes (s : State) (pa n : Nat) : List Byte :=
  match s.shadowOf (lineOf pa) with
  | some b => (b.drop (pa % 128)).take n
  | none => s.coh pa n

/-- Whether a thread holds a lease on the line of a place (11 R284). -/
def State.holds (s : State) (k : Nat) (w : Where) : Bool :=
  match w.line with
  | some l => (s.th k).leases.any fun x => x.line == l
  | none => false

/-- Coherent bytes at a place. -/
def State.locRead (s : State) (w : Where) (n : Nat) : List Byte :=
  match w with
  | .mem a => s.coh a n
  | .repl l => s.coh (l.headD 0) n
  | .host a => (List.range n).map fun i => readByte s.mem (hostBase + a + i)
  | .remote _ _ => List.replicate n 0
  | .crewScratch c o => (List.range n).map fun i => Tab.getD (o + i) 0 (s.cr c).scratch
  | .plainScratch l p o => (List.range n).map fun i => Tab.getD (o + i) 0 (Tab.getD p [] (s.la l).pscr)

/-- Bytes put into a scratch; a zero byte is not listed. -/
def scratchPut (m : List (Nat × Byte)) (o : Nat) (bs : List Byte) : List (Nat × Byte) :=
  (numbered bs).foldl (fun m (i, b) => if b = 0 then Tab.drop (o + i) m else Tab.put (o + i) b m) m

/-- The poisoned sectors of scratches that a write leaves: those it covers whole are clean again (22 R434). -/
def cleanScratch (ps : List Where) (w : Where) (n : Nat) : List Where :=
  ps.filter fun p => !(w.sameStore p && decide (w.addr ≤ p.addr) && decide (p.addr + 32 ≤ w.addr + n))

/-- A write performed at a place: `own` says by exclusive ownership of the core's L1 (05 R128). -/
def State.locWrite (s : State) (own : Option Nat) (w : Where) (bs : List Byte) : State :=
  match w with
  | .mem a => match own with
      | some c => s.ownWrite c a bs
      | none => s.homeStore a bs
  | .repl l => l.foldl (fun s a => s.homeStore a bs) s
  | .host a => { s with mem := writeBytes s.mem (hostBase + a) bs }
  | .remote _ _ => s
  | .crewScratch c o =>
      State.setCr { s with scrPoison := cleanScratch s.scrPoison w bs.length } c fun x => { x with scratch := scratchPut x.scratch o bs }
  | .plainScratch l p o => State.setLa { s with scrPoison := cleanScratch s.scrPoison w bs.length } l fun x => { x with pscr := Tab.put p (scratchPut (Tab.getD p [] x.pscr) o bs) x.pscr }

/-! ### Pending operations -/

/-- Whether an operation writes. -/
def OpKind.writes : OpKind → Bool
  | .load => false
  | _ => true

/-- Whether an operation's result is written back to registers. -/
def OpKind.returns : OpKind → Bool
  | .load => true
  | .store => false
  | .atom _ r => r
  | .mbarr r => r

/-- Whether an operation is a memory-barrier arrival. -/
def OpKind.isMbarr : OpKind → Bool
  | .mbarr _ => true
  | _ => false

/-- An operation added; its number is the `seq` of the state before. -/
def State.newOp (s : State) (o : Op) : State := { s with ops := Tab.put s.seq { o with cyc := s.cycle } s.ops, seq := s.seq + 1 }
def State.setOp (s : State) (i : Nat) (f : Op → Op) : State := { s with ops := Tab.modify i f s.ops }
def State.dropOp (s : State) (i : Nat) : State :=
  { s with ops := Tab.drop i s.ops, remote := s.remote.filter fun r => r.op != i }
/-- Those of a list of operations that are still pending. -/
def State.stillPending (s : State) (l : List Nat) : List Nat := l.filter fun i => (Tab.find i s.ops).isSome
/-- A thread's pending operations that satisfy a predicate. -/
def State.opsOf (s : State) (k : Nat) (p : Op → Bool) : List Nat :=
  (s.ops.filter fun (_, o) => o.th == k && p o).map (·.1)

/-- The remote requests that hold a thread at its instruction (20 R402, 01 R26). -/
def State.heldOps (s : State) (k : Nat) : List (Nat × Op) := s.ops.filter fun (_, o) => o.th == k && o.held.isSome
/-- The one that says how the instruction stands: a request still out, else one that failed, else any. -/
def State.heldOp (s : State) (k : Nat) : Option (Nat × Op) :=
  let l := s.heldOps k
  ((l.find? fun (_, o) => o.held == some .sent).or (l.find? fun (_, o) => o.held != some .ok)).or l.head?

/-- Whether a thread's request is still out. -/
def Op.out (o : Op) : Bool := o.held == some .sent

/-- A store that every thread of its crew sees though it is not yet performed: it stands in the crew's L1 (05 R128). -/
def Op.inView (o : Op) : Bool := o.kind == .store && !o.probing && o.held.isNone && (match o.loc with | .mem _ | .repl _ => true | _ => false)

/-- Bytes with those of pending stores laid over them, where `pick` takes the store; and the stores taken. -/
def State.layOver (s : State) (pick : Nat → Op → Bool) (w : Where) (bs : List Byte) : List Byte × List Nat :=
  s.ops.foldl (fun (acc : List Byte × List Nat) (j, p) =>
    match (if p.kind = .store ∧ pick j p then meetAt w bs.length p.loc p.size else none) with
    | some (a, b) =>
        ((List.range bs.length).map (fun i => if b ≤ a + i ∧ a + i < b + p.size then p.data.getD (a + i - b) 0 else acc.1.getD i 0), acc.2 ++ [j])
    | none => acc) (bs, [])

/-- Bytes of the crew's own pending stores laid over what a read found (05 R128): the thread's own earlier ones, and those of
other threads of the crew, but for such as come after a later write of its own to those bytes (05 R124). In a scratch only the
thread's own. Gives the bytes and the stores of others read. -/
def State.overlay (s : State) (id : Nat) (o : Op) (bs : List Byte) : List Byte × List Nat :=
  let later := s.ops.find? fun (j, p) => p.th == o.th && decide (id < j) && p.kind.writes && overlaps p.loc p.size o.loc bs.length
  let mate (j : Nat) (p : Op) : Bool := p.th != o.th && p.crew == o.crew && p.inView && !(later.any fun (i, _) => decide (i < j))
  let r := s.layOver (fun j p => (p.th == o.th && decide (j < id)) || mate j p) o.loc bs
  (r.1, r.2.filter fun j => (Tab.find j s.ops).any (mate j))

/-- A line's 128 coherent bytes. -/
def State.lineBytes (s : State) (line : Nat) : List Byte := s.coh line 128

/-- What a load reads when it is performed (04 R111, R113, 05 R122, R128): the bytes, the crew's
pending stores it read, and the state with the copies it leaves in the L1. -/
def State.loadBytes (s : State) (id : Nat) (o : Op) : List Byte × List Nat × State :=
  match o.loc with
  | .mem a =>
      let line := lineOf a
      let rt := if s.holds o.th o.loc then .own else o.rtype
      match rt with
      | .ro =>
          match s.copyOf o.core none line (· == .ro o.crew) with
          | some c => (c.read a o.size, (s.overlay id o (c.read a o.size)).2, s)
          | none =>
              let r := s.overlay id { o with loc := .mem line } (s.lineBytes line)
              ((r.1.drop (a % 128)).take o.size, r.2, s.addCopy o.core ⟨.ro o.crew, none, line, r.1, 0⟩)
      | .si =>
          match s.copyOf o.core none line CopyKind.isSi with
          | some c => let r := s.overlay id o (c.read a o.size); (r.1, r.2, s)
          | none =>
              let b := s.lineBytes line
              let r := s.overlay id o ((b.drop (a % 128)).take o.size)
              (r.1, r.2, s.addCopy o.core ⟨.si, none, line, b, 0⟩)
      | _ =>
          let r := s.overlay id o (s.coh a o.size)
          (r.1, r.2, s.refreshSi o.core none a r.1)
  | w => let r := s.overlay id o (s.locRead w o.size); (r.1, r.2, s)

/-- A thread that has read pending stores of its crew: a later release of it waits for them (05 R126). -/
def State.observe (s : State) (k : Nat) (js : List Nat) : State :=
  if js.isEmpty then s else s.setTh k fun t => { t with observed := (t.observed ++ js).eraseDups }

/-! ### Atomic functions -/

/-- The new value of an ATOM (11 R281): operand `b`, and `sw` for .cas. -/
def atomNew (fn : Nat) (t : VType) (old b sw : Nat) : Nat :=
  let w := t.bits
  let m := 2 ^ w
  let sg (x : Nat) : Int := intOf t (BitVec.ofNat 64 x)
  let fp (f : Nat → Nat → Nat × Fp.Flags) : Nat :=
    match t with
    | .f16 | .bf16 => (f (old % 65536) (b % 65536)).1 + 65536 * (f (old / 65536 % 65536) (b / 65536 % 65536)).1
    | _ => (f old b).1
  match fn with
  | 0 => (old + b) % m
  | 1 => if sg b < sg old then b else old
  | 2 => if sg old < sg b then b else old
  | 3 => old &&& b
  | 4 => old ||| b
  | 5 => old ^^^ b
  | 6 => b
  | 7 => if old ≥ b then 0 else old + 1
  | 8 => if old = 0 ∨ old > b then b else old - 1
  | 9 => if old = b then sw else old
  | 10 => fp fun x y => Fp.roundTo t.fmt .rn false (Fp.add false (Fp.decode t.fmt x) (Fp.decode t.fmt y))
  | 11 => fp fun x y => Fp.minMax t.fmt false false x y
  -- a draw from a launch's pool (15 R332): no function of ATOM
  | 34 => if old < b then old + 1 else old
  | _ => fp fun x y => Fp.minMax t.fmt true false x y

/-- Bytes an ATOM of a type touches: a packed pair is one word (11 R281). -/
def atomBytes (t : VType) : Nat := if t.rw = 2 then 8 else 4

/-- Phases completed by arrivals (11 R294): at most `fuel` of them. -/
def phaseLoop : Nat → Nat → Nat → Nat → Nat × Nat
  | 0, _, arr, ph => (arr, ph)
  | n + 1, e, arr, ph => if arr ≥ e then phaseLoop n e (arr - e) (ph + 1) else (arr, ph)

/-- The 16 bytes of a memory barrier after c arrivals (11 R294). -/
def mbarrNew (o : List Byte) (c : Nat) : List Byte :=
  let f (i : Nat) := leNat ((o.drop (4 * i)).take 4)
  let e := f 0
  let ph := f 2
  let arr := f 1 + c
  let r : Nat × Nat :=
    if e = 0 then (if c > 0 then (0, ph + 1) else (arr, ph))
    else (arr % e, ph + arr / e)
  leBytes 4 e ++ leBytes 4 (r.1 % 2 ^ 32) ++ leBytes 4 (r.2 % 2 ^ 32) ++ leBytes 4 (f 3)

/-! ### Performing -/

/-- The key under which an engine's own operations stand in `State.ops`. -/
def engKey (owner : Nat) : Nat := 2 ^ 60 + owner

/-- Whether the line of a place is free for a thread: no other thread leases it (05 R131), no engine owns it (R135). -/
def State.lineFree (s : State) (k : Nat) (w : Where) : Bool :=
  match w.line with
  | some l => (match s.leaseHolder l with
      | some h => h == k
      | none => true) && !(s.engOwned.any fun (x, w) => x == l && engKey w != k)
  | none => true

/-- Whether nothing holds an operation back (05 R124 to R128, R131, R135, R143, 01 R41, 11 R275): no earlier
access to its bytes goes before it, of its crew, its thread or its instruction, no other thread holds a lease on its line, no engine owns its line, its scratch's
crew has started, and the domain time it waits for has come. -/
def State.enabled (s : State) (id : Nat) (o : Op) : Bool :=
  !(s.ops.any fun (j, p) => decide (j < id) && overlaps p.loc p.size o.loc o.size
        && ((p.crew == o.crew && p.kind.writes && o.kind.writes)
            || (p.crew != o.crew && p.cyc == o.cyc && (p.kind.writes || o.kind.writes))
            || (p.th == o.th && p.early.isNone && !(p.kind == .store && o.kind == .load)
                && !(p.kind == .load && p.rtype == .ro))))
  && s.lineFree o.th o.loc
  && (match o.loc with
      | .crewScratch c _ => (s.cr c).started
      | _ => true)
  && (match o.notBefore with
      | some t => decide (t ≤ s.ns)
      | none => true)
  && (match o.acq with
      | some sc => sc == .crew || sc == .valley ||
          (s.opsOf o.th fun p => p.kind == .store && (p.rtype == .wt || p.rtype == .si)).isEmpty
      | none => true)

/-- The latest end of a remote read lease on a line, with the guard of 40 ns (05 R143), in domain time; a home whose clock is not
within 20 ns counts its own cycles, four to a nanosecond (20 R405, log entry 61). -/
def State.leaseUntil (s : State) (line : Nat) : Option Nat :=
  let freed (r : ReadLease) : Nat := if s.ptpErr.toNat ≤ 20 then r.ends + 40 else s.ns + (r.lastCycle - s.cycle + 3) / 4
  (s.readLeases.filter fun r => r.line == line && decide (s.ns < freed r)).foldl
    (fun acc r => match acc with
      | some t => some (if t < freed r then freed r else t)
      | none => some (freed r)) none

/-- The write half of an operation at its place: new bytes for a store, an atomic or a barrier
arrival, with the old bytes. -/
def State.newBytes (s : State) (o : Op) : List Byte × List Byte :=
  let old := s.locRead o.loc o.size
  match o.kind with
  | .load => (old, old)
  | .store => (old, o.data)
  | .atom fn _ =>
      let n := o.size
      (old, leBytes n (atomNew fn o.ty (leNat old) (leNat (o.data.take n)) (leNat (o.data.drop n))))
  | .mbarr _ => (old, mbarrNew old (leNat o.data))

/-- A write, atomic or arrival performed (05 R128, 11 R282): the state and the old bytes. One to a line its thread has
leased acts on the L1's copy, whatever its request type (11 R284). -/
def State.doWrite (s : State) (o : Op) : State × List Byte :=
  let r := s.newBytes o
  let own := if s.holds o.th o.loc ∨ (o.rtype = .own ∧ o.kind.isMbarr = false) then some o.core else none
  let s := s.locWrite own o.loc r.2
  (match o.loc with
   | .mem a => s.refreshSi o.core none a r.2
   | _ => s, r.1)

/-- A completion flag down by one (01 R32), in cycle `now`. -/
def Thread.cfDown (t : Thread) (f : Option Nat) (now : Nat) : Thread :=
  match f with
  | some n =>
      { t with cf := Tab.modify n (· - 1) t.cf, flagAt := if Tab.getD n 0 t.cf ≤ 1 then Tab.put n now t.flagAt else t.flagAt }
  | none => t

/-- Which of some bytes of a thread's frame have not been written since it started (04 R104). -/
def Thread.freshIn (t : Thread) (ofs n : Nat) : List Nat :=
  (List.range n).filter fun i => t.fresh.any fun (a, b) => decide (a ≤ ofs + i) && decide (ofs + i < b)

/-- Bytes of a thread's frame written. -/
def Thread.wroteFrame (t : Thread) (ofs n : Nat) : Thread :=
  { t with fresh := t.fresh.flatMap fun (a, b) =>
      [(a, if b < ofs then b else ofs), (if a < ofs + n then ofs + n else a, b)].filter fun (x, y) => decide (x < y) }

/-- The frame of the thread after a store of its own (04 R104). -/
def State.noteFrame (s : State) (o : Op) : State :=
  match o.kind, o.frame with
  | .store, some f => s.setTh o.th fun t => if t.fresh.isEmpty then t else t.wroteFrame f o.size
  | _, _ => s

/-- A result written back (01 R32, 11 R277, R280): elements of the type from the first register, narrow ones extended. What
was eligible there ended when the instruction issued; a slice whose last word is the load leaves its target eligible
(02 R60). -/
def State.deliver (s : State) (o : Op) (got : List Byte) : State :=
  let bs := if o.zero.isEmpty then got else (numbered got).map fun (i, b) => if o.zero.contains i then 0 else b
  let s := match o.dst with
    | none => s
    | some d =>
        match o.affine with
        | some n =>
            let ws := (List.range (bs.length / 4)).map fun i => BitVec.ofNat 32 (leNat ((bs.drop (4 * i)).take 4))
            (s.putVs o.th d ws).setTh o.th fun t => { t with affine := if t.affine.contains n then t.affine else t.affine ++ [n] }
        | none =>
            match o.kind with
            | .mbarr _ => s.putV o.th d (BitVec.ofNat 32 (leNat ((bs.drop 8).take 4)))
            | _ =>
              let e := if o.kind = OpKind.load then o.ty.bytes else o.size
              let els := (List.range (bs.length / e)).map fun i => leNat ((bs.drop (e * i)).take e)
              let ws := els.flatMap fun x =>
                if e = 8 then [BitVec.ofNat 32 x, BitVec.ofNat 32 (x / 2 ^ 32)]
                else if e = 4 then [BitVec.ofNat 32 x]
                else [(intPut o.ty x).setWidth 32]
              s.putVs o.th d ws
  if o.group.isSome && s.ops.any fun (_, p) => p.th == o.th && p.group == o.group then s
  else s.setTh o.th fun t => t.cfDown o.flag s.cycle

/-- What an acquire does when it is performed (05 R125): .si copies dropped at plain scope or wider. -/
def State.acquire (s : State) (core : Nat) (sc : Scope) : State :=
  match sc with
  | .crew | .valley => s
  | _ => s.dropCopies core fun c => c.kind.isSi

/-- The key under which an access that is no operation of a thread stands in `State.ops` while it waits for a line. -/
def knockKey (who : Nat) : Nat := 2 ^ 70 + who
/-- Whether an entry stands for such an access. -/
def Op.isKnock (o : Op) : Bool := decide (2 ^ 70 ≤ o.th)

/-- An enabled operation performed; one whose result returns is written back and gone. A write to a
line with remote read leases is put off (05 R143). -/
def State.performNow (s : State) (id : Nat) : State :=
  match Tab.find id s.ops with
  | none => s
  | some o =>
    let go : Bool := !o.isKnock && match o.loc with
      | .remote _ _ => o.kind == .load && o.early.isSome && o.dst.isSome && o.held.isNone
      | _ => o.held.isNone && s.enabled id o
    if go then
      match o.kind with
      | .load =>
          let r := match o.early with
            | some b => (b, [], s)
            | none => s.loadBytes id o
          let s := ((r.2.2).observe o.th r.2.1).dropOp id
          let s := match o.acq with
            | some sc => s.acquire o.core sc
            | none => s
          s.deliver o r.1
      | _ =>
          match o.loc.line.bind s.leaseUntil with
          | some t => s.setOp id fun o => { o with notBefore := some t }
          | none =>
              let r := s.doWrite o
              let s := r.1.dropOp id
              let s := match o.acq with
                | some sc => s.acquire o.core sc
                | none => s
              if o.kind.returns then s.deliver o r.2 else s
    else s

/-- Queued accesses of lines served in queue order (11 R283, R285). One that is no operation of a thread makes its own access,
and those queued behind it are free after it (log entry 64). -/
def State.serve (s : State) (core : Nat) (lines : List Nat) : State :=
  let here (i : Nat) : Bool := match (Tab.find i s.ops).bind fun o => o.loc.line with
    | some l => lines.contains l
    | none => true
  let q := (s.co core).probes
  let s := s.setCo core fun c => { c with probes := q.filter fun i => !here i }
  ((q.filter here).foldl (fun (acc : State × List Nat) i =>
    match Tab.find i acc.1.ops with
    | some o =>
        let l := o.loc.line.getD 0
        if o.isKnock then (acc.1.dropOp i, l :: acc.2)
        else
          let s := acc.1.setOp i fun o => { o with probing := false }
          (if acc.2.contains l then s else s.performNow i, acc.2)
    | none => acc) (s, [])).1

/-- A thread's leases ended and their probes served (11 R285). -/
def State.endLeases (s : State) (k : Nat) : State :=
  let ls := (s.th k).leases
  if ls.isEmpty then s
  else (s.setTh k fun t => { t with leases := [] }).serve (s.coreTh k) (ls.map (·.line))

/-- A thread's own access to a line it had leased, when the lease breaks: a write makes no step, and an
atomic's result is what the line reads as (05 R132). -/
def State.undo (s : State) (i : Nat) : State :=
  match Tab.find i s.ops with
  | some o =>
      if o.kind.writes then
        if o.kind.returns then s.setOp i fun o => { o with kind := .load, ty := if o.size = 8 then .n64 else .b32 }
        else s.dropOp i
      else s
  | none => s

/-- A thread's leases broken (11 R286): its writes to the lines undone, the lines restored, BROKEN set,
probes served. -/
def State.breakLeases (s : State) (k : Nat) : State :=
  let ls := (s.th k).leases
  if ls.isEmpty then s
  else
    let s := (s.opsOf k fun o => s.holds k o.loc).foldl State.undo s
    let s := ls.foldl (fun s l => (s.homeStore l.line l.shadow).refreshSi (s.coreTh k) none l.line l.shadow) s
    let s : State := { s with poison := s.poison ++ (ls.flatMap fun l => l.bad).filter fun a => !s.poison.contains a }
    (s.setTh k fun t => { t with broken := true }).endLeases k

/-- Leases whose timers have ended, broken (11 R286). -/
def State.expireLeases (s : State) : State :=
  (s.threads.filter fun (_, t) => t.leases.any fun l => decide (l.ends ≤ s.cycle)).foldl (fun s (k, _) => s.breakLeases k) s

/-- The thread of a core that holds the oldest lease, the one granted first. -/
def State.oldestLease (s : State) (core : Nat) : Option Nat :=
  ((s.threads.filter fun (k, t) => s.coreTh k == core && !t.leases.isEmpty).foldl
    (fun (acc : Option (Nat × Nat)) (k, t) =>
      let e := (t.leases.headD { line := 0, shadow := [], ends := 0, scope := .crew }).age
      match acc with
      | some (_, x) => if e < x then some (k, e) else acc
      | none => some (k, e)) none).map (·.1)

/-- An access that meets a line another thread has leased waits in the holding core's probe queue; a
full queue first breaks the oldest lease of the core (11 R283, R286). -/
def State.probe (s : State) (id : Nat) : State :=
  match (Tab.find id s.ops).bind fun o => (o.loc.line.bind s.leaseHolder).map fun h => (o, h) with
  | none => s
  | some (o, h) =>
      if h = o.th then s
      else
        let c := s.coreTh h
        if (s.co c).probes.contains id then s
        else
          let s := if (s.co c).probes.length ≥ Config.probeEntries then
              match s.oldestLease c with
              | some k => s.breakLeases k
              | none => s
            else s
          if ((o.loc.line.bind s.leaseHolder).isSome) then
            (s.setCo c fun x => { x with probes := x.probes ++ [id] }).setOp id fun o => { o with probing := true }
          else s

/-- An access that is no operation of a thread meets a line that another has leased: an arrival or a wait at a memory
barrier, cache control, LEASE.age, a fetch or a walk, an engine, the host, a peer. It takes an entry of the holding core's
probe queue as any access does (11 R284), one for each who waits. -/
def State.knock (s : State) (who line : Nat) : State :=
  match s.leaseHolder line with
  | none => s
  | some h =>
      if ((s.co (s.coreTh h)).probes.any fun i => (Tab.find i s.ops).any fun o => o.th == knockKey who && o.loc == .mem line) then s
      else
        let id := s.seq
        let s := (s.newOp { th := knockKey who, crew := knockKey who, core := 0, kind := .load, loc := .mem line, va := 0, size := 0, space := .g
                            rtype := .uc, ty := .b32 }).probe id
        if (Tab.find id s.ops).any fun o => o.probing then s else s.dropOp id

/-- The same for each of several lines. -/
def State.knockAll (s : State) (who : Nat) (lines : List Nat) : State := lines.foldl (fun s l => s.knock who l) s

/-- Under which numbers they are told apart: a thread is its key, then engines by owner, masters, peers and rings. -/
def engWho (owner : Nat) : Nat := 2 ^ 52 + owner
def masterWho (master : Nat) : Nat := 2 ^ 56 + master
def peerWho (f : Flit) : Nat := 2 ^ 57 + f.src.toNat * 2 ^ 32 + f.seq.toNat
def ringWho (q : Nat) : Nat := 2 ^ 58 + q

/-- An operation tried: performed where nothing holds it back, else queued where a lease does. -/
def State.tryPerform (s : State) (id : Nat) : State :=
  let s := s.probe id
  s.performNow id

/-- The key under which a write of the device itself (a STATUS, a context id, a HINT) stands in `State.ops` while it waits. -/
def deviceKey : Nat := 2 ^ 66

/-- Whether a line can be written at its home now: nobody leases it, no engine owns it, no read lease of it runs (05 R131, R135,
R143). -/
def State.homeFree (s : State) (line : Nat) : Bool :=
  (s.leaseHolder line).isNone && !(s.engOwned.any fun (x, _) => x == line) && (s.leaseUntil line).isNone

/-- A write of the device itself within one line of local memory: at once where the line can be had, else as an operation that
waits for it, behind the device's writes to those bytes before it. -/
def State.deviceDo (s : State) (kind : OpKind) (pa : Nat) (data : List Byte) : State :=
  let o : Op := { th := deviceKey, crew := deviceKey, core := deviceKey, kind := kind, loc := .mem pa, va := 0, size := data.length
                  space := .p, rtype := .uc, ty := .b32, data := data }
  if s.homeFree (lineOf pa) && !(s.ops.any fun (_, p) => p.th == deviceKey && overlaps p.loc p.size o.loc o.size) then
    s.homeStore pa (s.newBytes o).2
  else (s.newOp o).tryPerform s.seq

/-- Bytes stored, and four bytes added to. -/
def State.deviceStore (s : State) (pa : Nat) (bs : List Byte) : State := s.deviceDo .store pa bs
def State.deviceAdd (s : State) (pa d : Nat) : State := s.deviceDo (.atom 0 false) pa (leBytes 4 d)

/-- All of a thread's pending writes performed, as far as nothing holds them back: the releases of
PHASE, EXIT, TLBINV, pre-emption (05 R145, R147). -/
def State.drain (s : State) (k : Nat) : State :=
  (s.opsOf k fun o => o.kind.writes && !o.kind.returns).foldl State.tryPerform s

/-- A thread's writes and atomics that are not performed. -/
def State.unperformed (s : State) (k : Nat) : List Nat := s.opsOf k fun o => o.kind.writes

/-- A thread's loads that are not performed. -/
def State.loading (s : State) (k : Nat) : List Nat := s.opsOf k fun o => o.kind == .load

/-- Whether a release of the thread at a scope must wait (05 R126, R127): its loads, its atomics and its stores that its
crew does not see yet, to a scratch, the host or a leased line; at a scope wider than its crew all its writes and those of
its crew that it has read. -/
def State.releasing (s : State) (k : Nat) (sc : Scope) : Bool :=
  !(s.loading k).isEmpty
  || !(s.opsOf k fun o => o.kind.writes && !o.inView).isEmpty
  || (sc != .crew && (!(s.unperformed k).isEmpty || !(s.stillPending (s.th k).observed).isEmpty))

/-- Whether a sequential fence of the thread must wait for stores of its crew (05 R127): at a scope wider than the crew every
write that its thread can see has to be performed, read or not. -/
def State.crewWrites (s : State) (k : Nat) (sc : Scope) : Bool :=
  sc != .crew && s.ops.any fun (_, o) => o.crew == crewOf k && o.inView

/-- Whether an acquire of the thread at a scope must wait for its .wt and .si stores (05 R125). -/
def State.merging (s : State) (k : Nat) (sc : Scope) : Bool :=
  (match sc with
    | .crew | .valley => false
    | _ => true)
  && !(s.opsOf k fun o => o.kind == .store && (o.rtype == .wt || o.rtype == .si)).isEmpty

/-! ### Remote requests, 20 R398, R401 -/

/-- This device's id in the domain (20 R399). -/
def State.myDev (s : State) : Nat := (s.reg 0x600).toNat % 4096
/-- The job of a launch. -/
def State.jobOf (s : State) (l : Nat) : Job := Tab.getD (s.la l).rcd.jobid {} s.jobs

/-- Whether the device's clock is within 20 ns (20 R404). -/
def State.clockGood (s : State) : Bool := decide (s.ptpErr.toNat ≤ 20)

/-- KIND, FN and operand bytes of a remote access (20 R398; log entry 13): FN of a read holds RTYPE and
in bit 15 whether the requester's clock is within 20 ns, FN of an atomic the ATOM function and in bits
15:8 the TYPE; a barrier arrival is function 0x20. -/
def Op.request (s : State) (o : Op) : Nat × Nat × List Byte :=
  match o.kind with
  | .load => (1, o.rtype.code.toNat + (if s.clockGood then 2 ^ 15 else 0), [])
  | .store => (2, 0, o.data)
  | .atom fn _ => (3, fn + 256 * o.ty.code.toNat, o.data)
  | .mbarr _ => (3, 0x20, o.data)

/-- A request flit to a device for a launch; SEQ carries the number of the operation. -/
def State.requestFlit (s : State) (l dev pa id kind fn size : Nat) (data : List Byte) : Flit :=
  { kind := BitVec.ofNat 8 kind, size := BitVec.ofNat 8 size, dst := BitVec.ofNat 16 dev, src := BitVec.ofNat 16 s.myDev
    job := BitVec.ofNat 16 (s.la l).rcd.jobid, epoch := BitVec.ofNat 16 (s.jobOf l).epoch, fn := BitVec.ofNat 16 fn
    seq := BitVec.ofNat 32 id, addr := BitVec.ofNat 64 pa, time := 0
    data := if data.length ≤ 16 then data else [], payload := if data.length ≤ 16 then [] else data }

/-- A flit sent; none leaves while FABID.V is 0 (20 R399). -/
def State.send (s : State) (f : Flit) : State :=
  if (s.reg 0x600).getLsbD 31 then { s with outbox := s.outbox ++ [f] } else s

/-- The number under which an agent's membership generation is kept (05 R148). -/
def agentKey : Agent → Nat
  | .l1 c => c
  | .copyEngine n => 0x300 + n
  | .matrixEngine n => 0x3C0 + n
  | .control q => 0x480 + q
  | .peer d => 0x1000 + d
/-- An agent's membership generation. -/
def State.gen (s : State) (a : Agent) : Nat := Tab.getD (agentKey a) 0 s.gens

/-- The request of a remote operation sent, its timeout running (20 R401, R402). -/
def State.sendRemote (s : State) (id : Nat) (o : Op) (dev pa : Nat) : State :=
  let r := o.request s
  let l := (s.cr o.crew).launch
  let f := s.requestFlit l dev pa id r.1 r.2.1 o.size r.2.2
  State.send { s with remote := s.remote ++ [{ op := id, dev := dev, job := (s.la l).rcd.jobid, at_ := s.ns, gen := s.gen (.peer dev) }] } f

/-- What a remote load finds in its own L1: a copy under a lease that has not ended, or for .ro a
read-only copy (20 R403, R404). -/
def State.remoteCopy (s : State) (core dev pa n : Nat) (rt : RType) : Option (List Byte) :=
  let find (p : CopyKind → Bool) : Option (List Byte) :=
    ((s.co core).copies.find? fun c => c.dev == some dev && c.line == lineOf pa && p c.kind && c.covers pa n).map fun c => c.read pa n
  match rt with
  | .uc => none
  | .ro => find CopyKind.isRo
  | _ => if s.clockGood then find (fun q => match q with
        | .leased e => decide (s.ns < e)
        | _ => false) else none

end Sys2Proof.Machine
end

