-- ==== Sys2Proof/Machine/Translate.lean ====
section
/-! DEFINITION. Translation and access tables (18 R375 to R390): page entries and the walk, the
permissions of an access, replicated, remote and host pages (04 R117, 20 R401, R419), lane-private
frames (19 R393), the target's access table, and where an access of a thread acts (04 R105). -/

namespace Sys2Proof.Machine

/-! ### Page entries, R377 to R379 -/

/-- Bits hi down to lo of a word, as a number. -/
def field (e : DWord) (hi lo : Nat) : Nat := e.toNat / 2 ^ lo % 2 ^ (hi + 1 - lo)

/-- LEAF, RMT and REPL of an entry. -/
def isLeaf (e : DWord) : Bool := e.getLsbD 1
def isRemotePage (e : DWord) : Bool := e.getLsbD 12
def isReplPage (e : DWord) : Bool := e.getLsbD 11
/-- A leaf that maps host memory: PA bit 51 of a leaf that is neither remote nor replicated
(20 R419). -/
def isHostPage (e : DWord) : Bool := e.getLsbD 51 && !isRemotePage e && !isReplPage e
/-- PA of a leaf as an address. -/
def leafPA (e : DWord) : Nat := field e 51 16 * 2 ^ 16

/-- Q1 to Q3 of a replicated leaf that are used: unequal to the primary's plain (R378). -/
def leafCopies (e : DWord) : List Nat :=
  [field e 55 52, field e 59 56, field e 63 60].filter fun q => q != leafPA e / 2 ^ 36

/-- Whether an entry found at a level is malformed (18 R379, 20 R419). -/
def malformedEntry (lvl : Nat) (e : DWord) : Bool :=
  if !isLeaf e then lvl == 3 || field e 63 52 != 0 || field e 12 2 != 0
  else
    field e 15 13 != 0
    || lvl == 0
    || (lvl == 1 && field e 35 16 != 0)
    || (lvl == 2 && field e 25 16 != 0)
    || (if isRemotePage e then isReplPage e || e.getLsbD 4
        else if isReplPage e then !(leafCopies e).Nodup
        else if isHostPage e then field e 63 52 != 0
        else field e 63 56 != 0 || leafPA e / 2 ^ 36 != field e 55 52)

/-! ### Access tables, R388 to R390 -/

/-- An access table as its 5,376 bytes give it (R389). -/
def accTableOf (bs : List Byte) : AccTable :=
  let d (o : Nat) : DWord := BitVec.ofNat 64 (leNat ((bs.drop o).take 8))
  { regions := (List.range 16).filterMap fun r =>
      if (d (16 * r)).getLsbD 63 then some (r, field (d (16 * r)) 51 12, field (d (16 * r + 8)) 51 12) else none
    perms := (List.range 1280).filterMap fun m =>
      let w := leNat ((bs.drop (0x100 + 4 * m)).take 4)
      if w = 0 then none else some (m, BitVec.ofNat 32 w) }

/-- Whether a target admits a request for bytes `ofs` to `ofs + len - 1` of its space (R388, R389). -/
def State.admits (s : State) (target master ofs len : Nat) (write : Bool) : Bool :=
  match Tab.find target s.acc with
  | none => decide (0x480 ≤ master) && decide (master ≤ 0x48F)
  | some t =>
      let w := (Tab.getD master 0 t.perms).toNat
      (decide (master ≤ 0x4B0)) && t.regions.any fun (r, lo, hi) =>
        decide (4096 * lo ≤ ofs) && decide (ofs + len ≤ 4096 * (hi + 1))
          && (if write then w / 4 ^ r % 4 == 3 else w / 4 ^ r % 2 == 1)

/-- A denial counted in bank 11 (R389, 22 R438). -/
def State.denied (s : State) (plain : Nat) (ctx : Option Nat) : State :=
  s.logMc { bank := 11, sev := 1, type := 0x41, skind := 2, sidx := plain, ctx := ctx }

/-! ### The walk, R380 -/

/-- What a walk gives. -/
inductive Walk where
  /-- the leaf and the number of page-offset bits -/
  | leaf (e : DWord) (bits : Nat)
  /-- cause 0x10 -/
  | fault
  /-- an entry's read was denied by its target's access table -/
  | deny (plain : Nat)
  /-- an entry's address maps no memory (04 R115) -/
  | absent
  /-- an entry stands in a line that a thread has leased: the walk waits (05 R131) -/
  | busy (line : Nat)
  deriving DecidableEq, Repr

/-- A table entry that a master has cached for a context (R383). -/
def State.walkFind (s : State) (ctx master a : Nat) : Option DWord :=
  ((s.co master).walks.find? fun x => x.1 == ctx && x.2.1 == a).map fun x => x.2.2

/-- The levels from `lvl` on, with `fuel` of them left. -/
def State.walkFrom (s : State) (ctx master : Nat) (va : Nat) : Nat → Nat → Nat → Walk
  | 0, _, _ => .fault
  | fuel + 1, lvl, t =>
      let a := t + 8 * (va / 2 ^ (46 - 10 * lvl) % 1024)
      match s.walkFind ctx master a with
      | some e => s.walkFrom ctx master va fuel (lvl + 1) (field e 51 13 * 2 ^ 13)
      | none =>
      if !s.paOk a then .absent
      else if !s.admits (a / 2 ^ 36) master (a % 2 ^ 36) 8 false then .deny (a / 2 ^ 36)
      else if (s.leaseHolder (lineOf a)).isSome then .busy (lineOf a)
      else
        let e : DWord := BitVec.ofNat 64 (leNat (s.coh a 8))
        if !e.getLsbD 0 || malformedEntry lvl e then .fault
        else if isLeaf e then .leaf e (16 + 10 * (3 - lvl))
        else s.walkFrom ctx master va fuel (lvl + 1) (field e 51 13 * 2 ^ 13)

/-- The table entries on the way of a walk that succeeds, which may be cached (R383). -/
def State.walkPath (s : State) (ctx master : Nat) (va : Nat) : Nat → Nat → Nat → List (Nat × Nat × DWord)
  | 0, _, _ => []
  | fuel + 1, lvl, t =>
      let a := t + 8 * (va / 2 ^ (46 - 10 * lvl) % 1024)
      match s.walkFind ctx master a with
      | some e => s.walkPath ctx master va fuel (lvl + 1) (field e 51 13 * 2 ^ 13)
      | none =>
          let e : DWord := BitVec.ofNat 64 (leNat (s.coh a 8))
          if isLeaf e then [] else (ctx, a, e) :: s.walkPath ctx master va fuel (lvl + 1) (field e 51 13 * 2 ^ 13)

/-- The walk of a context for an address whose bits 63:56 are zero. -/
def State.walk (s : State) (ctx master : Nat) (va : Nat) : Walk :=
  let r := (s.cx ctx).croot
  if r.getLsbD 0 then s.walkFrom ctx master va 4 0 (field r 51 13 * 2 ^ 13) else .fault

/-! ### Translating an access -/

/-- What an access needs of its page (R381, R382). -/
structure Need where
  r : Bool := false
  w : Bool := false
  x : Bool := false
  rtype : RType := .own
  /-- made at system privilege -/
  sys : Bool := false
  /-- an .l access: no SYS check, but a leaf with SYS = 0 is refused (19 R393) -/
  frame : Bool := false
  /-- ATOM, LEASE and MBARR: forbidden on a replicated page and on host memory (04 R117, 20 R419) -/
  whole : Bool := false
  /-- an engine's destination write: a replicated page is refused (04 R117) -/
  engineDst : Bool := false
  /-- LEASE: forbidden on a remote page (11 R283) -/
  lease : Bool := false
  /-- the launch may reach other devices (20 R400) -/
  remote : Bool := true
  size : Nat := 1

/-- A translated access: a place, or a cause with whether TFVA is written (19 R394). -/
inductive Xlat where
  | at_ (w : Where)
  | fault (cause : BitVec 8) (tfva : Bool)
  /-- not yet: a table entry stands in a leased line (05 R131) -/
  | busy (line : Nat)
  deriving DecidableEq, Repr

/-- Whether the leaf grants what R381 asks. -/
def leafGrants (e : DWord) (n : Need) : Bool :=
  (!n.r || e.getLsbD 2) && (!n.w || e.getLsbD 3) && (!n.x || e.getLsbD 4)
  && !e.getLsbD (6 + n.rtype.code.toNat)
  && (if n.frame then e.getLsbD 5 else n.sys || !e.getLsbD 5)

/-- The copies of a replicated page, the nearest to the plain of a reader first (04 R117). -/
def replOrder (plain : Nat) (e : DWord) (ofs : Nat) : List Nat :=
  let q0 := leafPA e / 2 ^ 36
  let at_ (q : Nat) : Nat := leafPA e - 2 ^ 36 * q0 + 2 ^ 36 * q + ofs
  let qs := (List.range 16).filter fun q => q == q0 || (leafCopies e).contains q
  let near := (qs.find? (· == plain)).getD ((qs.find? fun q => q / 4 == plain / 4).getD (qs.headD q0))
  at_ near :: (qs.filter (· != near)).map at_

/-- A cached translation of a core or an engine (R383). -/
def State.tlbFind (s : State) (core ctx va : Nat) : Option Tlb :=
  (s.co core).tlb.find? fun t => t.ctx == ctx && t.va == va / 2 ^ t.bits * 2 ^ t.bits

/-- The leaf an access uses: a cached translation, else a walk that is cached when it succeeds, with the table entries on its
way (R383). With CROOT.V 0 every access faults (R376). -/
def State.leafFor (s : State) (core : Option Nat) (ctx master va : Nat) : Walk × State :=
  match core with
  | none => (s.walk ctx master va, s)
  | some c =>
      if !(s.cx ctx).croot.getLsbD 0 then (.fault, s)
      else
      match s.tlbFind c ctx va with
      | some t => (.leaf t.leaf t.bits, s)
      | none =>
          match s.walk ctx master va with
          | .leaf e b =>
              let p := s.walkPath ctx master va 4 0 (field (s.cx ctx).croot 51 13 * 2 ^ 13)
              (.leaf e b, s.setCo c fun co => { co with tlb := co.tlb ++ [⟨ctx, va / 2 ^ b * 2 ^ b, b, e⟩], walks := co.walks ++ p })
          | w => (w, s)

/-- An access translated and checked in the order of R382, steps 2 to 4; misalignment is the caller's.
`core` holds cached translations, `plain` is the requester's. -/
def State.translate (s : State) (core : Option Nat) (ctx master plain : Nat) (va : DWord) (n : Need) : Xlat × State :=
  if va.toNat ≥ 2 ^ 56 then (.fault 0x10 true, s)
  else
    match s.leafFor core ctx master va.toNat with
    | (.fault, s) => (.fault 0x10 true, s)
    | (.deny q, s) => (.fault 0x11 true, s.denied q (some ctx))
    | (.absent, s) => (.fault 0x11 false, s)
    | (.busy l, s) => (.busy l, s)
    | (.leaf e b, s) =>
        let ofs := va.toNat % 2 ^ b
        if !leafGrants e n then (.fault 0x11 true, s)
        else if isRemotePage e then
          if n.lease then (.fault 0x11 false, s)
          else if n.remote then (.at_ (.remote (field e 63 52) (leafPA e + ofs)), s)
          else (.fault 0x11 false, s)
        else if isReplPage e then
          let l := replOrder plain e ofs
          let need := if n.w then l else l.take 1
          if n.whole || n.engineDst then (.fault 0x11 false, s)
          else if !need.all s.paOk then (.fault 0x11 false, s)
          else
            match need.find? fun a => !s.admits (a / 2 ^ 36) master (a % 2 ^ 36) n.size n.w with
            | some a => (.fault 0x11 true, s.denied (a / 2 ^ 36) (some ctx))
            | none => (.at_ (.repl l), s)
        else
          let pa := leafPA e + ofs
          if isHostPage e then
            if n.whole || (n.rtype != .uc && !s.caps.feat.getLsbD 6) then (.fault 0x11 false, s)
            else (.at_ (.host (pa - 2 ^ 51)), s)
          else if !s.paOk pa then (.fault 0x11 false, s)
          else if !s.admits (pa / 2 ^ 36) master (pa % 2 ^ 36) n.size n.w then
            (.fault 0x11 true, s.denied (pa / 2 ^ 36) (some ctx))
          else (.at_ (.mem pa), s)

/-! ### Where a thread's access acts, 04 R104, R105 -/

/-- SLIM of a crew (04 R109). -/
def State.slim (s : State) (c : Nat) : Nat :=
  let cr := s.cr c
  let rcd := (s.la cr.launch).rcd
  if rcd.excl then 2 ^ 19 + 2 ^ 17 * cr.ways else rcd.cscr

/-- The crew with a crew index of the valley of a crew, where it has been placed. -/
def State.valleyMate (s : State) (c idx : Nat) : Option Nat :=
  let me := s.cr c
  (s.crews.find? fun (_, x) => x.launch == me.launch && x.die == me.die && x.plain == me.plain && x.valley == me.valley
    && x.crew == idx && !x.handler).map (·.1)

/-- SLIM of the crews of a launch that has not started. -/
def Launch.slim0 (l : Launch) : Nat := if l.rcd.excl then 2 ^ 19 + 2 ^ 17 * l.rcd.l1lend else l.rcd.cscr

/-- The virtual address of offset 0 of a thread's frame (19 R393). -/
def State.frameBase (s : State) (k : Nat) : Nat :=
  (s.cx (s.ctxTh k)).lpvbase.toNat + (s.th k).frame * (s.laTh k).rcd.lstack

/-- The physical plain of a crew's core. -/
def State.plainTh (s : State) (k : Nat) : Nat := plainOfCore (s.coreTh k)

/-- Whether a launch may make fabric requests (20 R400): several devices, or a valid job entry. -/
def State.fabricOk (s : State) (l : Nat) : Bool :=
  decide ((s.la l).rcd.devs > 1) || (Tab.getD (s.la l).rcd.jobid {} s.jobs).valid

/-- The place of an access, or why it has none. -/
inductive Placed where
  | at_ (w : Where)
  /-- a cause with tva, and TFVA where it is written -/
  | fault (cause : BitVec 8) (tva : DWord) (tfva : Option DWord)
  /-- a crew of the valley has not started (01 R41) -/
  | wait (crew : Nat)
  /-- a line is leased by another thread (05 R131) -/
  | busy (line : Nat)
  deriving DecidableEq, Repr

/-- An access of a thread in a space at its computed address (04 R104, R105, 18 R382, 19 R393). -/
def State.place (s : State) (k : Nat) (sp : Space) (addr : Nat) (align : Nat) (n : Need) : Placed × State :=
  let c := crewOf k
  let tva : DWord := BitVec.ofNat 64 addr
  let n := { n with sys := s.isSys k, remote := s.fabricOk (s.crewTh k).launch }
  if addr % align ≠ 0 then (.fault 0x12 tva none, s)
  else
    match sp with
    | .g =>
        match s.translate (some (s.coreTh k)) (s.ctxTh k) (s.coreTh k) (s.plainTh k) tva n with
        | (.at_ w, s) => (.at_ w, s)
        | (.fault cz t, s) => (.fault cz tva (if t then some tva else none), s)
        | (.busy l, s) => (.busy l, s)
    | .l =>
        if addr + n.size > (s.laTh k).rcd.lstack then (.fault 0x11 tva none, s)
        else
          let va : DWord := BitVec.ofNat 64 (s.frameBase k + addr)
          match s.translate (some (s.coreTh k)) (s.ctxTh k) (s.coreTh k) (s.plainTh k) va { n with frame := true, rtype := .own } with
          | (.at_ w, s) => (.at_ w, s)
          | (.fault cz t, s) => (.fault cz tva (if t then some va else none), s)
          | (.busy l, s) => (.busy l, s)
    | .s => if addr + n.size > s.slim c then (.fault 0x11 tva none, s) else (.at_ (.crewScratch c addr), s)
    | .v =>
        let idx := addr / 2 ^ 21
        let o := addr % 2 ^ 21
        if idx ≥ (s.laTh k).rcd.crews then (.fault 0x11 tva none, s)
        else
          match s.valleyMate c idx with
          | some m =>
              if (s.cr m).started then
                if o + n.size > s.slim m then (.fault 0x11 tva none, s) else (.at_ (.crewScratch m o), s)
              else (.wait idx, s)
          | none => (.wait idx, s)
    | .p =>
        if addr + n.size > (s.laTh k).rcd.pscr then (.fault 0x11 tva none, s)
        else
          let q := s.plainTh k
          if s.admits (16 + q) (s.coreTh k) addr n.size n.w then (.at_ (.plainScratch (s.crewTh k).launch q addr), s)
          else (.fault 0x11 tva (some tva), s.denied q (some (s.ctxTh k)))

/-- A place some bytes on. -/
def Where.shift (w : Where) (i : Nat) : Where :=
  match w with
  | .mem a => .mem (a + i)
  | .repl l => .repl (l.map (· + i))
  | .remote d a => .remote d (a + i)
  | .host a => .host (a + i)
  | .crewScratch c o => .crewScratch c (o + i)
  | .plainScratch l p o => .plainScratch l p (o + i)

/-- The places of the four quarters of a 64-byte access (05 R123): a frame that is not 64-byte aligned may lay them in two
pages, and all are checked before any of them acts (04 R105). -/
def State.quarters (s : State) (k : Nat) (sp : Space) (addr : Nat) (n : Need) : Placed × List Where × State :=
  let go (s : State) : List Nat → Placed × List Where × State := fun is =>
    is.foldl (fun (acc : Placed × List Where × State) i =>
      match acc.1 with
      | .at_ _ => (match acc.2.2.place k sp (addr + 16 * i) 16 { n with size := 16 } with
          | (.at_ w, s) => (.at_ w, acc.2.1 ++ [w], s)
          | (.fault c _ t, s) => (.fault c (BitVec.ofNat 64 addr) t, acc.2.1, s)
          | (x, s) => (x, acc.2.1, s))
      | _ => acc) (.at_ (.mem 0), [], s)
  match sp with
  | .l =>
      if addr % 64 ≠ 0 then (.fault 0x12 (BitVec.ofNat 64 addr) none, [], s)
      else if addr + 64 > (s.laTh k).rcd.lstack then (.fault 0x11 (BitVec.ofNat 64 addr) none, [], s)
      else go s [0, 1, 2, 3]
  | _ => match s.place k sp addr 64 n with
      | (.at_ w, s) => (.at_ w, (List.range 4).map fun i => w.shift (16 * i), s)
      | (x, s) => (x, [], s)

/-- The wait of a valley access is over once that crew has started (01 R41). -/
def State.mateStarted (s : State) (c idx : Nat) : Bool :=
  match s.valleyMate c idx with
  | some m => (s.cr m).started
  | none => false

/-! ### Poison, 22 R434 -/

/-- Whether bytes at a local address lie in a poisoned sector. -/
def State.poisoned (s : State) (pa len : Nat) : Bool :=
  s.poison.any fun p => decide (p < pa + len) && decide (pa < p + 32)

def Where.poisoned (s : State) (len : Nat) : Where → Bool
  | .mem a => s.poisoned a len
  | .repl l => s.poisoned (l.headD 0) len
  | .host a => s.poisoned (hostBase + a) len
  | .crewScratch c o => s.scrPoison.any fun w => match w with
      | .crewScratch d p => c == d && decide (p < o + len) && decide (o < p + 32)
      | _ => false
  | .plainScratch l q o => s.scrPoison.any fun w => match w with
      | .plainScratch m r p => l == m && q == r && decide (p < o + len) && decide (o < p + 32)
      | _ => false
  | .remote _ _ => false

end Sys2Proof.Machine
end

