-- ==== Sys2Proof/Machine/Fetch.lean ====
section
/-! DEFINITION. Fetching instruction words: fetch blocks and their check trailers (06 R156, R157),
translation of fetch (06 R159), the instruction cache and the copy a convoy keeps of its stretch
(05 R142, 16 R346), code forwarding (16 R355), and loop-buffer capture (01 R29). -/

namespace Sys2Proof.Machine

/-- The block address of a program counter (06 R158). -/
def blockAddr (pc : DWord) : DWord := BitVec.ofNat 64 (pc.toNat / 64 * 64)

/-- The word in a slot of a block: bytes 12s + 11 to 12s, little-endian (06 R149, R156). -/
def blockWord (b : List Byte) (slot : Nat) : IWord := BitVec.ofNat 96 (leNat ((b.drop (12 * slot)).take 12))

/-- The slot of a program counter in its block. -/
def slotOf (pc : DWord) : Nat := pc.toNat % 64 / 12

/-- Whether a block's trailer is right (06 R156). -/
def blockGood (b : List Byte) : Bool := crc32c (b.take 60) == leNat (b.drop 60)

/-- The key under which an instruction cache holds a block. -/
def Where.codeKey : Where → Nat
  | .mem a => a
  | .repl l => l.headD 0
  | .host a => hostBase + a
  | _ => 2 ^ 60

/-- A block as the core's instruction cache or memory gives it; of a line that a thread has leased what stood there before
(05 R131). -/
def State.blockBytes (s : State) (core : Nat) (w : Where) : List Byte :=
  match Tab.find w.codeKey (s.co core).icache with
  | some b => b
  | none => match w.line.bind s.shadowOf with
    | some b => (b.drop (w.addr % 128)).take 64
    | none => s.locRead w 64

/-- The leased line that a fetch of a block has to wait for (05 R131). -/
def State.codeBusy (s : State) (core : Nat) (w : Where) : Option Nat :=
  match Tab.find w.codeKey (s.co core).icache, w.line with
  | none, some l => if (s.leaseHolder l).isSome then some l else none
  | _, _ => none

/-- A word fetched, or the cause each thread that needs the slot raises with tva := the block address. -/
inductive Fetched where
  | word (w : IWord)
  | fault (cause : BitVec 8) (tfva : Bool)
  /-- not yet: its block, or a table entry, stands in a leased line (05 R131) -/
  | busy (line : Nat)
  deriving DecidableEq, Repr

/-- The place of a block for a thread, translated with execute permission (06 R159, 18 R381). -/
def State.codePlace (s : State) (k : Nat) (pc : DWord) : Xlat × State :=
  s.translate (some (s.coreTh k)) (s.ctxTh k) (s.coreTh k) (s.plainTh k) (blockAddr pc)
    { x := true, sys := s.isSys k, size := 64 }

/-- A fetch check that failed twice: a contained event (06 R157). A second fetch of the same bytes ends
as the first did; one that ends well is `Upset.fetch` (log entry 26). -/
def State.badBlock (s : State) (k : Nat) (pc : DWord) : State :=
  s.logMc { bank := 2, sev := 2, type := 0x13, skind := 0, sidx := s.coreTh k, ctx := some (s.ctxTh k), addr := some (blockAddr pc) }

/-- A block read for a thread, entered in the instruction cache when its trailer is right. -/
def State.readBlock (s : State) (core : Nat) (w : Where) : Option (List Byte) × State :=
  let b := s.blockBytes core w
  if w.poisoned s 64 || !blockGood b then (none, s)
  else (some b, s.setCo core fun c => { c with icache := Tab.put w.codeKey b c.icache })

/-- The word at an address for a thread; `code` are the blocks its convoy already holds. Cause 0x30 is a block that failed
its check, which `badBlock` logs once for all that need it. -/
def State.fetch (s : State) (k : Nat) (code : List (DWord × List Byte)) (pc : DWord) : Fetched × State :=
  match s.codePlace k pc with
  | (.fault c t, s) => (.fault c t, s)
  | (.busy l, s) => (.busy l, s)
  | (.at_ w, s) =>
      match code.find? fun e => e.1 == blockAddr pc with
      | some e => (.word (blockWord e.2 (slotOf pc)), s)
      | none =>
          match s.codeBusy (s.coreTh k) w with
          | some l => (.busy l, s)
          | none =>
              match s.readBlock (s.coreTh k) w with
              | (some b, s) => (.word (blockWord b (slotOf pc)), s)
              | (none, s) => (.fault 0x30 false, s)

/-- What a fetch came to, logged where the block failed its check. -/
def State.noteFetch (s : State) (k : Nat) (pc : DWord) (cause : BitVec 8) : State := if cause = 0x30 then s.badBlock k pc else s

/-- The blocks of a stretch that can be fetched when it begins (16 R346). -/
def State.capture (s : State) (k : Nat) (code : List (DWord × List Byte)) : List DWord → List (DWord × List Byte) × State
  | [] => (code, s)
  | a :: rest =>
      if code.any fun e => e.1 == a then s.capture k code rest
      else
        match s.codePlace k a with
        | (.at_ w, s) =>
            if (s.codeBusy (s.coreTh k) w).isSome then s.capture k code rest
            else
              (match s.readBlock (s.coreTh k) w with
                | (some b, s) => s.capture k (code ++ [(a, b)]) rest
                | (none, s) => s.capture k code rest)
        | (_, s) => s.capture k code rest

/-- The block addresses of a stretch of `len` instructions after its header. -/
def stretchBlocks (hdr : DWord) (len : Nat) : List DWord :=
  (((List.range (len + 1)).map fun i => blockAddr (slotPC ((slotN hdr + i : Nat) : Int))).eraseDups)

/-- A word looked at without any effect on the machine, where it can be fetched: arbitration reads the
headers of its candidates (01 R21, R22). -/
def State.peek (s : State) (k : Nat) (pc : DWord) : Option IWord :=
  match s.codePlace k pc with
  | (.at_ w, _) =>
      let b := s.blockBytes (s.coreTh k) w
      if w.poisoned s 64 || !blockGood b then none else some (blockWord b (slotOf pc))
  | _ => none

/-! ### Words as headers, 06 R154, R155 -/

/-- Fields of a word read as a header. -/
def hdrWait (w : IWord) : BitVec 12 := w.extractLsb' 70 12
def hdrLen (w : IWord) : BitVec 5 := w.extractLsb' 55 5
def hdrPri (w : IWord) : BitVec 3 := w.extractLsb' 52 3
def isHeader (w : IWord) : Bool := w.extractLsb' 88 8 == 1
/-- Bits 95:32 of a word, as a trap value (06 R167). -/
def highBits (w : IWord) : DWord := w.extractLsb' 32 64
/-- END and FLG of a word (06 R153). -/
def endBit (w : IWord) : Bool := w.getLsbD 7
def flgBits (w : IWord) : BitVec 2 := w.extractLsb' 5 2

/-- Whether a header's fields are legal: LEN 1 to 24, a valid SA or SB at most 11, reserved bits zero
(01 R20, 06 R155). -/
def headerOk (w : IWord) : Bool :=
  let sa := w.extractLsb' 65 5
  let sb := w.extractLsb' 60 5
  decide (1 ≤ (hdrLen w).toNat) && decide ((hdrLen w).toNat ≤ 24)
  && (!sa.getLsbD 4 || decide ((sa.extractLsb' 0 4).toNat ≤ 11))
  && (!sb.getLsbD 4 || decide ((sb.extractLsb' 0 4).toNat ≤ 11))
  && headerClean w

/-! ### Code forwarding, 16 R355 -/

/-- Forward(a) through a context's table. -/
def Ctx.forward (c : Ctx) (a : DWord) : DWord :=
  let hit := c.fwd.find? fun (_, e) =>
    e.len.getLsbD 31 && decide (e.old.toNat ≤ a.toNat) && decide (a.toNat < e.old.toNat + 64 * (e.len.toNat % 2 ^ 24))
  match hit with
  | some (_, e) => a - e.old + e.new
  | none => a

/-- Forward for a thread's context. -/
def State.forward (s : State) (k : Nat) (a : DWord) : DWord := (s.cx (s.ctxTh k)).forward a

/-! ### Loop buffers, 01 R29 -/

/-- OPs of lane-local instructions (06 R164). -/
def laneLocalOp (op : Nat) : Bool :=
  op == 2 || op == 3 || (decide (0x10 ≤ op) && decide (op ≤ 0x19)) || (decide (0x28 ≤ op) && decide (op ≤ 0x2C))
  || (decide (0x30 ≤ op) && decide (op ≤ 0x38)) || (decide (0x48 ≤ op) && decide (op ≤ 0x4A))

/-- Stretches dropped from the oldest on until `len` more instructions fit. -/
def makeRoom (len : Nat) : List ((Nat × DWord) × Nat) → List ((Nat × DWord) × Nat)
  | [] => []
  | e :: t => if (e :: t).foldl (fun n x => n + x.2) 0 + len ≤ Config.loopBuffer then e :: t else makeRoom len t

/-- A stretch captured: replaced whole, least recently captured first, within 48 entries. -/
def Part.captureStretch (p : Part) (key : Nat × DWord) (len : Nat) : Part :=
  { p with captured := makeRoom len (p.captured.filter fun e => e.1 != key) ++ [(key, len)] }

end Sys2Proof.Machine
end

