-- ==== Sys2Proof/Machine/Ops.lean ====
section
/-! DEFINITION. The operations the instructions share: taking a trap at level 1 or level 2 and
returning from one (08 R212 to R216, 16 R339 to R341), ending a launch, halting and killing a context
(16 R340, R349), completing an instruction with hardware loops, skips, repeats and slices (01 R25,
R35, R36, 08 R200, R201), and issuing one word for the members of a convoy (01 R18, R26, R34, 06 R151,
R166, R167). -/

namespace Sys2Proof.Machine

/-! ### Ends of a launch, 17 R363, R364 -/

/-- The address of a launch's queue entry (17 R358). -/
def State.entryAddr (s : State) (q n : Nat) : Nat :=
  (s.reg (0x401 + 4 * q)).toNat + 16 * (n % 2 ^ (field (s.reg (0x400 + 4 * q)) 19 16 + 4))

/-- HEAD moved past finished entries in order (17 R358). -/
def State.advanceHead (s : State) (q : Nat) : Nat → State
  | 0 => s
  | f + 1 =>
      let h := (s.reg (0x403 + 4 * q)).toNat % 2 ^ 32
      if s.launches.any fun (_, l) => l.q == q && l.n == h && decide (2 ≤ l.status) then
        (s.setReg (0x403 + 4 * q) (BitVec.ofNat 64 ((h + 1) % 2 ^ 32))).advanceHead q f
      else s

/-- A STATUS written into the launch's entry; a launch that ends killed, or cancelled while running,
stops its queue (17 R363, R364). -/
def State.writeStatus (s : State) (l st : Nat) : State :=
  let la := s.la l
  let s := s.deviceStore (s.entryAddr la.q la.n + 8) (leBytes 2 st)
  let s := s.setLa l fun x => { x with status := st, ending := false }
  let s := if st = 5 ∨ (st = 6 ∧ la.status = 1) then
      s.setReg (0x400 + 4 * la.q) (s.reg (0x400 + 4 * la.q) ||| 0x20000000) else s
  if 2 ≤ st then s.advanceHead la.q s.launches.length else s

/-- A completion record's 16 bytes (12 R322). -/
def recordBytes (tag kind code job : Nat) (data : DWord) : List Byte :=
  leBytes 4 tag ++ leBytes 1 kind ++ leBytes 1 code ++ leBytes 2 job ++ leBytes 8 data.toNat

/-- A record that waits for room in its ring (17 R372). -/
def State.addRecord (s : State) (r : Rec) : State := { s with records := s.records ++ [r] }

/-- A launch ended: its record first, where EVQ is valid and the STATUS has one, then its STATUS
(17 R363, R372). -/
def State.endLaunch (s : State) (l st : Nat) (code : Option Nat) : State :=
  let la := s.la l
  match code with
  | some c =>
      if la.rcd.evq.getLsbD 31 then
        (s.setLa l fun x => { x with ending := true, final := st }).addRecord
          { queue := la.rcd.evq.toNat % 1024, bytes := recordBytes la.rcd.evtag.toNat 1 c la.rcd.jobid la.lrec, launch := some l }
      else s.writeStatus l st
  | none => s.writeStatus l st

/-! ### Removing threads and crews -/

/-- A thread taken out of its convoy; an empty convoy is gone. -/
def State.leaveConvoy (s : State) (k : Nat) : State :=
  { s with convoys := (s.convoys.map fun c => { c with mem := c.mem.filter (· != k) }).filter fun c => !c.mem.isEmpty }

/-- Dirty bytes of a thread's frame that its L1 holds, discarded when the thread ends (04 R106). -/
def State.dropFrame (s : State) (k : Nat) : State :=
  let n := (s.laTh k).rcd.lstack
  let core := s.coreTh k
  let base := s.frameBase k
  (List.range ((n + 15) / 16)).foldl (fun s i =>
    match s.walk (s.ctxTh k) core (base + 16 * i) with
    | .leaf e b =>
        if isRemotePage e || isReplPage e || isHostPage e then s
        else
          let pa := leafPA e + (base + 16 * i) % 2 ^ b
          s.setCo core fun c => { c with owned := Tab.modify (lineOf pa) (fun d =>
            d.filter fun (o, _) => !(decide (pa % 128 ≤ o) && decide (o < pa % 128 + 16))) c.owned }
    | _ => s) s

/-- A stretch of 16 bytes of a frame added to those that only read zero. -/
def Thread.addFresh (t : Thread) (ofs : Nat) : Thread :=
  { t with fresh := match t.fresh.reverse with
      | (a, b) :: r => if b = ofs then (r.reverse ++ [(a, b + 16)]) else t.fresh ++ [(ofs, ofs + 16)]
      | [] => [(ofs, ofs + 16)] }

/-- Whether a place can be written at its home at once. -/
def State.placeFree (s : State) : Where → Bool
  | .mem a => s.homeFree (lineOf a)
  | .repl l => l.all fun a => s.homeFree (lineOf a)
  | .remote _ _ => false
  | _ => true

/-- A thread's frame reads zero when the thread starts (04 R104): zeros stand in its memory from then on, where it is mapped
for writing to memory of this device; elsewhere what the thread has not written reads zero (log entry 50). -/
def State.zeroFrame (s : State) (k : Nat) : State :=
  let base := s.frameBase k
  (List.range (((s.laTh k).rcd.lstack + 15) / 16)).foldl (fun s i =>
    let later : State := s.setTh k fun t => t.addFresh (16 * i)
    match (s.translate none (s.ctxTh k) (s.coreTh k) (s.plainTh k) (BitVec.ofNat 64 (base + 16 * i))
        { w := true, sys := true, frame := true, size := 16 }).1 with
    | .at_ w => if s.placeFree w then s.locWrite none w (List.replicate 16 0) else later
    | _ => later) s

/-- A thread ends (08 R205): loads discarded, flags cleared, leases broken, loop and repeat state gone, what it has not yet
written of its frame discarded with the frame (04 R106). -/
def State.endThread (s : State) (k : Nat) : State :=
  let s := s.breakLeases k
  let s := (s.opsOf k fun o => o.kind == .load || o.space == .l).foldl State.dropOp s
  let s := (s.opsOf (2 ^ 64 + k) fun _ => true).foldl State.dropOp s
  let s := (s.opsOf k fun o => o.kind.returns).foldl (fun s i => s.setOp i fun o =>
    { o with kind := (match o.kind with | .atom f _ => .atom f false | .mbarr _ => .mbarr false | x => x), dst := none, pend := [], flag := none, held := none }) s
  let s := s.dropFrame k
  let s := (s.leaveConvoy k).setTh k fun t => { t with status := .exited, cf := [], loops := [], skips := [], rep := none, idle := [], slice := none, elig := [], flushed := [], wait := .none, jump := none, preempt := false, parked := false }
  match (s.rowThreads (rowKey k)).find? s.live with
  | some j => (s.th j).dropped.foldl (fun s g => s.freeDropped (rowKey k) g) s
  | none => s

/-- The writes that a crew has issued, performed (16 R349): one that must wait for a line, or is out to another device, goes
on by itself. An atomic that is an acquire waits for stores: they go first. -/
def State.performAll (s : State) (c : Nat) : State :=
  let ids := (s.ops.filter fun (_, o) => o.crew == c && o.kind.writes).map (·.1)
  (ids ++ ids).foldl State.tryPerform s

/-- The counters of a job: those of its entry where it is valid, else the launch's own (20 R400). -/
def State.jobCtr (s : State) (l : Nat) : JobCtr :=
  let j := Tab.getD (s.la l).rcd.jobid {} s.jobs
  if j.valid then j.ctr else ((s.la l).own).getD {}
def State.setJobCtr (s : State) (l : Nat) (f : JobCtr → JobCtr) : State :=
  let id := (s.la l).rcd.jobid
  if (Tab.getD id {} s.jobs).valid then { s with jobs := Tab.modify id (fun j => { j with ctr := f j.ctr }) s.jobs }
  else s.setLa l fun x => { x with own := some (f (x.own.getD {})) }

/-- The sums of a job's counters over the fabric interfaces (20 R410), and one interface's counters changed. -/
def JobCtr.i (j : JobCtr) : Nat := j.dies.foldl (fun n (_, x) => n + x.i) 0
def JobCtr.c (j : JobCtr) : Nat := j.dies.foldl (fun n (_, x) => n + x.c) 0
def JobCtr.l (j : JobCtr) : Nat := j.dies.foldl (fun n (_, x) => n + x.l) 0
def JobCtr.u (j : JobCtr) : Nat := j.dies.foldl (fun n (_, x) => n + x.u) 0
def JobCtr.on (j : JobCtr) (die : Nat) (f : Count → Count) : JobCtr := { j with dies := Tab.put die (f (Tab.getD die {} j.dies)) j.dies }

/-- What is counted: a message injected, some consumed, one lost (20 R409). -/
def Count.inject (x : Count) : Count := { x with i := (x.i + 1) % 2 ^ 48 }
def Count.consume (n : Nat) (x : Count) : Count := { x with c := (x.c + n) % 2 ^ 48 }
def Count.lose (x : Count) : Count := { x with l := (x.l + 1) % 2 ^ 48 }

/-- The die of a core. -/
def dieOfCore (core : Nat) : Nat := dieOfPlain (plainOfCore core)

/-- Messages of a launch counted consumed at the die of its handler crew (12 R327). -/
def State.consumed (s : State) (l core n : Nat) : State := s.setJobCtr l fun j => j.on (dieOfCore core) (Count.consume n)

/-- The owner number of a copy channel, and of a matrix job, in `State.engOwned`. -/
def chanOwner (crew ch : Nat) : Nat := 4 * crew + ch
def jobOwner (cluster seq : Nat) : Nat := 2 ^ 48 + 2 ^ 40 * cluster + seq

/-- Lines an engine owned, released (05 R135). -/
def State.release (s : State) (owner : Nat) : State :=
  { s with engOwned := s.engOwned.filter fun (_, w) => w != owner }

/-- A crew taken off its core with all it held there (16 R349). -/
def State.dropCrew (s : State) (c : Nat) : State :=
  let ks := s.crewThreads c
  let s := { s with
    threads := s.threads.filter fun (k, _) => crewOf k != c
    rows := s.rows.filter fun (r, _) => r / 128 != c
    ops := s.ops.filter fun (_, o) => o.crew != c || o.kind.writes
    crews := Tab.drop c s.crews
    clusters := s.clusters.map fun (n, x) => (n, { x with table := x.table.filter fun j => j.crew != c })
    engOwned := s.engOwned.filter fun (_, w) => !(decide (w < 2 ^ 48) && w / 4 == c) }
  ks.foldl State.leaveConvoy s

/-- HALT of a crew (16 R349): its pending loads are discarded, its writes performed. A handler that it ends counts as consumed
(12 R327). -/
def State.haltCrew (s : State) (c : Nat) : State :=
  let s := (s.crewThreads c).foldl State.breakLeases s
  let s : State := { s with ops := s.ops.filter fun (_, o) => o.crew != c || o.kind.writes }
  let s := s.performAll c
  let s := (s.crewThreads c).foldl State.dropFrame s
  let n := if (s.cr c).handler then ((s.crewThreads c).filter s.live).length else 0
  if n = 0 then s.dropCrew c else (s.dropCrew c).consumed (s.cr c).launch (s.cr c).core n

/-- Crews of a context on a core. -/
def State.ctxCrews (s : State) (ctx : Nat) (core : Option Nat) : List Nat :=
  (s.crews.filter fun (_, c) => c.ctx == ctx && (match core with | some x => c.core == x && c.started && !c.ended | none => true)).map (·.1)

/-- HALT on every core (16 R340, R349). -/
def State.haltCtx (s : State) (ctx : Nat) (core : Option Nat) : State := (s.ctxCrews ctx core).foldl State.haltCrew s

/-- Kill notices to the other devices of the launch's job (20 R412; log entry 11: the notice names the
job and the sending device). -/
def State.killNotices (s : State) (l : Nat) : State :=
  let la := s.la l
  if la.rcd.devs ≤ 1 then s
  else
    let j := Tab.getD la.rcd.jobid {} s.jobs
    let me := (s.reg 0x600).toNat % 4096
    let fs := (j.dmap.filter (· != me)).map fun d =>
      { kind := 0x0F, size := 0, dst := BitVec.ofNat 16 d, src := BitVec.ofNat 16 me, job := BitVec.ofNat 16 la.rcd.jobid,
        epoch := BitVec.ofNat 16 j.epoch, fn := 0, seq := 0, addr := BitVec.ofNat 64 (la.rcd.jobid * 2 ^ 16 + me), time := 0,
        data := [], payload := [] : Flit }
    fs.foldl State.send s

/-- A context killed on every core (16 R340, 17 R363, 22 R438): halted, recorded in bank 15, its launch
ended with STATUS 5 and no record. -/
def State.kill (s : State) (ctx cause : Nat) (pc tpc2 tva2 : DWord) (skind sidx : Nat) : State :=
  let ls := (s.launches.filter fun (_, l) => l.ctx == ctx && decide (l.status ≤ 1)).map (·.1)
  let s := s.haltCtx ctx none
  let s := s.logMc { bank := 15, sev := 2, type := 0x70, skind := skind, sidx := sidx, ctx := some ctx, synd := cause,
                     addr := some pc, misc0 := tpc2, misc1 := tva2 }
  let s := { s.setCx ctx fun c => { c with killed := true } with slices := s.slices.filter fun (_, x) => x.ctx != ctx }
  ls.foldl (fun s l => (s.killNotices l).endLaunch l 5 none) s

/-- A fatal error (22 R435): every context ended with STATUS 5, kill notices sent, the ports down, AER and
MSI-X vector 0 of PF0 signalled; until reset the device answers only reads of its banks. -/
def State.fatalError (s : State) : State :=
  let ls := (s.launches.filter fun (_, l) => decide (l.status ≤ 1)).map (·.1)
  let s := (Tab.keys s.ctxs).foldl (fun s c => (s.haltCtx c none).setCx c fun x => { x with killed := true }) s
  let s := ls.foldl (fun s l => (s.killNotices l).writeStatus l 5) s
  let s := (List.range 20).foldl (fun s n => if s.caps.ports.getLsbD n then s.setReg (0x610 + n) 0 else s) s
  { s with fatal := true, aer := true, msix := if s.msix.contains 0 then s.msix else s.msix ++ [0] }

/-- A kill raised by a thread (16 R340, 19 R395). -/
def State.killBy (s : State) (k cause : Nat) (pc : DWord) : State :=
  s.kill (s.ctxTh k) cause pc (s.th k).tpc2 (s.th k).tva2 0 (s.coreTh k)

/-! ### Taking a trap, 08 R212 to R214, 16 R338, R339 -/

/-- A cause as an instruction raises it: its number, tva, and where they are written TFVA and TSLC. -/
structure Raise where
  cause : BitVec 8
  tva : DWord
  tfva : Option DWord := none
  tslc : Option DWord := none
  deriving DecidableEq, Repr

/-- tst1 or tst2 at entry (08 R214, 16 R338). -/
def Thread.trapStatus (t : Thread) (hofs : Nat) : Word :=
  BitVec.ofNat 32 (repBits t.rep + t.loops.length * 2 ^ 28 + (if t.tlvl = 1 then 32 else 0) + hofs % 32)

/-- Whether a cause raised by the thread is taken at level 1 (08 R212, 16 R337). -/
def State.toLevel1 (s : State) (k : Nat) (cause : BitVec 8) : Bool :=
  (s.th k).tlvl == 0 && (s.cx (s.ctxTh k)).route.getLsbD cause.toNat && cause != 0x30 && (s.laTh k).rcd.trap1 != 0

/-- What both entries do to the thread: it leaves its convoy, the repeat is cleared, the loops and
skips of its level stay dormant, a slice in progress ends and with it the eligibility of its target (02 R60), TFVA and TSLC
are written. -/
def Thread.enter (t : Thread) (r : Raise) (pc : DWord) (now : Nat) (target : DWord) : Thread :=
  { t with rep := none, slice := none, wait := .none, status := .ready, since := now, starved := false, jump := none,
           stalled := false, yld := false, yielded := false, elig := t.elig.filter fun e => !t.slice.any fun x => x.reg == e.reg
           pc := target, hdr := target, src := pc,
           tfva := r.tfva.getD t.tfva, tslc := (r.tslc.map fun a => a &&& 0x00FFFFFFFFFFFFFF).getD t.tslc }

/-- Entry to level 1 (08 R213). -/
def State.enter1 (s : State) (k : Nat) (r : Raise) (pc : DWord) (hofs : Nat) : State :=
  let target := s.forward k (s.laTh k).rcd.trap1
  let s := (s.leaveConvoy k).breakLeases k
  s.setTh k fun t =>
    { t.enter r pc s.cycle target with
      tpc1 := pc &&& 0x00FFFFFFFFFFFFFF, tca1 := r.cause.setWidth 32, tva1 := r.tva, tst1 := t.trapStatus hofs, tlvl := 1 }

/-- Entry to level 2 (16 R339). -/
def State.enter2 (s : State) (k : Nat) (r : Raise) (pc : DWord) (hofs : Nat) : State :=
  let target := (s.cx (s.ctxTh k)).tvec2
  let s := (s.leaveConvoy k).breakLeases k
  s.setTh k fun t =>
    { t.enter r pc s.cycle target with
      tpc2 := pc &&& 0x00FFFFFFFFFFFFFF, tca2 := r.cause.setWidth 32, tva2 := r.tva, tst2 := t.trapStatus hofs, tlvl := 2 }

/-- A cause taken at level 2, or a kill where no level-2 handler is set (16 R339, R340). -/
def State.trap2 (s : State) (k : Nat) (r : Raise) (pc : DWord) (hofs : Nat) : State :=
  if (s.cx (s.ctxTh k)).tvec2 = 0 then s.killBy k r.cause.toNat pc else s.enter2 k r pc hofs

/-- A cause raised by a thread at an address (08 R212, 16 R340): one that a kill in the same issue has ended raises none. -/
def State.trapAt (s : State) (k : Nat) (r : Raise) (pc : DWord) (hofs : Nat) : State :=
  if !s.live k then s
  else if (s.th k).tlvl = 2 then s.killBy k r.cause.toNat pc
  else if s.toLevel1 k r.cause then s.enter1 k r pc hofs
  else s.trap2 k r pc hofs

/-- Slots from the thread's header to its program counter. -/
def Thread.hofs (t : Thread) : Nat := slotN t.pc - slotN t.hdr

/-- A cause raised by a thread at its own program counter. -/
def State.trap (s : State) (k : Nat) (r : Raise) : State := s.trapAt k r (s.th k).pc (s.th k).hofs

/-! ### Loop ends and skips, 01 R35, 08 R200, R201 -/

/-- Levels, innermost first, after the instruction at `pc` completes; `dflt` is the next slot. -/
def unwind (lvl : Nat) (pc dflt : DWord) : List Loop → List Loop × DWord
  | [] => ([], dflt)
  | l :: r =>
      if l.lvl = lvl ∧ l.le = pc then
        if l.lc.toNat > 1 then ({ l with lc := l.lc - 1 } :: r, l.ls) else unwind lvl pc dflt r
      else (l :: r, dflt)

/-- The thread after passing the instruction at `pc` without a taken transfer, and its next address:
the loop check at `lvl`, then at an END a pending skip of that level. -/
def Thread.pass (t : Thread) (lvl : Nat) (pc : DWord) (fin : Bool) : Thread × DWord :=
  let u := unwind lvl pc (nextPC pc) t.loops.reverse
  let t := { t with loops := u.1.reverse }
  if fin then
    match t.skips.find? fun k => k.lvl == lvl with
    | some k => ({ t with skips := t.skips.filter fun k => k.lvl != lvl }, k.exit)
    | none => (t, u.2)
  else (t, u.2)

/-- Loop levels above `n` freed; those up to it wake at the level returned to (08 R216, 16 R341). -/
def Thread.keepLoops (t : Thread) (n lvl : Nat) : Thread :=
  { t with loops := (t.loops.take n).map fun l => { l with lvl := if l.lvl > lvl then lvl else l.lvl }
           skips := t.skips.filter fun k => decide (k.lvl ≤ lvl) }

/-! ### Returning from a trap, 08 R216, 16 R341 -/

/-- The repeat state of a status word (08 R214). -/
def repOf (st : Word) : Option Rep :=
  if st.getLsbD 31 then
    some ⟨(st.extractLsb' 13 6).toNat, (st.extractLsb' 6 7).toNat, st.extractLsb' 25 3, st.extractLsb' 22 3, st.extractLsb' 19 3⟩
  else none

/-- TRET at level 1 and TRETS at level 2 for a thread whose guard is true; `yld` is the word's YLD hint (01 R22). -/
def State.trapReturn (s : State) (k : Nat) (nxt yld : Bool) : State :=
  let t := s.th k
  let tpc := if t.tlvl = 2 then t.tpc2 else t.tpc1
  let st := if t.tlvl = 2 then t.tst2 else t.tst1
  let dest := if t.tlvl = 2 then (if st.getLsbD 5 then 1 else 0) else 0
  let hofs := st.toNat % 32
  let t1 := t.keepLoops (field (st.setWidth 64) 30 28) dest
  let fin := match s.peek k (s.forward k tpc) with
    | some w => endBit w
    | none => false
  -- the thread, its next address and the distance from its header
  let r : Thread × DWord × Nat :=
    if nxt then
      let p := t1.pass dest tpc fin
      (p.1, p.2, if fin || p.2 != nextPC tpc then 0 else hofs + 1)
    else ({ t1 with rep := repOf st, idle := if (repOf st).isSome then t1.idle else t1.idle.filter (· != dest) }, tpc, hofs)
  let pc := s.forward k r.2.1
  let hp := if r.2.2 = 0 then pc else slotPC ((slotN pc : Int) - r.2.2)
  let ok := isSlotPC hp && match s.peek k hp with
    | some w => isHeader w && decide (r.2.2 ≤ (hdrLen w).toNat)
    | none => true
  if ok then
    (s.leaveConvoy k).setTh k fun _ =>
      { r.1 with rep := if nxt then none else r.1.rep, idle := if nxt then r.1.idle.filter (· != dest) else r.1.idle, tlvl := dest, pc := pc, hdr := hp, src := t.pc, slice := none,
                 status := .ready, since := s.cycle, starved := false, jump := none, yld := yld, wait := .none }
  else if t.tlvl = 2 then s.killBy k 0x04 t.pc
  else s.trap2 k ⟨0x04, hp, none, none⟩ pc 0

/-! ### The convoy that issues -/

/-- The convoy that issues now: the first of the list. -/
def State.front (s : State) : Option Convoy := s.convoys.head?
def State.setFront (s : State) (f : Convoy → Convoy) : State :=
  { s with convoys := match s.convoys with
      | [] => []
      | c :: t => f c :: t }

/-- What a repeat adds to the D, A and B index fields in the repetition a thread is in (08 R210). -/
def Thread.steps (t : Thread) : Int × Int × Int :=
  match t.rep with
  | some r => ((r.idx : Int) * r.d.toInt, (r.idx : Int) * r.a.toInt, (r.idx : Int) * r.b.toInt)
  | none => (0, 0, 0)

/-- The repetition a thread is in, 0 outside a repeat. -/
def Thread.repIdx (t : Thread) : Nat :=
  match t.rep with
  | some r => r.idx
  | none => 0

/-- Members that take part in this issue: those at the convoy's program counter that stand at the same repetition offsets as
the first of them that is not guarded off in its repetition, and those that are guarded off in the same one (08 R210). -/
def State.actors (s : State) : List Nat :=
  match s.front with
  | none => []
  | some c =>
      let at_ := c.mem.filter fun k => (s.th k).pc == c.pc
      match (at_.find? fun k => !(s.th k).idles).or at_.head? with
      | none => []
      | some k => at_.filter fun j => (s.th j).steps == (s.th k).steps || ((s.th j).idles && (s.th j).repIdx == (s.th k).repIdx)

/-- Slots from the convoy's header to its program counter. -/
def Convoy.ofs (c : Convoy) : Nat := slotN c.pc - slotN c.hdr
/-- Whether the instruction is the last of its stretch. -/
def Convoy.last (c : Convoy) : Bool := c.ofs == c.len.toNat

/-! ### Faults of a word's position, 01 R20, 06 R155 -/

/-- The innermost loop end of a thread at its level. -/
def Thread.innerEnd (t : Thread) : Option DWord :=
  match t.loops.getLast? with
  | some l => if l.lvl = t.tlvl then some l.le else none
  | none => none

/-- Whether a word's position or hints break R20 for a thread, whatever its guard. -/
def Convoy.misplaced (c : Convoy) (t : Thread) (fin : Bool) (flg : BitVec 2) : Bool :=
  (fin != c.last) || flg == 3 || (flg == 1 && !c.sa.getLsbD 4) || (flg == 2 && !c.sb.getLsbD 4)
  || (t.innerEnd == some c.pc && !fin)

/-! ### Completing an instruction -/

/-- A thread's slice one instruction on; after the last its target is eligible, at depth 2 if an input is eligible then
(02 R60, R62). -/
def Thread.sliceStep (t : Thread) (now : Nat) : Thread :=
  match t.slice with
  | none => t
  | some r =>
      if r.left > 1 then { t with slice := some { r with left := r.left - 1 } }
      else
        let keep := t.elig.filter fun e => e.reg != r.reg
        let keep := if keep.length ≥ Config.eligMax then keep.drop 1 else keep
        let depth := if r.pins.any fun p => t.elig.any fun e => e.reg == p then 2 else 1
        { t with slice := none, elig := keep ++ [⟨r.reg, r.saddr, r.len, depth, r.pins, now⟩] }

/-- A thread completes the instruction at its program counter: a repeat goes on, or the thread moves to
its next address; `jump` holds the target of a taken transfer, which discards a skip of its level. YIELD and PHASE go to the
next slot as a fall-through does and take a skip (DESIGN CHOICE, log entry 53). -/
def Thread.complete (t : Thread) (now : Nat) (fin : Bool) : Thread :=
  let t := { t with stalled := false, wait := .none }
  match t.rep with
  | some r =>
      if r.idx + 1 < r.tot then { t with rep := some { r with idx := r.idx + 1 } }
      else let p := { t with rep := none, idle := t.idle.filter (· != t.tlvl) }.pass t.tlvl t.pc fin; { p.1 with pc := p.2 }
  | none =>
      match t.jump with
      | some a => { t.sliceStep now with pc := a, skips := t.skips.filter fun k => k.lvl != t.tlvl }
      | none => let p := (t.sliceStep now).pass t.tlvl t.pc fin; { p.1 with pc := p.2 }

/-- A thread leaves the stretch it has finished: ready at its next address. -/
def Thread.arrive (t : Thread) (src : DWord) (yld : Bool) (now : Nat) : Thread :=
  { t with status := .ready, hdr := t.pc, src := src, since := now, starved := false, yld := yld, jump := none }

/-- A waiting thread's instruction completed for it: it resumes after it (01 R27). -/
def State.completeWaiter (s : State) (k : Nat) (fin yld : Bool) : State :=
  s.setTh k fun t =>
    let pc := t.pc
    let u := t.complete s.cycle fin
    if fin && u.rep.isNone then u.arrive pc yld s.cycle
    else { u with status := .ready, since := s.cycle, starved := false, jump := none }

/-! ### Interlocks and regeneration a word needs -/

/-- Whether the slot a word names is one it accepts: CVTN's (09 R242; its B is unused, so 0, under SCHEME 0) and VBLKX's
(R243). -/
def State.slotOk (s : State) (k : Nat) : Instr → Bool
  | .cvtnPk h _ _ b | .cvtnUnpk h _ _ b => match (s.rd k).slot (h.md.extractLsb' 0 3).toNat with
    | some x => cvtnOk x && (x.scheme != 0 || b == .v 0)
    | none => false
  | .vblkx h _ _ _ _ => match (s.rd k).slot (h.md.extractLsb' 0 3).toNat with
    | some x => x.scheme == 3
    | none => false
  | _ => true

/-- The operands of a word for a thread: CVTN's register count comes from its slot, and it has no B under SCHEME 0 (09 R242). -/
def State.usesOf (s : State) (k : Nat) (i : Instr) : List Use :=
  match i.cvtnSlot with
  | none => i.uses
  | some (f, wr) =>
      let slot := (s.rd k).slot f
      let n := match slot with
        | some x => cvtnCount x
        | none => 1
      let us := i.uses.map fun u => if u.role = .cvtn then ⟨if wr then .vwrite n 1 else .vread n 1, u.sp⟩ else u
      if slot.any fun x => x.scheme == 0 then us.take 2 else us

/-- Whether a thread stalls on a pending value (01 R34). -/
def State.interlocked (s : State) (k : Nat) (i : Instr) : Bool :=
  let us := (s.usesOf k i).flatMap (fun u => u.reads ++ u.writes ++ u.drops) ++ i.morePreds
  (s.pendingRegs k).any us.contains

/-- The interlock of the guard's own predicate, for a thread whatever its guard. -/
def State.guardPending (s : State) (k : Nat) (h : Head) : Bool :=
  (s.pendingRegs k).contains (0x200 + h.g.p.toNat) && decide (h.g.p.toNat < 7)

/-- The completion flag a long-latency word increments (01 R32). -/
def Convoy.flagOf (c : Convoy) (flg : BitVec 2) : Option Nat :=
  if flg = 1 then some (c.sa.extractLsb' 0 4).toNat else if flg = 2 then some (c.sb.extractLsb' 0 4).toNat else none

/-- Whether the flag stands at 63 (01 R33). -/
def State.flagFull (s : State) (k : Nat) (c : Convoy) (i : Instr) (h : Head) : Bool :=
  i.isLongLatency && (match c.flagOf h.h.flg with
    | some f => decide (Tab.getD f 0 (s.th k).cf ≥ 63)
    | none => false)

/-- Whether an acquire of the thread has not been performed (05 R125). -/
def State.acquiring (s : State) (k : Nat) : Bool := s.ops.any fun (_, o) => o.th == k && o.acq.isSome

/-- Lanes of a row-register's descriptor that no recorded fault holds back (02 R65, R69). -/
def RowReg.lanesToDo (x : RowReg) : Word :=
  if x.isRecipe then x.lmask &&& ~~~(BitVec.ofNat 32 (listMask (x.faults.map (·.1)))) else 0

/-- General registers a word reads of its thread. -/
def State.vReads (s : State) (k : Nat) (i : Instr) : List Nat := ((s.usesOf k i).flatMap Use.reads).filter (· < 256)
/-- General registers a word writes or drops. -/
def State.vWrites (s : State) (k : Nat) (i : Instr) : List Nat :=
  ((s.usesOf k i).flatMap fun u => u.writes ++ u.drops).filter (· < 256)

/-- The row-register that must be regenerated before a thread may execute a word (02 R61, R62, R65);
`cover` are the lanes of its row that the word writes. -/
def State.regenFor (s : State) (k : Nat) (i : Instr) (cover : Word) : Option Nat :=
  let r := rowKey k
  let t := s.th k
  let todo (g : Nat) (except : Word) : Bool := match s.rreg r g with
    | some x => (x.lanesToDo &&& ~~~except) != 0
    | none => false
  let inMask (g : Nat) : Bool := match s.rreg r g with
    | some x => x.lanesToDo.getLsbD (laneOf k)
    | none => false
  match (s.vReads k i).find? fun g => todo g 0 with
  | some g => some g
  | none =>
      match (s.vWrites k i).find? fun g => todo g cover && !i.isDrop with
      | some g => some g
      | none =>
          match (t.elig.filter fun e => (s.vWrites k i).any e.pins.contains).find? fun e => inMask e.reg with
          | some e => some e.reg
          | none =>
              match t.slice with
              | some sl =>
                  if sl.left = 1 ∧ (t.elig.filter fun e => e.reg != sl.reg).length ≥ Config.eligMax then
                    match t.elig with
                    | e :: _ => if inMask e.reg then some e.reg else none
                    | [] => none
                  else none
              | none => none

/-- Registers of a thread whose eligibility a word ends: those built from an input it writes or drops (02 R61),
and the one a 33rd eligible register pushes out (R62). -/
def State.ending (s : State) (k : Nat) (i : Instr) : List Nat :=
  let t := s.th k
  ((t.elig.filter fun e => (s.vWrites k i).any e.pins.contains).map (·.reg)) ++
    match t.slice with
    | some sl =>
        if sl.left = 1 ∧ (t.elig.filter fun e => e.reg != sl.reg).length ≥ Config.eligMax then
          (t.elig.take 1).map (·.reg)
        else []
    | none => []

/-- General registers a word names without reading or writing them: RCPSTAT's A. -/
def State.vNames (s : State) (k : Nat) (i : Instr) : List Nat := ((s.usesOf k i).flatMap Use.names).filter (· < 256)

/-- The registers of the instruction in issue, kept from conversion while it lasts (02 R63, 13 R329), and those whose
eligibility it ends for a thread whose guard is true. -/
def State.keep (s : State) (part : Nat) (ks : List Nat) (i : Instr) : State :=
  let named (k : Nat) (gs : List Nat) : List (Nat × Nat) := gs.map fun g => (rowKey k, g)
  let acts := ks.filter fun k => i.head.any fun h => s.guard k h.g
  s.setPt part fun p => { p with busy := ks.flatMap fun k => named k (s.vReads k i ++ s.vWrites k i ++ s.vNames k i),
                                 ending := acts.flatMap fun k => named k (s.ending k i) }

/-- A recorded fault of a replayed load that the thread meets here (02 R69): in a register it reads, or
in one built from an input it writes. -/
def State.regenFault (s : State) (k : Nat) (i : Instr) : Option (Nat × Raise) :=
  let r := rowKey k
  let deps := ((s.th k).elig.filter fun e => (s.vWrites k i).any e.pins.contains).map (·.reg)
  ((s.vReads k i) ++ deps).findSome? fun g =>
    match s.rreg r g with
    | some x => (x.faults.find? fun (l, _) => l == laneOf k).map fun (_, f) =>
        (g, if f.cause = 0x30 then ⟨0x30, f.addr, none, none⟩ else ⟨f.cause, f.addr, some f.addr, some f.slice⟩)
    | none => none

/-- Whether a word reads a poisoned lane of a register for a thread (22 R434). -/
def State.readsBad (s : State) (k : Nat) (i : Instr) : Bool :=
  (s.vReads k i).any fun g => (s.rreg (rowKey k) g).any fun x => x.bad.getLsbD (laneOf k)

/-- The contained machine check of an error met in a register or a pipeline (22 R433, R434). -/
def badRead : Raise := ⟨0x30, 0, none, none⟩

/-- A recorded fault raised: the lane is tried again when the instruction restarts, in the register and in the inputs
from which it came. -/
def State.clearRegenFault (s : State) (k g : Nat) : State :=
  let pins := match (s.th k).eligOf g with
    | some e => e.pins
    | none => []
  s.setRw (rowKey k) fun x => { x with regs := (g :: pins).foldl (fun l g =>
    Tab.modify g (fun y => { y with faults := y.faults.filter fun (l, _) => l != laneOf k }) l) x.regs }

/-- Spilled row-registers a word reads, reloaded, and those it uses marked used (02 R57). -/
def State.touch (s : State) (k : Nat) (i : Instr) : State :=
  (s.vReads k i).foldl (fun s g =>
    let s := s.reload (rowKey k) g
    s.setRw (rowKey k) fun x => { x with regs := Tab.modify g (fun y => { y with used := s.cycle }) x.regs }) s

/-! ### Issuing a word, 01 R18, R24, R26 -/

/-- What an instruction does for one thread whose guard is true. -/
inductive Eff where
  /-- it completes -/
  | done (s : State)
  /-- it completes, and the following instruction repeats -/
  | rpt (r : Rep) (s : State)
  /-- it completes, and the thread parks at its next address (01 R42); the word's YLD hint -/
  | parks (yld : Bool) (s : State)
  /-- it completes, and the thread stands back (08 R206) -/
  | yields (s : State)
  /-- the thread has left its convoy and stands where the state says, or stands at the instruction with its
  remote request out -/
  | left (s : State)
  /-- a cause, with nothing else done -/
  | trap (r : Raise) (s : State)
  /-- the thread leaves its convoy and waits at the instruction -/
  | hold (w : Wait) (s : State)

/-- Cause 0x01 with bits 95:32 of the word now issuing (06 R167). -/
def State.illegalRaise (s : State) : Raise :=
  ⟨0x01, match s.front with
    | some c => highBits c.word
    | none => 0, none, none⟩

/-- The cause a word raises on a member before it has any effect (06 R151, R166, R167): position first,
then legality, then privilege; a transfer before the last position only where the guard is true. -/
def State.wordFault (s : State) (c : Convoy) (i : Instr) (h : Head) (k : Nat) : Option Raise :=
  let pos : Raise := ⟨0x04, c.hdr, none, none⟩
  let g := s.guard k h.g
  if c.misplaced (s.th k) h.h.fin h.h.flg then some pos
  else if !g then none
  else if i.isTransfer && !c.last then some pos
  else if !i.wf || !s.slotOk k i || !(s.usesOf k i).all (Use.okRegs (s.regsTh k)) then some ⟨0x01, highBits c.word, none, none⟩
  else if (i.isSystem || i.uses.any Use.level2) && !s.isSys k then some ⟨0x03, highBits c.word, none, none⟩
  else none

/-- Whether another thread of its crew waits at a CRESIZE: its own accesses stall (04 R110). -/
def State.resizeStall (s : State) (k : Nat) : Bool :=
  let l := (s.crewTh k).resizing.filter fun j => (s.th j).status == .running
  !l.isEmpty && !l.contains k

/-- Lines that a word waits for because another thread has leased them: each of its threads takes an entry of the probe
queue (11 R284). -/
def State.knocks (s : State) (i : Instr) (lines : State → Nat → List Nat) : State :=
  match s.front, i.head with
  | some c, some h =>
      (s.actors.filter fun k => (s.wordFault c i h k).isNone && s.guard k h.g && !s.guardPending k h && !s.interlocked k i).foldl
        (fun s k => s.knockAll k ((lines s k).filter fun l => match s.leaseHolder l with
          | some j => j != k
          | none => false)) s
  | _, _ => s

/-- Whether a member that raises no cause holds its convoy back (01 R33, R34, 05 R125); `block` is the
instruction's own wait. -/
def State.holdsBack (s : State) (c : Convoy) (i : Instr) (h : Head) (block : State → Nat → Bool) (k : Nat) : Bool :=
  s.guardPending k h ||
  (s.guard k h.g && match s.heldOp k with
    | some (_, o) => o.out
    | none => s.interlocked k i || s.flagFull k c i h || (i.isAccess && (s.acquiring k || s.resizeStall k)) || block s k)

/-- Interlock stalls counted once per stalled thread (01 R34, 22 R439). -/
def State.countStall (s : State) (k : Nat) : State :=
  if (s.th k).stalled then s else (s.setTh k fun t => { t with stalled := true }).count (s.coreTh k) 0

/-- The lanes of a row that a word's guard-true members write. -/
def State.coverOf (s : State) (i : Instr) (h : Head) (ks : List Nat) (row : Nat) : Word :=
  if i.partialWrite then 0 else BitVec.ofNat 32 (listMask ((ks.filter fun k => rowKey k == row && s.guard k h.g).map laneOf))

/-- One thread's part of an issue. -/
def State.applyEff (k : Nat) (fin : Bool) (e : Eff) : State :=
  match e with
  | .done s => s.setTh k fun t => t.complete s.cycle fin
  | .rpt r s => s.setTh k fun t => { t.complete s.cycle fin with rep := some r }
  | .parks yld s => (s.leaveConvoy k).setTh k fun t => { (t.complete s.cycle fin).arrive t.pc yld s.cycle with status := .phase }
  | .yields s => s.setTh k fun t => { t.complete s.cycle fin with yielded := true }
  | .left s => s
  | .trap r s => s.trap k r
  | .hold w s => (s.leaveConvoy k).setTh k fun t => { t with status := .waiting, wait := w, stalled := false }

/-- Reserve entries given back once the instruction that took them is done (02 R68). -/
def State.settleReserve (s : State) (p : Nat) : State :=
  let held := (s.partRows p).flatMap fun (r, x) => (x.regs.filter fun (_, y) => y.reserve).map fun (g, _) => (r, g)
  held.foldl (fun s (r, g) =>
    match s.convertible r g with
    | some e => s.convert r g e
    | none =>
        if ((s.rw r).entries < s.floorLeft r ∨ s.freeEntries p > 0) ∧ s.capOk p (s.cr (r / 128)).launch then
          s.setRw r fun x => { x with regs := Tab.modify g (fun y => { y with reserve := false }) x.regs }
        else s.spill r g) s

/-! ### Readiness, 01 R21, R23 -/

/-- The header of a stretch as arbitration sees it; none where it cannot be fetched or is no header. -/
def State.headerAt (s : State) (k : Nat) (a : DWord) : Option IWord :=
  (s.peek k a).bind fun w => if isHeader w then some w else none

/-- Whether every flag of a header's WAIT mask is zero for a thread (01 R21). -/
def Thread.maskClear (t : Thread) (w : IWord) : Bool := (List.range 12).all fun f => !(hdrWait w).getLsbD f || Tab.getD f 0 t.cf == 0

/-- A thread that runs from its loop buffer and stands at a boundary (01 R31). -/
def State.buffered (s : State) (k : Nat) : Bool :=
  s.convoys.any fun c => c.lane.isSome && c.mem.contains k && c.pc == c.hdr

/-- Whether a thread outside a convoy stands where a pre-emption takes it: at a stretch start or between two repeats; at
another resume point inside a stretch it goes on to its next boundary (01 R28). -/
def Thread.stopsHere (t : Thread) : Bool := t.pc == t.hdr || t.rep.any fun r => decide (0 < r.idx)

/-- Whether a thread is ready at a boundary (01 R21); at a resume point the WAIT mask does not apply. -/
def State.canIssue (s : State) (k : Nat) : Bool :=
  let t := s.th k
  (t.status == .ready || (t.status == .running && s.buffered k)) && !t.parked && (!t.preempt || !t.stopsHere)
  && (t.pc != t.hdr || (match s.headerAt k t.pc with
      | some w => t.maskClear w
      | none => true))

/-- The cycle since which a thread has been ready: at a stretch start not before the flags of its header's WAIT mask
fell to zero (01 R21, R22). -/
def State.readyFrom (s : State) (k : Nat) : Nat :=
  let t := s.th k
  if t.pc != t.hdr then t.since
  else match s.headerAt k t.pc with
    | some w => ((List.range 12).filter fun f => (hdrWait w).getLsbD f).foldl (fun m f => Nat.max m (Tab.getD f 0 t.flagAt)) t.since
    | none => t.since

/-- Whether a thread has been ready for 4,096 cycles without issuing (01 R23); the mark of THREAD_STARVED says so too. -/
def State.isStarved (s : State) (k : Nat) : Bool :=
  s.canIssue k && ((s.th k).starved || decide (s.readyFrom k + Config.starveCycles ≤ s.cycle))

/-- Whether the whole convoy loops back and keeps the issue slot (01 R25); a member that has yielded stands back from the next
convoy (08 R206; DESIGN CHOICE, log entry 35). -/
def State.keepsSlot (s : State) (c : Convoy) : Bool :=
  match c.mem with
  | [] => false
  | k :: _ =>
      let a := (s.th k).pc
      c.mem.all (fun j =>
        let t := s.th j
        t.pc == a && t.jump.isNone && !t.preempt && !t.yielded
        && (match t.loops.getLast? with
            | some l => l.lvl == t.tlvl && l.ls == a && l.le == c.pc
            | none => false)
        && (match s.peek j a with
            | some w => isHeader w && t.maskClear w
            | none => false))
      && !((Tab.keys s.threads).any fun j => s.partTh j == c.part && s.isStarved j)

/-- Whether a thread in a loop buffer runs its next stretch from it (01 R30). -/
def State.keepsBuffer (s : State) (c : Convoy) : Bool :=
  match c.lane, c.mem with
  | some _, [k] =>
      let t := s.th k
      ((s.pt c.part).captured.any fun e => e.1 == (s.ctxTh k, t.pc)) && !t.preempt
      && (match s.peek k t.pc with
          | some w => isHeader w && t.maskClear w
          | none => false)
  | _, _ => false

/-- Whether a convoy is the one of an issue slot: of a partition, or of a lane's loop buffer. -/
def Convoy.isOf (c : Convoy) (p : Nat) (lane : Option Nat) : Bool := c.part == p && c.lane == lane

/-- The end of an issue of the convoy of a slot: it moves on when no member is left at its program counter;
after the END its members are ready at their next addresses, unless the convoy keeps the slot (01 R24,
R25). -/
def State.finishIssue (s : State) (part : Nat) (lane : Option Nat) (yld : Bool) : State :=
  let s := (s.setPt part fun p => { p with busy := [], ending := [] }).settleReserve part
  match s.front with
  | none => s
  | some c =>
      if !c.isOf part lane then s
      else if c.mem.any fun k => (s.th k).pc == c.pc && (s.th k).jump.isNone then s
      else if c.last then
        if (c.lane.isNone && s.keepsSlot c) || s.keepsBuffer c then
          let a := (s.th (c.mem.headD 0)).pc
          let s := c.mem.foldl (fun s k => s.setTh k fun t =>
            { t with hdr := t.pc, src := c.pc, jump := none, yld := yld, since := s.cycle, starved := false }) s
          s.setFront fun c => { c with pc := a, hdr := a, code := [] }
        else
          let s := c.mem.foldl (fun s k => s.setTh k fun t => t.arrive c.pc (yld || t.yielded) s.cycle) s
          { s with convoys := s.convoys.drop 1 }
      else s.setFront fun c => { c with pc := nextPC c.pc }

/-- A word issued for the convoy in front: stalled as a whole, or its causes raised and `run` applied
to the members left (01 R18, R24, R26). -/
def State.issueWith (s : State) (i : Instr) (block : State → Nat → Bool) (run : Head → List Nat → State → State) : State :=
  match s.front, i.head with
  | some c, some h =>
      let ks := s.actors
      if ks.isEmpty then s
      else
        let ok := ks.filter fun k => (s.wordFault c i h k).isNone
        let stuck := ok.filter fun k => s.holdsBack c i h block k
        if (s.pt c.part).rgu.isSome then s
        else if !stuck.isEmpty then
          (stuck.filter fun k => s.guardPending k h || (s.guard k h.g && (s.heldOp k).isNone && s.interlocked k i)).foldl State.countStall s
        else
          let act := ok.filter fun k => s.guard k h.g
          match act.findSome? fun k => (s.regenFor k i (s.coverOf i h ks (rowKey k))).map fun g => (rowKey k, g) with
          | some w => (s.keep c.part ks i).setPt c.part fun p => { p with rgu := some w }
          | none =>
              let s := if act.any fun k => (s.heldOp k).isSome then s else s.count (c.part / 4) 4
              let s := s.keep c.part ks i
              let s := act.foldl (fun s k => s.touch k i) s
              -- causes first: they concern the raising thread alone
              let bad := ks.filterMap fun k => (s.wordFault c i h k).map fun r => (k, r)
              let s := bad.foldl (fun s (k, r) => s.trap k r) s
              let lost := act.filterMap fun k => (s.regenFault k i).map fun f => (k, f)
              let s := lost.foldl (fun s (k, f) => (s.clearRegenFault k f.1).trap k f.2) s
              let poor := act.filter fun k => !(lost.any fun e => e.1 == k) && s.readsBad k i
              let s := poor.foldl (fun s k => s.trap k badRead) s
              let rest := ok.filter fun k => !(lost.any fun e => e.1 == k) && !poor.contains k && s.live k && (s.front.any fun c => c.mem.contains k)
              (run h rest s).finishIssue c.part c.lane h.h.yld
  | _, _ => s

/-- An instruction that acts for each thread by itself: in increasing tid, guarded-off threads complete
with no effect (06 R151). -/
def State.issueEach (s : State) (i : Instr) (block : State → Nat → Bool) (eff : State → Nat → Eff) : State :=
  s.issueWith i block fun h ks s =>
    ks.foldl (fun s k =>
      if (s.front.any fun c => c.mem.contains k) then
        State.applyEff k h.h.fin (if s.guard k h.g then eff s k else .done s)
      else s) s

/-- No wait of the instruction's own. -/
def noBlock : State → Nat → Bool := fun _ _ => false

end Sys2Proof.Machine
end

