-- ==== Sys2Proof/Machine/Value.lean ====
section
/-! DEFINITION. Issuing an instruction that computes one value of its operands and writes it to D. -/

namespace Sys2Proof

/-- CVTN.pk (09 R242): register A + i of the slot's count, packed into one word. -/
def cvtnPkRes (h : Head) (a b : Spec) (r : Rd) : Out :=
  match r.slot (h.md.extractLsb' 0 3).toNat, a with
  | some sl, .v i =>
      if cvtnOk sl && (sl.scheme != 0 || b == .v 0) then
        let xs := (List.range (cvtnCount sl)).map fun j => (r.bits 1 (.v (i + BitVec.ofNat 8 j))).toNat
        let o := cvtnPack sl (cvtnScale sl (r.bits 1 b)) xs r.rng
        { v := BitVec.ofNat 64 (leNat (Fp.packRow (Fp.elemWidth sl.fmt) o.1) % 2 ^ 32), fl := o.2.1,
          rng := if sl.rm = 5 then some o.2.2 else none }
      else { illegal := true }
  | _, _ => { illegal := true }

namespace Machine

/-- What a value function's result does for a thread. -/
def State.valueEff (s : State) (k : Nat) (d : Spec) (w : Nat) (o : Out) : Eff :=
  if o.illegal then .trap s.illegalRaise s
  else match o.trap with
    | some (c, v) => .trap ⟨c, v, none, none⟩ s
    | none => .done (s.writeOut k d w o)

/-- An instruction whose effect is one value of its operands, written to `d` of `w` registers. -/
def State.issueValue (s : State) (i : Instr) (d : Spec) (w : Nat) (f : Rd → Out) : State :=
  s.issueEach i noBlock fun s k => s.valueEff k d w (f (s.rd k))

end Machine
end Sys2Proof
end

