-- ==== Sys2Proof/Machine/Compare.lean ====
section
/-! DEFINITION. The compare, predicate, select and move instructions (09 R231 to R234): for each
instruction its value as a function of its operands, and its meaning. -/

namespace Sys2Proof.Machine

/-- The value of ICMP (09 R231). -/
def valIcmp (h : Head) (d : Spec) (a : Spec) (b : Spec) (cmp : BitVec 4) (join : BitVec 2) (r : Rd) : Out :=
  icmpRes h cmp join (oldTruth r d) (r.src h.ty a) (r.src h.ty b)

/-- ICMP, 09 R231. -/
def execIcmp (h : Head) (d : Spec) (a : Spec) (b : Spec) (cmp : BitVec 4) (join : BitVec 2) (s : State) : Host.Outcome State Fault Refusal :=
  .next (s.issueValue (.icmp h d a b cmp join) d (1) (valIcmp h d a b cmp join))

/-- The value of ICMPV (09 R231). -/
def valIcmpv (h : Head) (d : Spec) (a : Spec) (b : Spec) (cmp : BitVec 4) (join : BitVec 2) (r : Rd) : Out :=
  icmpRes h cmp join (oldTruth r d) (r.src h.ty a) (r.src h.ty b)

/-- ICMPV, 09 R231. -/
def execIcmpv (h : Head) (d : Spec) (a : Spec) (b : Spec) (cmp : BitVec 4) (join : BitVec 2) (s : State) : Host.Outcome State Fault Refusal :=
  .next (s.issueValue (.icmpv h d a b cmp join) d (1) (valIcmpv h d a b cmp join))

/-- The value of FCMP (09 R232). -/
def valFcmp (h : Head) (d : Spec) (a : Spec) (b : Spec) (cmp : BitVec 4) (join : BitVec 2) (r : Rd) : Out :=
  fcmpRes h cmp join (oldTruth r d) (r.src h.ty a) (r.src h.ty b)

/-- FCMP, 09 R232. -/
def execFcmp (h : Head) (d : Spec) (a : Spec) (b : Spec) (cmp : BitVec 4) (join : BitVec 2) (s : State) : Host.Outcome State Fault Refusal :=
  .next (s.issueValue (.fcmp h d a b cmp join) d (1) (valFcmp h d a b cmp join))

/-- The value of FCMPV (09 R232). -/
def valFcmpv (h : Head) (d : Spec) (a : Spec) (b : Spec) (cmp : BitVec 4) (join : BitVec 2) (r : Rd) : Out :=
  fcmpRes h cmp join (oldTruth r d) (r.src h.ty a) (r.src h.ty b)

/-- FCMPV, 09 R232. -/
def execFcmpv (h : Head) (d : Spec) (a : Spec) (b : Spec) (cmp : BitVec 4) (join : BitVec 2) (s : State) : Host.Outcome State Fault Refusal :=
  .next (s.issueValue (.fcmpv h d a b cmp join) d (1) (valFcmpv h d a b cmp join))

/-- The value of PBOOL3 (09 R233). -/
def valPbool3 (a : Spec) (b : Spec) (c : Spec) (tbl : BitVec 8) (r : Rd) : Out :=
  { v := truth (tbl.getLsbD ((if (r.bits 1 a) != 0 then 1 else 0) + (if (r.bits 1 b) != 0 then 2 else 0) + (if (r.bits 1 c) != 0 then 4 else 0))) }

/-- PBOOL3, 09 R233. -/
def execPbool3 (h : Head) (d : Spec) (a : Spec) (b : Spec) (c : Spec) (tbl : BitVec 8) (s : State) : Host.Outcome State Fault Refusal :=
  .next (s.issueValue (.pbool3 h d a b c tbl) d (1) (valPbool3 a b c tbl))

/-- The value of PMOV_GET (09 R233). -/
def valPmovGet  (r : Rd) : Out :=
  { v := BitVec.ofNat 64 (0x80 + listMask ((List.range 7).filter r.pred)) }

/-- PMOV_GET, 09 R233. -/
def execPmovGet (h : Head) (d : Spec) (s : State) : Host.Outcome State Fault Refusal :=
  .next (s.issueValue (.pmovGet h d) d (1) (valPmovGet))

/-- The value of SEL (09 R234). -/
def valSel (h : Head) (a : Spec) (b : Spec) (pc : BitVec 3) (ng : BitVec 1) (r : Rd) : Out :=
  bitsPut h.ty (if r.pred pc.toNat != ng.getLsbD 0 then (r.src h.ty a) else (r.src h.ty b))

/-- SEL, 09 R234. -/
def execSel (h : Head) (d : Spec) (a : Spec) (b : Spec) (pc : BitVec 3) (ng : BitVec 1) (s : State) : Host.Outcome State Fault Refusal :=
  .next (s.issueValue (.sel h d a b pc ng) d (h.ty.rw) (valSel h a b pc ng))

/-- The value of MOV (09 R234). -/
def valMov (h : Head) (a : Spec) (r : Rd) : Out :=
  bitsPut h.ty (r.src h.ty a)

/-- MOV, 09 R234. -/
def execMov (h : Head) (d : Spec) (a : Spec) (s : State) : Host.Outcome State Fault Refusal :=
  .next (s.issueValue (.mov h d a) d (h.ty.rw) (valMov h a))

/-- The value of MOVI (09 R234). -/
def valMovi (x : BitVec 32) (_ : Rd) : Out :=
  { v := x.setWidth 64 }

/-- MOVI, 09 R234. -/
def execMovi (h : Head) (d : Spec) (x : BitVec 32) (s : State) : Host.Outcome State Fault Refusal :=
  .next (s.issueValue (.movi h d x) d (1) (valMovi x))

/-- The value of MOVW (09 R234). -/
def valMovw (h : Head) (a : Spec) (r : Rd) : Out :=
  { v := BitVec.ofInt 64 (intOf h.ty (r.bits 1 a)) }

/-- MOVW, 09 R234. -/
def execMovw (h : Head) (d : Spec) (a : Spec) (s : State) : Host.Outcome State Fault Refusal :=
  .next (s.issueValue (.movw h d a) d (2) (valMovw h a))

/-- PMOV.set, 09 R233: predicate n takes bit n of A for each bit set in the mask. -/
def execPmovSet (h : Head) (a : Spec) (mask : BitVec 7) (s : State) : Host.Outcome State Fault Refusal :=
  .next (s.issueEach (.pmovSet h a mask) noBlock fun s k =>
    let x := s.r32 k a
    .done (s.setTh k fun t => (List.range 7).foldl (fun t n => if mask.getLsbD n then t.setPred n (x.getLsbD n) else t) t))

end Sys2Proof.Machine
end

