-- ==== Sys2Proof/Machine/Convert.lean ====
section
/-! DEFINITION. The conversions (09 R241 to R243): for each
instruction its value as a function of its operands, and its meaning. -/

namespace Sys2Proof.Machine

/-- The value of CVTN_PK (09 R242). -/
def valCvtnPk (h : Head) (a : Spec) (b : Spec) (r : Rd) : Out :=
  cvtnPkRes h a b r

/-- CVTN_PK, 09 R242. -/
def execCvtnPk (h : Head) (d : Spec) (a : Spec) (b : Spec) (s : State) : Host.Outcome State Fault Refusal :=
  .next (s.issueValue (.cvtnPk h d a b) d (1) (valCvtnPk h a b))

/-- The value of CVTW (09 R241). -/
def valCvtw (h : Head) (a : Spec) (b : Spec) (r : Rd) : Out :=
  cvtwRes h (stypeOf b) r.fmode r.rng (r.src (stypeOf b) a)

/-- CVTW, 09 R241. -/
def execCvtw (h : Head) (d : Spec) (a : Spec) (b : Spec) (s : State) : Host.Outcome State Fault Refusal :=
  .next (s.issueValue (.cvtw h d a b) d (h.ty.rw) (valCvtw h a b))

/-- The value of VBLKX (09 R243). -/
def valVblkx (h : Head) (a : Spec) (b : Spec) (idx : BitVec 3) (r : Rd) : Out :=
  match r.slot (h.md.extractLsb' 0 3).toNat with
  | some sl => if sl.scheme = 3 then vblkxRes sl idx (r.bits 1 a) (r.bits 1 b) else { illegal := true }
  | none => { illegal := true }

/-- VBLKX, 09 R243. -/
def execVblkx (h : Head) (d : Spec) (a : Spec) (b : Spec) (idx : BitVec 3) (s : State) : Host.Outcome State Fault Refusal :=
  .next (s.issueValue (.vblkx h d a b idx) d (1) (valVblkx h a b idx))

/-- The f32 elements of CVTN.unpk (09 R242), with their flags; none where the slot is not accepted. -/
def valCvtnUnpk (h : Head) (a b : Spec) (r : Rd) : Option (List Word × Fp.Flags) :=
  match r.slot (h.md.extractLsb' 0 3).toNat with
  | some sl =>
      if cvtnOk sl && (sl.scheme != 0 || b == .v 0) then
        let sc := cvtnScale sl (r.bits 1 b)
        let os := (List.range (cvtnCount sl)).map (cvtnUnpack1 sl sc ((r.bits 1 a).setWidth 32))
        some (os.map fun o => BitVec.ofNat 32 o.1, os.foldl (fun f o => f ||| o.2) 0)
      else none
  | none => none

/-- CVTN.unpk, 09 R242. -/
def execCvtnUnpk (h : Head) (d a b : Spec) (s : State) : Host.Outcome State Fault Refusal :=
  .next (s.issueEach (.cvtnUnpk h d a b) noBlock fun s k =>
    match valCvtnUnpk h a b (s.rd k), d with
    | some o, .v i => .done ((s.setFlags k o.2).writeVs k i.toNat o.1)
    | _, _ => .trap s.illegalRaise s)

end Sys2Proof.Machine
end

