-- ==== Sys2Proof/Machine/FloatOps.lean ====
section
/-! DEFINITION. The floating-point and packed instructions (09 R235 to R240): for each
instruction its value as a function of its operands, and its meaning. -/

namespace Sys2Proof.Machine

/-- The value of FADD (09 R235). -/
def valFadd (h : Head) (a : Spec) (b : Spec) (r : Rd) : Out :=
  fbin h r.fmode fadd1 (r.src h.ty a) (r.src h.ty b)

/-- FADD, 09 R235. -/
def execFadd (h : Head) (d : Spec) (a : Spec) (b : Spec) (s : State) : Host.Outcome State Fault Refusal :=
  .next (s.issueValue (.fadd h d a b) d (h.ty.rw) (valFadd h a b))

/-- The value of FADD_IMM (09 R235). -/
def valFaddImm (h : Head) (a : Spec) (x : BitVec 32) (r : Rd) : Out :=
  fbin h r.fmode fadd1 (r.src h.ty a) (immX h.ty x)

/-- FADD_IMM, 09 R235. -/
def execFaddImm (h : Head) (d : Spec) (a : Spec) (x : BitVec 32) (s : State) : Host.Outcome State Fault Refusal :=
  .next (s.issueValue (.faddImm h d a x) d (h.ty.rw) (valFaddImm h a x))

/-- The value of FSUB (09 R235). -/
def valFsub (h : Head) (a : Spec) (b : Spec) (r : Rd) : Out :=
  fbin h r.fmode fsub1 (r.src h.ty a) (r.src h.ty b)

/-- FSUB, 09 R235. -/
def execFsub (h : Head) (d : Spec) (a : Spec) (b : Spec) (s : State) : Host.Outcome State Fault Refusal :=
  .next (s.issueValue (.fsub h d a b) d (h.ty.rw) (valFsub h a b))

/-- The value of FSUB_IMM (09 R235). -/
def valFsubImm (h : Head) (a : Spec) (x : BitVec 32) (r : Rd) : Out :=
  fbin h r.fmode fsub1 (r.src h.ty a) (immX h.ty x)

/-- FSUB_IMM, 09 R235. -/
def execFsubImm (h : Head) (d : Spec) (a : Spec) (x : BitVec 32) (s : State) : Host.Outcome State Fault Refusal :=
  .next (s.issueValue (.fsubImm h d a x) d (h.ty.rw) (valFsubImm h a x))

/-- The value of FMUL (09 R235). -/
def valFmul (h : Head) (a : Spec) (b : Spec) (r : Rd) : Out :=
  fbin h r.fmode fmul1 (r.src h.ty a) (r.src h.ty b)

/-- FMUL, 09 R235. -/
def execFmul (h : Head) (d : Spec) (a : Spec) (b : Spec) (s : State) : Host.Outcome State Fault Refusal :=
  .next (s.issueValue (.fmul h d a b) d (h.ty.rw) (valFmul h a b))

/-- The value of FMUL_IMM (09 R235). -/
def valFmulImm (h : Head) (a : Spec) (x : BitVec 32) (r : Rd) : Out :=
  fbin h r.fmode fmul1 (r.src h.ty a) (immX h.ty x)

/-- FMUL_IMM, 09 R235. -/
def execFmulImm (h : Head) (d : Spec) (a : Spec) (x : BitVec 32) (s : State) : Host.Outcome State Fault Refusal :=
  .next (s.issueValue (.fmulImm h d a x) d (h.ty.rw) (valFmulImm h a x))

/-- The value of FFMA (09 R235). -/
def valFfma (h : Head) (a : Spec) (b : Spec) (c : Spec) (r : Rd) : Out :=
  fpOut h.ty (ffma1 h.ty h.md r.fmode (fget h.ty (r.src h.ty a)) (fget h.ty (r.src h.ty b)) (fget h.ty (r.src h.ty c)))

/-- FFMA, 09 R235. -/
def execFfma (h : Head) (d : Spec) (a : Spec) (b : Spec) (c : Spec) (s : State) : Host.Outcome State Fault Refusal :=
  .next (s.issueValue (.ffma h d a b c) d (h.ty.rw) (valFfma h a b c))

/-- The value of FDIV (09 R235). -/
def valFdiv (h : Head) (a : Spec) (b : Spec) (r : Rd) : Out :=
  fbin h r.fmode fdiv1 (r.src h.ty a) (r.src h.ty b)

/-- FDIV, 09 R235. -/
def execFdiv (h : Head) (d : Spec) (a : Spec) (b : Spec) (s : State) : Host.Outcome State Fault Refusal :=
  .next (s.issueValue (.fdiv h d a b) d (h.ty.rw) (valFdiv h a b))

/-- The value of FSQRT (09 R235). -/
def valFsqrt (h : Head) (a : Spec) (r : Rd) : Out :=
  fpOut h.ty (fsqrt1 h.ty h.md r.fmode (fget h.ty (r.src h.ty a)))

/-- FSQRT, 09 R235. -/
def execFsqrt (h : Head) (d : Spec) (a : Spec) (s : State) : Host.Outcome State Fault Refusal :=
  .next (s.issueValue (.fsqrt h d a) d (h.ty.rw) (valFsqrt h a))

/-- The value of FRCP (09 R239). -/
def valFrcp (h : Head) (a : Spec) (r : Rd) : Out :=
  approxRes h 0 (r.src h.ty a)

/-- FRCP, 09 R239. -/
def execFrcp (h : Head) (d : Spec) (a : Spec) (s : State) : Host.Outcome State Fault Refusal :=
  .next (s.issueValue (.frcp h d a) d (h.ty.rw) (valFrcp h a))

/-- The value of FRSQ (09 R239). -/
def valFrsq (h : Head) (a : Spec) (r : Rd) : Out :=
  approxRes h 1 (r.src h.ty a)

/-- FRSQ, 09 R239. -/
def execFrsq (h : Head) (d : Spec) (a : Spec) (s : State) : Host.Outcome State Fault Refusal :=
  .next (s.issueValue (.frsq h d a) d (h.ty.rw) (valFrsq h a))

/-- The value of FMIN (09 R236). -/
def valFmin (h : Head) (a : Spec) (b : Spec) (r : Rd) : Out :=
  fminmax h false (r.src h.ty a) (r.src h.ty b)

/-- FMIN, 09 R236. -/
def execFmin (h : Head) (d : Spec) (a : Spec) (b : Spec) (s : State) : Host.Outcome State Fault Refusal :=
  .next (s.issueValue (.fmin h d a b) d (h.ty.rw) (valFmin h a b))

/-- The value of FMIN_IMM (09 R236). -/
def valFminImm (h : Head) (a : Spec) (x : BitVec 32) (r : Rd) : Out :=
  fminmax h false (r.src h.ty a) (immX h.ty x)

/-- FMIN_IMM, 09 R236. -/
def execFminImm (h : Head) (d : Spec) (a : Spec) (x : BitVec 32) (s : State) : Host.Outcome State Fault Refusal :=
  .next (s.issueValue (.fminImm h d a x) d (h.ty.rw) (valFminImm h a x))

/-- The value of FMAX (09 R236). -/
def valFmax (h : Head) (a : Spec) (b : Spec) (r : Rd) : Out :=
  fminmax h true (r.src h.ty a) (r.src h.ty b)

/-- FMAX, 09 R236. -/
def execFmax (h : Head) (d : Spec) (a : Spec) (b : Spec) (s : State) : Host.Outcome State Fault Refusal :=
  .next (s.issueValue (.fmax h d a b) d (h.ty.rw) (valFmax h a b))

/-- The value of FMAX_IMM (09 R236). -/
def valFmaxImm (h : Head) (a : Spec) (x : BitVec 32) (r : Rd) : Out :=
  fminmax h true (r.src h.ty a) (immX h.ty x)

/-- FMAX_IMM, 09 R236. -/
def execFmaxImm (h : Head) (d : Spec) (a : Spec) (x : BitVec 32) (s : State) : Host.Outcome State Fault Refusal :=
  .next (s.issueValue (.fmaxImm h d a x) d (h.ty.rw) (valFmaxImm h a x))

/-- The value of FABS (09 R237). -/
def valFabs (h : Head) (a : Spec) (r : Rd) : Out :=
  withSign h.ty (r.src h.ty a) false

/-- FABS, 09 R237. -/
def execFabs (h : Head) (d : Spec) (a : Spec) (s : State) : Host.Outcome State Fault Refusal :=
  .next (s.issueValue (.fabs h d a) d (h.ty.rw) (valFabs h a))

/-- The value of FNEG (09 R237). -/
def valFneg (h : Head) (a : Spec) (r : Rd) : Out :=
  withSign h.ty (r.src h.ty a) (!signBitOf h.ty (r.src h.ty a))

/-- FNEG, 09 R237. -/
def execFneg (h : Head) (d : Spec) (a : Spec) (s : State) : Host.Outcome State Fault Refusal :=
  .next (s.issueValue (.fneg h d a) d (h.ty.rw) (valFneg h a))

/-- The value of FCPYS (09 R237). -/
def valFcpys (h : Head) (a : Spec) (b : Spec) (r : Rd) : Out :=
  withSign h.ty (r.src h.ty a) (signBitOf h.ty (r.src h.ty b))

/-- FCPYS, 09 R237. -/
def execFcpys (h : Head) (d : Spec) (a : Spec) (b : Spec) (s : State) : Host.Outcome State Fault Refusal :=
  .next (s.issueValue (.fcpys h d a b) d (h.ty.rw) (valFcpys h a b))

/-- The registers FCLASS writes: a general destination is as wide as the type (09 R221, R237). -/
def fclassWidth (h : Head) (d : Spec) : Nat := if d.isPred then 1 else h.ty.rw

/-- The value of FCLASS (09 R237). -/
def valFclass (h : Head) (d : Spec) (a : Spec) (mask : BitVec 10) (r : Rd) : Out :=
  { v := if d.isPred then truth (mask.getLsbD (Fp.classOf h.ty.fmt (fget h.ty (r.src h.ty a)))) else BitVec.ofNat 64 (2 ^ Fp.classOf h.ty.fmt (fget h.ty (r.src h.ty a))) }

/-- FCLASS, 09 R237. -/
def execFclass (h : Head) (d : Spec) (a : Spec) (mask : BitVec 10) (s : State) : Host.Outcome State Fault Refusal :=
  .next (s.issueValue (.fclass h d a mask) d (fclassWidth h d) (valFclass h d a mask))

/-- The value of FRND (09 R238). -/
def valFrnd (h : Head) (a : Spec) (r : Rd) : Out :=
  frndRes h r.fmode (r.src h.ty a)

/-- FRND, 09 R238. -/
def execFrnd (h : Head) (d : Spec) (a : Spec) (s : State) : Host.Outcome State Fault Refusal :=
  .next (s.issueValue (.frnd h d a) d (h.ty.rw) (valFrnd h a))

/-- The value of FFRAC (09 R238). -/
def valFfrac (h : Head) (a : Spec) (r : Rd) : Out :=
  ffracRes h (r.src h.ty a)

/-- FFRAC, 09 R238. -/
def execFfrac (h : Head) (d : Spec) (a : Spec) (s : State) : Host.Outcome State Fault Refusal :=
  .next (s.issueValue (.ffrac h d a) d (h.ty.rw) (valFfrac h a))

/-- The value of FEXP2 (09 R239). -/
def valFexp2 (h : Head) (a : Spec) (r : Rd) : Out :=
  approxRes h 2 (r.src h.ty a)

/-- FEXP2, 09 R239. -/
def execFexp2 (h : Head) (d : Spec) (a : Spec) (s : State) : Host.Outcome State Fault Refusal :=
  .next (s.issueValue (.fexp2 h d a) d (h.ty.rw) (valFexp2 h a))

/-- The value of FLOG2 (09 R239). -/
def valFlog2 (h : Head) (a : Spec) (r : Rd) : Out :=
  approxRes h 3 (r.src h.ty a)

/-- FLOG2, 09 R239. -/
def execFlog2 (h : Head) (d : Spec) (a : Spec) (s : State) : Host.Outcome State Fault Refusal :=
  .next (s.issueValue (.flog2 h d a) d (h.ty.rw) (valFlog2 h a))

/-- The value of FSIN (09 R239). -/
def valFsin (h : Head) (a : Spec) (r : Rd) : Out :=
  approxRes h 4 (r.src h.ty a)

/-- FSIN, 09 R239. -/
def execFsin (h : Head) (d : Spec) (a : Spec) (s : State) : Host.Outcome State Fault Refusal :=
  .next (s.issueValue (.fsin h d a) d (h.ty.rw) (valFsin h a))

/-- The value of FCOS (09 R239). -/
def valFcos (h : Head) (a : Spec) (r : Rd) : Out :=
  approxRes h 5 (r.src h.ty a)

/-- FCOS, 09 R239. -/
def execFcos (h : Head) (d : Spec) (a : Spec) (s : State) : Host.Outcome State Fault Refusal :=
  .next (s.issueValue (.fcos h d a) d (h.ty.rw) (valFcos h a))

/-- The value of FTANH (09 R239). -/
def valFtanh (h : Head) (a : Spec) (r : Rd) : Out :=
  approxRes h 6 (r.src h.ty a)

/-- FTANH, 09 R239. -/
def execFtanh (h : Head) (d : Spec) (a : Spec) (s : State) : Host.Outcome State Fault Refusal :=
  .next (s.issueValue (.ftanh h d a) d (h.ty.rw) (valFtanh h a))

/-- The value of FSCALE (09 R235). -/
def valFscale (h : Head) (a : Spec) (b : Spec) (r : Rd) : Out :=
  fpOut h.ty (fscale1 h.ty h.md r.fmode (fget h.ty (r.src h.ty a)) (intOf .i32 (r.bits 1 b)))

/-- FSCALE, 09 R235. -/
def execFscale (h : Head) (d : Spec) (a : Spec) (b : Spec) (s : State) : Host.Outcome State Fault Refusal :=
  .next (s.issueValue (.fscale h d a b) d (h.ty.rw) (valFscale h a b))

/-- The value of FGETEXP (09 R238). -/
def valFgetexp (h : Head) (a : Spec) (r : Rd) : Out :=
  fgetexpRes h (r.src h.ty a)

/-- FGETEXP, 09 R238. -/
def execFgetexp (h : Head) (d : Spec) (a : Spec) (s : State) : Host.Outcome State Fault Refusal :=
  .next (s.issueValue (.fgetexp h d a) d (h.ty.rw) (valFgetexp h a))

/-- The value of HADD2 (09 R240). -/
def valHadd2 (h : Head) (a : Spec) (b : Spec) (r : Rd) : Out :=
  packOut fun i => fadd1 h.ty h.md r.fmode (half (r.packed h.ty a) i) (half (r.packed h.ty b) i)

/-- HADD2, 09 R240. -/
def execHadd2 (h : Head) (d : Spec) (a : Spec) (b : Spec) (s : State) : Host.Outcome State Fault Refusal :=
  .next (s.issueValue (.hadd2 h d a b) d (1) (valHadd2 h a b))

/-- The value of HADD2_IMM (09 R240). -/
def valHadd2Imm (h : Head) (a : Spec) (x : BitVec 32) (r : Rd) : Out :=
  packOut fun i => fadd1 h.ty h.md r.fmode (half (r.packed h.ty a) i) (half (x.setWidth 64) i)

/-- HADD2_IMM, 09 R240. -/
def execHadd2Imm (h : Head) (d : Spec) (a : Spec) (x : BitVec 32) (s : State) : Host.Outcome State Fault Refusal :=
  .next (s.issueValue (.hadd2Imm h d a x) d (1) (valHadd2Imm h a x))

/-- The value of HMUL2 (09 R240). -/
def valHmul2 (h : Head) (a : Spec) (b : Spec) (r : Rd) : Out :=
  packOut fun i => fmul1 h.ty h.md r.fmode (half (r.packed h.ty a) i) (half (r.packed h.ty b) i)

/-- HMUL2, 09 R240. -/
def execHmul2 (h : Head) (d : Spec) (a : Spec) (b : Spec) (s : State) : Host.Outcome State Fault Refusal :=
  .next (s.issueValue (.hmul2 h d a b) d (1) (valHmul2 h a b))

/-- The value of HMUL2_IMM (09 R240). -/
def valHmul2Imm (h : Head) (a : Spec) (x : BitVec 32) (r : Rd) : Out :=
  packOut fun i => fmul1 h.ty h.md r.fmode (half (r.packed h.ty a) i) (half (x.setWidth 64) i)

/-- HMUL2_IMM, 09 R240. -/
def execHmul2Imm (h : Head) (d : Spec) (a : Spec) (x : BitVec 32) (s : State) : Host.Outcome State Fault Refusal :=
  .next (s.issueValue (.hmul2Imm h d a x) d (1) (valHmul2Imm h a x))

/-- The value of HFMA2 (09 R240). -/
def valHfma2 (h : Head) (a : Spec) (b : Spec) (c : Spec) (r : Rd) : Out :=
  packOut fun i => ffma1 h.ty h.md r.fmode (half (r.packed h.ty a) i) (half (r.packed h.ty b) i) (half (r.packed h.ty c) i)

/-- HFMA2, 09 R240. -/
def execHfma2 (h : Head) (d : Spec) (a : Spec) (b : Spec) (c : Spec) (s : State) : Host.Outcome State Fault Refusal :=
  .next (s.issueValue (.hfma2 h d a b c) d (1) (valHfma2 h a b c))

/-- The value of HMIN2 (09 R240). -/
def valHmin2 (h : Head) (a : Spec) (b : Spec) (r : Rd) : Out :=
  packOut fun i => Fp.minMax h.ty.fmt false (h.md.getLsbD 0) (half (r.packed h.ty a) i) (half (r.packed h.ty b) i)

/-- HMIN2, 09 R240. -/
def execHmin2 (h : Head) (d : Spec) (a : Spec) (b : Spec) (s : State) : Host.Outcome State Fault Refusal :=
  .next (s.issueValue (.hmin2 h d a b) d (1) (valHmin2 h a b))

/-- The value of HMIN2_IMM (09 R240). -/
def valHmin2Imm (h : Head) (a : Spec) (x : BitVec 32) (r : Rd) : Out :=
  packOut fun i => Fp.minMax h.ty.fmt false (h.md.getLsbD 0) (half (r.packed h.ty a) i) (half (x.setWidth 64) i)

/-- HMIN2_IMM, 09 R240. -/
def execHmin2Imm (h : Head) (d : Spec) (a : Spec) (x : BitVec 32) (s : State) : Host.Outcome State Fault Refusal :=
  .next (s.issueValue (.hmin2Imm h d a x) d (1) (valHmin2Imm h a x))

/-- The value of HMAX2 (09 R240). -/
def valHmax2 (h : Head) (a : Spec) (b : Spec) (r : Rd) : Out :=
  packOut fun i => Fp.minMax h.ty.fmt true (h.md.getLsbD 0) (half (r.packed h.ty a) i) (half (r.packed h.ty b) i)

/-- HMAX2, 09 R240. -/
def execHmax2 (h : Head) (d : Spec) (a : Spec) (b : Spec) (s : State) : Host.Outcome State Fault Refusal :=
  .next (s.issueValue (.hmax2 h d a b) d (1) (valHmax2 h a b))

/-- The value of HMAX2_IMM (09 R240). -/
def valHmax2Imm (h : Head) (a : Spec) (x : BitVec 32) (r : Rd) : Out :=
  packOut fun i => Fp.minMax h.ty.fmt true (h.md.getLsbD 0) (half (r.packed h.ty a) i) (half (x.setWidth 64) i)

/-- HMAX2_IMM, 09 R240. -/
def execHmax2Imm (h : Head) (d : Spec) (a : Spec) (x : BitVec 32) (s : State) : Host.Outcome State Fault Refusal :=
  .next (s.issueValue (.hmax2Imm h d a x) d (1) (valHmax2Imm h a x))

end Sys2Proof.Machine
end

