-- ==== Sys2Proof/Machine/Integer.lean ====
section
/-! DEFINITION. The integer, logic, shift and bit-field instructions (09 R225 to R230): for each
instruction its value as a function of its operands, and its meaning. -/

namespace Sys2Proof.Machine

/-- The value of IADD (09 R225). -/
def valIadd (h : Head) (a : Spec) (b : Spec) (r : Rd) : Out :=
  intBin h (fun x y => x + y) (r.src h.ty a) (r.src h.ty b)

/-- IADD, 09 R225. -/
def execIadd (h : Head) (d : Spec) (a : Spec) (b : Spec) (s : State) : Host.Outcome State Fault Refusal :=
  .next (s.issueValue (.iadd h d a b) d (h.ty.rw) (valIadd h a b))

/-- The value of IADD_IMM (09 R225). -/
def valIaddImm (h : Head) (a : Spec) (x : BitVec 32) (r : Rd) : Out :=
  intBin h (fun x y => x + y) (r.src h.ty a) (immX h.ty x)

/-- IADD_IMM, 09 R225. -/
def execIaddImm (h : Head) (d : Spec) (a : Spec) (x : BitVec 32) (s : State) : Host.Outcome State Fault Refusal :=
  .next (s.issueValue (.iaddImm h d a x) d (h.ty.rw) (valIaddImm h a x))

/-- The value of ISUB (09 R225). -/
def valIsub (h : Head) (a : Spec) (b : Spec) (r : Rd) : Out :=
  intBin h (fun x y => x - y) (r.src h.ty a) (r.src h.ty b)

/-- ISUB, 09 R225. -/
def execIsub (h : Head) (d : Spec) (a : Spec) (b : Spec) (s : State) : Host.Outcome State Fault Refusal :=
  .next (s.issueValue (.isub h d a b) d (h.ty.rw) (valIsub h a b))

/-- The value of ISUB_IMM (09 R225). -/
def valIsubImm (h : Head) (a : Spec) (x : BitVec 32) (r : Rd) : Out :=
  intBin h (fun x y => x - y) (r.src h.ty a) (immX h.ty x)

/-- ISUB_IMM, 09 R225. -/
def execIsubImm (h : Head) (d : Spec) (a : Spec) (x : BitVec 32) (s : State) : Host.Outcome State Fault Refusal :=
  .next (s.issueValue (.isubImm h d a x) d (h.ty.rw) (valIsubImm h a x))

/-- The value of INEG (09 R225). -/
def valIneg (h : Head) (a : Spec) (r : Rd) : Out :=
  intRes h.ty (satOf h) (-(intOf h.ty (r.src h.ty a)))

/-- INEG, 09 R225. -/
def execIneg (h : Head) (d : Spec) (a : Spec) (s : State) : Host.Outcome State Fault Refusal :=
  .next (s.issueValue (.ineg h d a) d (h.ty.rw) (valIneg h a))

/-- The value of IABS (09 R225). -/
def valIabs (h : Head) (a : Spec) (r : Rd) : Out :=
  intRes h.ty (satOf h) ((intOf h.ty (r.src h.ty a)).natAbs : Int)

/-- IABS, 09 R225. -/
def execIabs (h : Head) (d : Spec) (a : Spec) (s : State) : Host.Outcome State Fault Refusal :=
  .next (s.issueValue (.iabs h d a) d (h.ty.rw) (valIabs h a))

/-- The value of IMUL (09 R225). -/
def valImul (h : Head) (a : Spec) (b : Spec) (r : Rd) : Out :=
  intBin h (fun x y => x * y) (r.src h.ty a) (r.src h.ty b)

/-- IMUL, 09 R225. -/
def execImul (h : Head) (d : Spec) (a : Spec) (b : Spec) (s : State) : Host.Outcome State Fault Refusal :=
  .next (s.issueValue (.imul h d a b) d (h.ty.rw) (valImul h a b))

/-- The value of IMUL_IMM (09 R225). -/
def valImulImm (h : Head) (a : Spec) (x : BitVec 32) (r : Rd) : Out :=
  intBin h (fun x y => x * y) (r.src h.ty a) (immX h.ty x)

/-- IMUL_IMM, 09 R225. -/
def execImulImm (h : Head) (d : Spec) (a : Spec) (x : BitVec 32) (s : State) : Host.Outcome State Fault Refusal :=
  .next (s.issueValue (.imulImm h d a x) d (h.ty.rw) (valImulImm h a x))

/-- The value of IMULHI (09 R225). -/
def valImulhi (h : Head) (a : Spec) (b : Spec) (r : Rd) : Out :=
  intBin h (fun x y => x * y / (2 ^ h.ty.bits : Int)) (r.src h.ty a) (r.src h.ty b)

/-- IMULHI, 09 R225. -/
def execImulhi (h : Head) (d : Spec) (a : Spec) (b : Spec) (s : State) : Host.Outcome State Fault Refusal :=
  .next (s.issueValue (.imulhi h d a b) d (h.ty.rw) (valImulhi h a b))

/-- The value of IMULHI_IMM (09 R225). -/
def valImulhiImm (h : Head) (a : Spec) (x : BitVec 32) (r : Rd) : Out :=
  intBin h (fun x y => x * y / (2 ^ h.ty.bits : Int)) (r.src h.ty a) (immX h.ty x)

/-- IMULHI_IMM, 09 R225. -/
def execImulhiImm (h : Head) (d : Spec) (a : Spec) (x : BitVec 32) (s : State) : Host.Outcome State Fault Refusal :=
  .next (s.issueValue (.imulhiImm h d a x) d (h.ty.rw) (valImulhiImm h a x))

/-- The value of IMAD (09 R225). -/
def valImad (h : Head) (a : Spec) (b : Spec) (c : Spec) (r : Rd) : Out :=
  intRes h.ty (satOf h) (intOf h.ty (r.src h.ty a) * intOf h.ty (r.src h.ty b) + intOf h.ty (r.src h.ty c))

/-- IMAD, 09 R225. -/
def execImad (h : Head) (d : Spec) (a : Spec) (b : Spec) (c : Spec) (s : State) : Host.Outcome State Fault Refusal :=
  .next (s.issueValue (.imad h d a b c) d (h.ty.rw) (valImad h a b c))

/-- The value of IMADW (09 R225). -/
def valImadw (h : Head) (a : Spec) (b : Spec) (c : Spec) (r : Rd) : Out :=
  { v := BitVec.ofInt 64 (intOf h.ty (r.src h.ty a) * intOf h.ty (r.src h.ty b) + (r.bits 2 c).toNat) }

/-- IMADW, 09 R225. -/
def execImadw (h : Head) (d : Spec) (a : Spec) (b : Spec) (c : Spec) (s : State) : Host.Outcome State Fault Refusal :=
  .next (s.issueValue (.imadw h d a b c) d (2) (valImadw h a b c))

/-- The value of IDIV (09 R227). -/
def valIdiv (h : Head) (a : Spec) (b : Spec) (r : Rd) : Out :=
  intDiv h false r.fmode (r.src h.ty a) (r.src h.ty b)

/-- IDIV, 09 R227. -/
def execIdiv (h : Head) (d : Spec) (a : Spec) (b : Spec) (s : State) : Host.Outcome State Fault Refusal :=
  .next (s.issueValue (.idiv h d a b) d (h.ty.rw) (valIdiv h a b))

/-- The value of IDIV_IMM (09 R227). -/
def valIdivImm (h : Head) (a : Spec) (x : BitVec 32) (r : Rd) : Out :=
  intDiv h false r.fmode (r.src h.ty a) (immX h.ty x)

/-- IDIV_IMM, 09 R227. -/
def execIdivImm (h : Head) (d : Spec) (a : Spec) (x : BitVec 32) (s : State) : Host.Outcome State Fault Refusal :=
  .next (s.issueValue (.idivImm h d a x) d (h.ty.rw) (valIdivImm h a x))

/-- The value of IREM (09 R227). -/
def valIrem (h : Head) (a : Spec) (b : Spec) (r : Rd) : Out :=
  intDiv h true r.fmode (r.src h.ty a) (r.src h.ty b)

/-- IREM, 09 R227. -/
def execIrem (h : Head) (d : Spec) (a : Spec) (b : Spec) (s : State) : Host.Outcome State Fault Refusal :=
  .next (s.issueValue (.irem h d a b) d (h.ty.rw) (valIrem h a b))

/-- The value of IREM_IMM (09 R227). -/
def valIremImm (h : Head) (a : Spec) (x : BitVec 32) (r : Rd) : Out :=
  intDiv h true r.fmode (r.src h.ty a) (immX h.ty x)

/-- IREM_IMM, 09 R227. -/
def execIremImm (h : Head) (d : Spec) (a : Spec) (x : BitVec 32) (s : State) : Host.Outcome State Fault Refusal :=
  .next (s.issueValue (.iremImm h d a x) d (h.ty.rw) (valIremImm h a x))

/-- The value of IMIN (09 R225). -/
def valImin (h : Head) (a : Spec) (b : Spec) (r : Rd) : Out :=
  intRes h.ty false (intMin (intOf h.ty (r.src h.ty a)) (intOf h.ty (r.src h.ty b)))

/-- IMIN, 09 R225. -/
def execImin (h : Head) (d : Spec) (a : Spec) (b : Spec) (s : State) : Host.Outcome State Fault Refusal :=
  .next (s.issueValue (.imin h d a b) d (h.ty.rw) (valImin h a b))

/-- The value of IMIN_IMM (09 R225). -/
def valIminImm (h : Head) (a : Spec) (x : BitVec 32) (r : Rd) : Out :=
  intRes h.ty false (intMin (intOf h.ty (r.src h.ty a)) (intOf h.ty (immX h.ty x)))

/-- IMIN_IMM, 09 R225. -/
def execIminImm (h : Head) (d : Spec) (a : Spec) (x : BitVec 32) (s : State) : Host.Outcome State Fault Refusal :=
  .next (s.issueValue (.iminImm h d a x) d (h.ty.rw) (valIminImm h a x))

/-- The value of IMAX (09 R225). -/
def valImax (h : Head) (a : Spec) (b : Spec) (r : Rd) : Out :=
  intRes h.ty false (intMax (intOf h.ty (r.src h.ty a)) (intOf h.ty (r.src h.ty b)))

/-- IMAX, 09 R225. -/
def execImax (h : Head) (d : Spec) (a : Spec) (b : Spec) (s : State) : Host.Outcome State Fault Refusal :=
  .next (s.issueValue (.imax h d a b) d (h.ty.rw) (valImax h a b))

/-- The value of IMAX_IMM (09 R225). -/
def valImaxImm (h : Head) (a : Spec) (x : BitVec 32) (r : Rd) : Out :=
  intRes h.ty false (intMax (intOf h.ty (r.src h.ty a)) (intOf h.ty (immX h.ty x)))

/-- IMAX_IMM, 09 R225. -/
def execImaxImm (h : Head) (d : Spec) (a : Spec) (x : BitVec 32) (s : State) : Host.Outcome State Fault Refusal :=
  .next (s.issueValue (.imaxImm h d a x) d (h.ty.rw) (valImaxImm h a x))

/-- The value of ISAD (09 R225). -/
def valIsad (h : Head) (a : Spec) (b : Spec) (c : Spec) (r : Rd) : Out :=
  intRes .n32 false ((intOf h.ty (r.bits 1 a) - intOf h.ty (r.bits 1 b)).natAbs + intOf .n32 (r.bits 1 c))

/-- ISAD, 09 R225. -/
def execIsad (h : Head) (d : Spec) (a : Spec) (b : Spec) (c : Spec) (s : State) : Host.Outcome State Fault Refusal :=
  .next (s.issueValue (.isad h d a b c) d (1) (valIsad h a b c))

/-- The value of IDP4 (09 R225). -/
def valIdp4 (h : Head) (a : Spec) (b : Spec) (c : Spec) (r : Rd) : Out :=
  dotProd h.ty 4 (r.bits 1 a) (r.bits 1 b) (r.bits 1 c)

/-- IDP4, 09 R225. -/
def execIdp4 (h : Head) (d : Spec) (a : Spec) (b : Spec) (c : Spec) (s : State) : Host.Outcome State Fault Refusal :=
  .next (s.issueValue (.idp4 h d a b c) d (1) (valIdp4 h a b c))

/-- The value of IDP2 (09 R225). -/
def valIdp2 (h : Head) (a : Spec) (b : Spec) (c : Spec) (r : Rd) : Out :=
  dotProd h.ty 2 (r.bits 1 a) (r.bits 1 b) (r.bits 1 c)

/-- IDP2, 09 R225. -/
def execIdp2 (h : Head) (d : Spec) (a : Spec) (b : Spec) (c : Spec) (s : State) : Host.Outcome State Fault Refusal :=
  .next (s.issueValue (.idp2 h d a b c) d (1) (valIdp2 h a b c))

/-- The value of LEA (09 R226). -/
def valLea (a : Spec) (b : Spec) (sh : BitVec 5) (r : Rd) : Out :=
  leaRes 32 (intOf .n32 (r.bits 1 a)) (intOf .n32 (r.bits 1 b)) sh.toNat

/-- LEA, 09 R226. -/
def execLea (h : Head) (d : Spec) (a : Spec) (b : Spec) (sh : BitVec 5) (s : State) : Host.Outcome State Fault Refusal :=
  .next (s.issueValue (.lea h d a b sh) d (1) (valLea a b sh))

/-- The value of LEAW (09 R226). -/
def valLeaw (h : Head) (a : Spec) (b : Spec) (sh : BitVec 5) (r : Rd) : Out :=
  leaRes 64 (intOf .n64 (r.bits 2 a)) (intOf h.ty (r.bits 1 b)) sh.toNat

/-- LEAW, 09 R226. -/
def execLeaw (h : Head) (d : Spec) (a : Spec) (b : Spec) (sh : BitVec 5) (s : State) : Host.Outcome State Fault Refusal :=
  .next (s.issueValue (.leaw h d a b sh) d (2) (valLeaw h a b sh))

/-- The value of AND (09 R228). -/
def valAnd (h : Head) (a : Spec) (b : Spec) (r : Rd) : Out :=
  bitsPut h.ty ((r.src h.ty a) &&& (r.src h.ty b))

/-- AND, 09 R228. -/
def execAnd (h : Head) (d : Spec) (a : Spec) (b : Spec) (s : State) : Host.Outcome State Fault Refusal :=
  .next (s.issueValue (.and h d a b) d (h.ty.rw) (valAnd h a b))

/-- The value of AND_IMM (09 R228). -/
def valAndImm (h : Head) (a : Spec) (x : BitVec 32) (r : Rd) : Out :=
  bitsPut h.ty ((r.src h.ty a) &&& (immX h.ty x))

/-- AND_IMM, 09 R228. -/
def execAndImm (h : Head) (d : Spec) (a : Spec) (x : BitVec 32) (s : State) : Host.Outcome State Fault Refusal :=
  .next (s.issueValue (.andImm h d a x) d (h.ty.rw) (valAndImm h a x))

/-- The value of OR (09 R228). -/
def valOr (h : Head) (a : Spec) (b : Spec) (r : Rd) : Out :=
  bitsPut h.ty ((r.src h.ty a) ||| (r.src h.ty b))

/-- OR, 09 R228. -/
def execOr (h : Head) (d : Spec) (a : Spec) (b : Spec) (s : State) : Host.Outcome State Fault Refusal :=
  .next (s.issueValue (.or h d a b) d (h.ty.rw) (valOr h a b))

/-- The value of OR_IMM (09 R228). -/
def valOrImm (h : Head) (a : Spec) (x : BitVec 32) (r : Rd) : Out :=
  bitsPut h.ty ((r.src h.ty a) ||| (immX h.ty x))

/-- OR_IMM, 09 R228. -/
def execOrImm (h : Head) (d : Spec) (a : Spec) (x : BitVec 32) (s : State) : Host.Outcome State Fault Refusal :=
  .next (s.issueValue (.orImm h d a x) d (h.ty.rw) (valOrImm h a x))

/-- The value of XOR (09 R228). -/
def valXor (h : Head) (a : Spec) (b : Spec) (r : Rd) : Out :=
  bitsPut h.ty ((r.src h.ty a) ^^^ (r.src h.ty b))

/-- XOR, 09 R228. -/
def execXor (h : Head) (d : Spec) (a : Spec) (b : Spec) (s : State) : Host.Outcome State Fault Refusal :=
  .next (s.issueValue (.xor h d a b) d (h.ty.rw) (valXor h a b))

/-- The value of XOR_IMM (09 R228). -/
def valXorImm (h : Head) (a : Spec) (x : BitVec 32) (r : Rd) : Out :=
  bitsPut h.ty ((r.src h.ty a) ^^^ (immX h.ty x))

/-- XOR_IMM, 09 R228. -/
def execXorImm (h : Head) (d : Spec) (a : Spec) (x : BitVec 32) (s : State) : Host.Outcome State Fault Refusal :=
  .next (s.issueValue (.xorImm h d a x) d (h.ty.rw) (valXorImm h a x))

/-- The value of ANDN (09 R228). -/
def valAndn (h : Head) (a : Spec) (b : Spec) (r : Rd) : Out :=
  bitsPut h.ty ((r.src h.ty a) &&& ~~~(r.src h.ty b))

/-- ANDN, 09 R228. -/
def execAndn (h : Head) (d : Spec) (a : Spec) (b : Spec) (s : State) : Host.Outcome State Fault Refusal :=
  .next (s.issueValue (.andn h d a b) d (h.ty.rw) (valAndn h a b))

/-- The value of ANDN_IMM (09 R228). -/
def valAndnImm (h : Head) (a : Spec) (x : BitVec 32) (r : Rd) : Out :=
  bitsPut h.ty ((r.src h.ty a) &&& ~~~(immX h.ty x))

/-- ANDN_IMM, 09 R228. -/
def execAndnImm (h : Head) (d : Spec) (a : Spec) (x : BitVec 32) (s : State) : Host.Outcome State Fault Refusal :=
  .next (s.issueValue (.andnImm h d a x) d (h.ty.rw) (valAndnImm h a x))

/-- The value of NOT (09 R228). -/
def valNot (h : Head) (a : Spec) (r : Rd) : Out :=
  bitsPut h.ty (~~~(r.src h.ty a))

/-- NOT, 09 R228. -/
def execNot (h : Head) (d : Spec) (a : Spec) (s : State) : Host.Outcome State Fault Refusal :=
  .next (s.issueValue (.not h d a) d (h.ty.rw) (valNot h a))

/-- The value of BOOL3 (09 R228). -/
def valBool3 (a : Spec) (b : Spec) (c : Spec) (tbl : BitVec 8) (r : Rd) : Out :=
  { v := (bool3 tbl ((r.bits 1 a).setWidth 32) ((r.bits 1 b).setWidth 32) ((r.bits 1 c).setWidth 32)).setWidth 64 }

/-- BOOL3, 09 R228. -/
def execBool3 (h : Head) (d : Spec) (a : Spec) (b : Spec) (c : Spec) (tbl : BitVec 8) (s : State) : Host.Outcome State Fault Refusal :=
  .next (s.issueValue (.bool3 h d a b c tbl) d (1) (valBool3 a b c tbl))

/-- The value of SHL (09 R228). -/
def valShl (h : Head) (a : Spec) (b : Spec) (r : Rd) : Out :=
  shiftRes h.ty 0 (r.src h.ty a) (r.bits 1 b)

/-- SHL, 09 R228. -/
def execShl (h : Head) (d : Spec) (a : Spec) (b : Spec) (s : State) : Host.Outcome State Fault Refusal :=
  .next (s.issueValue (.shl h d a b) d (h.ty.rw) (valShl h a b))

/-- The value of SHL_IMM (09 R228). -/
def valShlImm (h : Head) (a : Spec) (x : BitVec 32) (r : Rd) : Out :=
  shiftRes h.ty 0 (r.src h.ty a) (x.setWidth 64)

/-- SHL_IMM, 09 R228. -/
def execShlImm (h : Head) (d : Spec) (a : Spec) (x : BitVec 32) (s : State) : Host.Outcome State Fault Refusal :=
  .next (s.issueValue (.shlImm h d a x) d (h.ty.rw) (valShlImm h a x))

/-- The value of SHR (09 R228). -/
def valShr (h : Head) (a : Spec) (b : Spec) (r : Rd) : Out :=
  shiftRes h.ty 1 (r.src h.ty a) (r.bits 1 b)

/-- SHR, 09 R228. -/
def execShr (h : Head) (d : Spec) (a : Spec) (b : Spec) (s : State) : Host.Outcome State Fault Refusal :=
  .next (s.issueValue (.shr h d a b) d (h.ty.rw) (valShr h a b))

/-- The value of SHR_IMM (09 R228). -/
def valShrImm (h : Head) (a : Spec) (x : BitVec 32) (r : Rd) : Out :=
  shiftRes h.ty 1 (r.src h.ty a) (x.setWidth 64)

/-- SHR_IMM, 09 R228. -/
def execShrImm (h : Head) (d : Spec) (a : Spec) (x : BitVec 32) (s : State) : Host.Outcome State Fault Refusal :=
  .next (s.issueValue (.shrImm h d a x) d (h.ty.rw) (valShrImm h a x))

/-- The value of SAR (09 R228). -/
def valSar (h : Head) (a : Spec) (b : Spec) (r : Rd) : Out :=
  shiftRes h.ty 2 (r.src h.ty a) (r.bits 1 b)

/-- SAR, 09 R228. -/
def execSar (h : Head) (d : Spec) (a : Spec) (b : Spec) (s : State) : Host.Outcome State Fault Refusal :=
  .next (s.issueValue (.sar h d a b) d (h.ty.rw) (valSar h a b))

/-- The value of SAR_IMM (09 R228). -/
def valSarImm (h : Head) (a : Spec) (x : BitVec 32) (r : Rd) : Out :=
  shiftRes h.ty 2 (r.src h.ty a) (x.setWidth 64)

/-- SAR_IMM, 09 R228. -/
def execSarImm (h : Head) (d : Spec) (a : Spec) (x : BitVec 32) (s : State) : Host.Outcome State Fault Refusal :=
  .next (s.issueValue (.sarImm h d a x) d (h.ty.rw) (valSarImm h a x))

/-- The value of ROT (09 R228). -/
def valRot (h : Head) (a : Spec) (b : Spec) (r : Rd) : Out :=
  shiftRes h.ty 3 (r.src h.ty a) (r.bits 1 b)

/-- ROT, 09 R228. -/
def execRot (h : Head) (d : Spec) (a : Spec) (b : Spec) (s : State) : Host.Outcome State Fault Refusal :=
  .next (s.issueValue (.rot h d a b) d (h.ty.rw) (valRot h a b))

/-- The value of ROT_IMM (09 R228). -/
def valRotImm (h : Head) (a : Spec) (x : BitVec 32) (r : Rd) : Out :=
  shiftRes h.ty 3 (r.src h.ty a) (x.setWidth 64)

/-- ROT_IMM, 09 R228. -/
def execRotImm (h : Head) (d : Spec) (a : Spec) (x : BitVec 32) (s : State) : Host.Outcome State Fault Refusal :=
  .next (s.issueValue (.rotImm h d a x) d (h.ty.rw) (valRotImm h a x))

/-- The value of XSHR (09 R228). -/
def valXshr (a : Spec) (b : Spec) (c : Spec) (r : Rd) : Out :=
  { v := BitVec.ofNat 64 (((r.bits 1 b).toNat * 2 ^ 32 + (r.bits 1 a).toNat) / 2 ^ ((r.bits 1 c).toNat % 64) % 2 ^ 32) }

/-- XSHR, 09 R228. -/
def execXshr (h : Head) (d : Spec) (a : Spec) (b : Spec) (c : Spec) (s : State) : Host.Outcome State Fault Refusal :=
  .next (s.issueValue (.xshr h d a b c) d (1) (valXshr a b c))

/-- The value of BFX (09 R229). -/
def valBfx (h : Head) (a : Spec) (pos : BitVec 8) (len : BitVec 8) (r : Rd) : Out :=
  bfxRes h.ty pos.toNat len.toNat (r.src h.ty a)

/-- BFX, 09 R229. -/
def execBfx (h : Head) (d : Spec) (a : Spec) (pos : BitVec 8) (len : BitVec 8) (s : State) : Host.Outcome State Fault Refusal :=
  .next (s.issueValue (.bfx h d a pos len) d (h.ty.rw) (valBfx h a pos len))

/-- The value of BFI (09 R229). -/
def valBfi (h : Head) (a : Spec) (b : Spec) (pos : BitVec 8) (len : BitVec 8) (r : Rd) : Out :=
  bfiRes h.ty pos.toNat len.toNat (r.src h.ty a) (r.src h.ty b)

/-- BFI, 09 R229. -/
def execBfi (h : Head) (d : Spec) (a : Spec) (b : Spec) (pos : BitVec 8) (len : BitVec 8) (s : State) : Host.Outcome State Fault Refusal :=
  .next (s.issueValue (.bfi h d a b pos len) d (h.ty.rw) (valBfi h a b pos len))

/-- The value of BREV (09 R229). -/
def valBrev (h : Head) (a : Spec) (r : Rd) : Out :=
  { v := BitVec.ofNat 64 (revBits h.ty.bits (r.src h.ty a).toNat) }

/-- BREV, 09 R229. -/
def execBrev (h : Head) (d : Spec) (a : Spec) (s : State) : Host.Outcome State Fault Refusal :=
  .next (s.issueValue (.brev h d a) d (h.ty.rw) (valBrev h a))

/-- The value of POPC (09 R229). -/
def valPopc (h : Head) (a : Spec) (r : Rd) : Out :=
  { v := BitVec.ofNat 64 (popCount h.ty.bits (r.src h.ty a).toNat) }

/-- POPC, 09 R229. -/
def execPopc (h : Head) (d : Spec) (a : Spec) (s : State) : Host.Outcome State Fault Refusal :=
  .next (s.issueValue (.popc h d a) d (1) (valPopc h a))

/-- The value of CLZ (09 R229). -/
def valClz (h : Head) (a : Spec) (r : Rd) : Out :=
  { v := BitVec.ofNat 64 (leadZeros h.ty.bits (r.src h.ty a).toNat) }

/-- CLZ, 09 R229. -/
def execClz (h : Head) (d : Spec) (a : Spec) (s : State) : Host.Outcome State Fault Refusal :=
  .next (s.issueValue (.clz h d a) d (1) (valClz h a))

/-- The value of CTZ (09 R229). -/
def valCtz (h : Head) (a : Spec) (r : Rd) : Out :=
  { v := BitVec.ofNat 64 (trailZeros h.ty.bits (r.src h.ty a).toNat) }

/-- CTZ, 09 R229. -/
def execCtz (h : Head) (d : Spec) (a : Spec) (s : State) : Host.Outcome State Fault Refusal :=
  .next (s.issueValue (.ctz h d a) d (1) (valCtz h a))

/-- The value of BPICK (09 R230). -/
def valBpick (a : Spec) (b : Spec) (codes : BitVec 20) (r : Rd) : Out :=
  bpick codes (r.bits 1 a) (r.bits 1 b)

/-- BPICK, 09 R230. -/
def execBpick (h : Head) (d : Spec) (a : Spec) (b : Spec) (codes : BitVec 20) (s : State) : Host.Outcome State Fault Refusal :=
  .next (s.issueValue (.bpick h d a b codes) d (1) (valBpick a b codes))

end Sys2Proof.Machine
end

