-- ==== Sys2Proof/Machine/SliceValue.lean ====
section
/-! DEFINITION. The values of the instructions that a slice may hold (02 R59): destination, width in
registers and value function; none for every other instruction; and of those that a patch may have put there (02 R73). -/

namespace Sys2Proof.Machine

/-- The value an instruction of a slice computes (02 R59, R66). -/
def sliceValue : Instr → Option (Spec × Nat × (Rd → Out))
  | .iadd h d a b => some (d, h.ty.rw, valIadd h a b)
  | .iaddImm h d a x => some (d, h.ty.rw, valIaddImm h a x)
  | .isub h d a b => some (d, h.ty.rw, valIsub h a b)
  | .isubImm h d a x => some (d, h.ty.rw, valIsubImm h a x)
  | .ineg h d a => some (d, h.ty.rw, valIneg h a)
  | .iabs h d a => some (d, h.ty.rw, valIabs h a)
  | .imul h d a b => some (d, h.ty.rw, valImul h a b)
  | .imulImm h d a x => some (d, h.ty.rw, valImulImm h a x)
  | .imulhi h d a b => some (d, h.ty.rw, valImulhi h a b)
  | .imulhiImm h d a x => some (d, h.ty.rw, valImulhiImm h a x)
  | .imad h d a b c => some (d, h.ty.rw, valImad h a b c)
  | .imadw h d a b c => some (d, 2, valImadw h a b c)
  | .idiv h d a b => some (d, h.ty.rw, valIdiv h a b)
  | .idivImm h d a x => some (d, h.ty.rw, valIdivImm h a x)
  | .irem h d a b => some (d, h.ty.rw, valIrem h a b)
  | .iremImm h d a x => some (d, h.ty.rw, valIremImm h a x)
  | .imin h d a b => some (d, h.ty.rw, valImin h a b)
  | .iminImm h d a x => some (d, h.ty.rw, valIminImm h a x)
  | .imax h d a b => some (d, h.ty.rw, valImax h a b)
  | .imaxImm h d a x => some (d, h.ty.rw, valImaxImm h a x)
  | .isad h d a b c => some (d, 1, valIsad h a b c)
  | .idp4 h d a b c => some (d, 1, valIdp4 h a b c)
  | .idp2 h d a b c => some (d, 1, valIdp2 h a b c)
  | .lea _ d a b sh => some (d, 1, valLea a b sh)
  | .leaw h d a b sh => some (d, 2, valLeaw h a b sh)
  | .and h d a b => some (d, h.ty.rw, valAnd h a b)
  | .andImm h d a x => some (d, h.ty.rw, valAndImm h a x)
  | .or h d a b => some (d, h.ty.rw, valOr h a b)
  | .orImm h d a x => some (d, h.ty.rw, valOrImm h a x)
  | .xor h d a b => some (d, h.ty.rw, valXor h a b)
  | .xorImm h d a x => some (d, h.ty.rw, valXorImm h a x)
  | .andn h d a b => some (d, h.ty.rw, valAndn h a b)
  | .andnImm h d a x => some (d, h.ty.rw, valAndnImm h a x)
  | .not h d a => some (d, h.ty.rw, valNot h a)
  | .bool3 _ d a b c tbl => some (d, 1, valBool3 a b c tbl)
  | .shl h d a b => some (d, h.ty.rw, valShl h a b)
  | .shlImm h d a x => some (d, h.ty.rw, valShlImm h a x)
  | .shr h d a b => some (d, h.ty.rw, valShr h a b)
  | .shrImm h d a x => some (d, h.ty.rw, valShrImm h a x)
  | .sar h d a b => some (d, h.ty.rw, valSar h a b)
  | .sarImm h d a x => some (d, h.ty.rw, valSarImm h a x)
  | .rot h d a b => some (d, h.ty.rw, valRot h a b)
  | .rotImm h d a x => some (d, h.ty.rw, valRotImm h a x)
  | .xshr _ d a b c => some (d, 1, valXshr a b c)
  | .bfx h d a pos len => some (d, h.ty.rw, valBfx h a pos len)
  | .bfi h d a b pos len => some (d, h.ty.rw, valBfi h a b pos len)
  | .brev h d a => some (d, h.ty.rw, valBrev h a)
  | .popc h d a => some (d, 1, valPopc h a)
  | .clz h d a => some (d, 1, valClz h a)
  | .ctz h d a => some (d, 1, valCtz h a)
  | .bpick _ d a b codes => some (d, 1, valBpick a b codes)
  | .icmpv h d a b cmp join => some (d, 1, valIcmpv h d a b cmp join)
  | .fcmpv h d a b cmp join => some (d, 1, valFcmpv h d a b cmp join)
  | .sel h d a b pc ng => some (d, h.ty.rw, valSel h a b pc ng)
  | .mov h d a => some (d, h.ty.rw, valMov h a)
  | .movi _ d x => some (d, 1, valMovi x)
  | .movw h d a => some (d, 2, valMovw h a)
  | .fadd h d a b => some (d, h.ty.rw, valFadd h a b)
  | .faddImm h d a x => some (d, h.ty.rw, valFaddImm h a x)
  | .fsub h d a b => some (d, h.ty.rw, valFsub h a b)
  | .fsubImm h d a x => some (d, h.ty.rw, valFsubImm h a x)
  | .fmul h d a b => some (d, h.ty.rw, valFmul h a b)
  | .fmulImm h d a x => some (d, h.ty.rw, valFmulImm h a x)
  | .ffma h d a b c => some (d, h.ty.rw, valFfma h a b c)
  | .frcp h d a => some (d, h.ty.rw, valFrcp h a)
  | .frsq h d a => some (d, h.ty.rw, valFrsq h a)
  | .fmin h d a b => some (d, h.ty.rw, valFmin h a b)
  | .fminImm h d a x => some (d, h.ty.rw, valFminImm h a x)
  | .fmax h d a b => some (d, h.ty.rw, valFmax h a b)
  | .fmaxImm h d a x => some (d, h.ty.rw, valFmaxImm h a x)
  | .fabs h d a => some (d, h.ty.rw, valFabs h a)
  | .fneg h d a => some (d, h.ty.rw, valFneg h a)
  | .fcpys h d a b => some (d, h.ty.rw, valFcpys h a b)
  | .fclass h d a mask => some (d, fclassWidth h d, valFclass h d a mask)
  | .frnd h d a => some (d, h.ty.rw, valFrnd h a)
  | .ffrac h d a => some (d, h.ty.rw, valFfrac h a)
  | .fexp2 h d a => some (d, h.ty.rw, valFexp2 h a)
  | .flog2 h d a => some (d, h.ty.rw, valFlog2 h a)
  | .fsin h d a => some (d, h.ty.rw, valFsin h a)
  | .fcos h d a => some (d, h.ty.rw, valFcos h a)
  | .ftanh h d a => some (d, h.ty.rw, valFtanh h a)
  | .fscale h d a b => some (d, h.ty.rw, valFscale h a b)
  | .fgetexp h d a => some (d, h.ty.rw, valFgetexp h a)
  | .hadd2 h d a b => some (d, 1, valHadd2 h a b)
  | .hadd2Imm h d a x => some (d, 1, valHadd2Imm h a x)
  | .hmul2 h d a b => some (d, 1, valHmul2 h a b)
  | .hmul2Imm h d a x => some (d, 1, valHmul2Imm h a x)
  | .hfma2 h d a b c => some (d, 1, valHfma2 h a b c)
  | .hmin2 h d a b => some (d, 1, valHmin2 h a b)
  | .hmin2Imm h d a x => some (d, 1, valHmin2Imm h a x)
  | .hmax2 h d a b => some (d, 1, valHmax2 h a b)
  | .hmax2Imm h d a x => some (d, 1, valHmax2Imm h a x)
  | .cvtnPk h d a b => some (d, 1, valCvtnPk h a b)
  | .cvtw h d a b => some (d, h.ty.rw, valCvtw h a b)
  | .vblkx h d a b idx => some (d, 1, valVblkx h a b idx)
  | _ => none

/-- The value an instruction computes that a patch has put into a slice (02 R73): one that a slice may hold, or one that
computes a value too but may not stand in a slice. -/
def patchedValue : Instr → Option (Spec × Nat × (Rd → Out))
  | .fdiv h d a b => some (d, h.ty.rw, valFdiv h a b)
  | .fsqrt h d a => some (d, h.ty.rw, valFsqrt h a)
  | .icmp h d a b cmp join => some (d, 1, valIcmp h d a b cmp join)
  | .fcmp h d a b cmp join => some (d, 1, valFcmp h d a b cmp join)
  | .pbool3 _ d a b c tbl => some (d, 1, valPbool3 a b c tbl)
  | .pmovGet _ d => some (d, 1, valPmovGet)
  | i => sliceValue i

end Sys2Proof.Machine
end

