-- ==== Sys2Proof/Machine/Recipe.lean ====
section
/-! DEFINITION. Recipes: checking a slice (02 R59), the recipe instructions (10 R257 to R261), and
regeneration by the RGU (02 R65 to R69). -/

namespace Sys2Proof.Machine

/-! ### Words that follow the instruction in issue -/

/-- The slot `j` slots after an address. -/
def slotAfter (pc : DWord) (j : Nat) : DWord := slotPC ((slotN pc : Int) + j)

/-- The word `j` slots after an address, as the convoy in front would fetch it for a thread. -/
def State.wordAfter (s : State) (k : Nat) (pc : DWord) (j : Nat) : Fetched :=
  let code := match s.front with
    | some c => c.code
    | none => []
  (s.fetch k code (slotAfter pc j)).1

/-- A word that follows the instruction in issue cannot be fetched: the instruction raises the cause of that fetch, with its
block, at its own address (DESIGN CHOICE, log entry 54); a block that failed its check is logged (06 R157). -/
def State.fetchAfter (s : State) (k : Nat) (pc : DWord) (j : Nat) (cause : BitVec 8) (tfva : Bool) : Eff :=
  let a := blockAddr (slotAfter pc j)
  .trap ⟨cause, a, if tfva then some a else none, none⟩ (s.noteFetch k (slotAfter pc j) cause)

/-! ### Checking a slice, 02 R59 -/

/-- Whether a word is the one load a slice may hold: LD.g.ro of at most 32 bits, one element. -/
def isSliceLoad : Instr → Bool
  | .ld h _ _ _ m => m.space == .g && m.rtype == .ro && ordOf h.md == 0 && cntOf h.md == 1 && h.ty.rw == 1
  | _ => false

/-- Whether an instruction belongs to a recipe-eligible group. -/
def sliceEligible (i : Instr) : Bool := (sliceValue i).isSome || isSliceLoad i

/-- Whether an instruction names the dynamic rounding modifier or stochastic rounding. -/
def State.sliceRounds (s : State) (k : Nat) (i : Instr) (h : Head) : Bool :=
  let low := (h.md.extractLsb' 0 3).toNat
  match i.mdKind with
  | .rnd | .rna | .cvtw => low == 4 || low == 6
  | .pk => match (s.rd k).slot low with
      | some sl => sl.rm == 5
      | none => false
  | _ => false

/-- Whether an operand may be an input of a slice (02 R59, rule 6). R59 lists SEL as eligible, and its inputs name no predicate:
the model takes a SEL under p7, which is no state of the thread, and no other (DESIGN CHOICE, log entry 48). -/
def sliceInput (u : Use) : Bool :=
  match u.role with
  | .src _ | .vread _ _ | .vrw _ _ | .base _ | .predS =>
      (match u.sp with
        | .sp i => (decide (0x60 ≤ i.toNat) && decide (i.toNat ≤ 0x6F) && i != 0x68 && i != 0x6A) || (u.role == .predS && i == 7)
        | _ => true)
  | _ => true

/-- Whether an instruction writes vT, 32 bits of it, and nothing else. -/
def State.sliceWrites (s : State) (k : Nat) (i : Instr) (h : Head) (g : Nat) : Bool :=
  let w := (s.usesOf k i).flatMap Use.writes
  let preds := match i with
    | .pmovGet _ _ => []   -- it reads them
    | _ => i.morePreds
  w == [g] && preds.isEmpty && !i.writesMemory && !(i.isLongLatency && h.h.flg != 0)

/-- The words of a slice with the rules each breaks; rules 7 and 8 concern what is read up to it. -/
structure SliceScan where
  /-- rule number and position broken, the first by rule then by position -/
  bad : Option (Nat × Nat) := none
  reads : List Nat := []
  written : Bool := false
  loads : Nat := 0

/-- A broken rule noted: a lower rule number goes first, then the earlier position. -/
def SliceScan.note (x : SliceScan) (rule pos : Nat) : SliceScan :=
  match x.bad with
  | some (r, _) => if rule < r then { x with bad := some (rule, pos) } else x
  | none => { x with bad := some (rule, pos) }

/-- The instruction that the OP, FN and TYPE of a word and its fields make it, whatever else is wrong with it. -/
def wordShape (w : IWord) : Option Instr :=
  let f := Fields.ofWord w
  f.build (f.head ((VType.ofCode f.ty).getD .b32))

/-- Whether a word is an instruction. -/
def isInstr (w : IWord) : Bool :=
  match decodeWord w with
  | .ok _ => true
  | .error _ => false

/-- One slice instruction at a position, 1 up: the rules in order. A word that is no instruction is recipe-eligible under
none, and one without an assigned OP and FN writes no vT. -/
def State.sliceScan1 (s : State) (k g pos : Nat) (inside : Bool) (w : IWord) (x : SliceScan) : SliceScan :=
  if !inside then x.note 2 pos
  else
  let gd := Guard.ofBits (w.extractLsb' 16 4)
  let x := if gd.neg || gd.p != 7 then x.note 2 pos else x
  match wordShape w, (wordShape w).bind Instr.head with
    | some i, some h =>
        let ld := isSliceLoad i
        let rd := s.vReads k i
        let x := if s.sliceWrites k i h g then x else x.note 3 pos
        let x := if isInstr w && s.slotOk k i && sliceEligible i && !(ld && decide (x.loads ≥ 1)) then x else x.note 4 pos
        let x := if s.sliceRounds k i h then x.note 5 pos else x
        let x := if (s.usesOf k i).all sliceInput && (x.written || !rd.contains g) then x else x.note 6 pos
        let reads := (x.reads ++ rd.filter (· != g)).eraseDups
        let x := if reads.length > 4 then x.note 7 pos else x
        let x := if rd.any (fun r => r != g && (match (s.th k).eligOf r with
            | some e => decide (e.depth ≥ 2)
            | none => false)) then x.note 8 pos else x
        { x with reads := reads, written := x.written || ((s.usesOf k i).flatMap Use.writes).contains g,
                 loads := x.loads + (if ld then 1 else 0) }
    | _, _ => x.note 3 pos

/-- SLICE, 10 R258. -/
def State.sliceEff (s : State) (k : Nat) (d : Spec) (n : Nat) : Eff :=
  match s.front, d with
  | some c, .v gi =>
      let g := gi.toNat
      let pc := (s.th k).pc
      let inside (j : Nat) : Bool := decide (c.ofs + j ≤ c.len.toNat)
      let ws := (List.range n).map fun j => if inside (j + 1) then some (s.wordAfter k pc (j + 1)) else none
      let stop : Option ((Nat × BitVec 8 × Bool) ⊕ Nat) := ((List.range n).zip ws).findSome? fun w => match w with
          | (j, some (.fault cz t)) => some (.inl (j + 1, cz, t))
          | (_, some (.busy l)) => some (.inr l)
          | _ => none
      match stop with
      | some (.inr l) => .left (s.knock k l)
      | some (.inl (j, cz, t)) => s.fetchAfter k pc j cz t
      | none =>
          let x0 : SliceScan := if (s.th k).affine.any fun m => decide (16 * m ≤ g) && decide (g < 16 * m + 16) then SliceScan.note {} 1 0 else {}
          let x := ((List.range n).zip ws).foldl (fun x (j, w) =>
            s.sliceScan1 k g (j + 1) (inside (j + 1)) (match w with
              | some (.word w) => w
              | _ => 0) x) x0
          match x.bad with
          | some (r, p) => .trap ⟨0x02, BitVec.ofNat 64 (16 * p + r), none, none⟩ s
          | none =>
              .done (s.setTh k fun t => { t with slice := some ⟨g, nextPC pc, n, x.reads, n + 1⟩ })
  | _, _ => .trap s.illegalRaise s

/-- Whether a load of the affine register that holds a general register is on its way (02 R75). -/
def State.affinePending (s : State) (k : Nat) (d : Spec) : Bool :=
  s.ops.any fun (_, o) => o.th == k && (match o.affine with
    | some n => decide (16 * n ≤ d.vIndex) && decide (d.vIndex < 16 * n + 16)
    | none => false)

/-- SLICE, 10 R258: whether vT is in affine use is known once its AFLD has arrived. -/
def execSlice (h : Head) (d : Spec) (n : BitVec 4) (s : State) : Host.Outcome State Fault Refusal :=
  .next (s.issueEach (.slice h d n) (fun s k => s.affinePending k d) fun s k => s.sliceEff k d n.toNat)

/-- RCPMAT, 10 R259: a consuming read, which regenerates and reloads before it issues. -/
def execRcpmat (h : Head) (a : Spec) (s : State) : Host.Outcome State Fault Refusal :=
  .next (s.issueEach (.rcpmat h a) noBlock fun s _ => .done s)

/-- RCPDROP, 10 R260. -/
def execRcpdrop (h : Head) (d : Spec) (s : State) : Host.Outcome State Fault Refusal :=
  .next (s.issueEach (.rcpdrop h d) noBlock fun s k => .done ((regNames h.ty.rw d).foldl (fun s g => s.dropReg k g) s))

/-- The status word of RCPSTAT (10 R261). -/
def State.rcpWord (s : State) (k g : Nat) : Nat :=
  let t := s.th k
  let aff := t.affine.any fun m => decide (16 * m ≤ g) && decide (g < 16 * m + 16)
  let pin := t.elig.any fun e => e.pins.contains g
  let form := if t.dropped.contains g then 5 else
    match s.rreg (rowKey k) g with
    | none => 0
    | some x => match x.form with
        | .value => 1 | .recipe => 2 | .mixed => 3 | .spilled => 4
  let e := t.eligOf g
  t.elig.length * 2 ^ 16 + (match e with | some e => e.len * 2 ^ 8 + e.depth * 2 ^ 4 + 8 | none => 0)
    + (if aff then 128 else 0) + (if pin then 64 else 0) + form

/-- RCPSTAT, 10 R261: for every thread the state when it issues, before any of them writes. -/
def execRcpstat (h : Head) (d a : Spec) (s : State) : Host.Outcome State Fault Refusal :=
  .next (s.issueWith (.rcpstat h d a) noBlock fun h ks s0 =>
    ks.foldl (fun s k =>
      if (s.front.any fun c => c.mem.contains k) then
        State.applyEff k h.h.fin (if s.guard k h.g then
          match a with
          | .v g =>
              let w := s0.rcpWord k g.toNat
              let s := s.setTh k fun t => t.setPred (h.md.extractLsb' 0 3).toNat (w.testBit 3)
              .done (s.regWrite k d 1 (BitVec.ofNat 64 w))
          | _ => .trap s.illegalRaise s
        else .done s)
      else s) s0)

/-! ### Regeneration, 02 R65 to R69 -/

/-- The effective address of format M (06 R162) at a space's width: base + index × 2^SCALE + OFS. -/
def State.effAddr (s : State) (k : Nat) (m : MemF) (a : Spec) (index : Option Spec) : Nat :=
  let ix : Int := match index with
    | some b => (s.r32 k b).toInt
    | none => 0
  let ofs : Int := m.ofs.toInt + ix * 2 ^ m.scale.toNat
  if m.space = .g then (((s.r64 k a).toNat + ofs) % (2 ^ 64 : Int)).toNat
  else (((s.r32 k a).toNat + ofs) % (2 ^ 32 : Int)).toNat

/-- What a lane of a slice comes to. -/
inductive Replay where
  | val (w : Word)
  | fault (f : LaneFault)
  /-- its load waits: for a lease or an engine to give its line up, or for another device's answer -/
  | wait

/-- The cause under which a replayed load's fault is recorded (02 R69). -/
def replayCause (c : BitVec 8) : BitVec 8 := if c = 0x10 then 0x14 else if c = 0x11 then 0x15 else c

/-- The key under which the remote requests of a thread's replayed loads stand in `State.ops`. -/
def replayKey (k : Nat) : Nat := 2 ^ 64 + k

/-- A replayed load of a remote page (02 R67, 20 R403): its L1's copy, or the answer to a request of its own. -/
def State.replayRemote (s : State) (k : Nat) (o : Op) (slice : DWord) (d pa : Nat) : Replay × State :=
  let val (b : List Byte) : Replay := .val ((intPut o.ty (leNat b)).setWidth 32)
  match s.remoteCopy o.core d pa o.size .ro with
  | some b => (val b, s)
  | none =>
      match s.ops.find? fun (_, p) => p.th == replayKey k && p.loc == o.loc && p.size == o.size with
      | some (i, p) => (match p.held, p.early with
          | some (.failed c), _ => (.fault ⟨replayCause c, o.va, slice⟩, s.dropOp i)
          | _, some b => (val b, s.dropOp i)
          | _, none => (.wait, s))
      | none => (.wait, (s.newOp { o with th := replayKey k }).sendRemote s.seq o d pa)

/-- A slice's load performed again for a lane (02 R67, R69), `slice` being its slice's address. -/
def State.replayLoad (s : State) (k : Nat) (slice : DWord) (h : Head) (a b : Spec) (m : MemF) : Replay × State :=
  let addr := s.effAddr k m a (some b)
  let n := h.ty.bytes
  let va : DWord := BitVec.ofNat 64 addr
  match s.place k .g addr n { r := true, rtype := .ro, size := n } with
  | (.at_ w, s) =>
      let o : Op := { th := k, crew := crewOf k, core := s.coreTh k, kind := .load, loc := w, va := va, size := n, space := .g
                      rtype := .ro, ty := h.ty }
      if w.poisoned s n then (.fault ⟨0x30, va, slice⟩, s)
      else (match w with
        | .remote d pa => s.replayRemote k o slice d pa
        | _ =>
            if s.lineFree k w then
              let r := s.loadBytes s.seq o
              (.val ((intPut h.ty (leNat r.1)).setWidth 32), (r.2.2).observe k r.2.1)
            else (.wait, match w.line with | some l => s.knock k l | none => s))
  | (.fault c tva _, s) => (.fault ⟨replayCause c, tva, slice⟩, s)
  | (.busy l, s) => (.wait, s.knock k l)
  | (.wait _, s) => (.fault ⟨0x15, va, slice⟩, s)

/-- A value put into the RGU's copy of a thread. -/
def Thread.replayPut (t : Thread) (d : Spec) (w : Nat) (v : DWord) : Thread :=
  match d with
  | .v i =>
      let t := { t with v := Tab.put i.toNat (v.setWidth 32) t.v }
      if w = 1 then t else { t with v := Tab.put (i.toNat + 1) ((v >>> 32).setWidth 32) t.v }
  | .sp i => if i.toNat ≤ 6 then t.setPred i.toNat (v.setWidth 32 != (0 : Word)) else t
  | _ => t

/-- The words of a slice run for one lane on a copy `t` of its thread, of which vT's value is all that is kept; no flag, rng
or fmode takes part (02 R60, R66). A patched word runs under its own guard and with its own destination (R73); what the RGU
makes of one that computes no value, or is no instruction, is not said, and the lane's value is free (DESIGN CHOICE, log
entry 55). -/
def State.runSlice (s : State) (k g : Nat) (slice : DWord) : List IWord → Thread → Replay × State
  | [], t => (.val (t.vget g), s)
  | w :: rest, t =>
      let look := s.setTh k fun _ => t
      let free : Replay × State := (.val ((Config.freeDWord s.free).setWidth 32), { s with free := s.free + 1 })
      match decodeWord w with
      | .error _ => free
      | .ok i =>
          if i.head.any fun h => !look.guard k h.g then s.runSlice k g slice rest t
          else match i with
            | .nop _ => s.runSlice k g slice rest t
            | .ld h d a b m =>
                if !isSliceLoad i then free
                else
                  let r := look.replayLoad k slice h a b m
                  let s' := r.2.setTh k fun u => { u with v := (s.th k).v, p := (s.th k).p, rep := (s.th k).rep }
                  (match r.1 with
                    | .val x => s'.runSlice k g slice rest (t.replayPut d 1 (x.setWidth 64))
                    | x => (x, s'))
            | _ => match patchedValue i with
                | some (d, n, f) =>
                    let o := f { look.rd k with fmode := 0 }
                    if o.illegal then free else s.runSlice k g slice rest (t.replayPut d n o.v)
                | none => free

/-- The words of a slice, fetched through the forwarding table for a thread (02 R72); an address that
cannot be fetched gives the cause, one in a leased line nothing yet. -/
def State.sliceWords (s : State) (k : Nat) (saddr : DWord) : Nat → Except (Option (BitVec 8 × DWord)) (List IWord) × State
  | 0 => (.ok [], s)
  | n + 1 =>
      match s.sliceWords k saddr n with
      | (.error e, s) => (.error e, s)
      | (.ok ws, s) =>
          let a := slotPC ((slotN (s.forward k saddr) : Int) + n)
          match s.fetch k [] a with
          | (.word w, s) => (.ok (ws ++ [w]), s)
          | (.busy l, s) => (.error none, s.knock k l)
          | (.fault c _, s) => let s := s.noteFetch k a c; (.error (some (replayCause c, blockAddr a)), s)

/-- The pinned inputs of an eligible register of a thread (02 R60); of one whose eligibility an RCPFLUSH ended the inputs it
had (16 R347). -/
def Thread.pinsOf (t : Thread) (g : Nat) : List Nat :=
  match (t.eligOf g).or (t.flushed.find? fun e => e.reg == g) with
  | some e => e.pins
  | none => []

/-- What a lane's inputs hold its regeneration back by: a fault of one of them (02 R69), or that one is not yet ready. -/
def State.inputsOf (s : State) (r g l : Nat) : Option Replay :=
  ((s.th (laneKey r l)).pinsOf g).findSome? fun p =>
    match s.rreg r p with
    | some y =>
        if y.isRecipe && y.lmask.getLsbD l then
          some (match y.faults.find? fun e => e.1 == l with
            | some e => .fault e.2
            | none => .wait)
        else none
    | none => none

/-- One lane of a row-register regenerated: its word held, or its fault recorded; one that waits stays as it is. -/
def State.regenLane (s : State) (r g l : Nat) (x : RowReg) : State :=
  let k := laneKey r l
  let res : Replay × State :=
    if !s.live k then (.val 0, s)
    else match s.inputsOf r g l with
    | some f => (f, s)
    | none => match s.sliceWords k x.saddr x.len with
      | (.error (some e), s) => (.fault ⟨e.1, e.2, x.saddr⟩, s)
      | (.error none, s) => (.wait, s)
      | (.ok ws, s) => s.runSlice k g x.saddr ws { s.th k with v := Tab.put g 0 (s.th k).v, rep := none }
  match res with
  | (.val v, s) =>
      let s := s.setTh k fun t => { t with v := Tab.put g v t.v }
      -- what is built from a poisoned input is poisoned (22 R434)
      let bad := (s.th k).pinsOf g |>.any fun p => (s.rreg r p).any fun y => y.bad.getLsbD l
      s.setRw r fun y => { y with regs := Tab.modify g (fun z =>
        { z with lmask := z.lmask &&& ~~~(1#32 <<< l), bad := if bad then z.bad ||| (1#32 <<< l) else z.bad }) y.regs }
  | (.fault f, s) =>
      s.setRw r fun y => { y with regs := Tab.modify g (fun z => { z with faults := z.faults ++ [(l, f)] }) y.regs }
  | (.wait, s) => s

/-- An entry for a regenerated register: steps 1 to 3 of R57, else the reserve (02 R65, R68). -/
def State.regenEntry (s : State) (r g : Nat) : State :=
  match s.findEntry r with
  | some s => s
  | none => s.setRw r fun y => { y with regs := Tab.modify g (fun z => { z with reserve := true }) y.regs }

/-- A row-register regenerated (02 R65), its inputs first, none of which is converted or spilled meanwhile; `fuel` bounds
the depth of recipes, which is at most 2. -/
def State.regen (s : State) (r g : Nat) : Nat → State
  | 0 => s
  | fuel + 1 =>
      match s.rreg r g with
      | none => s
      | some x =>
          let todo := maskList x.lanesToDo.toNat
          if todo.isEmpty then s
          else
            let p := s.partRow r
            let busy := (s.pt p).busy
            let pins := (todo.flatMap fun l => (s.th (laneKey r l)).pinsOf g).eraseDups
            let s := s.setPt p fun y => { y with busy := busy ++ (g :: pins).map fun i => (r, i) }
            let s := pins.foldl (fun s i => (s.regen r i fuel).reload r i) s
            let s := if x.form = .recipe then s.regenEntry r g else s.reload r g
            let s := todo.foldl (fun s l => s.regenLane r g l x) s
            let s := s.setRw r fun y => { y with regs := Tab.modify g (fun z =>
              { z with form := if z.lmask = 0 then .value else .mixed, used := s.cycle }) y.regs }
            let s := s.setPt p fun y => { y with busy := busy }
            -- one that only waits is not counted: it is begun again
            if (s.rreg r g).any fun y => y.lanesToDo == x.lanesToDo then s else s.count (s.cr (r / 128)).core 3

/-- Regeneration of a row-register with its inputs. -/
def State.regenNow (s : State) (r g : Nat) : State := s.regen r g 3

/-- REGENERATION_COMPLETE, 02 R65: the RGU of a partition writes its results, and the slot is free. -/
def execRegenerationComplete (part : Nat) (s : State) : Host.Outcome State Fault Refusal :=
  match (s.pt part).rgu with
  | some (r, g) => .next ((s.setPt part fun p => { p with rgu := none }).regenNow r g)
  | none => .next s

end Sys2Proof.Machine
end

