-- ==== Sys2Proof/Machine/Reserve.lean ====
section
/-! DEFINITION. Current reservations of a cluster (22 R430 to R432). -/

namespace Sys2Proof.Machine

/-- Units of a cost row at a clock step: `b` at nominal and below. -/
def costAt (clk b : Nat) : Nat :=
  if b = 2 then 2 else if clk ≤ 80 then b else if b = 4 then 5 else if clk ≤ 84 then b + 1 else b + 2

/-- Units a cluster's reservations hold, each costed at its clock (R432). -/
def Cluster.units (c : Cluster) : Nat := c.held.foldl (fun n r => n + costAt c.clk r.cost) 0

/-- Whether a request fits. -/
def Cluster.fits (c : Cluster) (r : Resv) : Bool := decide (c.units + costAt c.clk r.cost ≤ 32)

/-- A request made, once. -/
def Cluster.request (c : Cluster) (r : Resv) : Cluster :=
  if (c.waiting ++ c.held).any fun x => x.who == r.who && x.job == r.job then c else { c with waiting := c.waiting ++ [r] }

/-- A reservation given back, or a request withdrawn. -/
def Cluster.unreserve (c : Cluster) (who job : Nat) : Cluster :=
  let p (x : Resv) : Bool := !(x.who == who && x.job == job)
  { c with waiting := c.waiting.filter p, held := c.held.filter p }

/-- Whether two requests are of one claimant. -/
def Resv.same (a b : Resv) : Bool := a.who == b.who && a.job == b.job

/-- A request as it stands in a cycle: it has aged once it has waited 8,192 cycles (R431); the mark of RESERVATION_AGED says
so too. -/
def Resv.asOf (now : Nat) (r : Resv) : Resv := { r with aged := r.aged || decide (r.since + 8192 ≤ now) }

/-- Whether one request goes before another (R431). -/
def Resv.before (a b : Resv) : Bool :=
  if a.aged != b.aged then a.aged
  else if a.aged then decide (a.since < b.since)
  else decide (a.pri > b.pri) || (a.pri == b.pri && decide (a.since < b.since))

/-- The request first in order of a list. -/
def firstResv : List Resv → Option Resv
  | [] => none
  | r :: t => match firstResv t with
    | some b => if b.before r then some b else some r
    | none => some r

/-- The request the arbiter grants next: the first in order that fits, unless an aged one before it does
not (R431). `fuel` bounds the list. -/
def Cluster.nextGrant (c : Cluster) : Nat → List Resv → Option Resv
  | 0, _ => none
  | fuel + 1, l => match firstResv l with
    | none => none
    | some r => if c.fits r then some r else if r.aged then none else c.nextGrant fuel (l.filter (· != r))

end Sys2Proof.Machine
end

