-- ==== Sys2Proof/Machine/Control.lean ====
section
/-! DEFINITION. Stretch headers and the control instructions: branches, calls, loops, waits, traps,
repeats, modes and time (06 R154, R155, 08 R195 to R220). -/

namespace Sys2Proof.Machine

/-! ### Stretch headers, 01 R19, R20 -/

/-- The word of a header's fields. -/
def strhWord (wait : BitVec 12) (sa sb len : BitVec 5) (pri : BitVec 3) : IWord := headerWord wait sa sb len pri

/-- Whether a word may be captured for threads at system level or not: lane-local, and not the name of a level-2 trap register
at user level (06 R164, R165). -/
def capturable (sys : Bool) (w : IWord) : Bool :=
  laneLocalOp (w.extractLsb' 88 8).toNat && (sys || !((wordShape w).any fun i => i.uses.any Use.level2))

/-- A header at the start of its stretch: its fields are set for the convoy, which keeps the blocks of
the stretch it could fetch (16 R346), and a stretch of lane-local words is captured (01 R29). -/
def State.openStretch (s : State) (c : Convoy) (wait : BitVec 12) (sa sb len : BitVec 5) (pri : BitVec 3) : State :=
  match c.mem with
  | [] => s
  | k :: _ =>
      let r := s.capture k c.code (stretchBlocks c.hdr len.toNat)
      let s := r.2
      let words := (List.range len.toNat).map fun i =>
        let a := slotPC ((slotN c.hdr + i + 1 : Nat) : Int)
        (r.1.find? fun e => e.1 == blockAddr a).map fun e => blockWord e.2 (slotOf a)
      let all := words.all fun w => match w with
        | some w => capturable (c.mem.all s.isSys) w
        | none => false
      let s := if all && c.lane.isNone then s.setPt c.part fun p => p.captureStretch (s.ctxTh k, c.hdr) len.toNat else s
      s.setFront fun x => { x with wait := wait, sa := sa, sb := sb, len := len, pri := pri, code := r.1, pc := nextPC c.hdr }

/-- A cause raised on every member of the convoy in front at its program counter (01 R20). -/
def State.trapAll (s : State) (c : Convoy) (f : Nat → Raise) : State := c.mem.foldl (fun s k => s.trap k (f k)) s

/-- STRH, 01 R19: as the header of its stretch it opens it; among the words that follow a header it
raises cause 0x04 (06 R155); illegal fields raise 0x04 on every thread that arrives (01 R20). -/
def execStrh (wait : BitVec 12) (sa sb len : BitVec 5) (pri : BitVec 3) (s : State) : Host.Outcome State Fault Refusal :=
  match s.front with
  | none => .next s
  | some c =>
      let w := strhWord wait sa sb len pri
      if c.pc != c.hdr then
        .next ((s.actors.foldl (fun s k => s.trap k ⟨0x04, c.hdr, none, none⟩) s).finishIssue c.part c.lane false)
      else if headerOk w then
        .next ((c.mem.foldl (fun s k => s.setTh k fun t => { t with pc := nextPC c.hdr }) s).openStretch c wait sa sb len pri)
      else .next (s.trapAll c fun _ => ⟨0x04, highBits w, none, none⟩)

/-! ### Transfers, 08 R197 to R206 -/

/-- NOP, 08 R196. -/
def execNop (h : Head) (s : State) : Host.Outcome State Fault Refusal :=
  .next (s.issueEach (.nop h) noBlock fun s _ => .done s)

/-- A taken transfer to an address. -/
def State.jumpTo (s : State) (k : Nat) (a : DWord) : Eff := .done (s.setTh k fun t => { t with jump := some a })

/-- BRA, 08 R197. -/
def execBra (h : Head) (x : BitVec 32) (s : State) : Host.Outcome State Fault Refusal :=
  .next (s.issueEach (.bra h x) noBlock fun s k => s.jumpTo k (branchPC (s.th k).pc x))

/-- BRX, 08 R197, R198. -/
def execBrx (h : Head) (a : Spec) (s : State) : Host.Outcome State Fault Refusal :=
  .next (s.issueEach (.brx h a) noBlock fun s k => s.jumpTo k (s.forward k (s.r64 k a)))

/-- CALL, 08 R197. -/
def execCall (h : Head) (d : Spec) (x : BitVec 32) (s : State) : Host.Outcome State Fault Refusal :=
  .next (s.issueEach (.call h d x) noBlock fun s k =>
    let pc := (s.th k).pc
    (s.regWrite k d 2 (nextPC pc)).jumpTo k (branchPC pc x))

/-- CALLX, 08 R197: the target is read before the link is written. -/
def execCallx (h : Head) (d a : Spec) (s : State) : Host.Outcome State Fault Refusal :=
  .next (s.issueEach (.callx h d a) noBlock fun s k =>
    let t := s.forward k (s.r64 k a)
    (s.regWrite k d 2 (nextPC (s.th k).pc)).jumpTo k t)

/-- RET, 08 R197, R198. -/
def execRet (h : Head) (a : Spec) (s : State) : Host.Outcome State Fault Refusal :=
  .next (s.issueEach (.ret h a) noBlock fun s k => s.jumpTo k (s.forward k (s.r64 k a)))

/-- LOOP and LOOPX for a thread (08 R200). -/
def State.loopEff (s : State) (k : Nat) (a : Spec) (x : Word) (skipZero : Bool) : Eff :=
  match s.front with
  | none => .done s
  | some c =>
      let t := s.th k
      let n := (s.r32 k a).toNat
      let start := slotPC ((slotN c.hdr + c.len.toNat + 1 : Nat) : Int)
      let exit := branchPC t.pc x
      if slotN exit < slotN start + 2 then .trap ⟨0x04, exit, none, none⟩ s
      else if t.skips.any fun q => q.lvl == t.tlvl then .trap ⟨0x04, exit, none, none⟩ s
      else if skipZero && n == 0 then .done (s.setTh k fun t => { t with skips := t.skips ++ [⟨exit, t.tlvl⟩] })
      else if t.loops.length ≥ 4 then .trap ⟨0x01, 4, none, none⟩ s
      else
        .done (s.setTh k fun t =>
          { t with loops := t.loops ++ [⟨BitVec.ofNat 32 (if n = 0 then 1 else n), start, slotPC ((slotN exit : Int) - 1), t.tlvl⟩] })

/-- LOOP, 08 R200. -/
def execLoop (h : Head) (a : Spec) (x : BitVec 32) (s : State) : Host.Outcome State Fault Refusal :=
  .next (s.issueEach (.loop h a x) noBlock fun s k => s.loopEff k a x false)

/-- LOOPX, 08 R200. -/
def execLoopx (h : Head) (a : Spec) (x : BitVec 32) (s : State) : Host.Outcome State Fault Refusal :=
  .next (s.issueEach (.loopx h a x) noBlock fun s k => s.loopEff k a x true)

/-- LBRK, 08 R202. -/
def execLbrk (h : Head) (s : State) : Host.Outcome State Fault Refusal :=
  .next (s.issueEach (.lbrk h) noBlock fun s k =>
    let t := s.th k
    match t.innerEnd with
    | some le => (s.setTh k fun t => { t with loops := t.loops.dropLast }).jumpTo k (nextPC le)
    | none => .trap ⟨0x01, 0, none, none⟩ s)

/-! ### Ends, 08 R205 to R207 -/

/-- Whether a crew has ended: every thread exited, and every copy record and job card it posted done
(08 R205): a record or a job that faulted has not completed. -/
def State.crewDone (s : State) (c : Nat) : Bool :=
  (s.crewThreads c).all (fun k => !s.live k)
  && (s.cr c).ch.all (fun (_, x) => x.st != 1 && x.st != 3)
  && s.clusters.all (fun (_, x) => x.table.all fun j => j.crew != c)
  && (s.cr c).stopped.isEmpty && (s.cr c).faulted.isEmpty

/-- Crews of the valley of a crew. -/
def State.valleyCrews (s : State) (c : Nat) : List Nat :=
  let me := s.cr c
  (s.crews.filter fun (_, x) => x.launch == me.launch && x.die == me.die && x.plain == me.plain && x.valley == me.valley && !x.handler).map (·.1)

/-- A crew that has ended: marked so, and with the last of its valley its scratch is gone (04 R107). -/
def State.settleCrew (s : State) (c : Nat) : State :=
  if (Tab.find c s.crews).isSome && (s.cr c).started && !(s.cr c).ended && !(s.cr c).handler && s.crewDone c then
    let s := s.setCr c fun x => { x with ended := true }
    let s := { s with rows := s.rows.filter fun (r, _) => r / 128 != c }
    let vs := s.valleyCrews c
    if vs.all (fun v => (s.cr v).ended) && vs.length == (s.la (s.cr c).launch).rcd.crews then
      vs.foldl (fun s v => s.setCr v fun x => { x with scratch := [] }) s
    else s
  else s

/-- EXIT for a thread: a handler's exit counts its message consumed (12 R327). -/
def State.exitEff (s : State) (k : Nat) : Eff :=
  let c := s.crewTh k
  let s := s.endThread k
  if c.handler then
    .left ({ s with threads := Tab.drop k s.threads }.consumed c.launch c.core 1)
  else .left (s.settleCrew (crewOf k))

/-- EXIT, 08 R205: a handler's writes are performed before it retires (12 R327). -/
def execExit (h : Head) (s : State) : Host.Outcome State Fault Refusal :=
  .next (s.issueEach (.exit h) (fun s k => (s.crewTh k).handler && !(s.unperformed k).isEmpty) fun s k => s.exitEff k)

/-- YIELD, 08 R206. -/
def execYield (h : Head) (s : State) : Host.Outcome State Fault Refusal :=
  .next (s.issueEach (.yield h) noBlock fun s _ => .yields s)

/-- PHASE, 08 R207: a release at the launch's scope (05 R145); cause 0x01 at level 1, and in a message handler
(12 R327). At level 2 it parks the thread, which has not arrived while it stands at that level (R207). -/
def execPhase (h : Head) (s : State) : Host.Outcome State Fault Refusal :=
  .next (s.issueEach (.phase h)
    (fun s k => !((s.th k).tlvl == 1 || (s.crewTh k).handler) && s.releasing k .device) fun s k =>
    if (s.th k).tlvl = 1 ∨ (s.crewTh k).handler then .trap ⟨0x01, 0, none, none⟩ s
    else .parks h.h.yld (s.breakLeases k))

/-! ### Traps, 08 R215, R216 -/

/-- TRAP, 08 R215. -/
def execTrap (h : Head) (code : BitVec 16) (s : State) : Host.Outcome State Fault Refusal :=
  .next (s.issueEach (.trap h code) noBlock fun s _ => .trap ⟨0x20, code.setWidth 64, none, none⟩ s)

/-- TRET, 08 R216. -/
def execTret (h : Head) (s : State) : Host.Outcome State Fault Refusal :=
  .next (s.issueEach (.tret h) noBlock fun s k =>
    if (s.th k).tlvl = 1 then .left (s.trapReturn k (h.md.getLsbD 0) h.h.yld) else .trap ⟨0x01, 0, none, none⟩ s)

/-! ### Repeats, 08 R208 to R211 -/

/-- OPs that may not follow RPT (08 R208). -/
def noRepeat (op : Nat) : Bool :=
  (decide (1 ≤ op) && decide (op ≤ 0x0A)) || op == 0x58 || (decide (0x90 ≤ op) && decide (op ≤ 0x97))

/-- A specifier's 10 bits with a step added to its index (08 R210); none where the class forbids a
step or the index leaves 0 to 255. -/
def stepSpec (b : BitVec 10) (n : Int) : Option (BitVec 10) :=
  if n = 0 then some b
  else
    let i : Int := (b.extractLsb' 0 8).toNat + n
    if b.getLsbD 9 then none
    else if i < 0 ∨ 255 < i then none
    else some ((b.extractLsb' 8 2) ++ BitVec.ofNat 8 i.toNat)

/-- A word with D, A and B stepped. -/
def stepWord (w : IWord) (n : Int × Int × Int) : Option IWord :=
  let f := Fields.ofWord w
  match stepSpec f.d n.1, stepSpec f.a n.2.1, stepSpec f.b n.2.2 with
  | some d, some a, some b => some { f with d := d, a := a, b := b }.toWord
  | _, _, _ => none

/-- Whether a word names a specifier that the instruction of its OP, FN and TYPE forbids (02 R47), REGS being `regs`, whatever
else is wrong with it. -/
def badSpecs (regs : Nat) (w : IWord) : Bool :=
  match wordShape w with
  | some i => !i.uses.all fun u => u.okStatic && u.okRegs regs
  | none => false

/-- Whether repetition `i` of a word names no forbidden specifier for a thread (08 R210): one that R47 forbids in the
instruction the word's OP, FN and X make it, or one beyond the launch's registers. A word that is illegal for another
reason raises its own cause when it issues (06 R166). R210 does not say what a step of a field that the instruction does not
use comes to, nor one that makes a legal word illegal for a reason other than R47: both are forbidden in that repetition
(DESIGN CHOICE, log entry 56). -/
def State.repOk (s : State) (k : Nat) (w : IWord) (r : Rep) (i : Nat) : Bool :=
  let n : Int := i
  match stepWord w (n * r.d.toInt, n * r.a.toInt, n * r.b.toInt) with
  | none => false
  | some w' =>
      match decodeWord w' with
      | .ok x => (s.usesOf k x).all (Use.okRegs (s.regsTh k))
      | .error _ => (match decodeWord w with
          | .ok _ => false
          | .error _ => !badSpecs (s.regsTh k) w')

/-- Whether a word's non-zero steps name no special register or immediate even where one repetition
only is made (08 R210). -/
def stepClassOk (w : IWord) (r : Rep) : Bool :=
  let f := Fields.ofWord w
  (r.d == 0 || !f.d.getLsbD 9) && (r.a == 0 || !f.a.getLsbD 9) && (r.b == 0 || !f.b.getLsbD 9)

/-- RPT for a thread whose guard is true. -/
def State.rptEff (s : State) (k : Nat) (r : Rep) : Eff :=
  match s.front with
  | none => .done s
  | some c =>
      let pc := (s.th k).pc
      if c.last then .trap ⟨0x04, c.hdr, none, none⟩ s
      else match s.wordAfter k pc 1 with
        | .fault cz t => s.fetchAfter k pc 1 cz t
        | .busy l => .left (s.knock k l)
        | .word w =>
            if noRepeat (w.extractLsb' 88 8).toNat then .trap ⟨0x01, highBits w, none, none⟩ s
            else if !stepClassOk w r then .trap ⟨0x01, 0, none, none⟩ s
            else match (List.range r.tot).find? fun i => !s.repOk k w r i with
              | some i => .trap ⟨0x01, BitVec.ofNat 64 i, none, none⟩ s
              | none => .rpt r s

/-- RPT for a thread whose guard is false (08 R210): the word that follows executes once, unstepped, and the repetitions after
that are guarded off, in which the thread still takes part as its convoy issues them (10 R245). A word that R208 does not let
RPT repeat executes once. -/
def State.rptIdle (s : State) (k : Nat) (tot : Nat) : Eff :=
  match s.front with
  | none => .done s
  | some c =>
      let repeats := match s.wordAfter k (s.th k).pc 1 with
        | .word w => !noRepeat (w.extractLsb' 88 8).toNat
        | _ => false
      if c.last || tot == 1 || !repeats then .done s
      else .rpt ⟨0, tot, 0, 0, 0⟩ (s.setTh k fun t => { t with idle := t.tlvl :: t.idle.filter (· != t.tlvl) })

/-- RPT issued: repeats for the threads whose guard is true, idle ones for the others. -/
def State.issueRpt (s : State) (i : Instr) (r : Rep) : State :=
  s.issueWith i noBlock fun h ks s =>
    ks.foldl (fun s k =>
      if (s.front.any fun c => c.mem.contains k) then
        State.applyEff k h.h.fin (if s.guard k h.g then s.rptEff k r else s.rptIdle k r.tot)
      else s) s

/-- Whether an OP uses the vector pipes: the arithmetic OPs (06 R163; log entry 17). -/
def vectorOp (op : Nat) : Bool := decide (0x10 ≤ op) && decide (op ≤ 0x4A)

/-- Whether the convoy in front is about to make a burst of 64 repetitions on the vector pipes: a member
with its guard true finds such an instruction next (08 R211); a word that raises a cause makes none (06 R167). -/
def State.wantsBurst (s : State) (i : Instr) (h : Head) (cnt : BitVec 6) : Bool :=
  cnt == 63 && s.actors.any fun k => s.guard k h.g && (s.front.any fun c => (s.wordFault c i h k).isNone) && (match s.peek k (nextPC (s.th k).pc) with
    | some w => vectorOp (w.extractLsb' 88 8).toNat
    | none => false)

/-- The request of a burst: the core within its cluster, its partition, the PRI of its header. -/
def Convoy.burst (c : Convoy) (now : Nat) : Resv :=
  { who := c.part / 4 % 4, job := c.part, cost := 4, pri := c.pri.toNat, since := now, at_ := some c.pc }

/-- The reservation of a convoy's burst: held, granted now where the arbiter's order comes to it, or asked for (22 R430, R431). -/
def State.takeBurst (s : State) (c : Convoy) : Bool × State :=
  let n := c.part / 16
  let x := s.cl n
  let new := c.burst s.cycle
  if x.held.any new.same then (true, s)
  else
    let r := ((x.waiting.find? new.same).getD new).asOf s.cycle
    let others := (x.waiting.filter fun y => !new.same y).map (Resv.asOf s.cycle)
    if x.nextGrant (others.length + 1) (others ++ [r]) = some r then
      (true, s.setCl n fun x => { x with waiting := x.waiting.filter fun y => !new.same y, held := x.held ++ [r] })
    else (false, s.setCl n fun x => x.request new)

/-- Whether a word is a repetition of a burst whose convoy holds no reservation: every thread of it had left, trapped or parked,
and its reservation was given back; it takes one again before it goes on (DESIGN CHOICE, log entry 57). -/
def State.burstAgain (s : State) (c : Convoy) (w : IWord) : Bool :=
  vectorOp (w.extractLsb' 88 8).toNat && (s.actors.any fun k => !(s.th k).idle.contains (s.th k).tlvl && (s.th k).rep.any fun r => r.tot == 64)
  && !((s.cl (c.part / 16)).held.any (c.burst 0).same)

/-- RPT, 08 R208 to R211. A burst takes its current reservation first, at once where the arbiter grants it, else it waits
(22 R430, R431). -/
def execRpt (h : Head) (cnt : BitVec 6) (dstep astep bstep : BitVec 3) (s : State) : Host.Outcome State Fault Refusal :=
  let go (s : State) : State := s.issueRpt (.rpt h cnt dstep astep bstep) ⟨0, cnt.toNat + 1, dstep, astep, bstep⟩
  if s.wantsBurst (.rpt h cnt dstep astep bstep) h cnt then
    match s.front with
    | none => .next s
    | some c => match s.takeBurst c with
      | (true, s) => .next (go s)
      | (false, s) => .next s
  else .next (go s)

/-- Bursts that are over give their reservations back; one that has not begun keeps its own, or its request, while its convoy
stands where it asked. -/
def State.endBursts (s : State) (n : Nat) : State :=
  let going (r : Resv) : Bool := s.threads.any fun (k, t) =>
    s.partTh k == r.job && t.status == .running && t.rep.any fun p => p.tot == 64
  let stands (r : Resv) : Bool := s.convoys.any fun c => c.part == r.job && some c.pc == r.at_
  s.setCl n fun x =>
    { x with held := x.held.filter fun r => decide (r.who ≥ 4) || going r || stands r
             waiting := x.waiting.filter fun r => decide (r.who ≥ 4) || stands r }

/-! ### Waits, modes, time, 08 R217 to R220 -/

/-- Whether a flag of a mask is not zero for a thread. -/
def State.flagsUp (s : State) (mask : BitVec 12) (k : Nat) : Bool :=
  (List.range 12).any fun f => mask.getLsbD f && decide (Tab.getD f 0 (s.th k).cf > 0)

/-- WAITF, 08 R217. -/
def execWaitf (h : Head) (mask : BitVec 12) (s : State) : Host.Outcome State Fault Refusal :=
  .next (s.issueEach (.waitf h mask) (fun s k => s.flagsUp mask k) fun s _ => .done s)

/-- SETMODE, 08 R218. -/
def execSetmode (h : Head) (value mask : BitVec 6) (s : State) : Host.Outcome State Fault Refusal :=
  .next (s.issueEach (.setmode h value mask) noBlock fun s k =>
    .done (s.setTh k fun t => { t with fmode := fmodeWrite t.fmode ((t.fmode &&& ~~~mask) ||| (value &&& mask)) }))

/-- SETPERF, 08 R219. -/
def execSetperf (h : Head) (a : Spec) (s : State) : Host.Outcome State Fault Refusal :=
  .next (s.issueEach (.setperf h a) noBlock fun s k =>
    let n := (s.r32 k a).toNat
    .done (s.setTh k fun t => { t with perf := if n < 3 then n else 3 }))

/-- GETCLK, 08 R220. -/
def execGetclk (h : Head) (d a : Spec) (s : State) : Host.Outcome State Fault Refusal :=
  .next (s.issueEach (.getclk h d a) noBlock fun s k =>
    .done (s.regWrite k d 2 (BitVec.ofNat 64 (if a.immNat = 0 then s.cycle else s.ns))))

end Sys2Proof.Machine
end

