-- ==== Sys2Proof/Machine/MemOps.lean ====
section
/-! DEFINITION. Loads, stores, prefetch and atomics (11 R275 to R282) with AFLD and AFST (10 R271),
and the remote requests they make (20 R398, R401 to R403). -/

namespace Sys2Proof.Machine

/-! ### Placing an access, R275 -/

/-- An access checked whole and placed (04 R105); `reads` meets poison (22 R434). -/
def State.accessEff (s : State) (k : Nat) (sp : Space) (addr : Nat) (reads : Bool) (n : Need)
    (go : Where → State → Eff) : Eff :=
  match s.place k sp addr n.size n with
  | (.fault c tva tf, s) => .trap ⟨c, tva, tf, none⟩ s
  | (.wait c, s) => .hold (.valley c) s
  | (.busy l, s) => .left (s.knock k l)
  | (.at_ w, s) =>
      if reads && w.poisoned s n.size then .trap ⟨0x30, BitVec.ofNat 64 addr, none, none⟩ s else go w s

/-- Registers whose value is still to come: what was built from them is eligible no longer (R277,
02 R61). -/
def State.claim (s : State) (k : Nat) (gs : List Nat) : State := s.setTh k fun t => gs.foldl Thread.endElig t

/-- A completion flag up by one (01 R32). -/
def Thread.cfUp (t : Thread) (f : Option Nat) : Thread :=
  match f with
  | some n => { t with cf := Tab.put n (Tab.getD n 0 t.cf + 1) t.cf }
  | none => t

/-- The flag a long-latency word increments (01 R32). -/
def State.flagNow (s : State) (h : Head) : Option Nat := s.front.bind fun c => c.flagOf h.h.flg

/-! ### Accesses begun and ended -/

/-- An operation issued: its flag up; one on a leased line is queued (R283). -/
def State.issueOp (s : State) (o : Op) : State :=
  ((s.newOp o).setTh o.th fun t => t.cfUp o.flag).probe s.seq

/-- The request of a remote access sent; a store drops its L1's own copy of the line (20 R401, R403). -/
def State.ask (s : State) (o : Op) (d pa : Nat) : State :=
  let id := s.seq
  let s := s.newOp o
  let s := if o.kind.writes then s.dropCopies o.core fun c => c.dev == some d && c.line == lineOf pa && !c.kind.isRo else s
  s.sendRemote id o d pa

/-- An access begun. A local one, or a remote load whose bytes its own L1 has, is issued and completes later; any
other remote one is asked for, and its thread stands at the instruction until the answer, so that a refusal
or a time-out is raised precisely (20 R402, 01 R26). -/
def State.beginAccess (s : State) (gs : List Nat) (o : Op) : Eff :=
  match o.loc with
  | .remote d pa =>
      (match (if o.kind = .load then s.remoteCopy o.core d pa o.size o.rtype else none) with
        | some b => .done ((s.claim o.th gs).issueOp { o with pend := gs, early := some b })
        | none => .left (s.ask { o with held := some .sent } d pa))
  | _ => .done (((s.claim o.th gs).issueOp { o with pend := gs }).noteFrame o)

/-- A held operation let go once its thread's requests are answered: a remote store or atomic is over, what is still to do
completes later. -/
def State.letGo (s : State) (gs : List Nat) (x : Nat × Op) : State :=
  match x.2.kind, x.2.loc with
  | .load, _ => (s.setOp x.1 fun o => { o with held := none, pend := gs }).probe x.1
  | _, .remote _ _ => (s.dropOp x.1).noteFrame x.2
  | _, _ => ((s.setOp x.1 fun o => { o with held := none }).probe x.1).noteFrame x.2

/-- An access whose remote requests have been answered: its cause raised, or its instruction completed. -/
def State.endAccess (s : State) (gs : List Nat) (_id : Nat) (o : Op) : Eff :=
  let all := s.heldOps o.th
  match o.held with
  | some (.failed c) => .trap ⟨c, o.va, none, none⟩ (all.foldl (fun s x => s.dropOp x.1) s)
  | _ =>
      if o.kind = .load then
        .done ((all.foldl (fun s x => s.letGo gs x) (s.claim o.th gs)).setTh o.th fun t => t.cfUp o.flag)
      else
        let s := all.foldl (fun s x => s.letGo gs x) s
        let s := match o.acq with
          | some sc => s.acquire o.core sc
          | none => s
        .done (if o.kind.returns then (s.claim o.th gs).deliver { o with flag := none } (o.early.getD []) else s)

/-- An access of a thread: begun, or ended where its remote request has been answered. -/
def State.accessWith (s : State) (k : Nat) (gs : List Nat) (go : State → Eff) : Eff :=
  match s.heldOp k with
  | some (id, o) => s.endAccess gs id o
  | none => go s

/-- Whether a remote access of a thread meets an access of its own to the same bytes that is not yet
answered (05 R124). -/
def State.remoteBusy (s : State) (k : Nat) (sp : Space) (addr : Nat) (n : Need) : Bool :=
  match (s.place k sp addr n.size n).1 with
  | .at_ (.remote d pa) => s.ops.any fun (_, p) => p.th == k && p.held.isNone && overlaps p.loc p.size (.remote d pa) n.size
  | _ => false

/-- Whether a remote access that is an acquire must wait for the thread's .wt and .si stores to be merged (05 R125). -/
def State.remoteAcq (s : State) (k : Nat) (h : Head) (m : MemF) (addr : Nat) (n : Need) : Bool :=
  ordOf h.md == 1 && s.merging k m.scope && (match (s.place k m.space addr n.size n).1 with
    | .at_ (.remote _ _) => true
    | _ => false)

/-! ### LD and ST, R276 to R278 -/

def ldNeed (h : Head) (m : MemF) : Need := { r := true, rtype := m.rtype, size := h.ty.bytes * cntOf h.md }
def stNeed (h : Head) (m : MemF) : Need := { w := true, rtype := m.rtype, size := h.ty.bytes * cntOf h.md }

/-- Which bytes of a load read zero: of the thread's frame those that nothing has written since it started (04 R104). -/
def State.frameZeros (s : State) (k : Nat) (m : MemF) (addr n : Nat) : List Nat :=
  if m.space = .l ∧ ¬(s.th k).fresh.isEmpty then (s.th k).freshIn addr n else []

/-- Where in the thread's frame an access lies. -/
def frameAt (m : MemF) (addr : Nat) : Option Nat := if m.space = .l then some addr else none

/-- LD for a thread whose guard is true. -/
def State.ldEff (s : State) (k : Nat) (h : Head) (d a b : Spec) (m : MemF) : Eff :=
  let addr := s.effAddr k m a (some b)
  let n := ldNeed h m
  let gs := rangeFrom d.vIndex (cntOf h.md * h.ty.rw)
  s.accessWith k gs fun s => s.accessEff k m.space addr true n fun w s =>
    s.beginAccess gs
      { th := k, crew := crewOf k, core := s.coreTh k, kind := .load, loc := w, va := BitVec.ofNat 64 addr, size := n.size
        space := m.space, rtype := m.rtype, ty := h.ty, dst := some d.vIndex, flag := s.flagNow h
        acq := if ordOf h.md = 1 then some m.scope else none, zero := s.frameZeros k m addr n.size }

/-- LD, R277. -/
def execLd (h : Head) (d a b : Spec) (m : MemF) (s : State) : Host.Outcome State Fault Refusal :=
  .next (s.issueEach (.ld h d a b m)
    (fun s k => s.remoteBusy k m.space (s.effAddr k m a (some b)) (ldNeed h m) || s.remoteAcq k h m (s.effAddr k m a (some b)) (ldNeed h m))
    fun s k => s.ldEff k h d a b m)

/-- The bytes ST stores: each element its register's low 8e bits (R278). -/
def State.stBytes (s : State) (k : Nat) (h : Head) (d : Spec) : List Byte :=
  match d with
  | .v i => (List.range (cntOf h.md)).flatMap fun j => leBytes h.ty.bytes (s.regRead k (.v (i + BitVec.ofNat 8 (j * h.ty.rw))) h.ty.rw).toNat
  | _ => leBytes h.ty.bytes ((s.rd k).src h.ty d).toNat

/-- ST for a thread whose guard is true. -/
def State.stEff (s : State) (k : Nat) (h : Head) (d a b : Spec) (m : MemF) : Eff :=
  let addr := s.effAddr k m a (some b)
  let n := stNeed h m
  let bs := s.stBytes k h d
  s.accessWith k [] fun s => s.accessEff k m.space addr false n fun w s =>
    s.beginAccess []
      { th := k, crew := crewOf k, core := s.coreTh k, kind := .store, loc := w, va := BitVec.ofNat 64 addr, size := n.size
        space := m.space, rtype := m.rtype, ty := h.ty, data := bs, frame := frameAt m addr }

/-- What a store or atomic that is a release waits for (05 R126). -/
def State.relWait (s : State) (k : Nat) (h : Head) (m : MemF) : Bool := ordOf h.md == 2 && s.releasing k m.scope

/-- ST, R278. -/
def execSt (h : Head) (d a b : Spec) (m : MemF) (s : State) : Host.Outcome State Fault Refusal :=
  .next (s.issueEach (.st h d a b m)
    (fun s k => s.relWait k h m || s.remoteBusy k m.space (s.effAddr k m a (some b)) (stNeed h m))
    fun s k => s.stEff k h d a b m)

/-! ### PREF, R279 -/

/-- PREF for a thread: a copy of the line under .si or .ro, with what the crew's L1 holds of it already; a tracked copy shows
nothing. A denial is counted (18 R389). -/
def State.prefetch (s : State) (k : Nat) (addr : Nat) (rt : RType) : State :=
  match s.place k .g addr 1 { r := true, rtype := rt, size := 1 } with
  | (.at_ (.mem pa), _) =>
      let line := lineOf pa
      let core := s.coreTh k
      if (s.engOwned.any fun (x, _) => x == line) || (s.leaseHolder line).isSome || s.poisoned line 128 then s
      else
        match rt with
        | .si => if (s.copyOf core none line CopyKind.isSi).isSome then s else s.addCopy core ⟨.si, none, line, s.lineBytes line, 0⟩
        | .ro =>
            let c := crewOf k
            if (s.copyOf core none line (· == .ro c)).isSome then s
            else
              let o : Op := { th := k, crew := c, core := core, kind := .load, loc := .mem line, va := 0, size := 128, space := .g, rtype := .ro, ty := .b32 }
              s.addCopy core ⟨.ro c, none, line, (s.overlay s.seq o (s.lineBytes line)).1, 0⟩
        | _ => s
  | (.fault _ _ _, t) => t
  | _ => s

/-- PREF, R279. -/
def execPref (h : Head) (a b : Spec) (m : MemF) (s : State) : Host.Outcome State Fault Refusal :=
  .next (s.issueEach (.pref h a b m) noBlock fun s k => .done (s.prefetch k (s.effAddr k m a (some b)) m.rtype))

/-! ### ATOM, R280 to R282 -/

def atomNeed (h : Head) (m : MemF) : Need := { r := true, w := true, rtype := m.rtype, whole := true, size := atomBytes h.ty }

/-- Operand bytes: for .cas the compare value, then the swap value; a packed pair as one word. -/
def State.atomData (s : State) (k : Nat) (h : Head) (fn : Nat) (b : Spec) : List Byte :=
  let n := atomBytes h.ty
  let v : DWord := match h.ty with
    | .f16 | .bf16 => (s.rd k).packed h.ty b
    | _ => (s.rd k).src h.ty b
  if fn = 9 then
    leBytes n (s.regRead k b h.ty.rw).toNat
      ++ leBytes n (s.regRead k (.v (BitVec.ofNat 8 (b.vIndex + h.ty.rw))) h.ty.rw).toNat
  else leBytes n v.toNat

/-- An atomic finds zero in the bytes of its thread's frame that nothing has written since it started: in memory of this device
they are zeroed now (04 R104). -/
def State.zeroNow (s : State) (k : Nat) (m : MemF) (addr n : Nat) (w : Where) : State :=
  match w with
  | .remote _ _ => s
  | _ => (s.frameZeros k m addr n).foldl (fun s i => (s.locWrite none (w.shift i) [0]).setTh k fun t => t.wroteFrame (addr + i) 1) s

/-- ATOM for a thread whose guard is true. -/
def State.atomEff (s : State) (k : Nat) (h : Head) (fn : Nat) (d a b : Spec) (m : MemF) : Eff :=
  let addr := s.effAddr k m a none
  let n := atomNeed h m
  let bs := s.atomData k h fn b
  let ret := d != .imm 0
  let gs := if ret then rangeFrom d.vIndex h.ty.rw else []
  s.accessWith k gs fun s => s.accessEff k m.space addr true n fun w s =>
    (s.zeroNow k m addr n.size w).beginAccess gs
      { th := k, crew := crewOf k, core := s.coreTh k, kind := .atom fn ret, loc := w, va := BitVec.ofNat 64 addr, size := n.size
        space := m.space, rtype := m.rtype, ty := h.ty, data := bs
        dst := if ret then some d.vIndex else none, flag := if ret then s.flagNow h else none
        acq := if ordOf h.md = 1 then some m.scope else none }

/-- An ATOM of any function. -/
def State.issueAtom (s : State) (i : Instr) (fn : Nat) (h : Head) (d a b : Spec) (m : MemF) : State :=
  s.issueEach i
    (fun s k => s.relWait k h m || s.remoteBusy k m.space (s.effAddr k m a none) (atomNeed h m)
      || s.remoteAcq k h m (s.effAddr k m a none) (atomNeed h m))
    fun s k => s.atomEff k h fn d a b m

/-- ATOM.add, R281. -/
def execAtomAdd (h : Head) (d a b : Spec) (m : MemF) (s : State) : Host.Outcome State Fault Refusal :=
  .next (s.issueAtom (.atomAdd h d a b m) 0 h d a b m)
/-- ATOM.min, R281. -/
def execAtomMin (h : Head) (d a b : Spec) (m : MemF) (s : State) : Host.Outcome State Fault Refusal :=
  .next (s.issueAtom (.atomMin h d a b m) 1 h d a b m)
/-- ATOM.max, R281. -/
def execAtomMax (h : Head) (d a b : Spec) (m : MemF) (s : State) : Host.Outcome State Fault Refusal :=
  .next (s.issueAtom (.atomMax h d a b m) 2 h d a b m)
/-- ATOM.and, R281. -/
def execAtomAnd (h : Head) (d a b : Spec) (m : MemF) (s : State) : Host.Outcome State Fault Refusal :=
  .next (s.issueAtom (.atomAnd h d a b m) 3 h d a b m)
/-- ATOM.or, R281. -/
def execAtomOr (h : Head) (d a b : Spec) (m : MemF) (s : State) : Host.Outcome State Fault Refusal :=
  .next (s.issueAtom (.atomOr h d a b m) 4 h d a b m)
/-- ATOM.xor, R281. -/
def execAtomXor (h : Head) (d a b : Spec) (m : MemF) (s : State) : Host.Outcome State Fault Refusal :=
  .next (s.issueAtom (.atomXor h d a b m) 5 h d a b m)
/-- ATOM.exch, R281. -/
def execAtomExch (h : Head) (d a b : Spec) (m : MemF) (s : State) : Host.Outcome State Fault Refusal :=
  .next (s.issueAtom (.atomExch h d a b m) 6 h d a b m)
/-- ATOM.inc, R281. -/
def execAtomInc (h : Head) (d a b : Spec) (m : MemF) (s : State) : Host.Outcome State Fault Refusal :=
  .next (s.issueAtom (.atomInc h d a b m) 7 h d a b m)
/-- ATOM.dec, R281. -/
def execAtomDec (h : Head) (d a b : Spec) (m : MemF) (s : State) : Host.Outcome State Fault Refusal :=
  .next (s.issueAtom (.atomDec h d a b m) 8 h d a b m)
/-- ATOM.cas, R281. -/
def execAtomCas (h : Head) (d a b : Spec) (m : MemF) (s : State) : Host.Outcome State Fault Refusal :=
  .next (s.issueAtom (.atomCas h d a b m) 9 h d a b m)
/-- ATOM.fadd, R281. -/
def execAtomFadd (h : Head) (d a b : Spec) (m : MemF) (s : State) : Host.Outcome State Fault Refusal :=
  .next (s.issueAtom (.atomFadd h d a b m) 10 h d a b m)
/-- ATOM.fmin, R281. -/
def execAtomFmin (h : Head) (d a b : Spec) (m : MemF) (s : State) : Host.Outcome State Fault Refusal :=
  .next (s.issueAtom (.atomFmin h d a b m) 11 h d a b m)
/-- ATOM.fmax, R281. -/
def execAtomFmax (h : Head) (d a b : Spec) (m : MemF) (s : State) : Host.Outcome State Fault Refusal :=
  .next (s.issueAtom (.atomFmax h d a b m) 12 h d a b m)

/-! ### AFLD and AFST, 10 R271 -/

def affNeed (w : Bool) (m : MemF) : Need := { r := !w, w := w, rtype := m.rtype, size := 64 }

/-- Whether a place follows another by some bytes on the same device. -/
def Where.follows (w v : Where) (n : Nat) : Bool :=
  match v with
  | .remote _ _ => w == v.shift n
  | _ => false

/-- The accesses a 64-byte access is made of: its four quarters, unordered among themselves (05 R123); quarters that lie
side by side on another device are one request. Place, offset, length. -/
def quarterRuns (ws : List Where) : List (Where × Nat × Nat) :=
  (((List.range ws.length).zip ws).foldl (fun (acc : List (Where × Nat × Nat)) x =>
    match acc with
    | (v, i, n) :: t => if Where.follows x.2 v n then (v, i, n + 16) :: t else (x.2, 16 * x.1, 16) :: acc
    | [] => [(x.2, 16 * x.1, 16)]) []).reverse

/-- A 64-byte access placed, then begun as its quarters. -/
def State.beginQuarters (s : State) (k : Nat) (gs : List Nat) (addr : Nat) (nd : Need) (o : Op) : Eff :=
  match s.quarters k o.space addr nd with
  | (.fault c tva tf, _, s) => .trap ⟨c, tva, tf, none⟩ s
  | (.wait c, _, s) => .hold (.valley c) s
  | (.busy l, _, s) => .left (s.knock k l)
  | (.at_ _, ws, s) =>
      if nd.r && ws.any fun w => w.poisoned s 16 then .trap ⟨0x30, BitVec.ofNat 64 addr, none, none⟩ s
      else
        let g := s.seq
        let part (x : Where × Nat × Nat) : Op :=
          { o with loc := x.1, size := x.2.2, data := (o.data.drop x.2.1).take x.2.2, dst := o.dst.map (· + x.2.1 / 4), group := o.flag.map fun _ => g
                   frame := o.frame.map (· + x.2.1), zero := (o.zero.filter fun i => decide (x.2.1 ≤ i) && decide (i < x.2.1 + x.2.2)).map (· - x.2.1) }
        let ops := (quarterRuns ws).map part
        let far (p : Op) : Bool := match p.loc with
          | .remote _ _ => true
          | _ => false
        if ops.any far then
          .left (ops.foldl (fun s p => match p.loc with
            | .remote d pa => (match (if p.kind = .load then s.remoteCopy p.core d pa p.size p.rtype else none) with
                | some b => s.newOp { p with held := some .ok, early := some b }
                | none => s.ask { p with held := some .sent } d pa)
            | _ => s.newOp { p with held := some .ok }) s)
        else .done (((ops.foldl (fun s p => (s.newOp { p with pend := gs }).probe s.seq) (s.claim k gs)).setTh k fun t => t.cfUp o.flag).noteFrame o)

/-- AFLD for a thread whose guard is true. -/
def State.afldEff (s : State) (k : Nat) (h : Head) (d a b : Spec) (m : MemF) : Eff :=
  let addr := s.effAddr k m a (some b)
  let gs := rangeFrom d.vIndex 16
  s.accessWith k gs fun s => s.beginQuarters k gs addr (affNeed false m)
    { th := k, crew := crewOf k, core := s.coreTh k, kind := .load, loc := .mem 0, va := BitVec.ofNat 64 addr, size := 64
      space := m.space, rtype := m.rtype, ty := .b32, dst := some d.vIndex, flag := s.flagNow h
      acq := if ordOf h.md = 1 then some m.scope else none, affine := some (d.vIndex / 16), zero := s.frameZeros k m addr 64 }

/-- AFLD, 10 R271. -/
def execAfld (h : Head) (d a b : Spec) (m : MemF) (s : State) : Host.Outcome State Fault Refusal :=
  .next (s.issueEach (.afld h d a b m)
    (fun s k => s.remoteBusy k m.space (s.effAddr k m a (some b)) (affNeed false m) || s.remoteAcq k h m (s.effAddr k m a (some b)) (affNeed false m))
    fun s k => s.afldEff k h d a b m)

/-- AFST for a thread whose guard is true. -/
def State.afstEff (s : State) (k : Nat) (h : Head) (d a b : Spec) (m : MemF) : Eff :=
  let addr := s.effAddr k m a (some b)
  let bs := (rangeFrom d.vIndex 16).flatMap fun g => leBytes 4 ((s.th k).vget g).toNat
  s.accessWith k [] fun s => s.beginQuarters k [] addr (affNeed true m)
    { th := k, crew := crewOf k, core := s.coreTh k, kind := .store, loc := .mem 0, va := BitVec.ofNat 64 addr, size := 64
      space := m.space, rtype := m.rtype, ty := h.ty, data := bs, frame := frameAt m addr }

/-- AFST, 10 R271. -/
def execAfst (h : Head) (d a b : Spec) (m : MemF) (s : State) : Host.Outcome State Fault Refusal :=
  .next (s.issueEach (.afst h d a b m)
    (fun s k => s.relWait k h m || s.remoteBusy k m.space (s.effAddr k m a (some b)) (affNeed true m))
    fun s k => s.afstEff k h d a b m)

end Sys2Proof.Machine
end

