-- ==== Sys2Proof/Machine/Sync.lean ====
section
/-! DEFINITION. Leases, fences, cache control, CRESIZE, barrier registers and memory barriers
(11 R283 to R295). -/

namespace Sys2Proof.Machine

/-! ### Leases, R283 to R286 -/

def leaseNeed : Need := { r := true, w := true, whole := true, lease := true, size := 1 }

/-- Leases a core's shadow buffers hold. -/
def State.shadowsUsed (s : State) (core : Nat) : Nat :=
  (s.threads.filter fun (k, _) => s.coreTh k == core).foldl (fun n (_, t) => n + t.leases.length) 0

/-- Who is served first among requests for a line: the older stamp, then the lower device, cluster,
core and tid (R283). -/
def State.leaseBefore (s : State) (j k : Nat) : Bool :=
  let a := (s.th j).stamp
  let b := (s.th k).stamp
  decide (a < b) || (a == b && (decide (s.coreTh j < s.coreTh k) || (s.coreTh j == s.coreTh k && decide (tidOf j < tidOf k))))

/-- Threads that wait at LEASE.age for a line. -/
def State.leaseWaiters (s : State) (line : Nat) : List Nat :=
  (s.threads.filter fun (_, t) => match t.wait with
    | .leaseAge l _ _ => l == line
    | _ => false).map (·.1)

/-- Whether another request for a line goes before a thread's. -/
def State.leaseQueued (s : State) (k line : Nat) : Bool := (s.leaseWaiters line).any fun j => j != k && s.leaseBefore j k

/-- Whether another thread holds a lease on a line. -/
def State.leasedByOther (s : State) (k line : Nat) : Bool :=
  match s.leaseHolder line with
  | some h => h != k
  | none => false

/-- The timer of a lease. -/
def leaseTimer (t : Nat) : Nat := if t < 16 then 16 else if 1024 < t then 1024 else t

/-- A lease granted: the line exclusive in the L1, its bytes shadowed, the timer started (R283), an
acquire at its scope (05 R133). -/
def State.grantLease (s : State) (k line timer : Nat) (sc : Scope) : State :=
  let core := s.coreTh k
  let shadow := s.coh line 128
  let s := s.recallOthers core line
  let s := s.setCo core fun c => { c with owned := Tab.put line (Tab.getD line [] c.owned) c.owned }
  let s := (s.setTh k fun t => { t with leases := t.leases ++ [⟨line, shadow, s.cycle + timer, sc, s.seq, s.poison.filter fun a => lineOf a == line⟩] }).bump
  s.acquire core sc

/-- Whether the line of a lease cannot be obtained yet: accesses of the crew to it that are not
performed, an engine's ownership. -/
def State.lineBusy (s : State) (k line : Nat) : Bool :=
  (s.ops.any fun (_, o) => o.crew == crewOf k && o.loc.line == some line && !o.probing && (o.kind.writes || o.th == k))
  || s.engOwned.any fun (x, _) => x == line

/-- What LEASE finds at its address: a line, or why not. -/
def State.leaseLine (s : State) (k : Nat) (addr : Nat) : Placed × State := s.place k .g addr 1 leaseNeed

/-- Whether a thread waits at a LEASE.age already, whose completion flag `f` is up (01 R32). -/
def Thread.agesLease (t : Thread) : Bool :=
  match t.wait with
  | .leaseAge _ _ _ => true
  | _ => false
/-- The flag of a LEASE up when it issues, and down when its result is written (01 R32). -/
def State.leaseUp (s : State) (k : Nat) (f : Option Nat) : State := if (s.th k).agesLease then s else s.setTh k fun t => t.cfUp f
def State.leaseDown (s : State) (k : Nat) (f : Option Nat) : State := (s.leaseUp k f).setTh k fun t => t.cfDown f s.cycle

/-- LEASE for a thread whose guard is true (R283), by the first row of the table that applies; `f` is its completion flag. -/
def State.leaseEff (s : State) (k addr timer : Nat) (age : Bool) (sc : Scope) (d : Spec) (f : Option Nat) : Eff :=
  let r := s.leaseLine k addr
  let line? : Option Nat := match r.1 with
    | .at_ w => w.line
    | _ => none
  let held := match line? with
    | some l => (s.th k).leases.any fun x => x.line == l
    | none => false
  -- a plain LEASE takes its stamp once its address has been checked (R275)
  let mark (s : State) : State := if age then s else s.setTh k fun t => { t with stamp := s.ns }
  let fin (s : State) (b : Bool) : Eff := .done (((mark s).leaseDown k f).predWrite k d b)
  if held then fin r.2 true
  else if (s.th k).leases.length ≥ 2 then fin (r.2.breakLeases k) false
  else
    match r.1, line? with
    | .fault c tva tf, _ => .trap ⟨c, tva, tf, none⟩ (r.2.leaseDown k f)
    | .busy l, _ => .left (r.2.knock k l)
    | _, some line =>
        let s := mark r.2
        if s.shadowsUsed (s.coreTh k) ≥ Config.shadowBuffers then fin s false
        else if s.leasedByOther k line || s.leaseQueued k line then
          if age then .hold (.leaseAge line (leaseTimer timer) sc) ((s.leaseUp k f).knock k line) else fin s false
        else fin (s.grantLease k line (leaseTimer timer) sc) true
    | _, none => .trap ⟨0x11, BitVec.ofNat 64 addr, none, none⟩ (r.2.leaseDown k f)

/-- LEASE, R283: it acquires only when the thread's .wt and .si stores have merged (05 R125), and waits
for the crew's own accesses to the line. -/
def execLease (h : Head) (d a b : Spec) (m : MemF) (s : State) : Host.Outcome State Fault Refusal :=
  .next (s.issueEach (.lease h d a b m)
    (fun s k => s.merging k m.scope || (match (s.leaseLine k (s.effAddr k m a none)).1 with
      | .at_ w => (match w.line with
          | some l => s.lineBusy k l
          | none => false)
      | _ => false))
    fun s k => s.leaseEff k (s.effAddr k m a none) (s.r32 k b).toNat (h.md.getLsbD 0) m.scope d (s.flagNow h))

/-- The wider of two scopes. -/
def Scope.widest (a b : Scope) : Scope := if a.code.toNat < b.code.toNat then b else a

/-- What LEND waits for: every access to the leased lines, and where it would succeed the release at the
widest scope its LEASEs named (R285, 05 R133). -/
def State.lendWait (s : State) (k : Nat) : Bool :=
  let t := s.th k
  !(s.opsOf k fun o => s.holds k o.loc).isEmpty
  || (!t.leases.isEmpty && !t.broken && s.releasing k (t.leases.foldl (fun a l => Scope.widest a l.scope) .crew))

/-- LEND, R285; a lease whose timer has ended is broken, even now (R286). -/
def execLend (h : Head) (d : Spec) (s : State) : Host.Outcome State Fault Refusal :=
  .next (s.issueEach (.lend h d) State.lendWait fun s k =>
    let s := if (s.th k).leases.any fun l => decide (l.ends ≤ s.cycle) then s.breakLeases k else s
    let t := s.th k
    let ok := !t.leases.isEmpty && !t.broken
    .done (((s.predWrite k d ok).setTh k fun t => { t with broken := false }).endLeases k))

/-! ### Fences and ROINV, R287, R288, 05 R127 -/

/-- FENCE.acq, R287. -/
def execFenceAcq (h : Head) (sc : Scope) (s : State) : Host.Outcome State Fault Refusal :=
  .next (s.issueEach (.fenceAcq h sc) (fun s k => !(s.loading k).isEmpty || s.merging k sc)
    fun s k => .done (s.acquire (s.coreTh k) sc))

/-- FENCE.rel, R287. -/
def execFenceRel (h : Head) (sc : Scope) (s : State) : Host.Outcome State Fault Refusal :=
  .next (s.issueEach (.fenceRel h sc) (fun s k => s.releasing k sc) fun s _ => .done s)

/-- What FENCE.ar and FENCE.sc do: both of the others; `more` is what else they wait for. -/
def State.fenceBoth (s : State) (i : Instr) (sc : Scope) (more : State → Nat → Bool) : State :=
  s.issueEach i (fun s k => s.releasing k sc || s.merging k sc || more s k) fun s k => .done (s.acquire (s.coreTh k) sc)

/-- FENCE.ar, R287. -/
def execFenceAr (h : Head) (sc : Scope) (s : State) : Host.Outcome State Fault Refusal :=
  .next (s.fenceBoth (.fenceAr h sc) sc noBlock)

/-- FENCE.sc, R287: steps are taken one at a time, so the fences lie in one order, and what the thread sees of its crew's
stores is performed before it completes (05 R127). -/
def execFenceSc (h : Head) (sc : Scope) (s : State) : Host.Outcome State Fault Refusal :=
  .next (s.fenceBoth (.fenceSc h sc) sc fun s k => s.crewWrites k sc)

/-- ROINV, R288. -/
def execRoinv (h : Head) (s : State) : Host.Outcome State Fault Refusal :=
  .next (s.issueEach (.roinv h) (fun s k => !(s.opsOf k fun o => o.kind == .load && o.rtype == .ro).isEmpty)
    fun s k => .done (s.dropCopies (s.coreTh k) fun c => c.kind.isRo))

/-! ### CINV, CINV.DISCARD, CWB, R289, R290 -/

/-- A stretch of a range within one 64 KiB page: device for a remote page, physical address, length,
first virtual address. -/
structure Piece where
  dev : Option Nat
  pa : Nat
  len : Nat
  va : Nat
  writable : Bool

/-- The mapped pages of a range of virtual addresses, one leaf's place after another; an unmapped page
or an address with bits 63:56 set adds nothing (R289), and a page of host memory, at its address from 2^51 up, no line. -/
def State.pieces (s : State) (k base len : Nat) : List Piece :=
  if len = 0 then []
  else
    let first := base / 65536
    let n := (base + len - 1) / 65536 + 1 - first
    (List.range n).flatMap fun i =>
      let lo := if i = 0 then base else (first + i) * 65536
      let hi := if base + len < (first + i + 1) * 65536 then base + len else (first + i + 1) * 65536
      let va := lo % 2 ^ 64
      if va ≥ 2 ^ 56 then []
      else match s.walk (s.ctxTh k) (s.coreTh k) va with
        | .leaf e b =>
            let pa := leafPA e + va % 2 ^ b
            let w := leafGrants e { w := true, sys := s.isSys k }
            if isRemotePage e then [⟨some (field e 63 52), pa, hi - lo, lo % 2 ^ 64, w⟩]
            else if isReplPage e then (replOrder (s.plainTh k) e (va % 2 ^ b)).map fun a => ⟨none, a, hi - lo, lo % 2 ^ 64, w⟩
            else [⟨none, pa, hi - lo, lo % 2 ^ 64, w⟩]
        | _ => []

/-- The leased line that a walk for a range has to wait for (05 R131). -/
def State.piecesBusy (s : State) (k base len : Nat) : Option Nat :=
  if len = 0 then none
  else (List.range ((base + len - 1) / 65536 + 1 - base / 65536)).findSome? fun i =>
    let va := ((base / 65536 + i) * 65536) % 2 ^ 64
    if va ≥ 2 ^ 56 then none
    else match s.walk (s.ctxTh k) (s.coreTh k) va with
      | .busy l => some l
      | _ => none

/-- Whether a line of a device overlaps a piece, and whether it lies wholly inside. -/
def Piece.hits (p : Piece) (dev : Option Nat) (line : Nat) : Bool :=
  p.dev == dev && decide (p.pa < line + 128) && decide (line < p.pa + p.len)
def Piece.covers (p : Piece) (line : Nat) : Bool := decide (p.pa ≤ line) && decide (line + 128 ≤ p.pa + p.len)

/-- What cache control does to the lines of a range that a core's L1 holds. -/
inductive CacheOp where
  | clean | inv | discard
  deriving DecidableEq, Repr

/-- Lines the core holds exclusive within the pieces. -/
def State.heldLines (s : State) (core : Nat) (ps : List Piece) : List Nat :=
  ((s.co core).owned.map (·.1)).filter fun l => ps.any fun p => p.hits none l

/-- A dirty line of a core written back, the line kept clean (R289). -/
def State.cleanLine (s : State) (core line : Nat) : State :=
  match Tab.find line (s.co core).owned with
  | some d => { s with mem := mergeDirty s.mem line d }.setCo core fun c => { c with owned := Tab.put line [] c.owned }
  | none => s

/-- Cache control on pieces in a core's L1 (R289, R290). -/
def State.cacheOp (s : State) (core : Nat) (op : CacheOp) (ps : List Piece) : State :=
  let s := (s.heldLines core ps).foldl (fun s l =>
    match op with
    | .clean => s.cleanLine core l
    | .inv => (s.cleanLine core l).setCo core fun c => { c with owned := Tab.drop l c.owned }
    | .discard =>
        let s := if ps.any fun p => p.hits none l && p.covers l then s else s.cleanLine core l
        s.setCo core fun c => { c with owned := Tab.drop l c.owned }) s
  if op = .clean then s else s.dropCopies core fun c => ps.any fun p => p.hits c.dev c.line

/-- What cache control waits for: writes of the crew to the range, leases on its lines by other threads
of the core, and engine ownership (R289). -/
def State.cacheWait (s : State) (k base len : Nat) : Bool :=
  let ps := s.pieces k base len
  (s.ops.any fun (_, o) => o.crew == crewOf k && (o.kind.writes || o.th == k)
      && (match o.loc with
          | .mem a => ps.any fun p => p.hits none (lineOf a)
          | .repl l => l.any fun a => ps.any fun p => p.hits none (lineOf a)
          | .remote d a => ps.any fun p => p.hits (some d) (lineOf a)
          | _ => false))
  || (s.threads.any fun (j, t) => j != k && s.coreTh j == s.coreTh k && t.leases.any fun l => ps.any fun p => p.hits none l.line)
  || (s.engOwned.any fun (l, _) => ps.any fun p => p.hits none l)
  || (s.piecesBusy k base len).isSome

/-- The lines for which cache control takes an entry of the probe queue (R289): those of its range that another thread of
the core has leased, and a table's. -/
def State.cacheLines (s : State) (k base len : Nat) : List Nat :=
  let ps := s.pieces k base len
  (s.threads.flatMap fun (j, t) => if j != k && s.coreTh j == s.coreTh k then (t.leases.map (·.line)).filter fun l => ps.any fun p => p.hits none l else [])
    ++ (s.piecesBusy k base len).toList

/-- The issuing thread's leases break when the range holds a line it has leased (R289). -/
def State.cacheBreak (s : State) (k : Nat) (ps : List Piece) : State :=
  if (s.th k).leases.any fun l => ps.any fun p => p.hits none l.line then s.breakLeases k else s

/-- Cache control for a thread whose guard is true: CINV.DISCARD checks its range first (R290). -/
def State.cacheEff (s : State) (k : Nat) (a b : Spec) (op : CacheOp) : Eff :=
  let base := (s.r64 k a).toNat
  let len := (s.r32 k b).toNat
  let ps := s.pieces k base len
  match (if op = .discard then ps.find? fun p => !p.writable else none) with
  | some p => .trap ⟨0x11, BitVec.ofNat 64 p.va, some (BitVec.ofNat 64 p.va), none⟩ s
  | none => .done ((s.cacheBreak k ps).cacheOp (s.coreTh k) op ps)

/-- What an instruction of the three waits for. -/
def State.cacheBlock (s : State) (k : Nat) (a b : Spec) : Bool := s.cacheWait k (s.r64 k a).toNat (s.r32 k b).toNat

/-- A word of the three issued. -/
def State.issueCache (s : State) (i : Instr) (a b : Spec) (op : CacheOp) : State :=
  (s.knocks i fun s k => s.cacheLines k (s.r64 k a).toNat (s.r32 k b).toNat).issueEach i (fun s k => s.cacheBlock k a b) fun s k => s.cacheEff k a b op

/-- CINV, R289. -/
def execCinv (h : Head) (a b : Spec) (s : State) : Host.Outcome State Fault Refusal :=
  .next (s.issueCache (.cinv h a b) a b .inv)

/-- CINV.DISCARD, R289, R290. -/
def execCinvDiscard (h : Head) (a b : Spec) (s : State) : Host.Outcome State Fault Refusal :=
  .next (s.issueCache (.cinvDiscard h a b) a b .discard)

/-- CWB, R289. -/
def execCwb (h : Head) (a b : Spec) (s : State) : Host.Outcome State Fault Refusal :=
  .next (s.issueCache (.cwb h a b) a b .clean)

/-! ### CRESIZE, R291, 04 R110 -/

/-- Whether an access, record or pass issued before still uses the crew's scratch or L1 (R291). -/
def State.resizeWait (s : State) (k : Nat) : Bool :=
  let c := crewOf k
  let mates := s.valleyCrews c
  (s.ops.any fun (_, o) => o.crew == c || (match o.loc with
      | .crewScratch x _ => x == c
      | _ => false))
  || (mates.any fun x => (s.cr x).ch.any fun (_, y) => y.plan.isSome)
  || (s.clusters.any fun (_, x) => x.table.any fun j => j.running && mates.contains j.crew)

/-- The lines a core's L1 holds that stand in ways newly lent: which those are the part alone knows, a free value for each
line (04 R110, log entry 50). -/
def State.lentLines (s : State) (core : Nat) : List Nat × State :=
  let ls := (((s.co core).owned.map (·.1)) ++ ((s.co core).copies.map (·.line))).eraseDups
  (((List.range ls.length).zip ls).filterMap (fun (i, l) => if (Config.freeDWord (s.free + i)).getLsbD 0 then some l else none),
    { s with free := s.free + ls.length })

/-- Step 2 of R110: the lines of ways newly lent are written back and invalidated, and leases on them break. -/
def State.lendWays (s : State) (core : Nat) : State :=
  let r := s.lentLines core
  let s := (r.2.threads.filter fun (k, t) => r.2.coreTh k == core && t.leases.any fun l => r.1.contains l.line).foldl (fun s (k, _) => s.breakLeases k) r.2
  let s := (((s.co core).owned.map (·.1)).filter r.1.contains).foldl State.recall s
  s.dropCopies core fun c => r.1.contains c.line

/-- CRESIZE for a thread: `w` ways are lent; lines in newly lent ways are gone from the L1, scratch of returned ways is gone
with what was poisoned of it, lent ways read zero. -/
def State.resizeEff (s : State) (k w : Nat) : Eff :=
  if !(s.laTh k).rcd.excl then .trap { s.illegalRaise with cause := 0x03 } s
  else if w > 10 then .trap ⟨0x01, BitVec.ofNat 64 w, none, none⟩ s
  else
    let s := if (s.crewTh k).ways < w then s.lendWays (s.coreTh k) else s
    let past (x : Where) : Bool := match x with
      | .crewScratch c o => c == crewOf k && decide (2 ^ 19 + 2 ^ 17 * w ≤ o)
      | _ => false
    let s : State := { s with scrPoison := s.scrPoison.filter fun x => !past x }
    .done (s.setCr (crewOf k) fun c =>
      { c with ways := w, resizing := c.resizing.filter (· != k), scratch := c.scratch.filter fun (o, _) => decide (o < 2 ^ 19 + 2 ^ 17 * w) })

/-- Whether a CRESIZE of a thread has to wait. -/
def State.resizeBlock (s : State) (a : Spec) (k : Nat) : Bool := (s.laTh k).rcd.excl && decide ((s.r32 k a).toNat ≤ 10) && s.resizeWait k

/-- Threads that come to wait at a CRESIZE are noted: until it completes the other accesses of their crew, and records and
passes issued later, stall (04 R110, R291). -/
def State.noteResize (s : State) (i : Instr) (a : Spec) : State :=
  match s.front, i.head with
  | some c, some h =>
      (s.actors.filter fun k => (s.wordFault c i h k).isNone && s.guard k h.g && !s.guardPending k h && !s.interlocked k i && !s.resizeStall k
          && s.resizeBlock a k).foldl
        (fun s k => s.setCr (crewOf k) fun c => { c with resizing := if c.resizing.contains k then c.resizing else c.resizing ++ [k] }) s
  | _, _ => s

/-- CRESIZE, R291. -/
def execCresize (h : Head) (a : Spec) (s : State) : Host.Outcome State Fault Refusal :=
  .next ((s.noteResize (.cresize h a) a).issueEach (.cresize h a) (fun s k => s.resizeBlock a k) fun s k => s.resizeEff k (s.r32 k a).toNat)

/-! ### Barrier registers, R292 -/

/-- The barrier register a specifier names. -/
def barOf : Spec → Nat
  | .sp i => i.toNat - 0x30
  | _ => 0

def Crew.barrier (c : Crew) (n : Nat) : Bar := Tab.getD n {} c.bar

/-- One arrival. -/
def Bar.arrive (b : Bar) : Bar :=
  if b.arr + 1 ≥ b.expect then { b with arr := 0, phase := (b.phase + 1) % 2 ^ 16 } else { b with arr := b.arr + 1 }

/-- One arrival on a barrier register of a crew: a thread's, or an engine's completion (05 R137). -/
def State.arriveBar (s : State) (c n : Nat) : State :=
  s.setCr c fun x => { x with bar := Tab.put n (x.barrier n).arrive x.bar }

/-- Whether a phase has passed a token. -/
def phasePassed (phase tok : Nat) : Bool :=
  let d := (phase + 2 ^ 16 - tok % 2 ^ 16) % 2 ^ 16
  decide (1 ≤ d) && decide (d ≤ 32767)

/-- BNINIT, R292. -/
def execBninit (h : Head) (a b : Spec) (s : State) : Host.Outcome State Fault Refusal :=
  .next (s.issueEach (.bninit h a b) noBlock fun s k =>
    let c := (s.r32 k b).toNat
    if 1 ≤ c ∧ c ≤ 65535 then
      .done (s.setCr (crewOf k) fun x => { x with bar := Tab.put (barOf a) { x.barrier (barOf a) with expect := c, arr := 0 } x.bar })
    else .trap ⟨0x01, BitVec.ofNat 64 c, none, none⟩ s)

/-- BNARR, R292: a release at crew scope. -/
def execBnarr (h : Head) (d a : Spec) (s : State) : Host.Outcome State Fault Refusal :=
  .next (s.issueEach (.bnarr h d a) (fun s k => s.releasing k .crew) fun s k =>
    let c := crewOf k
    let tok := ((s.cr c).barrier (barOf a)).phase
    .done ((s.arriveBar c (barOf a)).regWrite k d 1 (BitVec.ofNat 64 tok)))

/-- The token BNWAIT uses: the one it noted when it first issued, if it waits anew (01 R28). -/
def State.barTok (s : State) (k n : Nat) (b : Spec) : Nat :=
  match (s.th k).wait with
  | .barrier n' t => if n' = n then t else (s.r32 k b).toNat
  | _ => (s.r32 k b).toNat

/-- BNWAIT, R292. -/
def execBnwait (h : Head) (a b : Spec) (s : State) : Host.Outcome State Fault Refusal :=
  .next (s.issueEach (.bnwait h a b) noBlock fun s k =>
    let tok := s.barTok k (barOf a) b
    if phasePassed ((s.crewTh k).barrier (barOf a)).phase tok then .done s
    else .hold (.barrier (barOf a) tok) s)

/-- BNTEST, R292. -/
def execBntest (h : Head) (d a b : Spec) (s : State) : Host.Outcome State Fault Refusal :=
  .next (s.issueEach (.bntest h d a b) noBlock fun s k =>
    let ph := ((s.crewTh k).barrier (barOf a)).phase
    let tok := (s.r32 k b).toNat
    .done (s.predWrite k d (if h.md.getLsbD 0 then ph % 2 != tok % 2 else phasePassed ph tok)))

/-! ### Memory barriers, R293 to R295 -/

/-- MBARR and MBWAIT name no request type, and RTF is checked for one (18 R381): .uc, as which a barrier is reached (DESIGN
CHOICE, log entry 59). -/
def mbarrNeed : Need := { r := true, w := true, rtype := .uc, whole := true, size := 16 }
/-- MBWAIT reads only: on a replicated page it looks at the nearest copy (04 R117). Its request type: log entry 59. -/
def mbwaitNeed : Need := { r := true, rtype := .uc, size := 16 }

/-- The arrival of a thread as an operation. -/
def State.mbarrOp (s : State) (k : Nat) (addr : Nat) (w : Where) (d : Spec) (c : Word) : Op :=
  { th := k, crew := crewOf k, core := s.coreTh k, kind := .mbarr (d != .imm 0), loc := w, va := BitVec.ofNat 64 addr
    size := 16, space := .g, rtype := .uc, ty := .b32, dst := if d != .imm 0 then some d.vIndex else none
    data := leBytes 4 c.toNat }

/-- Whether a local operation of a thread would have to wait: it is not enabled, or a remote read lease
puts it off (05 R143). -/
def State.opWaits (s : State) (o : Op) : Bool := !s.enabled s.seq o || (o.loc.line.bind s.leaseUntil).isSome

/-- What MBARR waits for: its release, and at a local barrier whatever goes before it there. -/
def State.mbarrWait (s : State) (k addr : Nat) (sc : Scope) (d : Spec) : Bool :=
  s.releasing k sc || s.remoteBusy k .g addr mbarrNeed ||
  (match (s.place k .g addr 16 mbarrNeed).1 with
    | .at_ (.mem a) => s.opWaits (s.mbarrOp k addr (.mem a) d 0)
    | _ => false)

/-- MBARR for a thread whose guard is true (R294). -/
def State.mbarrEff (s : State) (k addr : Nat) (d b : Spec) : Eff :=
  let c := s.r32 k b
  let gs := if d != .imm 0 then [d.vIndex] else []
  s.accessWith k gs fun s => s.accessEff k .g addr true mbarrNeed fun w s =>
    let o := s.mbarrOp k addr w d c
    match w with
    | .remote _ _ => s.beginAccess gs o
    | _ =>
        let r := s.doWrite o
        .done (r.1.regWrite k d 1 (BitVec.ofNat 64 (leNat ((r.2.drop 8).take 4))))

/-- The line of a memory barrier, where it lies in this device's memory; or the table's that its walk waits for. -/
def State.mbLines (s : State) (k addr : Nat) (n : Need) : List Nat :=
  match (s.place k .g addr 16 n).1 with
  | .at_ w => w.line.toList
  | .busy l => [l]
  | _ => []

/-- MBARR, R294. -/
def execMbarr (h : Head) (d a b : Spec) (m : MemF) (s : State) : Host.Outcome State Fault Refusal :=
  .next ((s.knocks (.mbarr h d a b m) fun s k => s.mbLines k (s.effAddr k m a none) mbarrNeed).issueEach (.mbarr h d a b m)
    (fun s k => s.mbarrWait k (s.effAddr k m a none) m.scope d)
    fun s k => s.mbarrEff k (s.effAddr k m a none) d b)

/-- Whether a memory barrier's phase has passed a token (R295). -/
def mbPassed (phase tok : Nat) : Bool :=
  let d := (phase + 2 ^ 32 - tok % 2 ^ 32) % 2 ^ 32
  decide (1 ≤ d) && decide (d ≤ 2 ^ 31 - 1)

/-- PHASE of a memory barrier's bytes. -/
def mbPhase (bs : List Byte) : Nat := leNat ((bs.drop 8).take 4)

/-- HINT of a memory barrier changed (R293, R295). -/
def State.hint (s : State) (pa d : Nat) : State := s.deviceAdd (pa + 12) d

/-- What a waiter more and a waiter less add to HINT. -/
def hintUp : Nat := 1
def hintDown : Nat := 2 ^ 32 - 1

/-- The same in every copy of a replicated page that has memory (04 R117). -/
def State.hintAll (s : State) (pas : List Nat) (d : Nat) : State := (pas.filter s.paOk).foldl (fun s a => s.hint a d) s

/-- A crew subscribed to a barrier, once (R295); of a replicated one all the copies are kept. -/
def State.subscribe (s : State) (c : Nat) (pas : List Nat) : State :=
  let pa := pas.headD 0
  if (s.cr c).subs.contains pa then s
  else (s.hintAll pas hintUp).setCr c fun x => { x with subs := x.subs ++ [pa] }

/-- A waiter of a crew returned: with the last one HINT falls (R295). -/
def State.unsubscribe (s : State) (k : Nat) (pas : List Nat) : State :=
  let pa := pas.headD 0
  let c := crewOf k
  let more := (s.crewThreads c).any fun j => j != k && (match (s.th j).wait with
    | .mbar p none _ => p == pa
    | _ => false)
  if (s.cr c).subs.contains pa && !more then
    (s.hintAll pas hintDown).setCr c fun x => { x with subs := x.subs.filter (· != pa) }
  else s

/-- The token MBWAIT uses: the noted one where it waits anew (01 R28). -/
def State.mbTok (s : State) (k : Nat) (b : Spec) : Nat :=
  match (s.th k).wait with
  | .mbar _ _ t => t
  | _ => (s.r32 k b).toNat

/-- Whether a barrier's bytes have a write still to come that the thread must see: its own, or one in its crew's L1 (05 R124,
R128). -/
def State.mbPending (s : State) (k : Nat) (w : Where) : Bool :=
  s.ops.any fun (_, p) => p.kind.writes && (p.th == k || (p.crew == crewOf k && p.inView)) && overlaps p.loc p.size w 16

/-- What MBWAIT waits for before it looks: the merges its acquire needs, and accesses to the object that
go before it. -/
def State.mbwaitBlock (s : State) (k addr : Nat) (sc : Scope) : Bool :=
  s.merging k sc ||
  (match (s.place k .g addr 16 mbwaitNeed).1 with
    | .at_ (.mem a) => !s.enabled s.seq { s.mbarrOp k addr (.mem a) (.imm 0) 0 with kind := .load } || s.mbPending k (.mem a)
    | .at_ (.repl l) => s.mbPending k (.repl l)
    | _ => false)

/-- The request of a remote MBWAIT of a thread, with the last answer it has had (20 R403). -/
def State.mbAsked (s : State) (k dev pa : Nat) : Option (Nat × Option (List Byte)) :=
  s.ops.findSome? fun (i, o) => if o.th == k && o.kind == .load && o.loc == .remote dev pa && o.dst.isNone then some (i, o.early) else none

/-- A thread waits at a memory barrier of this device: it looks, subscribes where the phase has not passed, and waits. -/
def State.mbLook (s : State) (k : Nat) (pas : List Nat) (tok : Nat) (sc : Scope) : Eff :=
  let pa := pas.headD 0
  if mbPassed (mbPhase (s.coh pa 16)) tok then .done (((s.unsubscribe k pas).refreshSi (s.coreTh k) none pa (s.coh pa 16)).acquire (s.coreTh k) sc)
  else .hold (.mbar pa none tok) (s.subscribe (crewOf k) pas)

/-- MBWAIT for a thread whose guard is true (R295). A remote one asks the home, which answers at once and again when the
phase has passed (log entry 13): the wait itself stands under no time limit. Host memory has no home slice here: cause 0x11,
as for an atomic (20 R419, log entry 50). -/
def State.mbwaitEff (s : State) (k addr : Nat) (b : Spec) (sc : Scope) : Eff :=
  let tok := s.mbTok k b
  s.accessEff k .g addr true mbwaitNeed fun w s =>
    match w with
    | .mem pa => s.mbLook k [pa] tok sc
    | .repl pas => s.mbLook k pas tok sc
    | .remote dev pa =>
        -- a wait that begins anew asks anew
        let old : List Nat := match (s.th k).wait with
          | .mbar _ _ _ => []
          | _ => ((s.mbAsked k dev pa).map (·.1)).toList
        let s := old.foldl State.dropOp s
        (match s.mbAsked k dev pa with
          | some (i, some bs) =>
              if mbPassed (mbPhase bs) tok then .done ((s.dropOp i).acquire (s.coreTh k) sc)
              else .hold (.mbar pa (some dev) tok) (s.setOp i fun o => { o with early := none })
          | some (_, none) => .hold (.mbar pa (some dev) tok) s
          | none =>
              let id := s.seq
              let o := { s.mbarrOp k addr w (.imm 0) 0 with kind := .load }
              let l := (s.crewTh k).launch
              let f := s.requestFlit l dev pa id 3 0x21 16 (leBytes 4 tok ++ leBytes 4 (crewOf k))
              let s := s.newOp o
              .hold (.mbar pa (some dev) tok)
                (State.send { s with remote := s.remote ++ [{ op := id, dev := dev, job := (s.la l).rcd.jobid, at_ := s.ns, gen := s.gen (.peer dev) }] } f))
    | _ => .trap ⟨0x11, BitVec.ofNat 64 addr, none, none⟩ s

/-- MBWAIT, R295. -/
def execMbwait (h : Head) (a b : Spec) (m : MemF) (s : State) : Host.Outcome State Fault Refusal :=
  .next ((s.knocks (.mbwait h a b m) fun s k => s.mbLines k (s.effAddr k m a none) mbwaitNeed).issueEach (.mbwait h a b m)
    (fun s k => s.mbwaitBlock k (s.effAddr k m a none) m.scope)
    fun s k => s.mbwaitEff k (s.effAddr k m a none) b m.scope)

end Sys2Proof.Machine
end

