-- ==== Sys2Proof/Machine/Lanes.lean ====
section
/-! DEFINITION. Cross-lane instructions (10 R244 to R256): the rendezvous, the convergence fault, and the
eight instructions over the contributing lanes of a row. -/

namespace Sys2Proof.Machine

/-! ### The rendezvous, R245 to R248 -/

/-- Cause 0x19 with its reason and mask (R247). -/
def convRaise (reason : Nat) (mask : Word) : Raise := ⟨0x19, BitVec.ofNat 64 (reason * 2 ^ 32 + mask.toNat), none, none⟩

/-- The rendezvous a waiting thread stands in: mask and repetition. -/
def Thread.meeting (t : Thread) : Option (Word × Nat) :=
  match t.status, t.wait with
  | .waiting, .rendezvous m i _ => some (m, i)
  | _, _ => none

/-- Threads of a row that wait at one instruction: the same address, the same repetition (R245). -/
def State.metAt (s : State) (r : Nat) (pc : DWord) (idx : Nat) : List Nat :=
  (s.rowThreads r).filter fun k => (s.th k).pc == pc && (match (s.th k).meeting with
    | some (_, i) => i == idx
    | none => false)

/-- Of those, the ones whose instruction names a mask. -/
def State.metWith (s : State) (r : Nat) (pc : DWord) (idx : Nat) (mask : Word) : List Nat :=
  (s.metAt r pc idx).filter fun k => (match (s.th k).meeting with
    | some (m, _) => m == mask
    | none => false)

/-- Named threads that have neither exited nor arrived. -/
def State.absentees (s : State) (r : Nat) (mask : Word) (here : List Nat) : List Nat :=
  ((maskList mask.toNat).map (laneKey r)).filter fun k => s.live k && !here.contains k

/-- The named threads a waiting thread waits for that wait at a cross-lane instruction themselves. -/
def State.waitsOn (s : State) (k : Nat) : List Nat :=
  match (s.th k).meeting with
  | none => []
  | some (m, i) =>
      (s.absentees (rowKey k) m (s.metWith (rowKey k) (s.th k).pc i m)).filter fun j => (s.th j).meeting.isSome

/-- What can be reached from a list of threads in at most so many steps. -/
def State.waitReach (s : State) : Nat → List Nat → List Nat
  | 0, l => l
  | n + 1, l => s.waitReach n (l ++ l.flatMap s.waitsOn).eraseDups

/-- Whether a thread lies on a cycle of waits (R247, reason 1): 32 lanes bound its length. -/
def State.onCycle (s : State) (k : Nat) : Bool := (s.waitReach 32 (s.waitsOn k)).contains k

/-- The reason for which a waiting thread takes the convergence fault, if any: a cycle, or a named thread
parked at PHASE. R247 does not rank the cases of a thread that is in two: a cycle goes before PHASE, as in `State.meet` reason 2
goes before reason 3 (DESIGN CHOICE, log entry 58). -/
def State.convReason (s : State) (k : Nat) : Option (Nat × Word) :=
  match (s.th k).meeting with
  | none => none
  | some (m, i) =>
      if s.onCycle k then some (1, m)
      else if (s.absentees (rowKey k) m (s.metWith (rowKey k) (s.th k).pc i m)).any fun j => (s.th j).status == .phase then
        some (4, m)
      else none

/-- Convergence faults of the waiting threads of a row, all by one reading of the state (R247). -/
def State.converge (s : State) (r : Nat) : State :=
  let bad := (s.rowThreads r).filterMap fun k => (s.convReason k).map fun x => (k, x)
  bad.foldl (fun s (k, x) => s.trap k (convRaise x.1 x.2)) s

/-- What a waiter's registers need before its instruction takes effect: recipes regenerated, spilled
registers reloaded (R248); a replayed load that waits leaves its recipe as it stands. -/
def State.readyLane (s : State) (i : Instr) (cover : Word) (k : Nat) : Nat → State
  | 0 => s
  | n + 1 =>
      match s.regenFor k i cover with
      | some g => (s.regenNow (rowKey k) g).readyLane i cover k n
      | none => s.touch k i

/-- The special registers a word reads of a thread, as they stand when it arrives: those it noted where it waits there
already (R248). -/
def State.arrivalVals (s : State) (k : Nat) (i : Instr) (mask : Word) (idx : Nat) : List (Nat × DWord) :=
  let now : List (Nat × DWord) := i.uses.filterMap fun u => match u.role, u.sp with
    | .src _, .sp n => some (n.toNat, s.spRead k n.toNat)
    | _, _ => none
  match (s.th k).wait with
  | .rendezvous m j vals => if m = mask ∧ j = idx then vals else now
  | _ => now

/-- What a member's operands are: as at its arrival (R248). -/
def State.rdMet (s : State) (k : Nat) : Rd :=
  let r := s.rd k
  match (s.th k).wait with
  | .rendezvous _ _ vals =>
      { r with reg := fun sp w => match sp with
          | .sp n => (match Tab.find n.toNat vals with
              | some v => if w = 1 then (v.setWidth 32).setWidth 64 else v
              | none => r.reg sp w)
          | _ => r.reg sp w }
  | _ => r

/-- A cross-lane word for the members of one row in one repetition: reason 2 first, which takes its threads out of reason 3
(log entry 58), then reason 3, then either the effect on all who have arrived, or a wait (R245 to R247). Reason 3 falls on everybody there whose mask is one of two
masks of which a thread of one names a thread of the other. `fx` has the members' operands, the row and its contributing
lanes. -/
def State.meet (s : State) (i : Instr) (h : Head) (mask : Word) (fx : (Nat → Rd) → State → Nat → List Nat → State)
    (r idx : Nat) (ks : List Nat) : State :=
  match ks with
  | [] => s
  | k0 :: _ =>
      let pc := (s.th k0).pc
      let out := ks.filter fun k => !mask.getLsbD (laneOf k)
      let s := out.foldl (fun s k => s.trap k (convRaise 2 mask)) s
      let ks := ks.filter fun k => mask.getLsbD (laneOf k)
      if ks.isEmpty then s
      else
        let met := s.metAt r pc idx
        let maskOf (k : Nat) : Word := match (s.th k).meeting with
          | some (m, _) => m
          | none => mask
        let same := s.metWith r pc idx mask
        let here := ks ++ same
        let clash := (met.filter fun k => maskOf k != mask && (mask.getLsbD (laneOf k) || here.any fun j => (maskOf k).getLsbD (laneOf j))).map maskOf
        let other := met.filter fun k => clash.contains (maskOf k)
        if !other.isEmpty then
          (here ++ other).foldl (fun s k => s.trap k (convRaise 3 (maskOf k))) s
        else
          let all := here
          let hold (s : State) : State :=
            ks.foldl (fun s k => State.applyEff k h.h.fin (.hold (.rendezvous mask idx (s.arrivalVals k i mask idx)) s)) s
          if !(s.absentees r mask all).isEmpty then hold s
          else
            let con := (all.filter fun k => s.guard k h.g).map laneOf
            let lanes := (List.range 32).filter con.contains
            let cover : Word := if i.partialWrite then 0 else BitVec.ofNat 32 (listMask lanes)
            let s := if same.isEmpty then s else s.keep (s.partRow r) all i
            let s := same.foldl (fun s k => if s.guard k h.g then s.readyLane i cover k 64 else s) s
            let slow := same.any fun k => s.guard k h.g && (s.regenFor k i cover).isSome
            let lost := same.filterMap fun k => if s.guard k h.g then (s.regenFault k i).map fun f => (k, f) else none
            -- a poisoned lane is read by its own thread first (22 R434)
            let poor := same.filter fun k => s.guard k h.g && !(lost.any fun e => e.1 == k) && s.readsBad k i
            if !(lost.isEmpty && poor.isEmpty) then
              let s := lost.foldl (fun s (k, f) => (s.clearRegenFault k f.1).trap k f.2) s
              hold (poor.foldl (fun s k => s.trap k badRead) s)
            -- the reader stalls until the recipe is regenerated (02 R61, R65)
            else if slow then hold s
            else
              let s := fx s.rdMet s r lanes
              let s := ks.foldl (fun s k => State.applyEff k h.h.fin (.done s)) s
              same.foldl (fun s k => s.completeWaiter k h.h.fin h.h.yld) s

/-- A cross-lane instruction issued: each row and repetition by itself, then the convergence check. -/
def State.issueLanes (s : State) (i : Instr) (mask : Word) (fx : (Nat → Rd) → State → Nat → List Nat → State) : State :=
  s.issueWith i noBlock fun h ks s =>
    let groups := (ks.map fun k => (rowKey k, (s.th k).repIdx)).eraseDups
    let s := groups.foldl (fun s g =>
      s.meet i h mask fx g.1 g.2 (ks.filter fun k => rowKey k == g.1 && (s.th k).repIdx == g.2)) s
    (groups.map (·.1)).eraseDups.foldl State.converge s

/-! ### Results per lane -/

/-- A value of a register pair or register, and a predicate, written by a thread. -/
def State.putLane (s : State) (k : Nat) (d : Spec) (w : Nat) (v : DWord) (pq : Option (BitVec 4 × Bool)) : State :=
  let s := s.regWrite k d w v
  match pq with
  | some (md, b) => s.setTh k fun t => t.setPred (md.extractLsb' 0 3).toNat b
  | none => s

/-- LANEX: the source lane of a lane, where it is valid (R249). -/
def lanexFrom (fn : Nat) (mask : Word) (l b : Nat) : Option Nat :=
  match fn with
  | 0 => some (b % 32)
  | 1 => if b ≤ l then some (l - b) else none
  | 2 => if l + b ≤ 31 then some (l + b) else none
  | 3 => some (l ^^^ (b % 32))
  | _ =>
      let named := maskList mask.toNat
      let i := (named.filter (· < l)).length
      named[(i + b) % named.length]?

/-- LANEX, R249. -/
def lanexFx (fn : Nat) (h : Head) (d a b : Spec) (mask : Word) (rd : Nat → Rd) (s0 : State) (r : Nat) (con : List Nat) : State :=
  con.foldl (fun s l =>
    let k := laneKey r l
    let src := match lanexFrom fn mask l ((rd k).reg b 1).toNat with
      | some x => if con.contains x then some x else none
      | none => none
    s.putLane k d h.ty.rw ((rd (laneKey r (src.getD l))).reg a h.ty.rw) (some (h.md, src.isSome))) s0

/-- The named lanes whose condition is true (R250). -/
def trueLanes (a : Spec) (rd : Nat → Rd) (r : Nat) (con : List Nat) : List Nat :=
  con.filter fun l => ((rd (laneKey r l)).reg a 1).setWidth 32 != (0 : Word)

/-- POLL with a truth as its result (R250): into a predicate or a register. -/
def pollTruthFx (d : Spec) (b : List Nat → Nat → Bool) (a : Spec) (mask : Word) (rd : Nat → Rd) (s0 : State) (r : Nat) (con : List Nat) : State :=
  let x := b (trueLanes a rd r con) (maskList mask.toNat).length
  con.foldl (fun s l =>
    let k := laneKey r l
    match d with
    | .sp _ => s.predWrite k d x
    | _ => s.regWrite k d 1 (if x then 1 else 0)) s0

/-- POLL with a word as its result. -/
def pollWordFx (d : Spec) (f : List Nat → Nat) (a : Spec) (rd : Nat → Rd) (s0 : State) (r : Nat) (con : List Nat) : State :=
  con.foldl (fun s l => s.regWrite (laneKey r l) d 1 (BitVec.ofNat 64 (f (trueLanes a rd r con)))) s0

/-- Lanes whose key equals a lane's. -/
def peersOf (w : Nat) (a : Spec) (rd : Nat → Rd) (r : Nat) (con : List Nat) (l : Nat) : List Nat :=
  con.filter fun j => (rd (laneKey r j)).reg a w == (rd (laneKey r l)).reg a w

/-- PEERS.group, R251. -/
def peersGroupFx (h : Head) (d a : Spec) (rd : Nat → Rd) (s0 : State) (r : Nat) (con : List Nat) : State :=
  con.foldl (fun s l =>
    let p := peersOf h.ty.rw a rd r con l
    s.putLane (laneKey r l) d 1 (BitVec.ofNat 64 (listMask p)) (some (h.md, decide (p.length > 1)))) s0

/-- PEERS.whole, R251. -/
def peersWholeFx (h : Head) (d a : Spec) (rd : Nat → Rd) (s0 : State) (r : Nat) (con : List Nat) : State :=
  let one := con.all fun l => (peersOf h.ty.rw a rd r con l).length == con.length
  con.foldl (fun s l => s.putLane (laneKey r l) d 1 (BitVec.ofNat 64 (if one then listMask con else 0)) (some (h.md, one))) s0

/-! ### Combinations, R252 to R254 -/

/-- One step of a combination, with its flags: 0 .add, 1 .min, 2 .max, 3 .and, 4 .or, 5 .xor. -/
def redStep (op : Nat) (t : VType) (x y : DWord) : DWord × Fp.Flags :=
  match op with
  | 3 => (x &&& y, 0)
  | 4 => (x ||| y, 0)
  | 5 => (x ^^^ y, 0)
  | _ =>
      if t.isFloat then
        let r := if op = 0 then Fp.roundTo t.fmt .rn false (Fp.add false (Fp.decode t.fmt (fget t x)) (Fp.decode t.fmt (fget t y)))
          else Fp.minMax t.fmt (op == 2) false (fget t x) (fget t y)
        (fput t r.1, r.2)
      else
        let a := intOf t x
        let b := intOf t y
        (intPut t (if op = 0 then a + b else if op = 1 then intMin a b else intMax a b), 0)

/-- A single value: a NaN made canonical (R254). -/
def redOne (op : Nat) (t : VType) (x : DWord) : DWord × Fp.Flags :=
  if t.isFloat && decide (op ≤ 2) then
    let v := Fp.decode t.fmt (fget t x)
    if v.isNaN then (fput t ((t.fmt.nan).getD 0), Fp.sigFl v) else (x, 0)
  else (x, 0)

/-- The identity for an empty set (R254). -/
def redIdentity (op : Nat) (t : VType) : DWord :=
  let f := t.fmt
  match op with
  | 0 => if t.isFloat then fput t f.signBit else 0
  | 1 => if t.isFloat then fput t f.inf else intPut t (if t.signed then 2 ^ (t.bits - 1) - 1 else 2 ^ t.bits - 1)
  | 2 => if t.isFloat then fput t (f.inf + f.signBit) else intPut t (if t.signed then -(2 ^ (t.bits - 1) : Int) else 0)
  | 3 => intPut t (-1)
  | _ => 0

/-- The combination of values in increasing lane order. -/
def combine (op : Nat) (t : VType) : List DWord → DWord × Fp.Flags
  | [] => (redIdentity op t, 0)
  | [x] => redOne op t x
  | x :: rest => rest.foldl (fun acc y => let r := redStep op t acc.1 y; (r.1, acc.2 ||| r.2)) (x, 0)

/-- MRED, R252: an immediate value is converted to the type (02 R49). -/
def mredFx (op : Nat) (h : Head) (d a b : Spec) (rd : Nat → Rd) (s0 : State) (r : Nat) (con : List Nat) : State :=
  let group (l : Nat) : List Nat := con.filter fun j => ((rd (laneKey r j)).reg a 1).setWidth 32 == (((rd (laneKey r l)).reg a 1).setWidth 32 : Word)
  let leads (l : Nat) : Bool := (group l).head? == some l
  let leaders := con.filter leads
  con.foldl (fun s l =>
    let k := laneKey r l
    let s := if leads l then
        let c := combine op h.ty ((group l).map fun j => (rd (laneKey r j)).src h.ty b)
        (s.setFlags k c.2).regWrite k d h.ty.rw c.1
      else s
    s.putLane k (.v (BitVec.ofNat 8 (d.vIndex + h.ty.rw))) 1 (BitVec.ofNat 64 (listMask leaders)) (some (h.md, leads l))) s0

/-- SCAN and REDX, R253: `pick l` are the lanes combined for lane l; an immediate is converted to the type (02 R49). -/
def combineFx (op : Nat) (h : Head) (d a : Spec) (pick : Nat → Nat → Bool) (rd : Nat → Rd) (s0 : State) (r : Nat) (con : List Nat) : State :=
  con.foldl (fun s l =>
    let c := combine op h.ty ((con.filter (pick l)).map fun j => (rd (laneKey r j)).src h.ty a)
    (s.setFlags (laneKey r l) c.2).regWrite (laneKey r l) d h.ty.rw c.1) s0

/-- The lanes SCAN combines for a lane: those up to it, or below it under .excl. -/
def scanPick (h : Head) (l j : Nat) : Bool := if h.md.getLsbD 3 then decide (j < l) else decide (j ≤ l)

/-! ### HIST and HMRG, R255, R256 -/

/-- HIST, R255. -/
def histFx (h : Head) (d a : Spec) (n : Nat) (rd : Nat → Rd) (s0 : State) (r : Nat) (con : List Nat) : State :=
  let bin (l : Nat) : Nat := (((rd (laneKey r l)).reg a 1).setWidth 32).toNat
  let counts (l : Nat) : Bool := decide (bin l < 32 * n) && con.contains (bin l % 32)
  let s := (con.filter counts).foldl (fun s l =>
    let k := laneKey r (bin l % 32)
    let g := d.vIndex + bin l / 32
    s.writeV k g ((s.th k).vget g + 1)) s0
  con.foldl (fun s l => s.setTh (laneKey r l) fun t => t.setPred (h.md.extractLsb' 0 3).toNat (counts l)) s

/-- HMRG, R256. -/
def hmrgFx (d a : Spec) (n : Nat) (_rd : Nat → Rd) (s0 : State) (r : Nat) (con : List Nat) : State :=
  con.foldl (fun s l =>
    s.writeVs (laneKey r l) d.vIndex ((List.range n).map fun i =>
      con.foldl (fun acc j => acc + (s0.th (laneKey r j)).vget (a.vIndex + i)) 0)) s0

/-! ### The instructions -/

/-- LANEX.pick, R249. -/
def execLanexPick (h : Head) (d : Spec) (a : Spec) (b : Spec) (mask : BitVec 32) (s : State) : Host.Outcome State Fault Refusal :=
  .next (s.issueLanes (.lanexPick h d a b mask) mask (lanexFx 0 h d a b mask))
/-- LANEX.back, R249. -/
def execLanexBack (h : Head) (d : Spec) (a : Spec) (b : Spec) (mask : BitVec 32) (s : State) : Host.Outcome State Fault Refusal :=
  .next (s.issueLanes (.lanexBack h d a b mask) mask (lanexFx 1 h d a b mask))
/-- LANEX.fwd, R249. -/
def execLanexFwd (h : Head) (d : Spec) (a : Spec) (b : Spec) (mask : BitVec 32) (s : State) : Host.Outcome State Fault Refusal :=
  .next (s.issueLanes (.lanexFwd h d a b mask) mask (lanexFx 2 h d a b mask))
/-- LANEX.flip, R249. -/
def execLanexFlip (h : Head) (d : Spec) (a : Spec) (b : Spec) (mask : BitVec 32) (s : State) : Host.Outcome State Fault Refusal :=
  .next (s.issueLanes (.lanexFlip h d a b mask) mask (lanexFx 3 h d a b mask))
/-- LANEX.rot, R249. -/
def execLanexRot (h : Head) (d : Spec) (a : Spec) (b : Spec) (mask : BitVec 32) (s : State) : Host.Outcome State Fault Refusal :=
  .next (s.issueLanes (.lanexRot h d a b mask) mask (lanexFx 4 h d a b mask))
/-- POLL.all, R250. -/
def execPollAll (h : Head) (d : Spec) (a : Spec) (mask : BitVec 32) (s : State) : Host.Outcome State Fault Refusal :=
  .next (s.issueLanes (.pollAll h d a mask) mask (pollTruthFx d (fun t n => t.length == n) a mask))
/-- POLL.any, R250. -/
def execPollAny (h : Head) (d : Spec) (a : Spec) (mask : BitVec 32) (s : State) : Host.Outcome State Fault Refusal :=
  .next (s.issueLanes (.pollAny h d a mask) mask (pollTruthFx d (fun t _ => !t.isEmpty) a mask))
/-- POLL.mask, R250. -/
def execPollMask (h : Head) (d : Spec) (a : Spec) (mask : BitVec 32) (s : State) : Host.Outcome State Fault Refusal :=
  .next (s.issueLanes (.pollMask h d a mask) mask (pollWordFx d listMask a))
/-- POLL.same, R250. -/
def execPollSame (h : Head) (d : Spec) (a : Spec) (mask : BitVec 32) (s : State) : Host.Outcome State Fault Refusal :=
  .next (s.issueLanes (.pollSame h d a mask) mask (pollTruthFx d (fun t n => t.isEmpty || t.length == n) a mask))
/-- POLL.count, R250. -/
def execPollCount (h : Head) (d : Spec) (a : Spec) (mask : BitVec 32) (s : State) : Host.Outcome State Fault Refusal :=
  .next (s.issueLanes (.pollCount h d a mask) mask (pollWordFx d List.length a))
/-- PEERS.group, R251. -/
def execPeersGroup (h : Head) (d : Spec) (a : Spec) (mask : BitVec 32) (s : State) : Host.Outcome State Fault Refusal :=
  .next (s.issueLanes (.peersGroup h d a mask) mask (peersGroupFx h d a))
/-- PEERS.whole, R251. -/
def execPeersWhole (h : Head) (d : Spec) (a : Spec) (mask : BitVec 32) (s : State) : Host.Outcome State Fault Refusal :=
  .next (s.issueLanes (.peersWhole h d a mask) mask (peersWholeFx h d a))
/-- MRED.add, R252. -/
def execMredAdd (h : Head) (d : Spec) (a : Spec) (b : Spec) (mask : BitVec 32) (s : State) : Host.Outcome State Fault Refusal :=
  .next (s.issueLanes (.mredAdd h d a b mask) mask (mredFx 0 h d a b))
/-- MRED.min, R252. -/
def execMredMin (h : Head) (d : Spec) (a : Spec) (b : Spec) (mask : BitVec 32) (s : State) : Host.Outcome State Fault Refusal :=
  .next (s.issueLanes (.mredMin h d a b mask) mask (mredFx 1 h d a b))
/-- MRED.max, R252. -/
def execMredMax (h : Head) (d : Spec) (a : Spec) (b : Spec) (mask : BitVec 32) (s : State) : Host.Outcome State Fault Refusal :=
  .next (s.issueLanes (.mredMax h d a b mask) mask (mredFx 2 h d a b))
/-- MRED.and, R252. -/
def execMredAnd (h : Head) (d : Spec) (a : Spec) (b : Spec) (mask : BitVec 32) (s : State) : Host.Outcome State Fault Refusal :=
  .next (s.issueLanes (.mredAnd h d a b mask) mask (mredFx 3 h d a b))
/-- MRED.or, R252. -/
def execMredOr (h : Head) (d : Spec) (a : Spec) (b : Spec) (mask : BitVec 32) (s : State) : Host.Outcome State Fault Refusal :=
  .next (s.issueLanes (.mredOr h d a b mask) mask (mredFx 4 h d a b))
/-- MRED.xor, R252. -/
def execMredXor (h : Head) (d : Spec) (a : Spec) (b : Spec) (mask : BitVec 32) (s : State) : Host.Outcome State Fault Refusal :=
  .next (s.issueLanes (.mredXor h d a b mask) mask (mredFx 5 h d a b))
/-- SCAN.add, R253. -/
def execScanAdd (h : Head) (d : Spec) (a : Spec) (mask : BitVec 32) (s : State) : Host.Outcome State Fault Refusal :=
  .next (s.issueLanes (.scanAdd h d a mask) mask (combineFx 0 h d a (scanPick h)))
/-- SCAN.min, R253. -/
def execScanMin (h : Head) (d : Spec) (a : Spec) (mask : BitVec 32) (s : State) : Host.Outcome State Fault Refusal :=
  .next (s.issueLanes (.scanMin h d a mask) mask (combineFx 1 h d a (scanPick h)))
/-- SCAN.max, R253. -/
def execScanMax (h : Head) (d : Spec) (a : Spec) (mask : BitVec 32) (s : State) : Host.Outcome State Fault Refusal :=
  .next (s.issueLanes (.scanMax h d a mask) mask (combineFx 2 h d a (scanPick h)))
/-- SCAN.and, R253. -/
def execScanAnd (h : Head) (d : Spec) (a : Spec) (mask : BitVec 32) (s : State) : Host.Outcome State Fault Refusal :=
  .next (s.issueLanes (.scanAnd h d a mask) mask (combineFx 3 h d a (scanPick h)))
/-- SCAN.or, R253. -/
def execScanOr (h : Head) (d : Spec) (a : Spec) (mask : BitVec 32) (s : State) : Host.Outcome State Fault Refusal :=
  .next (s.issueLanes (.scanOr h d a mask) mask (combineFx 4 h d a (scanPick h)))
/-- SCAN.xor, R253. -/
def execScanXor (h : Head) (d : Spec) (a : Spec) (mask : BitVec 32) (s : State) : Host.Outcome State Fault Refusal :=
  .next (s.issueLanes (.scanXor h d a mask) mask (combineFx 5 h d a (scanPick h)))
/-- REDX.add, R253. -/
def execRedxAdd (h : Head) (d : Spec) (a : Spec) (mask : BitVec 32) (s : State) : Host.Outcome State Fault Refusal :=
  .next (s.issueLanes (.redxAdd h d a mask) mask (combineFx 0 h d a fun _ _ => true))
/-- REDX.min, R253. -/
def execRedxMin (h : Head) (d : Spec) (a : Spec) (mask : BitVec 32) (s : State) : Host.Outcome State Fault Refusal :=
  .next (s.issueLanes (.redxMin h d a mask) mask (combineFx 1 h d a fun _ _ => true))
/-- REDX.max, R253. -/
def execRedxMax (h : Head) (d : Spec) (a : Spec) (mask : BitVec 32) (s : State) : Host.Outcome State Fault Refusal :=
  .next (s.issueLanes (.redxMax h d a mask) mask (combineFx 2 h d a fun _ _ => true))
/-- REDX.and, R253. -/
def execRedxAnd (h : Head) (d : Spec) (a : Spec) (mask : BitVec 32) (s : State) : Host.Outcome State Fault Refusal :=
  .next (s.issueLanes (.redxAnd h d a mask) mask (combineFx 3 h d a fun _ _ => true))
/-- REDX.or, R253. -/
def execRedxOr (h : Head) (d : Spec) (a : Spec) (mask : BitVec 32) (s : State) : Host.Outcome State Fault Refusal :=
  .next (s.issueLanes (.redxOr h d a mask) mask (combineFx 4 h d a fun _ _ => true))
/-- REDX.xor, R253. -/
def execRedxXor (h : Head) (d : Spec) (a : Spec) (mask : BitVec 32) (s : State) : Host.Outcome State Fault Refusal :=
  .next (s.issueLanes (.redxXor h d a mask) mask (combineFx 5 h d a fun _ _ => true))
/-- HIST, R255. -/
def execHist (h : Head) (d : Spec) (a : Spec) (b : Spec) (mask : BitVec 32) (s : State) : Host.Outcome State Fault Refusal :=
  .next (s.issueLanes (.hist h d a b mask) mask (histFx h d a b.immNat))
/-- HMRG, R256. -/
def execHmrg (h : Head) (d : Spec) (a : Spec) (b : Spec) (mask : BitVec 32) (s : State) : Host.Outcome State Fault Refusal :=
  .next (s.issueLanes (.hmrg h d a b mask) mask (hmrgFx d a b.immNat))

end Sys2Proof.Machine
end

