-- ==== Sys2Proof/Machine/Affine.lean ====
section
/-! DEFINITION. Affine registers (02 R74 to R76, 03 R102, R103, 10 R262 to R270, 15 R332): exact values as
fractions, rounding with the error carried in the radius, minting, and the instructions. -/

namespace Sys2Proof

/-! ### Exact fractions -/

/-- num ÷ den, den positive. -/
structure Q where
  num : Int
  den : Nat
  deriving DecidableEq, Repr

namespace Q

def zero : Q := ⟨0, 1⟩
/-- Two fractions over one denominator: the greater where it is a multiple of the other. -/
def past (a b : Q) : Int × Int × Nat :=
  if b.den % a.den = 0 then (a.num * (b.den / a.den : Nat), b.num, b.den)
  else if a.den % b.den = 0 then (a.num, b.num * (a.den / b.den : Nat), a.den)
  else (a.num * b.den, b.num * a.den, a.den * b.den)
def add (a b : Q) : Q := let r := past a b; ⟨r.1 + r.2.1, r.2.2⟩
def neg (a : Q) : Q := ⟨-a.num, a.den⟩
def sub (a b : Q) : Q := add a (neg b)
def mul (a b : Q) : Q := ⟨a.num * b.num, a.den * b.den⟩
def abs (a : Q) : Q := ⟨a.num.natAbs, a.den⟩
def half (a : Q) : Q := ⟨a.num, 2 * a.den⟩
/-- 1 ÷ a for a ≠ 0. -/
def inv (a : Q) : Q := if a.num < 0 then ⟨-(a.den : Int), a.num.natAbs⟩ else ⟨a.den, a.num.natAbs⟩
def isZero (a : Q) : Bool := a.num == 0
def lt (a b : Q) : Bool := let r := past a b; decide (r.1 < r.2.1)
def le (a b : Q) : Bool := !lt b a
def sum (l : List Q) : Q := l.foldl add zero

/-- The fraction of a finite value. -/
def ofVal : Fp.Val → Option Q
  | .fin s m e => let f := Fp.frac m e; some ⟨if s then -(f.1 : Int) else f.1, f.2⟩
  | _ => none

/-- RoundTo a format: the encoding. -/
def round (f : Fp.Fmt) (mode : Fp.Rnd) (a : Q) : Nat := (Fp.roundTo f mode false ⟨.num (decide (a.num < 0)) a.num.natAbs a.den, 0⟩).1

/-- RoundTo a format: the encoding with its value, none where it overflows. -/
def roundFin (f : Fp.Fmt) (mode : Fp.Rnd) (a : Q) : Option (Nat × Q) :=
  let b := a.round f mode
  (ofVal (Fp.decode f b)).map fun v => (b, v)

/-- The lower bound c − W in f64: a difference that is exactly zero is −0 in RD (03 R90). -/
def roundDown (a : Q) : Nat := if a.isZero then Fp.f64.signBit else a.round Fp.f64 .rd

end Q

/-! ### Affine values, 02 R74, 10 R263 -/

/-- Centre with its bits, radius, coefficients by symbol in increasing id, and the bits of the coefficients whose id
occurs once. -/
structure Aff where
  cBits : Nat
  c : Q
  r : Q
  q : List (Nat × Q)
  bits : List (Nat × Nat)
  deriving Repr

/-- Like terms added (R74). -/
def addTerm (q : List (Nat × Q)) (s : Nat) (v : Q) : List (Nat × Q) := Tab.put s ((Tab.getD s Q.zero q).add v) q

/-- An operand read from its sixteen words; none where it is non-finite (03 R103). -/
def Aff.ofWords (w : Nat → Word) : Option Aff :=
  let c := (w 0).toNat + 2 ^ 32 * (w 1).toNat
  let r := (w 2).toNat + 2 ^ 32 * ((w 3).toNat % 2 ^ 31)
  let terms := (List.range 6).filterMap fun i =>
    let s := (w (4 + 2 * i)).toNat % 2 ^ 16
    if s = 0 then none else some (s, (w (5 + 2 * i)).toNat, Q.ofVal (Fp.decode Fp.f32 (w (5 + 2 * i)).toNat))
  match Q.ofVal (Fp.decode Fp.f64 c), Q.ofVal (Fp.decode Fp.f64 r) with
  | some cv, some rv =>
      if terms.all fun t => t.2.2.isSome then
        some ⟨c, cv, rv, terms.foldl (fun q t => addTerm q t.1 (t.2.2.getD Q.zero)) [],
          (terms.filter fun t => (terms.filter fun u => u.1 == t.1).length == 1).map fun t => (t.1, t.2.1)⟩
      else none
  | _, _ => none

/-- W, exact (10 R263). -/
def Aff.width (a : Aff) : Q := a.r.add (Q.sum (a.q.map fun t => t.2.abs))

/-! ### Rounding a result, 03 R102, R103, 10 R267 -/

/-- An exact result. `pre` are the radii before the rounding errors, `fresh` the coefficient of a
minted symbol, `post` what joins the radius last. -/
structure AffExact where
  c : Q
  /-- the centre's bits where it is copied -/
  cBits : Option Nat := none
  q : List (Nat × Q)
  /-- terms stand though their coefficient is 0: a result of R268 or R270, which R102 step 2 does not round -/
  keepZero : Bool := false
  /-- the bits of coefficients that are copied -/
  bits : List (Nat × Nat) := []
  pre : List Q
  fresh : Option (Nat × Nat) := none
  post : List Q := []

/-- Insertion by magnitude of the rounded coefficient, greatest first, a tie to the lower id. -/
def insertTerm (x : Nat × Q × Q × Nat) : List (Nat × Q × Q × Nat) → List (Nat × Q × Q × Nat)
  | [] => [x]
  | y :: t => if Q.lt y.2.2.1.abs x.2.2.1.abs then x :: y :: t else y :: insertTerm x t

/-- RU additions in FP64 from 0, each item first rounded upward; none where it overflows. -/
def sumUp : List Q → Option Q
  | l => l.foldl (fun acc x =>
      match acc, Q.roundFin Fp.f64 .ru x.abs with
      | some a, some u => (Q.roundFin Fp.f64 .ru (a.add u.2)).map (·.2)
      | _, _ => none) (some Q.zero)

/-- The words of a NaN result (R103). -/
def affNaN : List Word := [0, 0x7FF80000, 0, 0x7FF00000] ++ List.replicate 12 0

/-- A 64-bit encoding as two words. -/
def words64 (n : Nat) : List Word := [BitVec.ofNat 32 n, BitVec.ofNat 32 (n / 2 ^ 32)]

/-- A result rounded (R102); none where its centre or radius would overflow. The exact values carry no sign of zero: a
centre that is exactly zero is +0 unless it is copied (DESIGN CHOICE, log entry 49). -/
def AffExact.words (x : AffExact) : Option (List Word) :=
  match Q.roundFin Fp.f64 .rn x.c with
  | none => none
  | some (cb, cv) =>
      let live := x.q.filter fun t => x.keepZero || !t.2.isZero
      let rounded := live.map fun t => (t.1, t.2, Q.roundFin Fp.f32 .rn t.2)
      let cand := rounded.filterMap fun t => match t.2.2 with
        | some (b, v) => if v.isZero && !x.keepZero then none else some (t.1, t.2.1, v, Tab.getD t.1 b x.bits)
        | none => none
      let sorted := cand.foldl (fun l t => insertTerm t l) []
      let places := if x.fresh.isSome then 5 else 6
      let kept := cand.filter fun t => (sorted.take places).any fun u => u.1 == t.1
      let gone := live.filter fun t => !(kept.any fun u => u.1 == t.1)
      match sumUp (x.pre ++ [x.c.sub cv] ++ (kept.map fun t => t.2.1.sub t.2.2.1) ++ (gone.map (·.2)) ++ x.post) with
      | none => none
      | some r =>
          let own : List (Nat × Nat) := kept.map fun t => (t.1, t.2.2.2)
          let terms : List (Nat × Nat) := match x.fresh with
            | some f => (own.filter fun t => decide (t.1 ≤ f.1)) ++ [f] ++ (own.filter fun t => decide (f.1 < t.1))
            | none => own
          let tw := terms.flatMap fun t => [BitVec.ofNat 32 t.1, BitVec.ofNat 32 t.2]
          some (words64 (x.cBits.getD cb) ++ words64 (r.round Fp.f64 .ru) ++ tw ++ List.replicate (12 - tw.length) 0)

/-! ### What each operation computes, 10 R264 to R270 -/

/-- A result before an error is placed: the error E, whether it may mint, and whether it mints even for 0. -/
structure AffRes where
  x : AffExact
  e : Q := Q.zero
  mint : Bool := false
  always : Bool := false

/-- Symbols of two operands, each once. -/
def symbols (a b : List (Nat × Q)) : List Nat := ((a ++ b).map (·.1)).eraseDups

/-- AFADD and AFSUB, R264. -/
def affLinear (sg : Q → Q) (a b : Aff) : AffRes :=
  { x := { c := a.c.add (sg b.c), q := b.q.foldl (fun q t => addTerm q t.1 (sg t.2)) a.q, pre := [a.r, b.r] } }

/-- AFSCL, R264. -/
def affScale (f : Q) (a : Aff) : AffRes :=
  { x := { c := f.mul a.c, q := a.q.map fun t => (t.1, f.mul t.2), pre := [f.abs.mul a.r] } }

/-- AFMUL, R265. -/
def affMul (mint : Bool) (a b : Aff) : AffRes :=
  let q := (symbols a.q b.q).foldl (fun q s =>
    Tab.put s ((a.c.mul (Tab.getD s Q.zero b.q)).add (b.c.mul (Tab.getD s Q.zero a.q))) q) []
  { x := { c := a.c.mul b.c, q := q, pre := [(a.c.abs.mul b.r).add (b.c.abs.mul a.r)] }
    e := a.width.mul b.width, mint := mint }

/-- AFSQR, R265. -/
def affSqr (mint : Bool) (a : Aff) : AffRes :=
  let two : Q := ⟨2, 1⟩
  let h := (a.width.mul a.width).half
  { x := { c := (a.c.mul a.c).add h, q := a.q.map fun t => (t.1, (two.mul a.c).mul t.2), pre := [(two.mul a.c.abs).mul a.r] }
    e := h, mint := mint }

/-- AFREC, R266; none where 0 lies within the operand. -/
def affRec (mint : Bool) (a : Aff) : Option AffRes :=
  let w := a.width
  let l := a.c.sub w
  let u := a.c.add w
  if Q.le l Q.zero && Q.le Q.zero u then none
  else
    let m := if Q.lt u.abs l.abs then l else u
    let al := ((m.mul m).inv).neg
    let g1 := l.inv.sub (al.mul l)
    let g2 := u.inv.sub (al.mul u)
    some { x := { c := (al.mul a.c).add (g1.add g2).half, q := a.q.map fun t => (t.1, al.mul t.2), pre := [al.abs.mul a.r] }
           e := (g1.sub g2).abs.half, mint := mint }

/-- Whether a coefficient reaches the threshold of AFCOND: a NaN keeps every term (R268). -/
def reaches (t : Fp.Val) (v : Q) : Bool :=
  match t with
  | .nan _ => true
  | .inf s => s
  | x => Q.le ((Q.ofVal x).getD Q.zero) v.abs

/-- AFCOND, R268: the centre is copied. -/
def affCond (mint : Bool) (k : Nat) (t : Fp.Val) (a : Aff) : AffRes :=
  let sorted := (a.q.map fun x => (x.1, x.2, x.2, 0)).foldl (fun l x => insertTerm x l) []
  let keep := a.q.filter fun x => ((sorted.take k).any fun u => u.1 == x.1) && reaches t x.2
  let gone := a.q.filter fun x => !(keep.any fun u => u.1 == x.1)
  { x := { c := a.c, cBits := some a.cBits, q := keep, keepZero := true, bits := a.bits, pre := [a.r] }
    e := Q.sum (gone.map fun x => x.2.abs), mint := mint }

/-- AFINI, R270: the centre is copied. -/
def affIni (sym cBits : Nat) (c w : Q) : AffRes :=
  if sym = 0 then { x := { c := c, cBits := some cBits, q := [], pre := [] }, e := w.abs, mint := true, always := true }
  else { x := { c := c, cBits := some cBits, q := if w.isZero then [] else [(sym, w)], keepZero := true, pre := [] } }

namespace Machine

/-! ### Minting, 02 R76, 15 R332 -/

/-- The function number of the atomic that draws a block, between devices (log entry 14). -/
def drawFn : Nat := 0x22

/-- What Mint() comes to. -/
inductive Minted where
  /-- a symbol -/
  | got (n : Nat) (s : State)
  /-- no block is left -/
  | dry (s : State)
  /-- a request to another device is out for a block -/
  | waits (s : State)
  /-- that request has failed (20 R402) -/
  | failed (cause : BitVec 8) (va : DWord) (s : State)

/-- The pool counter's atomic step on launch device 0: its old value, and one more where that is below the number of blocks. -/
def State.drawHere (s : State) (la : Launch) : Nat × State :=
  match la.poolAt with
  | none => (la.rcd.sympool / 64, s)
  | some a =>
      let b := leNat (s.coh a 8)
      (b, if b < la.rcd.sympool / 64 then s.homeStore a (leBytes 8 (b + 1)) else s)

/-- The request for a block that a crew of another device sends to launch device 0 (02 R76). -/
def State.askBlock (s : State) (k : Nat) (la : Launch) : State :=
  let l := (s.crewTh k).launch
  let dev := (s.jobOf l).dmap.getD 0 0
  let pa := la.poolAt.getD 0
  (s.ask { th := k, crew := crewOf k, core := s.coreTh k, kind := .atom drawFn true, loc := .remote dev pa, va := BitVec.ofNat 64 pa, size := 8
           space := .g, rtype := .uc, ty := .n64, data := leBytes 8 (la.rcd.sympool / 64), held := some .sent } dev pa).setCr (crewOf k)
    fun x => { x with draw := some s.seq }

/-- Mint(): the crew's next symbol. A crew without a block draws one; while its request to another device is out, its threads
wait for that one request. -/
def State.mint (s : State) (k : Nat) : Minted :=
  let c := crewOf k
  let la := s.laTh k
  let n := la.rcd.sympool / 64
  let take (s : State) (b last : Nat) : Minted :=
    .got b (s.setCr c fun x => { x with block := if b < last then some (b + 1, last) else none, draw := none })
  let drawn (s : State) (b : Nat) : Minted :=
    if b < n then take s (64 * b + 1) (64 * b + 64) else .dry (s.setCr c fun x => { x with draw := none })
  match (s.cr c).block with
  | some (b, last) => take s b last
  | none =>
      if la.dev = 0 ∨ n = 0 then let r := s.drawHere la; drawn r.2 r.1
      else match s.heldOp k with
        | some (id, o) => (match o.held with
            | some (.failed cz) => .failed cz o.va ((s.dropOp id).setCr c fun x => { x with draw := none })
            | _ => drawn (s.dropOp id) (leNat (o.early.getD [])))
        | none => if ((s.cr c).draw.bind fun i => Tab.find i s.ops).isSome then .waits s else .waits (s.askBlock k la)

/-- What follows for a thread whose instruction mints: cause 0x18 alone on exhaustion. -/
def Minted.eff (m : Minted) (go : Nat → State → Eff) : Eff :=
  match m with
  | .got n s => go n s
  | .dry s => .trap ⟨0x18, 0, none, none⟩ s
  | .waits s => .left s
  | .failed c va s => .trap ⟨c, va, none, none⟩ s

/-! ### Writing a result -/

/-- Sixteen words written to aN, which enters affine use (02 R75). -/
def State.writeAff (s : State) (k : Nat) (d : Spec) (ws : List Word) (fl : Fp.Flags) : State :=
  let n := d.vIndex / 16
  ((s.setFlags k fl).writeVs k d.vIndex ws).setTh k fun t =>
    { t with affine := if t.affine.contains n then t.affine else t.affine ++ [n] }

/-- A result placed and written: its error minted or put into the radius (10 R267, R268). -/
def State.affDone (s : State) (k : Nat) (d : Spec) (r : AffRes) : Eff :=
  let put (s : State) (x : AffExact) : Eff :=
    match x.words with
    | some ws => .done (s.writeAff k d ws 0)
    | none => .done (s.writeAff k d affNaN Fp.OF)
  if r.e.isZero && !r.always then put s r.x
  else
    match if r.mint then Q.roundFin Fp.f32 .ru r.e else none with
    | some (b, _) =>
        (s.mint k).eff fun n s => put s { r.x with fresh := some (n, b) }
    | none => put s { r.x with post := [r.e] }

/-- The NaN result of a non-finite operand (03 R103). -/
def State.affBad (s : State) (k : Nat) (d : Spec) : Eff := .done (s.writeAff k d affNaN Fp.NV)

/-- An affine operand of a thread. -/
def State.aff (s : State) (k : Nat) (a : Spec) : Option Aff := Aff.ofWords fun i => (s.th k).vget (a.vIndex + i)

/-- An f64 operand of any class (R262). -/
def State.f64Of (s : State) (k : Nat) (b : Spec) : Nat := ((s.rd k).src .f64 b).toNat

/-- Whether non-linear operations of a thread may mint (02 R52). -/
def State.mayMint (s : State) (k : Nat) : Bool := !(s.th k).fmode.getLsbD 5

/-- An operation of two affine operands. -/
def State.affBin (s : State) (k : Nat) (d a b : Spec) (f : Aff → Aff → AffRes) : Eff :=
  match s.aff k a, s.aff k b with
  | some x, some y => s.affDone k d (f x y)
  | _, _ => s.affBad k d

/-! ### The instructions -/

/-- AFADD, R264. -/
def execAfadd (h : Head) (d a b : Spec) (s : State) : Host.Outcome State Fault Refusal :=
  .next (s.issueEach (.afadd h d a b) noBlock fun s k => s.affBin k d a b (affLinear id))

/-- AFSUB, R264. -/
def execAfsub (h : Head) (d a b : Spec) (s : State) : Host.Outcome State Fault Refusal :=
  .next (s.issueEach (.afsub h d a b) noBlock fun s k => s.affBin k d a b (affLinear Q.neg))

/-- AFSCL, R264. -/
def execAfscl (h : Head) (d a b : Spec) (s : State) : Host.Outcome State Fault Refusal :=
  .next (s.issueEach (.afscl h d a b) noBlock fun s k =>
    match s.aff k a, Q.ofVal (Fp.decode Fp.f64 (s.f64Of k b)) with
    | some x, some f => s.affDone k d (affScale f x)
    | _, _ => s.affBad k d)

/-- AFMUL, R265. -/
def execAfmul (h : Head) (d a b : Spec) (s : State) : Host.Outcome State Fault Refusal :=
  .next (s.issueEach (.afmul h d a b) noBlock fun s k => s.affBin k d a b (affMul (s.mayMint k)))

/-- AFSQR, R265. -/
def execAfsqr (h : Head) (d a : Spec) (s : State) : Host.Outcome State Fault Refusal :=
  .next (s.issueEach (.afsqr h d a) noBlock fun s k =>
    match s.aff k a with
    | some x => s.affDone k d (affSqr (s.mayMint k) x)
    | none => s.affBad k d)

/-- AFREC, R266. -/
def execAfrec (h : Head) (d a : Spec) (s : State) : Host.Outcome State Fault Refusal :=
  .next (s.issueEach (.afrec h d a) noBlock fun s k =>
    match s.aff k a with
    | some x =>
        (match affRec (s.mayMint k) x with
          | some r => s.affDone k d r
          | none => .trap ⟨0x08, BitVec.ofNat 64 x.cBits, none, none⟩ s)
    | none => s.affBad k d)

/-- AFCOND and AFCOND.rad, R268. -/
def execAfcond (h : Head) (d a b : Spec) (k : BitVec 3) (rad : BitVec 1) (s : State) : Host.Outcome State Fault Refusal :=
  .next (s.issueEach (.afcond h d a b k rad) noBlock fun s j =>
    match s.aff j a with
    | some x => s.affDone j d (affCond (rad == 0 && s.mayMint j) k.toNat (Fp.decode Fp.f32 (fget .f32 ((s.rd j).src .f32 b))) x)
    | none => s.affBad j d)

/-- AFBND, R269. -/
def execAfbnd (h : Head) (d a : Spec) (s : State) : Host.Outcome State Fault Refusal :=
  .next (s.issueEach (.afbnd h d a) noBlock fun s k =>
    let r : Nat × Nat := match s.aff k a with
      | some x => ((x.c.sub x.width).roundDown, (x.c.add x.width).round Fp.f64 .ru)
      | none => (Fp.f64.inf + Fp.f64.signBit, Fp.f64.inf)
    .done (s.writeVs k d.vIndex (words64 r.1 ++ words64 r.2)))

/-- AFINI, R270. -/
def execAfini (h : Head) (d a b : Spec) (sym : BitVec 16) (s : State) : Host.Outcome State Fault Refusal :=
  .next (s.issueEach (.afini h d a b sym) noBlock fun s k =>
    let c := s.f64Of k a
    match Q.ofVal (Fp.decode Fp.f64 c), Q.ofVal (Fp.decode Fp.f64 (s.f64Of k b)) with
    | some cv, some w => s.affDone k d (affIni sym.toNat c cv w)
    | _, _ => s.affBad k d)

/-- AFSYM, R270. -/
def execAfsym (h : Head) (d : Spec) (s : State) : Host.Outcome State Fault Refusal :=
  .next (s.issueEach (.afsym h d) noBlock fun s k =>
    (s.mint k).eff fun n s => .done (s.regWrite k d 1 (BitVec.ofNat 64 n)))

end Machine
end Sys2Proof
end

