-- ==== Sys2Proof/Machine/Engine.lean ====
section
/-! DEFINITION. What the engines share: whom an engine acts for, its accesses (12 R298, R302, 18 R381,
R385), quantising and decoding rows (03 R84 to R87, 12 R303), and engine fault records. -/

namespace Sys2Proof.Machine

/-! ### An engine's accesses -/

/-- Whom an engine acts for: owner number, crew, context, launch, master id, physical plain. -/
structure Eng where
  owner : Nat
  crew : Nat
  ctx : Nat
  launch : Nat
  master : Nat
  plain : Nat
  deriving Repr

/-- The engine of a crew: the copy engine of its cluster for a channel. -/
def State.chanEng (s : State) (c ch : Nat) : Eng :=
  let x := s.cr c
  { owner := chanOwner c ch, crew := c, ctx := x.ctx, launch := x.launch
    master := 0x300 + clusterOfCore x.core, plain := plainOfCore x.core }

/-- The matrix engine of a cluster for a job. -/
def jobEng (n : Nat) (j : MxJob) : Eng :=
  { owner := jobOwner n j.seq, crew := j.crew, ctx := j.ctx, launch := j.launch, master := 0x3C0 + n, plain := plainOfCluster n }

/-- What an engine's work comes to. -/
inductive Got (α : Type) where
  | ok (a : α)
  /-- a CODE of R300 and the fault address -/
  | fault (code addr : Nat)
  /-- not yet: a crew that has not started, a leased or owned line, an answer from a peer -/
  | wait
  /-- a poisoned sector read (22 R434) -/
  | poison

/-- A piece of an engine's work. -/
abbrev EngM (α : Type) := State → Got α × State

def EngM.pure {α : Type} (a : α) : EngM α := fun s => (.ok a, s)
def EngM.bind {α β : Type} (m : EngM α) (f : α → EngM β) : EngM β := fun s =>
  match m s with
  | (.ok a, s) => f a s
  | (.fault c x, s) => (.fault c x, s)
  | (.wait, s) => (.wait, s)
  | (.poison, s) => (.poison, s)
/-- One after another, their results in order. -/
def EngM.each {α β : Type} (f : α → EngM β) : List α → EngM (List β)
  | [] => EngM.pure []
  | a :: t => EngM.bind (f a) fun b => EngM.bind (EngM.each f t) fun bs => EngM.pure (b :: bs)

/-- A place cut at multiples of `b`. -/
def chunks (b : Nat) (w : Where) : Nat → Nat → List (Where × Nat)
  | 0, _ => []
  | fuel + 1, n =>
      if n = 0 then []
      else
        let k := if n < b - w.addr % b then n else b - w.addr % b
        (w, k) :: chunks b (w.shift k) fuel (n - k)

/-- Spans cut at multiples of `b`. -/
def cutSpans (b : Nat) (l : List (Where × Nat)) : List (Where × Nat) := l.flatMap fun x => chunks b x.1 (x.2 / b + 2) x.2

/-- A .g range translated for an engine, 4 KiB at a time; a fault names the first byte refused. -/
def engGlobal (e : Eng) (nd : Need) : Nat → Nat → Nat → EngM (List (Where × Nat))
  | 0, _, _ => EngM.pure []
  | fuel + 1, va, n => fun s =>
      if n = 0 then (.ok [], s)
      else
        let k := if n < 4096 - va % 4096 then n else 4096 - va % 4096
        let nd := { nd with size := k, sys := (s.cx e.ctx).sys, remote := s.fabricOk e.launch }
        match s.translate (some e.master) e.ctx e.master e.plain (BitVec.ofNat 64 va) nd with
        | (.fault c _, s) => (.fault (if c = 0x10 then 2 else 3) (va % 2 ^ 64), s)
        | (.busy l, s) => (.wait, s.knock (engWho e.owner) l)
        | (.at_ w, s) =>
            EngM.bind (engGlobal e nd fuel ((va + k) % 2 ^ 64) (n - k)) (fun r => EngM.pure ((w, k) :: r)) s

/-- A range of a scratch for an engine (12 R298): reach, access table, a crew that has not started. -/
def engScratch (e : Eng) (sp : Space) (write : Bool) (addr n : Nat) : EngM (List (Where × Nat)) := fun s =>
  let past (lim : Nat) : Nat := if addr < lim then lim else addr
  match sp with
  | .v =>
      let idx := addr / 2 ^ 21
      let o := addr % 2 ^ 21
      if idx ≥ (s.la e.launch).rcd.crews then (.fault 3 addr, s)
      else (match s.valleyMate e.crew idx with
        | some m =>
            if !(s.cr m).started then (.wait, s)
            else if o + n > s.slim m then (.fault 3 (idx * 2 ^ 21 + (if o < s.slim m then s.slim m else o)), s)
            else (.ok [(.crewScratch m o, n)], s)
        | none => (.wait, s))
  | .p =>
      let lim := (s.la e.launch).rcd.pscr
      if addr + n > lim then (.fault 3 (past lim), s)
      else if s.admits (16 + e.plain) e.master addr n write then (.ok [(.plainScratch e.launch e.plain addr, n)], s)
      else (.fault 3 addr, s.denied e.plain (some e.ctx))
  | _ =>
      let lim := s.slim e.crew
      if addr + n > lim then (.fault 3 (past lim), s) else (.ok [(.crewScratch e.crew addr, n)], s)

/-- An address wrapped at its space's width (04 R104). -/
def wrapAt (sp : Space) (x : Int) : Nat := (x % (if sp = .g then 2 ^ 64 else 2 ^ 32 : Int)).toNat

/-- A range as an engine reads or writes it. -/
def engSpan (e : Eng) (sp : Space) (rt : RType) (write : Bool) (addr n : Nat) : EngM (List (Where × Nat)) :=
  if sp = .g then engGlobal e { r := !write, w := write, rtype := rt, engineDst := write } (n / 4096 + 2) addr n
  else engScratch e sp write addr n

/-- The place of a record or a card that its engine updates: no destination, so that a replicated page takes it in every copy
(04 R117). -/
def engUpdate (e : Eng) (addr n : Nat) : EngM (List (Where × Nat)) := engGlobal e { w := true, rtype := .own } (n / 4096 + 2) addr n

/-- Lines of memory in spans. -/
def spanLines (l : List (Where × Nat)) : List Nat :=
  (l.flatMap fun (w, n) => match w with
    | .mem a => (List.range ((a % 128 + n + 127) / 128)).map fun i => lineOf a + 128 * i
    | _ => []).eraseDups

/-- Whether a thread has leased, or another engine owns, a line of the spans (05 R131, R135). -/
def State.linesHeld (s : State) (owner : Nat) (ls : List Nat) : Bool :=
  ls.any fun l => (s.leaseHolder l).isSome || s.engOwned.any fun (x, w) => x == l && w != owner

/-- An engine's remote read of at most 64 bytes: answered, or asked for now (20 R403). -/
def engRemote (e : Eng) (va dev pa n : Nat) : EngM (List Byte) := fun s =>
  let k := engKey e.owner
  match s.ops.find? fun (_, o) => o.th == k && o.kind == .load && o.loc == .remote dev pa && o.size == n with
  | some (_, o) => (match o.early with
      | some b => (.ok b, s)
      | none => (.wait, s))
  | none =>
      let o : Op := { th := k, crew := e.crew, core := 0, kind := .load, loc := .remote dev pa, va := BitVec.ofNat 64 va, size := n, space := .g
                      rtype := .uc, ty := .b32 }
      (.wait, (s.newOp o).sendRemote s.seq o dev pa)

/-- Spans cut at 64 bytes, each with its address: the spans lie on one another from `va` on. -/
def placed (b va : Nat) (l : List (Where × Nat)) : List (Nat × Where × Nat) :=
  ((cutSpans b l).foldl (fun (acc : Nat × List (Nat × Where × Nat)) x => (acc.1 + x.2, acc.2 ++ [(acc.1, x)])) (va, [])).2

/-- What an engine asks of peers, asked at once. -/
def engAsk (e : Eng) (va : Nat) (l : List (Where × Nat)) : EngM Unit := fun s =>
  (.ok (), (placed 64 va l).foldl (fun s (a, w, n) => match w with
    | .remote d pa => (engRemote e a d pa n s).2
    | _ => s) s)

/-- An engine meets lines that threads have leased: an entry of the probe queue for each (11 R284). -/
def State.engKnock (s : State) (e : Eng) (l : List (Where × Nat)) : State := s.knockAll (engWho e.owner) (spanLines l)

/-- Local bytes as an engine reads them: as a member of its crew it sees the stores that the crew sees (05 R120, R128). They
are noted, so that its completion waits for them (R126). -/
def State.engLook (s : State) (e : Eng) (w : Where) (n : Nat) : List Byte × State :=
  let r := s.layOver (fun _ p => p.crew == e.crew && p.inView) w (s.locRead w n)
  (r.1, r.2.foldl (fun s i => s.setOp i fun o => { o with seenBy := if o.seenBy.contains e.owner then o.seenBy else o.seenBy ++ [e.owner] }) s)

/-- Whether a completion of an engine's work at a scope must wait for stores of its crew that it has read (05 R126, R137). -/
def State.engReleasing (s : State) (owner scope : Nat) : Bool := scope != 0 && s.ops.any fun (_, o) => o.seenBy.contains owner

/-- Bytes of spans from an address on as an engine reads them. -/
def engBytes (e : Eng) (va : Nat) (l : List (Where × Nat)) : EngM (List Byte) := fun s =>
  if s.linesHeld e.owner (spanLines l) then (.wait, s.engKnock e l)
  else
    EngM.bind (engAsk e va l) (fun _ =>
      EngM.bind (EngM.each (fun (x : Nat × Where × Nat) s =>
        match x.2.1 with
        | .remote d a => engRemote e x.1 d a x.2.2 s
        | w => if w.poisoned s x.2.2 then (.poison, s) else let r := s.engLook e w x.2.2; (.ok r.1, r.2)) (placed 64 va l))
        fun bs => EngM.pure bs.flatten) s

/-- A range read. -/
def engRead (e : Eng) (sp : Space) (rt : RType) (addr n : Nat) : EngM (List Byte) :=
  EngM.bind (engSpan e sp rt false addr n) (engBytes e addr)

/-- An engine's answered reads forgotten. -/
def State.dropEngReads (s : State) (owner : Nat) : State :=
  (s.opsOf (engKey owner) fun o => o.kind == .load).foldl State.dropOp s

/-- Whether a write to a place has to wait here: its line is leased by a thread, or remote read leases on it have not ended
(05 R131, R143). -/
def State.putWaits (s : State) (w : Where) : Bool :=
  match w.line with
  | some l => (s.leaseHolder l).isSome || (s.leaseUntil l).isSome
  | none => false

/-- A write of an engine: a remote one is sent, and is done when it is acknowledged; one that has to wait, for a line or for
a write of its own there before it, is performed later. -/
def State.engPut (s : State) (e : Eng) (va : Nat) (w : Where) (bs : List Byte) : State :=
  let o : Op := { th := engKey e.owner, crew := engKey e.owner, core := 0, kind := .store, loc := w, va := BitVec.ofNat 64 va, size := bs.length
                  space := .g, rtype := .uc, ty := .b32, data := bs }
  match w with
  | .remote d a => (s.newOp { o with crew := e.crew }).sendRemote s.seq { o with crew := e.crew } d a
  | _ =>
      if s.putWaits w || s.ops.any fun (_, p) => p.th == engKey e.owner && p.kind.writes && overlaps p.loc p.size w bs.length then (s.newOp o).probe s.seq
      else s.locWrite none w bs

/-- Whether every remote write of an engine has been acknowledged. -/
def State.engIdle (s : State) (owner : Nat) : Bool := (s.opsOf (engKey owner) fun _ => true).isEmpty

/-- Exclusive ownership of lines taken (05 R135): the L1s are recalled. -/
def State.takeLines (s : State) (owner : Nat) (ls : List Nat) : State :=
  let s := ls.foldl State.recall s
  { s with engOwned := s.engOwned ++ (ls.filter fun l => !(s.engOwned.any fun (x, _) => x == l)).map fun l => (l, owner) }

/-- A context killed by an engine's read of poison (22 R434). -/
def State.engKill (s : State) (e : Eng) (cluster : Nat) : State := s.kill e.ctx 0x30 0 0 0 1 cluster

/-! ### Records of engines, 12 R322, 18 R385 -/

/-- A completion record of an engine's work, where EQV asks for one. -/
def State.engRecord (s : State) (e : Eng) (eqv : Bool) (queue tag kind code : Nat) (data : DWord) (holds : Bool) : State :=
  if eqv then
    s.addRecord { queue := queue, bytes := recordBytes tag kind code (s.la e.launch).rcd.jobid data
                  owner := if holds then some e.owner else none }
  else s

/-- The record of an engine fault in translation or permission for FLTQ (18 R385). -/
def State.fltqRecord (s : State) (e : Eng) (agent ch cluster code addr : Nat) : State :=
  let q := s.reg 0x520
  if q.getLsbD 31 && (code == 2 || code == 3) then
    s.addRecord { queue := field q 9 0
                  bytes := recordBytes (agent * 2 ^ 30 + ch * 2 ^ 28 + cluster * 2 ^ 20 + e.ctx % 2 ^ 16) 6 code
                    (s.la e.launch).rcd.jobid (BitVec.ofNat 64 addr) }
  else s

/-- Whether a record of an owner still waits for its ring (17 R372). -/
def State.recordWaits (s : State) (owner : Nat) : Bool := s.records.any fun r => r.owner == some owner

/-! ### Rows of formats, 03 R84 to R87, 12 R303 -/

/-- Whether a slot names a variable-block format; its block size otherwise. -/
def blockSize (s : Fp.Slot) : Nat := if s.scheme = 2 then 16 else 32

/-- The largest magnitude of a list, 0 for NaN and ∞. -/
def maxMag (l : List Fp.Val) : Nat × Nat := l.foldl (fun m v => let a := Fp.magOf v; if Fp.leFrac m a then a else m) (0, 1)

/-- The scale byte of a fixed block (R303). Rounding it sets none of the record's or job's flags, which the spec does not say
(DESIGN CHOICE, log entry 67). -/
def fixedScale (s : Fp.Slot) (blk : List Fp.Val) : Nat :=
  let m := maxMag blk
  if s.sfmt = 2 then
    if m.1 = 0 then 0x38 else (Fp.roundTo Fp.e4m3 .ru true ⟨.num false m.1 (6 * m.2), 0⟩).1
  else if m.1 = 0 then 127
  else
    let mf := match Fp.elemOf s.fmt with
      | .flt f => Fp.magOf (Fp.decode f f.maxEnc)
      | .int _ w => (2 ^ (w - 1) - 1, 1)
    (Fp.clampExp (Fp.leastExp (m.1 * mf.2, m.2 * mf.1) 1) + 127).toNat

/-- A row as it is being written: element codes, flags, rng. -/
structure RowOut where
  codes : List Nat := []
  fl : Fp.Flags := 0
  rng : Word

/-- Elements rounded one by one, each over a scale. -/
def roundElems (s : Fp.Slot) (sc : Option Fp.Val) (vs : List Fp.Val) (o : RowOut) : RowOut :=
  vs.foldl (fun o v =>
    let rng := if s.rm = 5 then xorshift32 o.rng else o.rng
    let x : Fp.Res := match sc with
      | some q => Fp.div v q
      | none => ⟨v.ex, Fp.sigFl v⟩
    let r := Fp.elemRound s.fmt (s.rnd (rng.toNat / 65536)) s.sat x
    { codes := o.codes ++ [r.1], fl := o.fl ||| r.2, rng := rng }) o

/-- A list cut into lists of `b`. -/
def cutEvery (b : Nat) : Nat → List Fp.Val → List (List Fp.Val)
  | 0, _ => []
  | fuel + 1, l => if l.isEmpty then [] else l.take b :: cutEvery b fuel (l.drop b)

/-- A quantised row: element bytes, bitmap bytes, side bytes, flags, rng. -/
structure RowBytes where
  elem : List Byte
  bitmap : List Byte
  side : List Byte
  fl : Fp.Flags
  rng : Word

/-- A row of values in a slot's format (03 R87, 12 R303). -/
def quantRow (s : Fp.Slot) (vs : List Fp.Val) (rng : Word) : RowBytes :=
  let w := Fp.elemWidth s.fmt
  if s.scheme = 3 then
    let q := Fp.quantise s vs rng
    ⟨Fp.packRow w q.codes, Fp.bitmapBytes q.bits, q.sides.flatMap (leBytes 2), q.fl, q.rng⟩
  else if s.scheme = 0 then
    let o := roundElems s none vs { rng := rng }
    ⟨Fp.packRow w o.codes, [], [], o.fl, o.rng⟩
  else
    let blks := cutEvery (blockSize s) (vs.length + 1) vs
    let r := blks.foldl (fun (acc : RowOut × List Nat) b =>
      let sc := fixedScale s b
      (roundElems s (some (Fp.scaleVal s.sfmt sc)) b acc.1, acc.2 ++ [sc])) ({ rng := rng }, [])
    ⟨Fp.packRow w r.1.codes, [], r.2.map (BitVec.ofNat 8), r.1.fl, r.1.rng⟩

/-- Side bytes a row of `n` elements has under its bitmap (03 R84, R86). -/
def sideBytes (s : Fp.Slot) (bm : List Byte) (n : Nat) : Nat :=
  if s.scheme = 0 then 0 else if s.scheme = 3 then 2 * (Fp.blockOf bm (n - 1) + 1) else (n + blockSize s - 1) / blockSize s

/-- The values of a row, each with the number of its block (03 R83 to R86). -/
def decodeRow (s : Fp.Slot) (el bm side : List Byte) (n : Nat) : List (Fp.Val × Nat) :=
  let w := Fp.elemWidth s.fmt
  (List.range n).map fun i =>
    let c := Fp.elemAt w el i
    if s.scheme = 3 then
      let j := Fp.blockOf bm i
      (Fp.vblkVal s.fmt c (leNat ((side.drop (2 * j)).take 2)), j)
    else if s.scheme = 0 then (Fp.elemVal s.fmt c, 0)
    else (Fp.timesScale (Fp.elemVal s.fmt c) (Fp.scaleVal s.sfmt (leNat ((side.drop (i / blockSize s)).take 1))), i / blockSize s)

/-- The three streams of a row of a slot's format read: row `i` at a base (03 R88). -/
def engRow (e : Eng) (sp : Space) (rt : RType) (s : Fp.Slot) (base i n : Nat) : EngM (List (Fp.Val × Nat)) :=
  let at_ (o : Int) (st : Nat) : Nat := wrapAt sp ((base : Int) + o + (i * st : Nat))
  EngM.bind (engRead e sp rt (at_ 0 s.estride) ((n * Fp.elemWidth s.fmt + 7) / 8)) fun el =>
  EngM.bind (if s.scheme = 3 then engRead e sp rt (at_ s.boff s.bstride) ((n + 7) / 8) else EngM.pure []) fun bm =>
  EngM.bind (if s.scheme = 0 then EngM.pure [] else engRead e sp rt (at_ s.soff s.sstride) (sideBytes s bm n)) fun sd =>
  EngM.pure (decodeRow s el bm sd n)

end Sys2Proof.Machine
end

