-- ==== Sys2Proof/Machine/Copy.lean ====
section
/-! DEFINITION. The copy engine: transfer records and channels (12 R298 to R307), CPGO and CPSTAT, and the
events of a record (R302 to R305). -/

namespace Sys2Proof.Machine

/-! ### Channels and records -/

def State.chan (s : State) (c n : Nat) : Chan := Tab.getD n {} (s.cr c).ch
def State.setChan (s : State) (c n : Nat) (f : Chan → Chan) : State :=
  s.setCr c fun x => { x with ch := Tab.put n (f (Tab.getD n {} x.ch)) x.ch }

/-- A field of a record or card: `n` bytes at an offset. -/
def at64 (b : List Byte) (o n : Nat) : Nat := leNat ((b.drop o).take n)
/-- A signed field of four bytes. -/
def at64s (b : List Byte) (o : Nat) : Int := (BitVec.ofNat 32 (at64 b o 4)).toInt

/-- CTRL of a record (R299). -/
def recCtrl (b : List Byte) : Nat := at64 b 8 4
def bits (n hi lo : Nat) : Nat := n / 2 ^ lo % 2 ^ (hi + 1 - lo)

/-- Spaces of CTRL: 0 .g, 2 .s, 3 .v, 4 .p. -/
def copySpace (n : Nat) : Option Space :=
  match n with
  | 0 => some .g | 2 => some .s | 3 => some .v | 4 => some .p | _ => none

/-- The fields of a record that a copy uses. -/
structure CopyRec where
  dim : Nat
  gath : Bool
  conv : Bool
  cdir : Bool
  fslot : Nat
  esize : Nat
  ss : Space
  ds : Space
  rt : RType
  src : Nat
  dst : Nat
  n0 : Nat
  n1 : Nat
  n2 : Nat
  ss1 : Int
  ss2 : Int
  ds1 : Int
  ds2 : Int
  gidx : Nat

/-- The slot of a launch with a number, where FSMASK has it. -/
def State.slotOfLaunch (s : State) (l n : Nat) : Option Fp.Slot :=
  if (s.la l).rcd.fsmask.testBit n then (s.la l).slots[n]? else none

/-- A record's fields, none where it is malformed (R301, R303). -/
def State.copyRec (s : State) (l : Nat) (b : List Byte) : Option CopyRec :=
  let c := recCtrl b
  let ss? := copySpace (bits c 20 18)
  let ds? := copySpace (bits c 17 15)
  let rt? := RType.ofCode (BitVec.ofNat 3 (bits c 14 12))
  let conv := c.testBit 27
  let gath := c.testBit 28
  let cdir := c.testBit 26
  let dim := bits c 30 29
  match ss?, ds?, rt? with
  | some ss, some ds, some rt =>
      let slotOk := match s.slotOfLaunch l (bits c 25 23) with
        | some x => decide (Fp.elemWidth x.fmt ≤ 16)
        | none => false
      let bad := dim == 0 || bits c 2 0 != 0 || at64 b 12 2 / 2 ^ 10 != 0 || (bits c 14 12 != 0 && ss != .g) || decide (bits c 6 4 > 4)
        || (conv && gath) || (conv && (dim == 3 || !slotOk)) || at64 b 0x20 4 == 0 || at64 b 0x24 2 == 0 || at64 b 0x26 2 == 0
        || (at64 b 0x38 8 != 0 && !gath) || at64 b 0 8 % 64 != 0 || bits (at64 b 14 2) 15 12 != 0 || bits (at64 b 14 2) 7 5 != 0
        || (conv && dim == 2 && (if cdir then at64 b 0x28 4 else at64 b 0x30 4) != 0)
      if bad then none
      else some { dim := dim, gath := gath, conv := conv, cdir := cdir, fslot := bits c 25 23, esize := 2 ^ bits c 22 21
                  ss := ss, ds := ds, rt := rt, src := at64 b 0x10 8, dst := at64 b 0x18 8, n0 := at64 b 0x20 4
                  n1 := if dim ≥ 2 then at64 b 0x24 2 else 1, n2 := if dim = 3 then at64 b 0x26 2 else 1
                  ss1 := at64s b 0x28, ss2 := at64s b 0x2C, ds1 := at64s b 0x30, ds2 := at64s b 0x34, gidx := at64 b 0x38 8 }
  | _, _, _ => none

/-! ### What a record does, R302, R303 -/

/-- Source spans and pieces of a row. -/
abbrev RowPlan := List (Where × Nat) × List CopyPiece

def CopyRec.rowSrc (r : CopyRec) (i1 i2 : Nat) : Nat := wrapAt r.ss ((r.src : Int) + i1 * r.ss1 + i2 * r.ss2)
def CopyRec.rowDst (r : CopyRec) (i1 i2 : Nat) : Nat := wrapAt r.ds ((r.dst : Int) + i1 * r.ds1 + i2 * r.ds2)
/-- The rows in order. -/
def CopyRec.rows (r : CopyRec) : List (Nat × Nat) := (List.range r.n2).flatMap fun i2 => (List.range r.n1).map fun i1 => (i1, i2)
/-- Bytes of a row. -/
def CopyRec.rowLen (r : CopyRec) : Nat := if r.gath then r.n0 * r.esize else r.n0

/-- The first misaligned address, where there is one (R301): GIDX, then each row's source and destination. Where the length
of a row alone is wrong none is misaligned, and the fault address is where the first row's source ends (log entry 50). -/
def CopyRec.misaligned (r : CopyRec) : Option Nat :=
  if r.conv then none
  else if r.gath && r.gidx % 16 != 0 then some r.gidx
  else
    match r.rows.findSome? fun (i1, i2) =>
      if r.rowSrc i1 i2 % 16 ≠ 0 then some (r.rowSrc i1 i2) else if r.rowDst i1 i2 % 16 ≠ 0 then some (r.rowDst i1 i2) else none with
    | some a => some a
    | none => if r.rowLen % 16 != 0 then some (wrapAt r.ss (r.rowSrc 0 0 + r.rowLen : Nat)) else none

/-- Bytes already made, as pieces of their destination from an address on. -/
def dataPieces (va : Nat) (dst : List (Where × Nat)) (bs : List Byte) : List CopyPiece :=
  (placed 16 va dst).map fun (a, w, n) => ⟨none, (bs.drop (a - va)).take n, w, n, a⟩

/-- A row copied: its bytes are read piece by piece when they are written; a peer's bytes first. -/
def plainRow (e : Eng) (r : CopyRec) (i1 i2 : Nat) : EngM RowPlan :=
  let sa := r.rowSrc i1 i2
  let da := r.rowDst i1 i2
  EngM.bind (engSpan e r.ss r.rt false sa r.n0) fun ss =>
  EngM.bind (engSpan e r.ds .own true da r.n0) fun ds =>
  EngM.bind (engAsk e sa (cutSpans 16 ss)) fun _ =>
  EngM.bind (EngM.each (fun (x : (Nat × Where × Nat) × (Nat × Where × Nat)) =>
      match x.1.2.1 with
      | .remote _ _ => EngM.bind (engBytes e x.1.1 [x.1.2]) fun b => EngM.pure (⟨none, b, x.2.2.1, x.2.2.2, x.2.1⟩ : CopyPiece)
      | w => EngM.pure ⟨some w, [], x.2.2.1, x.2.2.2, x.2.1⟩) ((placed 16 sa ss).zip (placed 16 da ds))) fun ps =>
  EngM.pure (ss, ps)

/-- A row gathered (R303). -/
def gatherRow (e : Eng) (r : CopyRec) (g : List Nat) (i1 i2 : Nat) : EngM RowPlan :=
  let s := r.rowSrc i1 i2
  let adr := g.map fun x => wrapAt r.ss ((s : Int) + (x * r.esize : Nat))
  match adr.find? fun a => a % r.esize != 0 with
  | some a => fun st => (.fault 6 a, st)
  | none =>
      EngM.bind (EngM.each (fun a => engSpan e r.ss r.rt false a r.esize) adr) fun ss =>
      EngM.bind (engSpan e r.ds .own true (r.rowDst i1 i2) r.rowLen) fun ds =>
      EngM.bind (EngM.each (fun (x : Nat × List (Where × Nat)) => engAsk e x.1 x.2) (adr.zip ss)) fun _ =>
      EngM.bind (EngM.each (fun (x : Nat × List (Where × Nat)) => engBytes e x.1 x.2) (adr.zip ss)) fun bs =>
      EngM.pure (ss.flatten, dataPieces (r.rowDst i1 i2) ds bs.flatten)

/-- FP32 values of bytes. -/
def f32Row (bs : List Byte) (n : Nat) : List Fp.Val := (List.range n).map fun i => Fp.decode Fp.f32 (at64 bs (4 * i) 4)

/-- A row converted to the slot's format, with its flags and the rng left (R303, CDIR 0). What a row holds after side-stream
overflow is undefined (03 R87): the record ends before anything of it is written, earlier rows included (DESIGN CHOICE, log
entry 51). -/
def packConv (e : Eng) (r : CopyRec) (x : Fp.Slot) (i1 : Nat) (rng : Word) : EngM (RowPlan × Fp.Flags × Word) :=
  let dest (o : Int) (st : Nat) : Nat := wrapAt r.ds ((r.dst : Int) + o + (i1 * st : Nat))
  EngM.bind (engSpan e r.ss r.rt false (r.rowSrc i1 0) (4 * r.n0)) fun ss =>
  EngM.bind (engBytes e (r.rowSrc i1 0) ss) fun bs =>
  let q := quantRow x (f32Row bs r.n0) rng
  if x.scheme = 3 ∧ q.side.length > x.sstride then fun st => (.fault 5 (dest x.soff x.sstride), st)
  else
    EngM.bind (engSpan e r.ds .own true (dest 0 x.estride) q.elem.length) fun de =>
    EngM.bind (if q.bitmap.isEmpty then EngM.pure [] else engSpan e r.ds .own true (dest x.boff x.bstride) q.bitmap.length) fun db =>
    EngM.bind (if q.side.isEmpty then EngM.pure [] else engSpan e r.ds .own true (dest x.soff x.sstride) q.side.length) fun dd =>
    EngM.pure ((ss, dataPieces (dest 0 x.estride) de q.elem ++ dataPieces (dest x.boff x.bstride) db q.bitmap ++ dataPieces (dest x.soff x.sstride) dd q.side), q.fl, q.rng)

/-- A row of the slot's format converted to FP32, rounded RN (R303, CDIR 1); its source is all three of its streams. -/
def unpackConv (e : Eng) (r : CopyRec) (x : Fp.Slot) (i1 : Nat) : EngM (RowPlan × Fp.Flags) :=
  let at_ (o : Int) (st : Nat) : Nat := wrapAt r.ss ((r.src : Int) + o + (i1 * st : Nat))
  EngM.bind (engSpan e r.ss r.rt false (at_ 0 x.estride) ((r.n0 * Fp.elemWidth x.fmt + 7) / 8)) fun se =>
  EngM.bind (engRow e r.ss r.rt x r.src i1 r.n0) fun vs =>
  EngM.bind (if x.scheme = 3 then engSpan e r.ss r.rt false (at_ x.boff x.bstride) ((r.n0 + 7) / 8) else EngM.pure []) fun sb =>
  EngM.bind (if x.scheme = 3 then engRead e r.ss r.rt (at_ x.boff x.bstride) ((r.n0 + 7) / 8) else EngM.pure []) fun bm =>
  EngM.bind (if x.scheme = 0 then EngM.pure [] else engSpan e r.ss r.rt false (at_ x.soff x.sstride) (sideBytes x bm r.n0)) fun sd =>
  let o := vs.map fun v => Fp.roundTo Fp.f32 .rn false ⟨v.1.ex, Fp.sigFl v.1⟩
  EngM.bind (engSpan e r.ds .own true (wrapAt r.ds ((r.dst : Int) + i1 * r.ds1)) (4 * r.n0)) fun ds =>
  EngM.pure ((se ++ sb ++ sd, dataPieces (wrapAt r.ds ((r.dst : Int) + i1 * r.ds1)) ds (o.flatMap fun y => leBytes 4 y.1)), o.foldl (fun f y => f ||| y.2) 0)

/-- The rows of a conversion in order, the rng drawn through them. -/
def convRows (e : Eng) (r : CopyRec) (x : Fp.Slot) : List Nat → Word → EngM (List RowPlan × Fp.Flags × Word)
  | [], rng => EngM.pure ([], 0, rng)
  | i :: t, rng =>
      if r.cdir then
        EngM.bind (unpackConv e r x i) fun a =>
        EngM.bind (convRows e r x t rng) fun b => EngM.pure (a.1 :: b.1, a.2 ||| b.2.1, b.2.2)
      else
        EngM.bind (packConv e r x i rng) fun a =>
        EngM.bind (convRows e r x t a.2.2) fun b => EngM.pure (a.1 :: b.1, a.2.1 ||| b.2.1, b.2.2)

/-- All a record does: rows, flags, rng. -/
def copyRows (e : Eng) (r : CopyRec) (slot : Option Fp.Slot) (rng : Word) : EngM (List RowPlan × Fp.Flags × Word) :=
  match r.misaligned with
  | some a => fun s => (.fault 6 a, s)
  | none =>
      match r.conv, slot with
      | true, some x => convRows e r x (List.range r.n1) rng
      | true, none => fun s => (.fault 4 0, s)
      | false, _ =>
          if r.gath then
            EngM.bind (engRead e .g r.rt r.gidx (4 * r.n0)) fun gb =>
            let g := (List.range r.n0).map fun j => at64 gb (4 * j) 4
            EngM.bind (EngM.each (fun (i : Nat × Nat) => gatherRow e r g i.1 i.2) r.rows) fun l => EngM.pure (l, 0, rng)
          else EngM.bind (EngM.each (fun (i : Nat × Nat) => plainRow e r i.1 i.2) r.rows) fun l => EngM.pure (l, 0, rng)

/-- Pieces whose destination overlaps the record's own source hold undefined bytes (R302): free values. -/
def freePieces (s : State) (src : List (Where × Nat)) (ps : List CopyPiece) : List CopyPiece × State :=
  if ps.any fun p => src.any fun x => overlaps p.dst p.n x.1 x.2 then
    (((List.range ps.length).zip ps).map fun (i, p) =>
        { p with src := none, data := (List.range p.n).map fun j => Config.freeByte (s.free + 16 * i + j) },
      { s with free := s.free + 16 * ps.length })
  else (ps, s)

/-! ### Steps of a channel -/

/-- A channel faulted (R304, R306, R307): its CODE into STATUS where the record can be written, records
of kind 6. -/
def State.chanFault (s : State) (c ch code addr : Nat) (at_ : Option Where) (rec : List Byte) : State :=
  let e := s.chanEng c ch
  let cl := clusterOfCore (s.cr c).core
  let cur := (s.chan c ch).cur
  let s := match at_ with
    | some w => s.engPut e (cur.toNat + 14) (w.shift 14) (leBytes 2 (code * 2 ^ 8))
    | none => s
  let s := s.dropEngReads e.owner
  let s := s.setChan c ch fun x => { x with st := 3, code := code, fault := BitVec.ofNat 64 addr, flight := none, plan := none }
  let s := s.setCl cl fun x => x.unreserve 5 e.owner
  let s := s.engRecord e ((recCtrl rec).testBit 3) (at64 rec 12 2 % 1024) (s.la e.launch).rcd.evtag.toNat 6 code cur true
  s.fltqRecord e 0 ch cl code addr

/-- What the record in flight would do now. -/
def State.copyPlan (s : State) (c ch : Nat) (rec : List Byte) : Got (List RowPlan × Fp.Flags × Word) × State :=
  let e := s.chanEng c ch
  match s.copyRec e.launch rec with
  | none => (.fault 4 (s.chan c ch).cur.toNat, s)
  | some r =>
      match copyRows e r (s.slotOfLaunch e.launch r.fslot) (((s.chan c ch).rngAt).getD (s.chan c ch).rng) s with
      | (.ok p, s') =>
          let ds := p.1.flatMap fun x => x.2.map fun y => (y.dst, y.n)
          if s'.linesHeld e.owner (spanLines ds) then (.wait, s'.engKnock e ds) else (.ok p, s')
      | x => x

/-- The place of a record that the engine may update (18 R381). -/
def State.recPlace (s : State) (c ch : Nat) (addr : Nat) : Got (List (Where × Nat)) × State :=
  engUpdate (s.chanEng c ch) addr 64 s

/-- A record in flight: asks for its reservation once it can issue (R302, 22 R430). -/
def State.offerRecord (s : State) (c ch : Nat) (rec : List Byte) : State :=
  let e := s.chanEng c ch
  let cl := clusterOfCore (s.cr c).core
  let cur := (s.chan c ch).cur
  match s.copyPlan c ch rec with
  | (.fault code a, s) =>
      (match (s.recPlace c ch cur.toNat).1 with
        | .ok ((w, _) :: _) => s.chanFault c ch code a (some w) rec
        | _ => s.chanFault c ch code a none rec)
  | (.wait, s) => s
  | (.poison, s) => s.engKill e cl
  | (.ok _, _) => s.setCl cl fun x => x.request { who := 5, job := e.owner, cost := 2, pri := 3, since := s.cycle }

/-- COPY_RECORD_READ, R302, R306: a running channel at a record boundary reads its record. -/
def State.readRecord (s : State) (c ch : Nat) : State :=
  let x := s.chan c ch
  let e := s.chanEng c ch
  let cl := clusterOfCore (s.cr c).core
  if (Tab.find c s.crews).isNone || x.st != 1 || x.plan.isSome || (s.cr c).parked || s.recordWaits e.owner then s
  else if x.halt then s.setChan c ch fun x => { x with st := 4, halt := false, flight := none }
  else
    match x.flight with
    | some rec => s.offerRecord c ch rec
    | none =>
        match engRead e .g .own x.cur.toNat 64 s with
        | (.fault code _, s) => s.chanFault c ch code x.cur.toNat none []
        | (.wait, s) => s
        | (.poison, s) => s.engKill e cl
        | (.ok rec, s) =>
            let s := s.dropEngReads e.owner
            if !(recCtrl rec).testBit 31 then
              s.setChan c ch fun x => if x.kick then { x with kick := false } else { x with st := 2 }
            else
              match s.recPlace c ch x.cur.toNat with
              | (.fault code _, s) => s.chanFault c ch code x.cur.toNat none rec
              | (_, s) =>
                  let s := s.setChan c ch fun x => { x with flight := some rec, rng := x.rngAt.getD x.rng, rngAt := some (x.rngAt.getD x.rng) }
                  s.offerRecord c ch rec

/-- Whether a CRESIZE is in progress in a crew of the valley: records and passes issue when it is done (11 R291). -/
def State.valleyResizing (s : State) (c : Nat) : Bool :=
  (s.valleyCrews c).any fun x => (s.cr x).resizing.any fun k => (s.th k).status == .running

/-- A record issued with its reservation (R302): its destination lines owned (05 R135). -/
def State.issueRecord (s : State) (c ch : Nat) : State :=
  let e := s.chanEng c ch
  let x := s.chan c ch
  match x.flight with
  | none => s
  | some rec =>
      match s.copyPlan c ch rec, s.recPlace c ch x.cur.toNat with
      | (.ok p, s), (.ok ((w, _) :: _), _) =>
          let s := s.dropEngReads e.owner
          let r := freePieces s (p.1.flatMap (·.1)) (p.1.flatMap (·.2))
          let s := r.2.takeLines e.owner (spanLines (r.1.map fun y => (y.dst, y.n)))
          s.setChan c ch fun x => { x with plan := some { at_ := w, pieces := r.1, fl := p.2.1 }, rng := p.2.2 }
      | _, _ => s

/-- One piece of a record in flight written (R302, 05 R135, R136), once no remote read lease delays it (R143): its line is
given up when the record has no more to write there. -/
def State.copyPiece (s : State) (c ch k : Nat) : State :=
  let e := s.chanEng c ch
  match (s.chan c ch).plan with
  | none => s
  | some p =>
      match p.pieces[k]? with
      | none => s
      | some y =>
          if s.putWaits y.dst then s
          else
          let got : Got (List Byte) × State := match y.src with
            | some w => engBytes e 0 [(w, y.n)] s
            | none => (.ok y.data, s)
          match got with
          | (.ok bs, s) =>
              let rest := p.pieces.take k ++ p.pieces.drop (k + 1)
              let s := s.engPut e y.va y.dst bs
              let s := s.setChan c ch fun x => { x with plan := some { p with pieces := rest } }
              let left := spanLines (rest.map fun y => (y.dst, y.n))
              { s with engOwned := s.engOwned.filter fun (l, o) => o != e.owner || left.contains l }
          | (.poison, s) => s.engKill e (clusterOfCore (s.cr c).core)
          | (_, s) => s

/-- COPY_RECORD_COMPLETE, R304: the record's word written, and when that is performed the arrival and the completion record,
as one release (05 R137); the chain goes on. -/
def State.completeRecord (s : State) (c ch : Nat) : State :=
  let e := s.chanEng c ch
  let x := s.chan c ch
  let cl := clusterOfCore (s.cr c).core
  match x.plan, x.flight with
  | some p, some rec =>
      let ctrl := recCtrl rec
      if !p.pieces.isEmpty || !s.engIdle e.owner || s.linesHeld e.owner (spanLines [(p.at_, 64)]) || s.engReleasing e.owner (bits ctrl 6 4) then s
      else
        let s := if p.closing then s
          else (s.engPut e (x.cur.toNat + 8) (p.at_.shift 8) (leBytes 4 (ctrl - 2 ^ 31) ++ leBytes 2 (at64 rec 12 2) ++ leBytes 2 (2 ^ 8 + p.fl.toNat))).setChan
            c ch fun x => { x with plan := some { p with closing := true } }
        if !s.engIdle e.owner then s
        else
        let s := if ctrl.testBit 11 then s.arriveBar c (bits ctrl 10 7) else s
        let s := s.engRecord e (ctrl.testBit 3) (at64 rec 12 2 % 1024) (s.la e.launch).rcd.evtag.toNat 2 1 x.cur true
        let s := s.setCl cl fun y => y.unreserve 5 e.owner
        let nxt := at64 rec 0 8
        let s := s.setChan c ch fun x =>
          { x with code := 1, done := (x.done + 1) % 2 ^ 16, flight := none, plan := none, rngAt := none, cur := BitVec.ofNat 64 nxt
                   st := if nxt = 0 then 0 else 1, kick := x.kick && nxt != 0, halt := x.halt && nxt != 0 }
        s.settleCrew c
  | _, _ => s

/-- COPY_RECORD_READ, R302. -/
def execCopyRecordRead (crew ch : Nat) (s : State) : Host.Outcome State Fault Refusal := .next (s.readRecord crew ch)
/-- COPY_RECORD_COMPLETE, R304. -/
def execCopyRecordComplete (crew ch : Nat) (s : State) : Host.Outcome State Fault Refusal := .next (s.completeRecord crew ch)

/-! ### CPGO and CPSTAT, R306, R307 -/

/-- The channel a specifier names. -/
def chanOf : Spec → Nat
  | .sp i => i.toNat - 0x50
  | _ => 0

/-- A 64-bit address operand of R297: 0 for #0. -/
def State.addrOf (s : State) (k : Nat) (b : Spec) : Nat := (s.r64 k b).toNat

/-- CPGO on a channel with the issuing thread's rng (R303, R306). -/
def Chan.go (x : Chan) (h : Nat) (rng : Word) : Chan :=
  match x.st with
  | 1 => if h = 0 then { x with halt := true } else { x with kick := true }
  | 2 => if h = 0 then { x with st := 4 } else { x with st := 1, rng := rng, rngAt := none, halt := false }
  | 3 => if h = 0 then { x with st := 4 } else { x with st := 1, halt := false }
  | _ =>
      if h = 0 then x
      else if h % 64 ≠ 0 then { x with st := 3, code := 6, cur := BitVec.ofNat 64 h, fault := BitVec.ofNat 64 h }
      else { x with st := 1, cur := BitVec.ofNat 64 h, done := 0, kick := false, halt := false, rng := rng, rngAt := none }

/-- Whether the engines of a thread's plain admit it (18 R388, log entry 15). -/
def State.engineAdmits (s : State) (k : Nat) : Bool := s.admits (36 + s.plainTh k) (s.coreTh k) 0 8 true
/-- The same for a read of an engine's registers. -/
def State.engineReads (s : State) (k : Nat) : Bool := s.admits (36 + s.plainTh k) (s.coreTh k) 0 8 false
/-- The cause of an engine's denial (18 R389, 19 R394): TFVA has what tva has. -/
def engineDenied (tva : DWord) : Raise := ⟨0x11, tva, some tva, none⟩

/-- CPGO, R306: a release at valley scope toward the engine (05 R134). -/
def execCpgo (h : Head) (a b : Spec) (s : State) : Host.Outcome State Fault Refusal :=
  .next (s.issueEach (.cpgo h a b) (fun s k => s.releasing k .valley) fun s k =>
    if s.engineAdmits k then .done (s.setChan (crewOf k) (chanOf a) fun x => x.go (s.addrOf k b) (s.th k).rng)
    else .trap (engineDenied (BitVec.ofNat 64 (s.addrOf k b))) (s.denied (s.plainTh k) (some (s.ctxTh k))))

/-- CPSTAT, R307. -/
def execCpstat (h : Head) (d a b : Spec) (s : State) : Host.Outcome State Fault Refusal :=
  .next (s.issueEach (.cpstat h d a b) noBlock fun s k =>
    let x := s.chan (crewOf k) (chanOf a)
    if !s.engineReads k then .trap (engineDenied 0) (s.denied (s.plainTh k) (some (s.ctxTh k)))
    else
    match b.immNat with
    | 0 => .done (s.regWrite k d 1 x.word)
    | 1 => .done (s.regWrite k d 2 (if x.st = 0 then 0 else x.cur))
    | _ => .done (s.regWrite k d 2 x.fault))

end Sys2Proof.Machine
end

