-- ==== Sys2Proof/Machine/Matrix.lean ====
section
/-! DEFINITION. The matrix engine: job cards and their checks (12 R308 to R311), passes, accumulation,
down-conversion and write-out (R312 to R314, 03 R98 to R101), the reservation table (R315, R316), posting
(R317, R320), completion and faults (R318, R319), MXSTAT (R321), and current reservations granted
(22 R431). -/

namespace Sys2Proof.Machine

/-! ### Cards, R308 to R311 -/

/-- A level of the loop nest. -/
structure MxLevel where
  count : Nat
  a : Int
  b : Int
  c : Int
  deriving Repr

/-- The fields of a card. -/
structure Card where
  abase : Nat
  bbase : Nat
  cbase : Nat
  bias : Nat
  lv : List MxLevel
  cfg : Nat
  crow : Nat
  scale : Nat
  clo : Nat
  chi : Nat
  epi : Nat
  cmpl : Nat
  evtag : Nat
  mbar : Nat
  seed : Nat
  deriving Repr

/-- The fields of a card's bytes. -/
def Card.ofBytes (b : List Byte) : Card :=
  { abase := at64 b 0 8, bbase := at64 b 8 8, cbase := at64 b 0x10 8, bias := at64 b 0x18 8
    lv := (List.range 5).map fun i => ⟨at64 b (0x20 + 16 * i) 4, at64s b (0x24 + 16 * i), at64s b (0x28 + 16 * i), at64s b (0x2C + 16 * i)⟩
    cfg := at64 b 0x70 4, crow := at64 b 0x74 4, scale := at64 b 0x78 4, clo := at64 b 0x7C 4, chi := at64 b 0x80 4
    epi := at64 b 0x84 4, cmpl := at64 b 0x88 4, evtag := at64 b 0x8C 4, mbar := at64 b 0x90 8, seed := at64 b 0x98 4 }

def Card.dtile (c : Card) : Nat := bits c.cfg 29 24
def Card.asrc (c : Card) : Nat := bits c.cfg 14 13
def Card.bsrc (c : Card) : Nat := bits c.cfg 12 11
def Card.acc (c : Card) : Nat := bits c.cfg 10 9
def Card.imode (c : Card) : Bool := c.cfg.testBit 8
def Card.wout (c : Card) : Bool := c.cfg.testBit 7
def Card.wraw (c : Card) : Bool := c.cfg.testBit 6
def Card.pri (c : Card) : Nat := bits c.cfg 5 3
/-- Whether C is read or written. -/
def Card.usesC (c : Card) : Bool := c.wout || c.acc == 2
def Card.level (c : Card) (i : Nat) : MxLevel := c.lv.getD i ⟨1, 0, 0, 0⟩
/-- The C tile count T. -/
def Card.tiles (c : Card) : Nat := (c.level 0).count * (c.level 1).count * (c.level 2).count * (c.level 3).count
/-- The space of an operand source. -/
def mxSpace (n : Nat) : Space :=
  match n with
  | 1 => .s
  | 2 => .v
  | _ => .g

/-- Accumulator classes (R311). -/
inductive MxClass where
  | f64 | f32 | i32
  deriving DecidableEq, Repr
def mxClass (fmt : Nat) : MxClass := if fmt = 0 then .f64 else if 11 ≤ fmt ∧ fmt ≤ 15 then .i32 else .f32
/-- Tiles a C tile takes. -/
def MxClass.tiles : MxClass → Nat
  | .f64 => 2
  | _ => 1
/-- Bytes of an accumulator. -/
def MxClass.bytes : MxClass → Nat
  | .f64 => 8
  | _ => 4

/-- The slots a card names: A, B, output. -/
structure MxSlots where
  a : Fp.Slot
  b : Fp.Slot
  o : Option Fp.Slot

/-- The slots of a card in a launch, none where one it uses is not valid. -/
def State.mxSlots (s : State) (l : Nat) (c : Card) : Option MxSlots :=
  match s.slotOfLaunch l (bits c.cfg 17 15), s.slotOfLaunch l (bits c.cfg 20 18) with
  | some a, some b =>
      let o := s.slotOfLaunch l (bits c.cfg 23 21)
      if c.wout && !c.wraw && o.isNone then none else some ⟨a, b, o⟩
  | _, _ => none

/-- Reserved bits and values of a card (R308 to R310). -/
def cardReserved (b : List Byte) (c : Card) : Bool :=
  bits c.cfg 31 30 != 0 || bits c.cfg 2 0 != 0 || c.bsrc == 3 || c.acc == 3 || bits c.epi 31 3 != 0
  || bits c.cmpl 21 10 != 0 || decide (bits c.cmpl 24 22 > 4) || at64 b 0x9C 4 != 0 || at64 b 0xC0 64 != 0
  || (c.bias != 0 && !c.epi.testBit 1) || (c.mbar != 0 && !c.cmpl.testBit 26)
  || bits (at64 b 0xB4 4) 31 22 != 0 || bits (at64 b 0xB4 4) 15 12 != 0 || bits (at64 b 0xB4 4) 7 4 != 0

/-- Malformed cards (R311). -/
def State.cardMalformed (s : State) (l : Nat) (b : List Byte) (c : Card) : Bool :=
  cardReserved b c ||
  match s.mxSlots l c with
  | none => true
  | some x =>
      let cls := mxClass x.a.fmt
      Fp.tileK x.a.fmt != Fp.tileK x.b.fmt || cls != mxClass x.b.fmt || (c.asrc == 3 && decide (Fp.tileK x.a.fmt < 128))
      || (c.level 4).c != 0 || c.lv.any (fun v => v.count == 0) || decide (c.tiles > (if cls = .f64 then 32 else 64))
      || (c.wout && !c.wraw && cls != .f64 && (match x.o with
            | some o => o.fmt == 0
            | none => false))

/-- Misaligned cards (R311): a stride steps an address where its level counts above 1. -/
def Card.misaligned (c : Card) : Bool :=
  let steps (f : MxLevel → Int) : Bool := c.lv.any fun v => decide (v.count > 1) && f v % 32 != 0
  (c.asrc != 3 && (c.abase % 32 != 0 || steps MxLevel.a)) || c.bbase % 32 != 0 || steps MxLevel.b
  || (c.usesC && (c.cbase % 32 != 0 || steps MxLevel.c)) || (c.epi.testBit 1 && c.bias % 32 != 0) || c.crow % 32 != 0
  || (c.cmpl.testBit 26 && c.mbar % 16 != 0)

/-- CODE of a card that fails its check. -/
def State.cardCheck (s : State) (l : Nat) (b : List Byte) : Option Nat :=
  let c := Card.ofBytes b
  if s.cardMalformed l b c then some 4 else if c.misaligned then some 6 else none

/-! ### Jobs -/

def MxJob.c (j : MxJob) : Card := Card.ofBytes j.bytes
def MxJob.i (j : MxJob) (n : Nat) : Nat := j.idx.getD n 0
/-- Whether a job has passes left. -/
def MxJob.left (j : MxJob) : Bool := decide (j.i 0 < (j.c.level 0).count)
/-- Whether a job is queued or running. -/
def MxJob.open_ (j : MxJob) : Bool := j.st == 1 || j.st == 2

/-- The linear index of the C tile of the pass to come. -/
def MxJob.lin (j : MxJob) : Nat :=
  let n (i : Nat) := (j.c.level i).count
  ((j.i 0 * n 1 + j.i 1) * n 2 + j.i 2) * n 3 + j.i 3
/-- Σ il × stride over the first `n` levels. -/
def MxJob.sum (j : MxJob) (n : Nat) (f : MxLevel → Int) : Int :=
  (List.range n).foldl (fun x l => x + (j.i l : Int) * f (j.c.level l)) 0
/-- Whether the pass to come is the last of its C tile. -/
def MxJob.lastPass (j : MxJob) : Bool := decide (j.i 4 + 1 ≥ (j.c.level 4).count)

/-- Indices after a pass: the innermost first; all passes done leaves COUNT0 and zeros. -/
def stepIdx (c : Card) (idx : List Nat) : List Nat :=
  let v (i : Nat) := idx.getD i 0
  let full (i : Nat) : Bool := decide (v i + 1 ≥ (c.level i).count)
  if !full 4 then [v 0, v 1, v 2, v 3, v 4 + 1]
  else if !full 3 then [v 0, v 1, v 2, v 3 + 1, 0]
  else if !full 2 then [v 0, v 1, v 2 + 1, 0, 0]
  else if !full 1 then [v 0, v 1 + 1, 0, 0, 0]
  else [v 0 + 1, 0, 0, 0, 0]

/-- STATE (R310). -/
def MxJob.word (j : MxJob) (code : Nat) : Nat := (if j.sat then 2 ^ 21 else 0) + j.fl.toNat * 2 ^ 16 + code * 2 ^ 8 + j.st

/-! ### Tiles -/

/-- A row of `n` numbers. -/
def rowOf128 (f : Nat → Nat) : List Nat := (List.range 128).map f

/-- Word w of the rows of an FP64 tile: the low word of element w ÷ 2, then the high one. -/
def wideWordOf (rows : List (List DWord)) (w : Nat) : Nat :=
  let x := ((rows.getD (w / 256) []).getD (w / 2 % 128) 0).toNat
  if w % 2 = 0 then x % 2 ^ 32 else x / 2 ^ 32

/-- The word stored at a place of a tile, 128 × row + column; zero where nothing was written (R312). Which word of an FP64
tile stands where is the part's own (log entry 16). -/
def Tile.word (t : Option Tile) (p : Nat) : Nat :=
  match t with
  | none => 0
  | some (.words rows) => ((rows.getD (p / 128) []).getD (p % 128) 0).toNat
  | some (.wide rows) => wideWordOf rows (Config.wideWord p % 32768)
  | some (.half rows) => wideWordOf rows (Config.wideWord (16384 + p) % 32768)

/-- A tile's rows in a class, the stored words read as that class (R312, R313). -/
def tileIn (tiles : List (Nat × Tile)) (t : Nat) (cls : MxClass) : List (List Nat) :=
  let a := Tab.find (t % 64) tiles
  let b := Tab.find ((t + 1) % 64) tiles
  let word (p : Nat) : Nat := if p < 16384 then Tile.word a p else Tile.word b (p - 16384)
  let grid (f : Nat → Nat) : List (List Nat) := (List.range 128).map fun i => rowOf128 fun q => f (128 * i + q)
  match cls, a, b with
  | .f64, some (.wide x), some (.half y) => if x = y then x.map fun r => r.map BitVec.toNat
      else grid fun i => word (Config.widePlace (2 * i) % 32768) + 2 ^ 32 * word (Config.widePlace (2 * i + 1) % 32768)
  | .f64, none, none => List.replicate 128 (List.replicate 128 0)
  | .f64, _, _ => grid fun i => word (Config.widePlace (2 * i) % 32768) + 2 ^ 32 * word (Config.widePlace (2 * i + 1) % 32768)
  | _, some (.words x), _ => x.map fun r => r.map BitVec.toNat
  | _, none, _ => List.replicate 128 (List.replicate 128 0)
  | _, _, _ => grid word

/-- An accumulator tile's rows. -/
def readTile (n t : Nat) (cls : MxClass) : EngM (List (List Nat)) := fun s => (.ok (tileIn (s.cl n).tiles t cls), s)

/-- A finished pass's accumulators put into their tile. -/
def Cluster.putTile (x : Cluster) (ctx t : Nat) (cls : MxClass) (rows : List (List Nat)) : Cluster :=
  match cls with
  | .f64 => let ws := rows.map fun r => r.map (BitVec.ofNat 64)
            { x with tiles := Tab.put ((t + 1) % 64) (.half ws) (Tab.put (t % 64) (.wide ws) x.tiles)
                     tileCtx := Tab.put ((t + 1) % 64) ctx (Tab.put (t % 64) ctx x.tileCtx) }
  | _ => { x with tiles := Tab.put (t % 64) (.words (rows.map fun r => r.map (BitVec.ofNat 32))) x.tiles
                  tileCtx := Tab.put (t % 64) ctx x.tileCtx }

/-! ### Accumulation, 03 R98 to R101 -/

/-- A row or column as a pass multiplies it: values with their block numbers. -/
abbrev MxRow := List (Fp.Val × Nat)

/-- Groups of increasing k: at most `lim`, cut where a block of either operand begins (R99). -/
def mxGroups (lim : Nat) : Nat → Nat → Nat → List (Fp.Val × Fp.Val) → List ((Fp.Val × Nat) × (Fp.Val × Nat)) → List (List (Fp.Val × Fp.Val))
  | _, _, _, cur, [] => if cur.isEmpty then [] else [cur.reverse]
  | ba, bb, n, cur, ((x, i), (y, j)) :: t =>
      if n < lim ∧ (n = 0 ∨ (i = ba ∧ j = bb)) then mxGroups lim i j (n + 1) ((x, y) :: cur) t
      else (if cur.isEmpty then [] else [cur.reverse]) ++ mxGroups lim i j 1 [(x, y)] t

/-- The exact sum of finite values, −0 only where all of them are. -/
def sumFin (ps : List Fp.Val) : Fp.Val :=
  let t := ps.foldl (fun (t : Int) p => match p with
    | .fin _ _ e => if e < t then e else t
    | _ => t) 0
  let v := ps.foldl (fun (x : Int) p => match p with
    | .fin g m e => x + Fp.signedAt g m e t
    | _ => x) 0
  if v = 0 then .fin (ps.all fun p => match p with
    | .fin g m _ => g && m == 0
    | _ => false) 0 0
  else .fin (decide (v < 0)) v.natAbs t

/-- A group's sum (R99, R100). -/
def groupSum (g : List (Fp.Val × Fp.Val)) : Fp.Val × Fp.Flags :=
  let ps := g.map fun p => Fp.mulVal p.1 p.2
  let fl := ps.foldl (fun f p => f ||| p.2) (0 : Fp.Flags)
  let vs := ps.map (·.1)
  let up := vs.contains (.inf false)
  let dn := vs.contains (.inf true)
  if vs.any Fp.Val.isNaN then (.nan false, fl)
  else if up && dn then (.nan false, fl ||| Fp.NV)
  else if up then (.inf false, fl)
  else if dn then (.inf true, fl)
  else (sumFin vs, fl)

/-- An accumulator with its flags and saturation. -/
structure AccOut where
  v : Nat
  fl : Fp.Flags := 0
  sat : Bool := false

/-- One accumulator through a pass: R98 for FP64, R99 and R100 for FP32, R101 for INT32. NV, OF and NX are
recorded. -/
def mxDot (cls : MxClass) (imode : Bool) (acc : Nat) (a b : MxRow) : AccOut :=
  let gs := mxGroups (if cls = .f64 then 1 else 32) 0 0 0 [] (a.zip b)
  match cls with
  | .i32 =>
      let r := gs.foldl (fun (x : Int × Bool) g =>
        let v := x.1 + (match (groupSum g).1 with
          | .fin sg m e => Fp.signedAt sg m e 0
          | _ => 0)
        if imode then
          if v < -(2 ^ 31) then (-(2 ^ 31), true) else if 2 ^ 31 - 1 < v then (2 ^ 31 - 1, true) else (v, x.2)
        else ((BitVec.ofInt 32 v).toInt, x.2)) ((BitVec.ofNat 32 acc).toInt, false)
      { v := (BitVec.ofInt 32 r.1).toNat, sat := r.2 }
  | _ =>
      let f := if cls = .f64 then Fp.f64 else Fp.f32
      let r := gs.foldl (fun (x : Nat × Fp.Flags) g =>
        let p := groupSum g
        let o := Fp.roundTo f .rn false (Fp.add false (Fp.decode f x.1) p.1)
        (o.1, x.2 ||| p.2 ||| o.2)) (acc, 0)
      { v := r.1, fl := r.2 &&& (Fp.NV ||| Fp.OF ||| Fp.NX) }

/-! ### Epilogue, R314 -/

/-- An f32 field in the epilogue type, exactly. -/
def constIn (cls : MxClass) (x : Nat) : Nat :=
  if cls = .f64 then Fp.widen32 x else x

/-- The epilogue on one element with its bias value. -/
def epilogue (c : Card) (cls : MxClass) (bias : Nat) (y : Nat) : Nat × Fp.Flags :=
  let f := if cls = .f64 then Fp.f64 else Fp.f32
  let y0 : Nat × Fp.Flags :=
    if cls = .i32 ∧ (c.epi ≠ 0 ∨ ¬ c.wraw) then
      let i := (BitVec.ofNat 32 y).toInt
      Fp.roundTo Fp.f32 .rn false ⟨(Fp.Val.fin (decide (i < 0)) i.natAbs 0).ex, 0⟩
    else (y, 0)
  let y1 : Nat × Fp.Flags :=
    if c.epi.testBit 0 then
      let o := Fp.roundTo f .rn false (Fp.mul (Fp.decode f y0.1) (Fp.decode f (constIn cls c.scale)))
      (o.1, y0.2 ||| o.2)
    else y0
  let y2 : Nat × Fp.Flags :=
    if c.epi.testBit 1 then
      let o := Fp.roundTo f .rn false (Fp.add false (Fp.decode f y1.1) (Fp.decode f (constIn cls bias)))
      (o.1, y1.2 ||| o.2)
    else y1
  if c.epi.testBit 2 then
    let lo := Fp.minMax f true false (constIn cls c.clo) y2.1
    let hi := Fp.minMax f false false (constIn cls c.chi) lo.1
    (hi.1, y2.2 ||| lo.2 ||| hi.2)
  else y2

/-- The flags of the epilogue over a finished tile, which it raises whether the tile is written out or not. -/
def epilogueFlags (c : Card) (cls : MxClass) (bias : List Nat) (rows : List (List Nat)) : Fp.Flags :=
  rows.foldl (fun f row => (List.range row.length).foldl (fun f q => f ||| (epilogue c cls (bias.getD q 0) (row.getD q 0)).2) f) 0

/-! ### A pass, R312 to R314 -/

/-- A write an engine makes: where, how many bytes, at which address, and the bytes. -/
structure Put where
  w : Where
  n : Nat
  va : Nat
  bs : List Byte

/-- What a pass leaves: accumulators, places with the bytes written to them, flags, saturation, rng. -/
structure PassOut where
  acc : List (List Nat)
  puts : List Put
  fl : Fp.Flags
  sat : Bool
  rng : Word

/-- Bytes laid along the spans of a range. -/
def alongSpans (va : Nat) (ps : List (Where × Nat)) (bs : List Byte) : List Put :=
  (ps.foldl (fun (acc : Nat × List Put) x => (acc.1 + x.2, acc.2 ++ [⟨x.1, x.2, va + acc.1, (bs.drop acc.1).take x.2⟩])) (0, [])).2

/-- Spans of a write of bytes to C. -/
def putC (e : Eng) (addr : Int) (bs : List Byte) : EngM (List Put) :=
  if bs.isEmpty then EngM.pure []
  else EngM.bind (engSpan e .g .own true (wrapAt .g addr) bs.length) fun ps => EngM.pure (alongSpans (wrapAt .g addr) ps bs)

/-- The rows of A or B from memory or scratch. -/
def operandRows (e : Eng) (sp : Space) (x : Fp.Slot) (base : Nat) : EngM (List MxRow) :=
  EngM.each (fun i => engRow e sp .own x base i (Fp.tileK x.fmt)) (List.range 128)

/-- The rows of A from accumulator tiles (R313), their flags and the rng left. -/
def tileRows (tiles : List (Nat × Tile)) (x : Fp.Slot) (base : Nat) (rng : Word) : List MxRow × Fp.Flags × Word :=
  let cls := mxClass x.fmt
  let k := Fp.tileK x.fmt
  let ts := (List.range (k / 128)).map fun q => tileIn tiles ((base + q) % 64) cls
  let val (w : Nat) : Fp.Val :=
    if cls = .i32 then let i := (BitVec.ofNat 32 w).toInt; .fin (decide (i < 0)) i.natAbs 0 else Fp.decode Fp.f32 w
  (List.range 128).foldl (fun (acc : List MxRow × Fp.Flags × Word) i =>
    let q := quantRow x ((ts.flatMap fun t => t.getD i []).map val) acc.2.2
    (acc.1 ++ [decodeRow x q.elem q.bitmap q.side k], acc.2.1 ||| q.fl, q.rng)) ([], 0, rng)

/-- The write-out of a finished tile (R314), row by row. What a row holds after side-stream overflow is undefined (03 R87):
the job ends before anything of the tile is written, earlier rows included (DESIGN CHOICE, log entry 51). -/
def writeOutRows (e : Eng) (c : Card) (cls : MxClass) (o : Option Fp.Slot) (addr : Int) (bias : List Nat) :
    List (Nat × List Nat) → Word → EngM (List Put × Fp.Flags × Word)
  | [], rng => EngM.pure ([], 0, rng)
  | (i, row) :: t, rng =>
      let ys := (List.range row.length).map fun q => epilogue c cls (bias.getD q 0) (row.getD q 0)
      let fl := ys.foldl (fun f y => f ||| y.2) (0 : Fp.Flags)
      let f := if cls = .f64 then Fp.f64 else Fp.f32
      let go (puts : List Put) (g : Fp.Flags) (rng : Word) :=
        EngM.bind (writeOutRows e c cls o addr bias t rng) fun r => EngM.pure (puts ++ r.1, g ||| r.2.1, r.2.2)
      match c.wraw, o with
      | false, some x =>
          let q := quantRow x (ys.map fun y => Fp.decode f y.1) rng
          if x.scheme = 3 ∧ q.side.length > x.sstride then fun s => (.fault 5 (wrapAt .g (addr + x.soff + (i * x.sstride : Nat))), s)
          else
            EngM.bind (putC e (addr + (i * x.estride : Nat)) q.elem) fun pe =>
            EngM.bind (putC e (addr + x.boff + (i * x.bstride : Nat)) q.bitmap) fun pb =>
            EngM.bind (putC e (addr + x.soff + (i * x.sstride : Nat)) q.side) fun pd =>
            go (pe ++ pb ++ pd) (fl ||| q.fl) q.rng
      | _, _ =>
          EngM.bind (putC e (addr + (i * c.crow : Nat)) (ys.flatMap fun y => leBytes cls.bytes y.1)) fun p => go p fl rng

/-- All a pass of a job does. -/
def mxPass (n : Nat) (e : Eng) (x : MxSlots) (j : MxJob) : EngM PassOut :=
  let c := j.c
  let cls := mxClass x.a.fmt
  let tile := c.dtile + cls.tiles * j.lin
  let ca : Int := c.cbase + j.sum 4 MxLevel.c
  let aAt : Int := c.abase + j.sum 5 MxLevel.a
  let start : EngM (List (List Nat)) :=
    if j.i 4 ≠ 0 ∨ c.acc = 1 then readTile n tile cls
    else if c.acc = 2 then
      EngM.each (fun i => EngM.bind (engRead e .g .own (wrapAt .g (ca + (i * c.crow : Nat))) (128 * cls.bytes)) fun bs =>
        EngM.pure (rowOf128 fun q => at64 bs (cls.bytes * q) cls.bytes)) (List.range 128)
    else EngM.pure (List.replicate 128 (List.replicate 128 0))
  let rowsA : EngM (List MxRow × Fp.Flags × Word) :=
    if c.asrc = 3 then fun s => (.ok (tileRows (j.kept.getD (s.cl n).tiles) x.a (aAt % 64).toNat j.rng), s)
    else EngM.bind (operandRows e (mxSpace c.asrc) x.a (wrapAt (mxSpace c.asrc) aAt)) fun r => EngM.pure (r, 0, j.rng)
  EngM.bind start fun acc =>
  EngM.bind rowsA fun a =>
  EngM.bind (operandRows e (mxSpace c.bsrc) x.b (wrapAt (mxSpace c.bsrc) (c.bbase + j.sum 5 MxLevel.b))) fun b =>
  let out := (acc.zip a.1).map fun (row, ra) => (row.zip b).map fun (y, cb) => mxDot cls c.imode y ra cb
  let fl := out.foldl (fun f r => r.foldl (fun f y => f ||| y.fl) f) a.2.1
  let sat := out.any fun r => r.any AccOut.sat
  let rows := out.map fun r => r.map AccOut.v
  if j.lastPass then
    EngM.bind (if c.epi.testBit 1 then engRead e .g .own ((c.bias + 512 * j.lin) % 2 ^ 64) 512 else EngM.pure []) fun vb =>
    let bias := rowOf128 fun q => at64 vb (4 * q) 4
    if c.wout then
      EngM.bind (writeOutRows e c cls x.o ca bias ((List.range 128).zip rows) a.2.2) fun w =>
      EngM.pure ⟨rows, w.1, fl ||| w.2.1, sat, w.2.2⟩
    else EngM.pure ⟨rows, [], fl ||| epilogueFlags c cls bias rows, sat, a.2.2⟩
  else EngM.pure ⟨rows, [], fl, sat, a.2.2⟩

/-- The pass a job would make now: it waits for leases on the lines it would write (05 R131). -/
def State.runPass (s : State) (n : Nat) (j : MxJob) : Got PassOut × State :=
  let e := jobEng n j
  match s.mxSlots j.launch j.c with
  | none => (.fault 4 j.card.toNat, s)
  | some x => match mxPass n e x j s with
    | (.ok o, s) =>
        let ds := o.puts.map fun p => (p.w, p.n)
        if s.linesHeld e.owner (spanLines ds) then (.wait, s.engKnock e ds) else (.ok o, s)
    | r => r

/-! ### The reservation table, R315, R316 -/

/-- Tiles a job writes. -/
def State.mxWrites (s : State) (j : MxJob) : List Nat :=
  match s.mxSlots j.launch j.c with
  | none => []
  | some x =>
      let w := (mxClass x.a.fmt).tiles
      (List.range j.c.tiles).flatMap fun t => (List.range w).map fun h => (j.c.dtile + w * t + h) % 64

/-- Tiles a job reads. -/
def State.mxReads (s : State) (j : MxJob) : List Nat :=
  let c := j.c
  let own := if c.acc = 1 then s.mxWrites j else []
  match c.asrc, s.mxSlots j.launch c with
  | 3, some x =>
      let starts := c.lv.foldl (fun (l : List Nat) v =>
        (l.flatMap fun (y : Nat) => (List.range (if v.count < 64 then v.count else 64)).map fun (i : Nat) =>
          (((y : Int) + (i : Int) * v.a) % 64).toNat).eraseDups) [c.abase % 64]
      own ++ starts.flatMap fun y => (List.range (Fp.tileK x.a.fmt / 128)).map fun q => (y + q) % 64
  | _, _ => own

/-- Whether an earlier job holds a later one back (R315). -/
def State.mxClash (s : State) (e j : MxJob) : Bool :=
  e.open_ && ((s.mxWrites e).any (fun t => (s.mxReads j).contains t || (s.mxWrites j).contains t)
    || (s.mxReads e).any (s.mxWrites j).contains)

/-- Whether a table entry may make its next pass. -/
def State.mxReady (s : State) (n : Nat) (j : MxJob) : Bool :=
  j.open_ && j.left && !((s.cl n).table.any fun e => decide (e.seq < j.seq) && s.mxClash e j)

/-- Cycles after which an entry or a request is aged (R316, 22 R431). -/
def agedAfter : Nat := 8192

/-- An entry as the arbiter finds it in a cycle: aged once it has waited that long (R316). -/
def MxJob.asOf (now : Nat) (j : MxJob) : MxJob := { j with aged := j.aged || decide (j.since + agedAfter ≤ now) }

/-- Whether one entry is granted before another (R316). -/
def MxJob.before (a b : MxJob) : Bool :=
  if a.aged != b.aged then a.aged
  else if a.aged then decide (a.since < b.since)
  else decide (a.c.pri > b.c.pri) || (a.c.pri == b.c.pri && decide (a.seq < b.seq))

/-- The entry first in order. -/
def firstJob : List MxJob → Option MxJob
  | [] => none
  | r :: t => match firstJob t with
    | some b => if b.before r then some b else some r
    | none => some r

/-- A table entry changed. -/
def State.setJob (s : State) (n seq : Nat) (f : MxJob → MxJob) : State :=
  s.setCl n fun x => { x with table := x.table.map fun j => if j.seq = seq then f j else j }

/-- Cost and priority of a pass (22 R430, R431). -/
def State.passResv (s : State) (j : MxJob) : Resv :=
  let k := match s.mxSlots j.launch j.c with
    | some x => Fp.tileK x.a.fmt
    | none => 0
  { who := 4, job := j.seq, cost := if k = 512 then 16 else if k = 256 then 12 else 10, pri := j.c.pri, since := s.cycle }

/-! ### A card's words, faults and completion, R317 to R319 -/

/-- Bytes written into a job's card; nothing where its page no longer takes them. -/
def State.cardPut (s : State) (e : Eng) (addr : Nat) (bs : List Byte) : State :=
  match engUpdate e (addr % 2 ^ 64) bs.length s with
  | (.ok ps, s) => (alongSpans addr ps bs).foldl (fun s x => s.engPut e x.va x.w x.bs) s
  | (_, s) => s

/-- STATE kept current (R321). -/
def State.cardState (s : State) (n : Nat) (j : MxJob) (code : Nat) : State :=
  s.cardPut (jobEng n j) (j.card.toNat + 0xB4) (leBytes 4 (j.word code))

/-- PROG0 to PROG4. -/
def State.cardProg (s : State) (n : Nat) (j : MxJob) : State :=
  s.cardPut (jobEng n j) (j.card.toNat + 0xA0) (j.idx.flatMap (leBytes 4))

/-- A job's record (R318, R319). -/
def State.jobRecord (s : State) (n : Nat) (j : MxJob) (kind code : Nat) : State :=
  s.engRecord (jobEng n j) (j.c.cmpl.testBit 25) (bits j.c.cmpl 9 0) j.c.evtag kind code j.card true

/-- A job that ends leaves the table when its record has a place (17 R372). -/
def State.leaveTable (s : State) (n : Nat) (j : MxJob) : State :=
  let e := jobEng n j
  let s := (s.dropEngReads e.owner).release e.owner
  let s := s.setCl n fun x =>
    { x.unreserve 4 j.seq with table := x.table.filterMap fun y =>
        if y.seq = j.seq then (if s.recordWaits e.owner then some j else none) else some y }
  s.settleCrew j.crew

/-- A card whose job faulted is noted with its crew until it is posted again (08 R205). -/
def State.noteFaulted (s : State) (crew : Nat) (card : DWord) : State :=
  s.setCr crew fun c => { c with faulted := if c.faulted.contains card then c.faulted else c.faulted ++ [card] }
/-- A card posted anew: no crew of its context waits for it any longer. -/
def State.clearFaulted (s : State) (ctx : Nat) (card : DWord) : State :=
  { s with crews := s.crews.map fun (c, x) => (c, if x.ctx = ctx then { x with faulted := x.faulted.filter (· != card) } else x) }

/-- A job faulted (R319, 18 R385). -/
def State.jobFault (s : State) (n : Nat) (j : MxJob) (code addr : Nat) : State :=
  let j := { j with st := 5, running := false, chosen := false }
  let e := jobEng n j
  let s := (s.cardProg n j).cardPut e (j.card.toNat + 0xB8) (leBytes 8 addr)
  let s := (s.cardState n j code).jobRecord n j 6 code
  let s := s.fltqRecord e 1 0 n code addr
  (s.noteFaulted j.crew j.card).leaveTable n j

/-- The place of a card's memory barrier, where it is checked (R319). -/
def mbarSpan (e : Eng) (addr : Nat) : EngM (List (Where × Nat)) :=
  engGlobal e { r := true, w := true, rtype := .own, whole := true, engineDst := true } 2 addr 16

/-- One arrival of an engine on a memory barrier (05 R137). -/
def State.engArrive (s : State) (e : Eng) (va : Nat) (w : Where) : State :=
  let o : Op := { th := engKey e.owner, crew := e.crew, core := 0, kind := .mbarr false, loc := w, va := BitVec.ofNat 64 va, size := 16, space := .g
                  rtype := .uc, ty := .b32, data := leBytes 4 1 }
  match w with
  | .remote d a => (s.newOp o).sendRemote s.seq o d a
  | _ => (s.doWrite o).1

/-- The first completion step of a job (R318): its STATE is written. -/
def State.jobClose (s : State) (n : Nat) (j : MxJob) : State :=
  (s.cardState n { j with st := 4 } 1).setJob n j.seq fun y => { y with closing := true }

/-- The completion steps of a job once its STATE is performed (R318, 05 R137). -/
def State.jobDone (s : State) (n : Nat) (j : MxJob) (mbar : Option Where) : State :=
  let j := { j with st := 4 }
  let s := if j.c.cmpl.testBit 31 then s.arriveBar j.crew (bits j.c.cmpl 30 27) else s
  let s := match mbar with
    | some w => s.engArrive (jobEng n j) j.c.mbar w
    | none => s
  (s.jobRecord n j 3 1).leaveTable n j

/-- MATRIX_JOB_COMPLETE, R318, R319: the memory barrier is checked before any step. -/
def State.completeJob (s : State) (n i : Nat) : State :=
  match ((s.cl n).table)[i]? with
  | none => s
  | some j =>
      let e := jobEng n j
      if !j.open_ || j.left || j.running || !s.engIdle e.owner || s.engReleasing e.owner (bits j.c.cmpl 24 22) then s
      else
        -- the steps follow the write of STATE when it is performed
        let close (s : State) (m : Option Where) : State :=
          let s := if j.closing then s else s.jobClose n j
          if s.engIdle e.owner then s.jobDone n j m else s
        let st := match (engUpdate e ((j.card.toNat + 0xB4) % 2 ^ 64) 4 s).1 with
          | .ok ps => spanLines ps
          | _ => []
        if s.linesHeld e.owner st then s
        else if j.c.cmpl.testBit 26 then
          match mbarSpan e j.c.mbar s with
          | (.fault code _, s) => s.jobFault n { j with idx := [(j.c.level 0).count, 0, 0, 0, 0] } code j.c.mbar
          | (.ok ((w, _) :: _), s) =>
              if s.linesHeld e.owner (spanLines [(w, 16)]) || (w.line.bind s.leaseUntil).isSome then s else close s (some w)
          | (_, s) => s
        else close s none

/-! ### Passes -/

/-- The next pass granted to the first entry in order whose operands are there (R316): an entry whose pass
still waits for a crew, a line or a peer is not ready (R312). `fuel` bounds the list. -/
def State.grantFirst (s : State) (n : Nat) : Nat → List MxJob → State
  | 0, _ => s
  | fuel + 1, l => match firstJob l with
    | none => s
    | some j => match s.runPass n j with
      | (.wait, s) => s.grantFirst n fuel (l.filter fun y => y.seq != j.seq)
      | (.fault code a, s) => s.jobFault n j code a
      | (.poison, s) => s.engKill (jobEng n j) n
      | (.ok _, _) =>
          let s := if j.st = 1 then s.cardState n { j with st := 2 } 0 else s
          (s.setJob n j.seq fun y =>
            { y with st := 2, chosen := true, since := s.cycle, aged := false, kept := if j.c.asrc = 3 then some (s.cl n).tiles else none }).setCl n fun x =>
            x.request (s.passResv j)

/-- MATRIX_PASS_GRANT, R316. -/
def State.grantPass (s : State) (n : Nat) : State :=
  let t := (s.cl n).table
  if t.any fun j => j.running || j.chosen then s else s.grantFirst n t.length ((t.filter (s.mxReady n)).map (MxJob.asOf s.cycle))

/-- MATRIX_PASS_COMPLETE, R312 to R314. -/
def State.completePass (s : State) (n : Nat) : State :=
  match (s.cl n).table.find? fun j => j.running with
  | none => s
  | some j =>
      let e := jobEng n j
      match s.runPass n j, s.mxSlots j.launch j.c with
      | (.fault code a, s), _ => s.jobFault n j code a
      | (.poison, s), _ => s.engKill e n
      | (.ok o, s), some x =>
          if (spanLines (o.puts.map fun p => (p.w, p.n))).any fun l => (s.leaseUntil l).isSome then s
          else
          let cls := mxClass x.a.fmt
          let s := s.setCl n fun y => (y.putTile j.ctx (j.c.dtile + cls.tiles * j.lin) cls o.acc).unreserve 4 j.seq
          let s := (o.puts.foldl (fun s p => s.engPut e p.va p.w p.bs) s).dropEngReads e.owner
          let j' := { j with fl := j.fl ||| o.fl, sat := j.sat || o.sat, rng := o.rng, idx := stepIdx j.c j.idx, running := false, kept := none }
          ((s.release e.owner).setJob n j.seq fun _ => j').cardState n j' 0
      | (_, s), _ => s

/-! ### Reservations granted, 22 R431 -/

/-- Whether what a request is for can start now. -/
def State.resvReady (s : State) (n : Nat) (r : Resv) : Bool :=
  if r.who < 4 then true
  else if r.who = 4 then
    match (s.cl n).table.find? fun j => j.seq == r.job with
    | some j => !s.valleyResizing j.crew && (match (s.runPass n j).1 with
        | .wait => false
        | _ => true)
    | none => false
  else
    let c := r.job / 4
    match (s.chan c (r.job % 4)).flight with
    | some rec => !s.valleyResizing c && (match (s.copyPlan c (r.job % 4) rec).1 with
        | .wait => false
        | _ => true)
    | none => false

/-- A chosen pass issues: the lines it will write are its own (05 R135). -/
def State.issuePass (s : State) (n seq : Nat) : State :=
  match (s.cl n).table.find? fun j => j.seq == seq with
  | none => s
  | some j =>
      let e := jobEng n j
      match s.runPass n j with
      | (.ok o, s) => (s.takeLines e.owner (spanLines (o.puts.map fun p => (p.w, p.n)))).setJob n seq fun y => { y with chosen := false, running := true }
      | (.fault code a, s) => s.jobFault n j code a
      | (.poison, s) => s.engKill e n
      | (.wait, s) => s

/-- RESERVATION_GRANT, 22 R431. -/
def State.grantResv (s : State) (n : Nat) : State :=
  let x := s.cl n
  match x.nextGrant x.waiting.length ((x.waiting.filter (s.resvReady n)).map (Resv.asOf s.cycle)) with
  | none => s
  | some r =>
      let s := s.setCl n fun x => { x with waiting := x.waiting.filter fun y => !r.same y, held := x.held ++ [r] }
      if r.who < 4 then s
      else if r.who = 4 then s.issuePass n r.job
      else
        let c := r.job / 4
        let s := s.issueRecord c (r.job % 4)
        if (s.chan c (r.job % 4)).plan.isSome then s
        else (s.setCl n fun x => x.unreserve 5 r.job).readRecord c (r.job % 4)

/-- Reservations of work that is gone are given back, and entries whose record has a place leave. -/
def State.tidyCluster (s : State) (n : Nat) : State :=
  let s := s.endBursts n
  let mine (w : Nat) : Bool := decide (jobOwner n 0 ≤ w) && decide (w < jobOwner n 0 + 2 ^ 40)
  let s := { s with engOwned := s.engOwned.filter fun (_, w) => !mine w || (s.cl n).table.any fun j => jobOwner n j.seq == w }
  s.setCl n fun x =>
    let live (r : Resv) : Bool :=
      if r.who < 4 then true
      else if r.who = 4 then x.table.any fun j => j.seq == r.job && j.open_ && (j.running || j.chosen)
      else (Tab.find (r.job / 4) s.crews).isSome && (s.chan (r.job / 4) (r.job % 4)).flight.isSome
    { x with held := x.held.filter live, waiting := x.waiting.filter live
             table := x.table.filter fun j => j.open_ || s.recordWaits (jobOwner n j.seq) }

/-! ### Posting, R317, R320 -/

/-- The engine a thread's post of a card reads through, for cards on another device. -/
def State.postEng (s : State) (k : Nat) : Eng :=
  { owner := 2 ^ 61 + k, crew := crewOf k, ctx := s.ctxTh k, launch := (s.crewTh k).launch, master := s.coreTh k, plain := s.plainTh k }

/-- The four 64-byte parts of a card as the thread's own access (R317). -/
def State.cardPlaces (s : State) (k card : Nat) (n : Need) : Nat → (Placed × List Where) × State
  | 0 => ((.at_ (.mem 0), []), s)
  | i + 1 =>
      match s.cardPlaces k card n i with
      | ((.at_ _, l), s) => (match s.place k .g ((card + 64 * i) % 2 ^ 64) 1 { n with size := 64 } with
          | (.at_ w, s) => ((.at_ w, l ++ [w]), s)
          | (p, s) => ((p, []), s))
      | r => r

/-- Bytes a thread reads for a post, with the stores of its crew that the engine sees as its member (05 R120, R134): a line
another holds, or an answer not yet there, makes it wait. -/
def State.postBytes (s : State) (k card : Nat) (l : List (Where × Nat)) : Got (List Byte) × State :=
  let e := s.postEng k
  let held := (spanLines l).any fun x => s.leasedByOther k x || s.engOwned.any fun (y, _) => y == x
  if held then (.wait, s.knockAll k ((spanLines l).filter (s.leasedByOther k)))
  else EngM.bind (EngM.each (fun (x : Where × Nat) s => match x.1 with
    | .remote d a => engRemote e card d a x.2 s
    | w => if w.poisoned s x.2 then (.poison, s) else let r := s.engLook e w x.2; (.ok r.1, r.2)) l) (fun bs => EngM.pure bs.flatten) s

/-- Contexts whose posts wait for the table of a cluster (17 R368): of threads, not those that still read a card or a status of
another device; jobs that a PARK stopped, once it is released; posts through ENGRES. -/
def State.postWaiters (s : State) (n : Nat) : List Nat :=
  let reading (k : Nat) : Bool := !(s.opsOf (engKey (s.postEng k).owner) fun o => o.early.isNone).isEmpty
  ((s.threads.filter fun (k, t) => t.wait == .post && clusterOfCore (s.coreTh k) == n && !reading k).map fun (k, _) => s.ctxTh k)
  ++ ((s.crews.filter fun (_, c) => clusterOfCore c.core == n && !c.parked && !c.stopped.isEmpty).map fun (_, c) => c.ctx)
  ++ (s.reposts.filter fun x => field x.1 27 20 == n).map fun x => field x.1 15 0

/-- Whether a context may post on a cluster (R316, 17 R368). -/
def State.mxRoom (s : State) (n ctx : Nat) : Bool :=
  let t := (s.cl n).table
  decide (t.length < 16) && !(decide ((t.filter fun j => j.ctx == ctx).length ≥ 12) && (s.postWaiters n).any (· != ctx))

/-- A card with ST 0, 3, 4 or 5 enters the table, or fails its check (R317). -/
def State.enterJob (s : State) (n crew : Nat) (card : DWord) (b : List Byte) : State :=
  let x := s.cr crew
  let st := at64 b 0xB4 4 % 16
  let again : Bool := st == 3 || st == 5
  let w := at64 b 0xB4 4
  let seed := at64 b 0x98 4
  let j : MxJob :=
    { card := card, crew := crew, ctx := x.ctx, launch := x.launch, bytes := b
      idx := if again then (List.range 5).map fun i => at64 b (0xA0 + 4 * i) 4 else [0, 0, 0, 0, 0]
      fl := if again then BitVec.ofNat 5 (bits w 20 16) else 0, sat := again && w.testBit 21
      rng := BitVec.ofNat 32 (if seed = 0 then 1 else seed), since := s.cycle, seq := s.seq }
  let s := (s.bump.setCx x.ctx fun c => { c with posters := Tab.put card.toNat crew c.posters }).clearFaulted x.ctx card
  match s.cardCheck x.launch b with
  | some code =>
      let j := { j with st := 5 }
      let s := (s.cardPut (jobEng n j) (card.toNat + 0xB8) (leBytes 8 card.toNat)).cardState n j code
      let s := ((s.setCl n fun y => { y with table := y.table ++ [j] }).jobRecord n j 6 code).noteFaulted crew card
      s.leaveTable n j
  | none => (s.cardState n j 0).setCl n fun y => { y with table := y.table ++ [j] }

/-- A thread's post of a card (R317): what it writes is given by `fin`. -/
def State.postEff (s : State) (k : Nat) (card : DWord) (fin : Bool → State → State) : Eff :=
  let raise (c : BitVec 8) (tf : Option DWord) : Raise := ⟨c, card, tf, none⟩
  if card.toNat % 64 ≠ 0 then .trap (raise 0x12 none) s
  else
    match s.cardPlaces k card.toNat { r := true, w := true, rtype := .own } 4 with
    | ((.fault c _ tf, _), s) => .trap (raise c tf) s
    | ((.wait _, _), s) => .hold .post s
    | ((.busy l, _), s) => .left (s.knock k l)
    | ((.at_ _, ws), s) =>
        if !s.engineAdmits k then .trap (raise 0x11 (some card)) (s.denied (s.plainTh k) (some (s.ctxTh k)))
        else
          match s.postBytes k card.toNat (ws.map fun w => (w, 64)) with
          | (.ok b, s) =>
              let st := at64 b 0xB4 4 % 16
              let n := clusterOfCore (s.coreTh k)
              let drop (s : State) := s.dropEngReads (s.postEng k).owner
              if st == 0 || st == 3 || st == 4 || st == 5 then
                if s.mxRoom n (s.ctxTh k) then .done (fin true ((drop s).enterJob n (crewOf k) card b)) else .hold .post s
              else .done (fin false (drop s))
          | (.poison, s) => .trap (raise 0x30 none) s
          | (_, s) => .hold .post s

/-- MXPOST, R317: a release at valley scope. -/
def execMxpost (h : Head) (d a : Spec) (s : State) : Host.Outcome State Fault Refusal :=
  .next (s.issueEach (.mxpost h d a) (fun s k => s.releasing k .valley) fun s k =>
    s.postEff k (s.r64 k a) fun b s => s.predWrite k d b)

/-- The convergence register a specifier names. -/
def cvOf : Spec → Nat
  | .sp i => i.toNat - 0x40
  | _ => 0
def State.conv (s : State) (c n : Nat) : Conv := Tab.getD n {} (s.cr c).cv
def State.setConv (s : State) (c n : Nat) (f : Conv → Conv) : State :=
  s.setCr c fun x => { x with cv := Tab.put n (f (Tab.getD n {} x.cv)) x.cv }

/-- CVINIT, R320. -/
def execCvinit (h : Head) (d a b : Spec) (s : State) : Host.Outcome State Fault Refusal :=
  .next (s.issueEach (.cvinit h d a b) noBlock fun s k =>
    let c := (s.r32 k a).toNat
    if 1 ≤ c ∧ c ≤ 65535 then
      .done (s.setConv (crewOf k) (cvOf d) fun _ => { count := c, awaited := c, card := s.r64 k b, init := true })
    else .trap ⟨0x01, BitVec.ofNat 64 c, none, none⟩ s)

/-- MXSIGN, R320: a release at valley scope; the last signer posts. -/
def execMxsign (h : Head) (d a : Spec) (s : State) : Host.Outcome State Fault Refusal :=
  .next (s.issueEach (.mxsign h d a) (fun s k => s.releasing k .valley) fun s k =>
    let v := s.conv (crewOf k) (cvOf a)
    if !v.init then .trap ⟨0x01, 0, none, none⟩ s
    else if v.awaited ≤ 1 then
      s.postEff k v.card fun b s => (s.setConv (crewOf k) (cvOf a) fun y => { y with awaited := y.count }).predWrite k d b
    else .done ((s.setConv (crewOf k) (cvOf a) fun y => { y with awaited := y.awaited - 1 }).predWrite k d false))

/-! ### MXSTAT, R321 -/

def mxstatNeed : Need := { r := true, rtype := .uc, size := 4 }
/-- The address MXSTAT reads. -/
def State.statAddr (s : State) (k : Nat) (a : Spec) : Nat := ((s.r64 k a).toNat + 0xB4) % 2 ^ 64

/-- The read of MXSTAT at its place, a .uc load of the thread. -/
def State.statOp (s : State) (k : Nat) (w : Where) : Op :=
  { th := k, crew := crewOf k, core := s.coreTh k, kind := .load, loc := w, va := 0, size := 4, space := .g, rtype := .uc, ty := .b32 }

/-- What MXSTAT waits for: earlier accesses of the thread to the word, a lease or an engine on its line. -/
def State.mxstatBlock (s : State) (k : Nat) (a : Spec) : Bool :=
  match (s.place k .g (s.statAddr k a) 4 mxstatNeed).1 with
  | .at_ (.mem p) => !s.enabled s.seq (s.statOp k (.mem p))
  | _ => false

/-- MXSTAT, R321: a read as a load's, which refreshes the L1's .si copy (05 R122). -/
def execMxstat (h : Head) (d a : Spec) (s : State) : Host.Outcome State Fault Refusal :=
  .next ((s.knocks (.mxstat h d a) fun s k => match (s.place k .g (s.statAddr k a) 4 mxstatNeed).1 with
    | .at_ w => w.line.toList
    | _ => []).issueEach (.mxstat h d a) (fun s k => s.mxstatBlock k a) fun s k =>
    s.accessEff k .g (s.statAddr k a) true mxstatNeed fun w s =>
      match w with
      | .remote dev pa => (match engRemote (s.postEng k) (s.statAddr k a) dev pa 4 s with
          | (.ok b, s) => .done ((s.dropEngReads (s.postEng k).owner).regWrite k d 1 (BitVec.ofNat 64 (leNat b)))
          | (_, s) => .hold .post s)
      | _ =>
          let r := s.loadBytes s.seq (s.statOp k w)
          .done (((r.2.2).observe k r.2.1).regWrite k d 1 (BitVec.ofNat 64 (leNat r.1))))

/-- Whether a thread that waits to post may try again. -/
def State.postOpen (s : State) (k : Nat) : Bool :=
  s.mxRoom (clusterOfCore (s.coreTh k)) (s.ctxTh k)
  && (s.opsOf (engKey (s.postEng k).owner) fun o => o.early.isNone).isEmpty

/-! ### Events -/

/-- MATRIX_PASS_GRANT, R316. -/
def execMatrixPassGrant (cluster : Nat) (s : State) : Host.Outcome State Fault Refusal := .next (s.grantPass cluster)

/-- MATRIX_ENTRY_AGED, R316. -/
def execMatrixEntryAged (cluster j : Nat) (s : State) : Host.Outcome State Fault Refusal :=
  .next (match ((s.cl cluster).table)[j]? with
    | some e => if e.since + agedAfter ≤ s.cycle ∧ e.open_ then s.setJob cluster e.seq fun y => { y with aged := true } else s
    | none => s)

/-- MATRIX_PASS_COMPLETE, R312. -/
def execMatrixPassComplete (cluster : Nat) (s : State) : Host.Outcome State Fault Refusal := .next (s.completePass cluster)

/-- MATRIX_JOB_COMPLETE, R318. -/
def execMatrixJobComplete (cluster j : Nat) (s : State) : Host.Outcome State Fault Refusal := .next (s.completeJob cluster j)

/-- RESERVATION_GRANT, 22 R431. -/
def execReservationGrant (cluster : Nat) (s : State) : Host.Outcome State Fault Refusal := .next (s.grantResv cluster)

/-- RESERVATION_AGED, 22 R431. -/
def execReservationAged (cluster j : Nat) (s : State) : Host.Outcome State Fault Refusal :=
  .next (match ((s.cl cluster).waiting)[j]? with
    | some r =>
        if r.since + agedAfter ≤ s.cycle then
          s.setCl cluster fun x => { x with waiting := x.waiting.map fun y => if y == r then { y with aged := true } else y }
        else s
    | none => s)

end Sys2Proof.Machine
end

