-- ==== Sys2Proof/Machine/Messages.lean ====
section
/-! DEFINITION. Event queues (12 R322, R323, 17 R371, R372), active messages and their handlers
(12 R324 to R327, 20 R406), and quiet waits (12 R328). -/

namespace Sys2Proof.Machine

/-! ### Event rings, 17 R371, R372 -/

/-- The descriptor of a queue word (12 R323). -/
def State.eqDesc (s : State) (q : Nat) : Nat := field (s.reg (0x500 + q / 64 % 16)) 55 11 * 2 ^ 11 + 32 * (q % 64)

/-- A number in memory as the device reads it. -/
def State.memNat (s : State) (a n : Nat) : Nat := leNat (s.homeBytes a n)

/-- Whether the descriptor of a queue is valid. -/
def State.eqValid (s : State) (q : Nat) : Bool := s.memNat (s.eqDesc q + 0x0E) 1 % 2 == 1 && decide (s.memNat (s.eqDesc q + 8) 4 > 0)

/-- Whether a ring has room, HEAD read anew. -/
def State.eqRoom (s : State) (q : Nat) : Bool :=
  let d := s.eqDesc q
  decide ((s.memNat (d + 0x10) 8 + 2 ^ 64 - s.memNat (d + 0x18) 8) % 2 ^ 64 < s.memNat (d + 8) 4)

/-- The slot of a ring that the next record takes. -/
def State.eqSlot (s : State) (q : Nat) : Nat :=
  let d := s.eqDesc q
  s.memNat d 8 + 16 * (s.memNat (d + 0x10) 8 % s.memNat (d + 8) 4)

/-- The lines of a ring's descriptor and of that slot. -/
def State.ringLines (s : State) (q : Nat) : List Nat := spanLines [(.mem (s.eqDesc q), 32), (.mem (s.eqSlot q), 16)]

/-- Whether a record cannot be appended yet: a line of the ring is leased, an engine's, or under remote read leases
(05 R131, R135, R143). -/
def State.ringBusy (s : State) (q : Nat) : Bool :=
  s.eqValid q && (s.linesHeld 0 (s.ringLines q) || (s.ringLines q).any fun l => (s.leaseUntil l).isSome)

/-- A record appended to a queue, or dropped where its descriptor is not valid (R372). -/
def State.eqAppend (s : State) (q : Nat) (bs : List Byte) : State :=
  let d := s.eqDesc q
  if s.eqValid q then
    let n := s.memNat (d + 0x10) 8
    let s := s.homeStore (s.eqSlot q) bs
    (s.homeStore (d + 0x10) (leBytes 8 (n + 1))).raiseIrq (q / 64 % 16)
  else s.logMc { bank := 12, sev := 1, type := 0x42, skind := 2, sidx := q / 64 % 16 }

/-- EVENT_RECORD_APPEND, R372: a waiting record with room in its ring is appended, the oldest of its source
first; a launch's STATUS follows its record. -/
def State.appendRecord (s : State) (n : Nat) : State :=
  match s.records[n]? with
  | none => s
  | some r =>
      if (s.records.take n).any fun x => x.launch == r.launch && x.owner == r.owner && (r.launch.isSome || r.owner.isSome || x.queue == r.queue) then s
      else if s.eqValid r.queue && !s.eqRoom r.queue then s
      else if s.ringBusy r.queue then s.knockAll (ringWho r.queue) (s.ringLines r.queue)
      else
        let s := { s with records := s.records.take n ++ s.records.drop (n + 1) }
        let s := s.eqAppend r.queue r.bytes
        match r.launch with
        | some l => s.writeStatus l (s.la l).final
        | none => s

/-- EVENT_RECORD_APPEND, R372. -/
def execEventRecordAppend (n : Nat) (s : State) : Host.Outcome State Fault Refusal := .next (s.appendRecord n)

/-- Whether the access table grants a thread a queue (12 R323, log entry 15). -/
def State.eqGrants (s : State) (k q : Nat) : Bool :=
  s.admits (32 + q / 64 % 16 / 4) (s.coreTh k) (8 * (0x500 + q / 64 % 16)) 8 true

/-- EQPOST, 12 R323: a release at device scope. -/
def execEqpost (h : Head) (a b c : Spec) (s : State) : Host.Outcome State Fault Refusal :=
  .next (s.issueEach (.eqpost h a b c) (fun s k => s.releasing k .device) fun s k =>
    let w := (s.r32 k a).toNat
    let q := w % 1024
    if !s.eqGrants k q then .trap (engineDenied (BitVec.ofNat 64 w)) (s.denied (q / 64) (some (s.ctxTh k)))
    else if s.eqValid q && !s.eqRoom q then .hold (.ring q) s
    else if s.ringBusy q then .left (s.knockAll (ringWho q) (s.ringLines q))
    else .done (s.eqAppend q (recordBytes (s.r32 k b).toNat 4 0 (s.laTh k).rcd.jobid (s.r64 k c))))

/-! ### Threads at their start, 01 R43, 02 R54 -/

/-- rng at thread start (R54). -/
def seedRng (seed : Word) (g : Nat) : Word :=
  let x := seed ^^^ BitVec.ofNat 32 (g * 0x9E3779B9)
  if x = 0 then 1 else x

/-- A row's lane freed of what an earlier thread left in it. -/
def Row.clearLane (x : Row) (lane : Nat) : Row :=
  { x with regs := x.regs.map fun (g, y) => (g, y.leave lane) }

/-- A thread started: everything zero but where the arguments say, its frame too (04 R104). -/
def State.spawn (s : State) (k : Nat) (pc : DWord) (g frame : Nat) : State :=
  let s := s.setRw (rowKey k) fun x => x.clearLane (laneOf k)
  let t : Thread := { pc := pc, hdr := pc, src := pc, rng := seedRng (s.la (s.cr (crewOf k)).launch).rcd.seed g, frame := frame, since := s.cycle }
  State.zeroFrame { s with threads := Tab.put k t s.threads } k

/-! ### Messages, R324 to R327 -/

/-- Under which number a launch's messages are counted: its job, or for a launch without a job entry one
of its own (20 R400, R406). -/
def State.jobKey (s : State) (l : Nat) : Nat := if (s.jobOf l).valid then (s.la l).rcd.jobid else 4096 + l

def Stream.isOf (x : Stream) (job dev die : Nat) : Bool := x.job == job && x.dev == dev && x.die == die
def State.stream (s : State) (job dev die : Nat) : Stream := (s.streams.find? fun x => x.isOf job dev die).getD { job := job, dev := dev, die := die }
def State.setStream (s : State) (job dev die : Nat) (f : Stream → Stream) : State :=
  let x := f (s.stream job dev die)
  { s with streams := (s.streams.filter fun y => !y.isOf job dev die) ++ [x] }

/-- ADDR of a message and of what answers it, which has to tell the streams of a device's dies apart and a refused message from a
refused access (log entry 13). -/
def msgAddr (die : Nat) : DWord := BitVec.ofNat 64 (2 ^ 52 + die % 4)
def flitDie (f : Flit) : Nat := f.addr.toNat % 4

/-- Free slots of a launch's handler crew. -/
def State.freeSlots (s : State) (l : Nat) : List Nat :=
  match (s.la l).hcrewId with
  | some c => if (Tab.find c s.crews).isSome then (List.range (s.la l).rcd.hcrew).filter fun i => (Tab.find (c * 4096 + i) s.threads).isNone else []
  | none => []

/-- Whether a launch takes a message now (R326, 20 R406): its handler crew is placed and not saved, and
its queue has room beyond what starts at once. -/
def State.takesMsg (s : State) (l : Nat) : Bool :=
  match (s.la l).hcrewId with
  | some c => (Tab.find c s.crews).isSome && decide ((s.la l).hq.length < 256 + (s.freeSlots l).length)
  | none => false

/-- A message put into a launch's handler queue. -/
def State.takeMsg (s : State) (l : Nat) (m : Msg) : State := s.setLa l fun x => { x with hq := x.hq ++ [m] }

/-- The messages a device has sent to itself, taken in order as far as there is room. -/
def State.offerOwn (s : State) (key : Nat) : Nat → State
  | 0 => s
  | fuel + 1 =>
      match s.sent.find? fun m => m.job == key && m.dst == s.myDev with
      | none => s
      | some m =>
          if s.takesMsg m.launch then
            (State.takeMsg { s with sent := s.sent.filter (· != m) } m.launch ⟨(s.la m.launch).dev, m.handler, m.payload⟩).offerOwn key fuel
          else s

/-- A message's flits (20 R398). -/
def State.msgFlit (s : State) (m : Sent) : Flit :=
  { kind := 6, size := 64, dst := BitVec.ofNat 16 m.dst, src := BitVec.ofNat 16 s.myDev, job := BitVec.ofNat 16 m.job
    epoch := BitVec.ofNat 16 (s.jobOf m.launch).epoch, fn := BitVec.ofNat 16 m.handler, seq := BitVec.ofNat 32 m.seq, addr := msgAddr m.die
    time := BitVec.ofNat 64 m.deadline, data := [], payload := m.payload }

/-- MSGLIFE in ns (20 R399). -/
def State.msgLife (s : State) : Nat := (s.reg 0x604).toNat % 2 ^ 32 * 1000

/-- A message sent (R325): counted injected, numbered in its stream, delivered or transmitted. A stream that
is abandoned holds it (20 R407). -/
def State.sendMsg (s : State) (l die dev hd : Nat) (payload : List Byte) : State :=
  let key := s.jobKey l
  let own := (s.la l).dev == dev || decide (key ≥ 4096)
  let dst := if own then s.myDev else (s.jobOf l).dmap.getD dev 0
  let x := s.stream key dst die
  let m : Sent := { job := key, dst := dst, die := die, seq := x.next, handler := hd, launch := l, payload := payload, deadline := s.ns + s.msgLife, retry := s.ns + 2000 }
  let s := (s.setJobCtr l fun j => j.on die Count.inject).setStream key dst die fun y => { y with next := (y.next + 1) % 2 ^ 32 }
  let s := { s with sent := s.sent ++ [m] }
  if own then s.offerOwn key s.sent.length
  else if x.abandoned then s
  else s.send (s.msgFlit m)

/-- MSEND, R325: a release at domain scope. -/
def execMsend (h : Head) (a b : Spec) (hx : BitVec 8) (s : State) : Host.Outcome State Fault Refusal :=
  .next (s.issueEach (.msend h a b hx) (fun s k => s.releasing k .domain) fun s k =>
    let l := (s.crewTh k).launch
    let la := s.la l
    let n := hx.toNat
    let dev := (s.r32 k b).toNat
    if la.rcd.msgn = 0 ∨ n ≥ la.rcd.msgn ∨ la.msgs.getD n 0 = 0 then .trap ⟨0x11, BitVec.ofNat 64 n, none, none⟩ s
    else if dev ≥ la.rcd.devs then .trap ⟨0x11, BitVec.ofNat 64 dev, none, none⟩ s
    else .done (s.sendMsg l (dieOfCore (s.coreTh k)) dev n ((rangeFrom a.vIndex 16).flatMap fun g => leBytes 4 ((s.th k).vget g).toNat)))

/-- The oldest message of a launch starts on a free slot (R326, R327): an acquire at domain scope. -/
def State.startHandler (s : State) (l : Nat) : State :=
  match (s.la l).hcrewId, (s.la l).hq, s.freeSlots l with
  | some c, m :: rest, slot :: _ =>
      if (s.cr c).parked then s
      else
      let la := s.la l
      let r := la.rcd
      let k := c * 4096 + slot
      let s := s.setLa l fun x => { x with hq := rest }
      let pc := (s.cx la.ctx).forward (la.msgs.getD m.handler 0 &&& 0x00FFFFFFFFFFFFFF)
      let s := s.spawn k pc (0xFF000000 + slot) (r.threads * r.crews * r.valleys * r.plains * r.dmax + slot)
      let ws := ((List.range 16).map fun i => BitVec.ofNat 32 (at64 m.payload (4 * i) 4)) ++ [BitVec.ofNat 32 (m.srcDev % 4096), BitVec.ofNat 32 m.handler]
      (s.writeVs k 0 (ws.take r.regs)).acquire (s.cr c).core .domain
  | _, _, _ => s

/-- HANDLER_START, R326. -/
def execHandlerStart (l : Nat) (s : State) : Host.Outcome State Fault Refusal := .next (s.startHandler l)

/-! ### Quiet, R328 -/

/-- Whether the job of a launch has been declared quiet at a wave after `w`. -/
def State.quietAfter (s : State) (l w : Nat) : Bool :=
  match (s.jobCtr l).quiet with
  | some q => decide (w < q)
  | none => false

/-- WAITQ, R328: cause 0x01 in a handler (R327); an acquire at domain scope. -/
def execWaitq (h : Head) (d : Spec) (s : State) : Host.Outcome State Fault Refusal :=
  .next (s.issueEach (.waitq h d) (fun s k => !(s.crewTh k).handler && s.merging k .domain) fun s k =>
    let l := (s.crewTh k).launch
    if (s.crewTh k).handler then .trap ⟨0x01, 0, none, none⟩ s
    else
      let w0 := match (s.th k).wait with
        | .quiet w => w
        | _ => (s.jobCtr l).wave
      if s.quietAfter l w0 then
        .done ((s.acquire (s.coreTh k) .domain).regWrite k d 2 (BitVec.ofNat 64 ((s.jobCtr l).quiet.getD 0)))
      else .hold (.quiet w0) s)

/-- QWAVE, R328. -/
def execQwave (h : Head) (d : Spec) (s : State) : Host.Outcome State Fault Refusal :=
  .next (s.issueEach (.qwave h d) noBlock fun s k => .done (s.regWrite k d 2 (BitVec.ofNat 64 (s.jobCtr (s.crewTh k).launch).wave)))

end Sys2Proof.Machine
end

