-- ==== Sys2Proof/Machine/Sha.lean ====
section
/-! DEFINITION. SHA-256 (FIPS 180-4), which measurements and the manifest of an image use (07 R192,
22 R444): its constants by the rule that defines them, its state a structure of eight words. -/

namespace Sys2Proof

/-! ### Constants: fractional parts of roots of primes -/

/-- The greatest number whose `k`th power is at most `n`, its bits below `i` still to be found. -/
def rootFrom (k n : Nat) : Nat → Nat → Nat
  | 0, r => r
  | i + 1, r => rootFrom k n i (if (r + 2 ^ i) ^ k ≤ n then r + 2 ^ i else r)

/-- The first 32 bits of the fractional part of the `k`th root of a number below 2^9. -/
def rootFraction (k p : Nat) : Word := BitVec.ofNat 32 (rootFrom k (p * 2 ^ (32 * k)) 37 0)

/-- The primes below 312, of which there are 64: no number up to 17 divides one but itself. -/
def shaPrimes : List Nat := ((List.range 310).map (· + 2)).filter fun p => (List.range 16).all fun d => p % (d + 2) != 0 || p == d + 2

/-- The constant of each round. -/
def shaConst : List Word := shaPrimes.map (rootFraction 3)

/-! ### A block -/

/-- The working variables, and the chaining value. -/
structure ShaState where
  a : Word
  b : Word
  c : Word
  d : Word
  e : Word
  f : Word
  g : Word
  h : Word
  deriving DecidableEq, Repr

/-- Eight words as a state, and back. -/
def ShaState.of (w : Nat → Word) : ShaState := ⟨w 0, w 1, w 2, w 3, w 4, w 5, w 6, w 7⟩
def ShaState.words (s : ShaState) : List Word := [s.a, s.b, s.c, s.d, s.e, s.f, s.g, s.h]

/-- The chaining value before the first block. -/
def ShaState.start : ShaState := .of fun i => rootFraction 2 (shaPrimes.getD i 0)

/-- Three rotations of a word added modulo 2, the last a shift in the message schedule. -/
def turn3 (w : Word) (i j k : Nat) : Word := w.rotateRight i ^^^ (w.rotateRight j ^^^ w.rotateRight k)
def turn2 (w : Word) (i j k : Nat) : Word := w.rotateRight i ^^^ (w.rotateRight j ^^^ w >>> k)

/-- A round with its constant and message word added. -/
def ShaState.round (s : ShaState) (kw : Word) : ShaState :=
  let choose := s.g ^^^ (s.e &&& (s.f ^^^ s.g))
  let majority := (s.a &&& (s.b ||| s.c)) ||| (s.b &&& s.c)
  let x := s.h + turn3 s.e 6 11 25 + choose + kw
  ⟨x + (turn3 s.a 2 13 22 + majority), s.a, s.b, s.c, s.d + x, s.e, s.f, s.g⟩

/-- Rounds over the message words; `win` are the next 16, of which each that is used makes a new one. -/
def ShaState.rounds (win : List Word) (s : ShaState) : List Word → ShaState
  | [] => s
  | k :: ks =>
      let w (i : Nat) : Word := win.getD i 0
      let next := w 0 + turn2 (w 1) 7 18 3 + (w 9 + turn2 (w 14) 17 19 10)
      (s.round (k + w 0)).rounds (win.drop 1 ++ [next]) ks

/-- A block of 64 bytes taken into the chaining value. -/
def ShaState.absorb (s : ShaState) (blk : List Byte) : ShaState :=
  let msg := (List.range 16).map fun i => BitVec.ofNat 32 (leNat ((blk.drop (4 * i)).take 4).reverse)
  let t := s.rounds msg shaConst
  .of fun i => s.words.getD i 0 + t.words.getD i 0

/-- Blocks in order. -/
def ShaState.absorbAll (s : ShaState) : Nat → List Byte → ShaState
  | 0, _ => s
  | n + 1, b => (s.absorb (b.take 64)).absorbAll n (b.drop 64)

/-- SHA-256 of bytes: 32 bytes. -/
def sha256 (m : List Byte) : List Byte :=
  let fill := List.replicate ((119 - m.length % 64) % 64) 0
  let all := m ++ (0x80 :: fill) ++ (leBytes 8 (8 * m.length)).reverse
  (ShaState.start.absorbAll (all.length / 64) all).words.flatMap fun w => (leBytes 4 w.toNat).reverse

end Sys2Proof
end

