-- ==== Sys2Proof/Machine/Registers.lean ====
section
/-! DEFINITION. The job table (20 R400, R414, R415) and the device registers: reading and writing them with
what a write does (17 R357, R370, R371, 18 R386, R388 to R392, 20 R399, R417, 22 R423, R424, R429, R436,
R439, R440, R444, R445). -/

namespace Sys2Proof.Machine

/-! ### The job table, 20 R400 -/

/-- Address of a job's entry. -/
def State.jobAddr (s : State) (j : Nat) : Nat := field (s.reg 0x605) 51 17 * 2 ^ 17 + 32 * j

/-- A job's entry as memory has it; its counters go on while it stays valid. -/
def State.jobEntry (s : State) (j : Nat) : Job :=
  let a := s.jobAddr j
  let old := Tab.getD j {} s.jobs
  let fl := s.memNat a 1
  let n := s.memNat (a + 4) 2 % 4096
  let m := s.memNat (a + 8) 8
  { valid := fl % 2 == 1, killed := fl / 2 % 2 == 1, epoch := s.memNat (a + 2) 2, devs := n, self := s.memNat (a + 6) 2 % 4096
    dmap := if fl % 2 = 1 then (List.range n).map fun i => s.memNat (m + 2 * i) 2 % 4096 else []
    ctr := if old.valid ∧ fl % 2 = 1 then { old.ctr with broken := fl / 4 % 2 == 1 } else {} }

/-- An entry read (R400). -/
def State.readJob (s : State) (j : Nat) : State :=
  let e := s.jobEntry j
  { s with jobs := Tab.put j e s.jobs }

/-- A flag of a job's entry set, in memory too. -/
def State.flagJob (s : State) (j bit : Nat) : State :=
  let a := s.jobAddr j
  let x := s.memNat a 1
  s.homeStore a (leBytes 1 (if x.testBit bit then x else x + 2 ^ bit))

/-- Launches of a job on this device that have begun and not ended. -/
def State.jobLaunches (s : State) (j : Nat) : List Nat :=
  (s.launches.filter fun (_, l) => l.rcd.jobid == j && l.entered && decide (l.status ≤ 1)).map (·.1)

/-- The machine-check record of a job and a device (22 R438; log entry 11). -/
def State.jobEvent (s : State) (type job dev : Nat) : State :=
  s.logMc { bank := 9, sev := 2, type := type, skind := 5, sidx := 0, addr := some (BitVec.ofNat 64 (job * 2 ^ 16 + dev)) }

/-- A kind-5 record of a message (12 R327, 20 R407). -/
def State.lostRecord (s : State) (m : Sent) (code : Nat) : State :=
  let la := s.la m.launch
  if la.rcd.evq.getLsbD 31 then
    s.addRecord { queue := la.rcd.evq.toNat % 1024
                  bytes := recordBytes la.rcd.evtag.toNat 5 code la.rcd.jobid (BitVec.ofNat 64 (m.dst % 4096 + m.handler % 256 * 2 ^ 12)) }
  else s

/-- The counters under which a message is counted. -/
def State.countMsg (s : State) (m : Sent) (f : Count → Count) : State :=
  if m.job < 4096 then { s with jobs := Tab.modify m.job (fun j => { j with ctr := j.ctr.on m.die f }) s.jobs }
  else s.setJobCtr m.launch fun j => j.on m.die f

/-- A message counted lost, with the record of kind 5 that says so (20 R407, R413, R422). -/
def State.loseMsg (s : State) (m : Sent) : State := (s.countMsg m Count.lose).lostRecord m 0

/-- Unacknowledged messages of a job to a device confirmed lost (20 R408, R412, R415): unconfirmed ones leave U,
those not yet abandoned are counted in L. -/
def State.loseStream (s : State) (job dev : Nat) : State :=
  let ms := s.sent.filter fun m => m.job == job && m.dst == dev
  let s := { s with sent := s.sent.filter fun m => !(m.job == job && m.dst == dev) }
  let s := ms.foldl (fun s m =>
    if m.retry = 0 then s.countMsg m fun j => { j with u := j.u - 1 }   -- abandoned before, in U
    else s.loseMsg m) s
  (List.range 4).foldl (fun s d => s.setStream job dev d fun x => { x with abandoned := false, repairing := none }) s

/-- Threads of a launch that wait for the job or for its devices (20 R414). -/
def State.jobWaiters (s : State) (l : Nat) : List Nat :=
  (s.threads.filter fun (k, t) => (s.crewTh k).launch == l && ((t.status == .phase) || (match t.wait with
    | .quiet _ => t.status == .waiting
    | _ => false))).map (·.1)

/-- FJSYNC on an entry (R414): a new epoch declares the devices dead that its DMAP omits. -/
def State.syncJob (s : State) (j : Nat) : State :=
  let old := Tab.getD j {} s.jobs
  let s := s.readJob j
  let new := Tab.getD j {} s.jobs
  let dead := old.dmap.filter fun d => !new.dmap.contains d
  if !(old.valid && new.valid) || old.epoch == new.epoch || dead.isEmpty then s
  else
    let s := { s with outbox := s.outbox.filter fun f => !(f.job.toNat == j && f.epoch.toNat != new.epoch) }
    let s := s.flagJob j 2
    let s := { s with jobs := Tab.modify j (fun x => { x with ctr := { x.ctr with broken := true } }) s.jobs }
    let low := dead.foldl (fun m d => if d < m then d else m) (dead.headD 0)
    let ks := (s.jobLaunches j).flatMap s.jobWaiters
    let s := ks.foldl (fun s k => s.trap k ⟨0x30, BitVec.ofNat 64 low, none, none⟩) s
    -- declared dead (05 R148): what such a device still answers carries an old generation
    dead.foldl (fun s d =>
      let s : State := { s with gens := Tab.put (agentKey (.peer d)) (s.gen (.peer d) + 1) s.gens }
      (s.loseStream j d).jobEvent 0x35 j d) s

/-! ### Reading device registers -/

/-- Numbers a chapter assigns to device registers. -/
def devAssigned (i : Nat) : Bool :=
  (decide (0x400 ≤ i) && decide (i ≤ 0x50F)) || i == 0x510 || (decide (0x520 ≤ i) && decide (i ≤ 0x522))
  || (decide (0x540 ≤ i) && decide (i ≤ 0x573)) || (decide (0x580 ≤ i) && decide (i ≤ 0x58F))
  || (decide (0x600 ≤ i) && decide (i ≤ 0x608)) || (decide (0x610 ≤ i) && decide (i ≤ 0x623)) || i == 0x630
  || (decide (0x700 ≤ i) && decide (i ≤ 0x70B)) || (decide (0x710 ≤ i) && decide (i ≤ 0x713)) || i == 0x718
  || i == 0x720 || i == 0x721 || (decide (0x800 ≤ i) && decide (i ≤ 0x87F) && decide (i % 8 ≤ 4))
  || (decide (0x900 ≤ i) && decide (i ≤ 0x924)) || i == 0x928 || i == 0x930 || i == 0x931

/-- Clusters that are enabled, and those in service (22 R441, R442). -/
def State.enabledCl (s : State) (n : Nat) : Bool := s.caps.clusen.getLsbD n
def State.inService (s : State) (n : Nat) : Bool := s.caps.clusen.getLsbD n && s.caps.clusin.getLsbD n

/-- Enabled clusters of a plain. -/
def State.plainClusters (s : State) (q : Nat) : List Nat := (List.range 12).filterMap fun c => if s.enabledCl (12 * q + c) then some (12 * q + c) else none

/-- The cluster whose L2 slice is home to a line of local memory (04 R116): of the enabled clusters of its plain, in
increasing index, one that the address picks. -/
def State.homeSlice (s : State) (pa : Nat) : Nat :=
  let h := pa / 2 ^ 7 % 2 ^ 8 ^^^ pa / 2 ^ 15 % 2 ^ 8 ^^^ pa / 2 ^ 23 % 2 ^ 8 ^^^ pa / 2 ^ 31 % 2 ^ 5
  let on := s.plainClusters (pa / 2 ^ 36)
  on.getD (h % on.length) (12 * (pa / 2 ^ 36))

/-- An event that an L2 slice or its directory finds on a line: its unit is the line's home (22 R438). -/
def State.logHome (s : State) (pa sev type : Nat) (ctx : Option Nat) : State :=
  s.logMc { bank := 3, sev := sev, type := type, skind := 1, sidx := s.homeSlice pa, ctx := ctx, addr := some (BitVec.ofNat 64 pa) }

/-- The bytes of the capability list of PF0's configuration space (22 R442). Of the 12 bytes of headers the spec gives the length,
0x60, and the DVSEC ID, 1, where PCIe has them: the capability's number and next pointer, the vendor ID and the revision are free
values (log entries 9, 71). -/
def State.capBytes (s : State) : List Byte :=
  let open_ (i : Nat) : Byte := Config.freeByte (s.free + i)
  (List.range 6).map open_ ++ [open_ 6 &&& 0x0F, 0x06] ++ leBytes 2 1 ++ (List.range 2).map (fun i => open_ (7 + i)) ++ leBytes 2 1 ++ leBytes 2 1 ++ leBytes 8 s.caps.feat.toNat
    ++ leBytes 4 (s.caps.ports.toNat % 2 ^ 20) ++ leBytes 4 0 ++ leBytes 24 s.caps.clusen.toNat
    ++ leBytes 24 (s.caps.clusen &&& s.caps.clusin).toNat ++ leBytes 16 (leNat ((List.range 16).map fun q => BitVec.ofNat 8 (s.caps.chan.getD q 0)))

/-- The supply of a cluster (22 R423). -/
def State.supplyOf (s : State) (n : Nat) : Nat := (s.reg (0x700 + n / 16)).toNat / 4 ^ (n % 16) % 4

/-- The tenant of a plain (18 R391). -/
def State.tenantOf (s : State) (q : Nat) : Option Nat :=
  let r := s.reg (0x580 + q)
  if r.getLsbD 31 then some (field r 15 0) else none

/-- ISO of a supply domain (22 R424). -/
def State.isoDomain (s : State) (d : Nat) : Bool :=
  let ts := (((List.range Config.clusters).filter fun n => s.supplyOf n == d).map fun n => s.tenantOf (plainOfCluster n)).eraseDups
  decide (ts.length ≤ 1)

def State.dom (s : State) (d : Nat) : Domain := Tab.getD d {} s.domains
def State.setDom (s : State) (d : Nat) (f : Domain → Domain) : State := { s with domains := Tab.put d (f (s.dom d)) s.domains }

/-- GRANT of a supply domain: the clusters of it that hold a boost grant (22 R424). -/
def State.granted (s : State) (d : Nat) : List Nat := (List.range Config.clusters).filter fun n => s.supplyOf n == d && (s.cl n).granted

/-- A bank's register. -/
def State.bankReg (s : State) (i : Nat) : DWord :=
  let b := Tab.getD ((i - 0x800) / 8) {} s.banks
  match i % 8 with
  | 0 => b.stat | 1 => b.addr | 2 => b.misc0 | 3 => b.misc1 | _ => BitVec.ofNat 64 b.cnt

/-- A measurement's 32 bytes (22 R444). -/
def State.measure (s : State) (n : Nat) : List Byte := Tab.getD n (List.replicate 32 0) s.meas

/-- The counter EVSEL of a master names (22 R439). -/
def State.evCount (s : State) (master : Nat) : Nat :=
  let e := (Tab.getD master 0 s.evsel).toNat
  let core := e / 2 ^ 12 % 2 ^ 10
  if core < Config.cores ∧ s.enabledCl (clusterOfCore core) then Tab.getD (16 * core + e % 16) 0 s.counters else 0

/-- A device register as a master reads it; none where the number is unassigned. -/
def State.devRead (s : State) (master i : Nat) : Option DWord :=
  if !devAssigned i then none
  else some <|
    if 0x580 ≤ i ∧ i ≤ 0x58F then s.reg i ||| (if (Tab.find i s.held).isSome then 0x40000000 else 0)
    else if 0x710 ≤ i ∧ i ≤ 0x713 then
      let d := s.dom (i - 0x710)
      BitVec.ofNat 64 ((if s.isoDomain (i - 0x710) then 2 ^ 31 else 0) + d.bmax * 2 ^ 16 + (s.granted (i - 0x710)).length * 2 ^ 8 + d.dperm)
    else if 0x610 ≤ i ∧ i ≤ 0x623 then (if s.caps.ports.getLsbD (i - 0x610) then s.reg i else 0)
    else if 0x800 ≤ i ∧ i ≤ 0x87F then s.bankReg i
    else if 0x900 ≤ i ∧ i ≤ 0x91F then BitVec.ofNat 64 (at64 (s.measure ((i - 0x900) / 4)) (8 * ((i - 0x900) % 4)) 8)
    else match i with
      | 0x601 => BitVec.ofNat 64 s.ns
      | 0x602 => s.ptpErr.setWidth 64
      | 0x521 | 0x606 | 0x920 | 0x921 | 0x922 | 0x923 | 0x924 => 0
      | 0x930 => (Tab.getD master 0 s.evsel).setWidth 64
      | 0x931 => BitVec.ofNat 64 (s.evCount master)
      | _ => s.reg i

/-! ### Writing device registers -/

/-- A number between two limits. -/
def between (lo hi n : Nat) : Nat := if n < lo then lo else if hi < n then hi else n

/-- Crews of a cluster that have not ended. -/
def State.clusterCrews (s : State) (n : Nat) : List Nat :=
  (s.crews.filter fun (_, c) => clusterOfCore c.core == n && !c.ended).map (·.1)

/-- Whether a change of a plain's partition must wait (18 R392): a crew stands on its clusters, or has still to start in a valley
bound there; one that has ended or is saved does not count. -/
def State.plainBusy (s : State) (q : Nat) : Bool := s.crews.any fun (_, c) => plainOfCore c.core == q && !c.ended

/-- PTEN written (18 R392). -/
def State.writePten (s : State) (q : Nat) (v : DWord) : State :=
  let i := 0x580 + q
  let v := v &&& 0x8000FFFF
  if v = s.reg i then { s with held := Tab.drop i s.held }
  else if s.plainBusy q then { s with held := Tab.put i v s.held }
  else { s.setReg i v with held := Tab.drop i s.held }

/-- A held PTEN value applied once it may (18 R392). -/
def State.applyPten (s : State) (q : Nat) : State :=
  match Tab.find (0x580 + q) s.held with
  | some v => if s.plainBusy q then s else { s.setReg (0x580 + q) v with held := Tab.drop (0x580 + q) s.held }
  | none => s

/-- The field of a cluster in a SUPMAP value replaced. -/
def supPut (v : DWord) (i x : Nat) : DWord := BitVec.ofNat 64 (v.toNat - v.toNat / 4 ^ i % 4 * 4 ^ i + x * 4 ^ i)

/-- A held SUPMAP field of a cluster applied once no context is resident there (22 R423). -/
def State.applySup (s : State) (n : Nat) : State :=
  let i := 0x700 + n / 16
  match Tab.find i s.held with
  | none => s
  | some v =>
      if !(s.clusterCrews n).isEmpty then s
      else
        let w := supPut (s.reg i) (n % 16) (v.toNat / 4 ^ (n % 16) % 4)
        { s.setReg i w with held := if w = v then Tab.drop i s.held else s.held }

/-- SUPMAP written: each changed field at once, or when its cluster is empty. -/
def State.writeSup (s : State) (k : Nat) (v : DWord) : State :=
  let i := 0x700 + k
  let v := v &&& 0xFFFFFFFF
  let s := { s with held := if v = s.reg i then Tab.drop i s.held else Tab.put i v s.held }
  (List.range 16).foldl (fun s j => s.applySup (16 * k + j)) s

/-- ATBASE written: the target has loaded the table when the write completes (18 R390). -/
def State.writeAtbase (s : State) (t : Nat) (v : DWord) : State :=
  let v := v &&& 0x800FFFFFFFFFF000
  let s := s.setReg (0x540 + t) v
  { s with acc := if v.getLsbD 63 then Tab.put t (accTableOf (s.coh (field v 51 12 * 2 ^ 12) 5376)) s.acc else Tab.drop t s.acc }

/-- MCiSTAT written: 1 clears VAL and OVER (22 R436). -/
def State.clearBank (s : State) (i : Nat) (v : DWord) : State :=
  { s with banks := Tab.put i (let b := Tab.getD i {} s.banks; { b with stat := b.stat &&& ~~~(v &&& 0xC000000000000000) }) s.banks }

/-- MEXTGO: a measurement of software extended (22 R444). -/
def State.extend (s : State) (n : Nat) : State :=
  if n < 3 then s
  else
    let d := (List.range 4).flatMap fun j => leBytes 8 (s.reg (0x920 + j)).toNat
    { s with meas := Tab.put n (sha256 (s.measure n ++ d)) s.meas }

/-- ATTREQ: a report asked for, where none is in progress (22 R445). -/
def State.askReport (s : State) (v : DWord) : State :=
  if (s.reg 0x928).getLsbD 0 then s else s.setReg 0x928 (v &&& 0x00FFFFFFFFFFC001)

/-- The report written, then GO reads 0 (22 R445). -/
def State.writeReport (s : State) : State :=
  if !(s.reg 0x928).getLsbD 0 then s
  else
    let a := field (s.reg 0x928) 55 14 * 2 ^ 14
    let m0 := s.measure 0
    let head := leBytes 4 0x54535441 ++ leBytes 2 1 ++ leBytes 2 0 ++ (List.range 8).map Config.serial
      ++ leBytes 8 s.caps.feat.toNat ++ (List.range 4).map Config.securityVersion ++ leBytes 4 0
    let meas := (List.range 8).flatMap s.measure
    let pub := (List.range 32).map (Config.attestationKey m0)
    let nonce := s.coh (a + 0x20) 32
    let sig := (List.range 7856).map (Config.signature (head ++ nonce ++ meas ++ pub))
    let n := Config.certificateLength 0 % 8129
    let s := (s.homeStore a head).homeStore (a + 0x40) (meas ++ pub ++ sig ++ List.replicate 48 0 ++ (List.range n).map (Config.certificate m0))
    s.setReg 0x928 (s.reg 0x928 &&& ~~~1)

/-- Whether the engines of a plain admit an access of a master to their registers (18 R388, log entry 15). -/
def State.enginesAdmit (s : State) (q master : Nat) : Bool := s.admits (36 + q) master 0 8 true

/-- ENGRES with KIND 0 (18 R386): a faulted channel goes on at its current record. -/
def State.resumeChannel (s : State) (ch cl ctx : Nat) : State :=
  (s.crews.filter fun (_, c) => c.ctx == ctx && clusterOfCore c.core == cl).foldl (fun s (c, _) =>
    if (s.chan c ch).st = 3 then s.setChan c ch fun x => { x with st := 1, halt := false } else s) s

/-- ENGRES with KIND 1 (18 R386): a card posted anew under 12 R317 as the crew that last posted it, which needs R and W on it
(R381), where its ST is 5; none while it must wait. -/
def State.resumeJob (s : State) (cl ctx : Nat) (card : DWord) : Option State :=
  match Tab.find card.toNat (s.cx ctx).posters with
  | none => some s
  | some crew =>
      let e : Eng := { owner := jobOwner cl s.seq, crew := crew, ctx := ctx, launch := (s.cr crew).launch, master := 0x3C0 + cl, plain := plainOfCluster cl }
      if (Tab.find crew s.crews).isNone then some s
      else match engUpdate e card.toNat 256 s with
        | (.wait, _) => none
        | (.ok _, s) => (match engRead e .g .own card.toNat 256 s with
            | (.ok b, s) =>
                if at64 b 0xB4 4 % 16 ≠ 5 then some s
                else if s.mxRoom cl ctx then some (s.enterJob cl crew card b) else none
            | (.wait, _) => none
            | (_, s) => some s)
        | (_, s) => some s

/-- A write of ENGRES by a master that the cluster's engines admit (18 R386, R388): a post that must wait is kept with its
card. -/
def State.engres (s : State) (master : Nat) (v : DWord) : State :=
  if !v.getLsbD 31 then s
  else
    let cl := field v 27 20
    let ctx := field v 15 0
    if !s.enginesAdmit (plainOfCluster cl) master then s.denied (plainOfCluster cl) none
    else if v.getLsbD 30 then
      match s.resumeJob cl ctx (s.reg 0x522) with
      | some s => s
      | none => { s with reposts := s.reposts ++ [(v, s.reg 0x522)] }
    else s.resumeChannel (field v 29 28) cl ctx

/-- Posts that wait, tried again, the oldest first. -/
def State.retryEngres (s : State) : State :=
  s.reposts.foldl (fun s x =>
    match s.resumeJob (field x.1 27 20) (field x.1 15 0) x.2 with
    | some s => { s with reposts := s.reposts.erase x }
    | none => s) s

/-- Requests of the host in flight on a link that is left: aborted, so that none is performed twice (20 R417). -/
def State.abortHost (s : State) : State :=
  let host (p : Posted) : Bool := decide (0x4A0 ≤ p.master) && decide (p.master ≤ 0x4AF)
  if s.posted.any host then { s with posted := s.posted.filter fun p => !host p, reply := .aborted } else s

/-- QCTL as a write leaves it (17 R357): STOP is cleared by a 1. -/
def qctlWrite (old v : DWord) : DWord :=
  let sz := between 0 8 (field v 19 16)
  (v &&& 0xDC00FFFF) ||| BitVec.ofNat 64 (sz * 2 ^ 16) ||| ((old &&& ~~~v) &&& 0x20000000)

/-- A device register written by a master; `machine` says from M-mode or a system context (22 R445). -/
def State.devWrite (s : State) (master : Nat) (machine : Bool) (i : Nat) (v : DWord) : State :=
  let n := v.toNat % 2 ^ 32
  let put (x : Nat) : State := s.setReg i (BitVec.ofNat 64 x)
  if 0x400 ≤ i ∧ i ≤ 0x4FF then
    match i % 4 with
    | 0 => s.setReg i (qctlWrite (s.reg i) v)
    | 1 => s.setReg i (v &&& 0x00FFFFFFFFFFF000)
    | 2 => put n
    | _ => s
  else if 0x500 ≤ i ∧ i ≤ 0x50F then s.setReg i (v &&& 0x00FFFFFFFFFFF800)
  else if 0x540 ≤ i ∧ i ≤ 0x573 then s.writeAtbase (i - 0x540) v
  else if 0x580 ≤ i ∧ i ≤ 0x58F then s.writePten (i - 0x580) v
  else if 0x700 ≤ i ∧ i ≤ 0x70B then s.writeSup (i - 0x700) v
  else if 0x710 ≤ i ∧ i ≤ 0x713 then
    s.setDom (i - 0x710) fun d => { d with bmax := between 0 48 (field v 23 16), dperm := between 0 64 (field v 6 0) }
  else if 0x800 ≤ i ∧ i ≤ 0x87F then
    match i % 8 with
    | 0 => s.clearBank ((i - 0x800) / 8) v
    | 4 => { s with banks := Tab.put ((i - 0x800) / 8) { Tab.getD ((i - 0x800) / 8) {} s.banks with cnt := n } s.banks }
    | _ => s
  else match i with
    | 0x510 => put n
    | 0x520 => s.setReg i (v &&& 0x800003FF)
    | 0x521 => s.engres master v
    | 0x522 => s.setReg i v
    | 0x600 => s.setReg i (v &&& 0x80000FFF)
    | 0x603 => put (let l := n % 2 ^ 17; if 1 ≤ l ∧ l ≤ 99 then 100 else l)
    | 0x604 => put (between 10 1000000 n)
    | 0x605 => s.setReg i (v &&& 0x000FFFFFFFFE0000)
    | 0x606 => if v.getLsbD 31 then s.syncJob (n % 4096) else s
    | 0x607 => put (between 2 1000 n)
    | 0x608 => put (between 1 1000000 n)
    | 0x630 => (if v.getLsbD 0 = (s.reg i).getLsbD 0 then s else s.abortHost).setReg i (v &&& 0x80000001)
    | 0x718 => put (between 16 28 (n % 32))
    | 0x720 => put ((if v.getLsbD 31 then 2 ^ 31 else 0) + (if n % 2 ^ 24 = 0 then 1 else n % 2 ^ 24))
    | 0x920 | 0x921 | 0x922 | 0x923 => s.setReg i v
    | 0x924 => s.extend (n % 8)
    | 0x928 => if machine ∧ v.getLsbD 0 then s.askReport v else if machine ∧ ¬ (s.reg i).getLsbD 0 then s.setReg i (v &&& 0x00FFFFFFFFFFC000) else s
    | 0x930 => { s with evsel := Tab.put master (v.setWidth 32 &&& 0x003FF00F) s.evsel }
    | _ => s

/-! ### The host and the control cores, 05 R138, R139, 18 R387 to R389, 20 R416 to R419 -/

/-- How many bytes a master's access concerns, and their lines. -/
def Posted.size (p : Posted) : Nat := if p.bytes.isEmpty then p.len else p.bytes.length
def Posted.lines (p : Posted) : List Nat := if p.reg.isSome then [] else spanLines [(.mem p.addr, p.size)]

/-- The die on which a master finds its register block: a control core's own, the host's that of its active link (20 R416). -/
def State.blockDie (s : State) (master : Nat) : Nat :=
  if master < 0x4A0 then master % 16 / 4 else if (s.reg 0x630).getLsbD 0 then 2 else 0

/-- What a denied access comes to: a RISC-V access fault of a control core, Unsupported Request of the host (18 R389). -/
def denialOf (master : Nat) : Reply := if master < 0x4A0 then .accessFault else .unsupported

/-- A master's access to a device register, performed in the block of its die where that admits it (18 R388, R389). -/
def State.regServe (s : State) (p : Posted) (i : Nat) : State :=
  let die := s.blockDie p.master
  let write := !p.bytes.isEmpty
  if !s.admits (32 + die) p.master (8 * i) 8 write then
    { s.denied (4 * die) none with reply := denialOf p.master, report := if write then s.report else [] }
  else if write then
    { (if devAssigned i then s.devWrite p.master (decide (p.master ≤ 0x48F)) i (BitVec.ofNat 64 (leNat p.bytes)) else s) with reply := .done }
  else { s with report := (s.devRead p.master i).elim [] fun v => leBytes 8 v.toNat, reply := .done }

/-- A master's access performed: to local memory at the home slices, denied by the access table or not; none while a line of
it is leased or an engine's, or, for a write, under remote read leases (05 R131, R135, R143). What a read gets stands in
`report`, nothing for a denied or poisoned one; `reply` says what the access came to. -/
def State.masterServe (s : State) (p : Posted) : Option State :=
  let write := !p.bytes.isEmpty
  let said (s : State) (r : Reply) (bs : List Byte) : State := { s with reply := r, report := if write then s.report else bs }
  match p.reg with
  | some i => some (s.regServe p i)
  | none =>
      if !s.paOk p.addr || !s.paOk (p.addr + p.size - 1) || p.size == 0 then some (said s (denialOf p.master) [])
      else if !s.admits (p.addr / 2 ^ 36) p.master (p.addr % 2 ^ 36) p.size write then
        some (said (s.denied (p.addr / 2 ^ 36) none) (denialOf p.master) [])
      else if s.linesHeld 0 p.lines || (write && p.lines.any fun l => (s.leaseUntil l).isSome) then none
      else if write then some (said (s.homeStore p.addr p.bytes) .done [])
      else some (said s .done (if s.poisoned p.addr p.size then [] else s.coh p.addr p.size))

/-- A master's access that waits: it meets leased lines as any access does (11 R284). -/
def State.masterKnock (s : State) (p : Posted) : State := s.knockAll (masterWho p.master) p.lines

/-- A master's access: performed now, or after those of the master that wait (05 R139). -/
def State.masterDo (s : State) (p : Posted) : State :=
  match if s.posted.any fun x => x.master == p.master then none else s.masterServe p with
  | some s => s
  | none =>
      let s := s.masterKnock p
      { s with posted := s.posted ++ [p], reply := .done, report := if p.bytes.isEmpty then [] else s.report }

/-- Accesses of masters that wait, tried again: those of one master in the order in which it made them (05 R139). -/
def State.servePosted (s : State) : State :=
  s.posted.foldl (fun s p =>
    if (s.posted.find? fun x => x.master == p.master) = some p then
      (State.masterServe { s with posted := s.posted.erase p } p).getD (s.masterKnock p)
    else s) s

/-- A write to local memory by a master, and a read; of a device register. -/
def State.masterWrite (s : State) (master addr : Nat) (bs : List Byte) : State :=
  if bs.isEmpty then s else s.masterDo { master := master, addr := addr, bytes := bs, len := 0 }
def State.masterRead (s : State) (master addr n : Nat) : State := s.masterDo { master := master, addr := addr, bytes := [], len := n }
def State.masterRegWrite (s : State) (master i : Nat) (v : DWord) : State :=
  s.masterDo { master := master, addr := 0, bytes := leBytes 8 v.toNat, len := 0, reg := some i }
def State.masterRegRead (s : State) (master i : Nat) : State := s.masterDo { master := master, addr := 0, bytes := [], len := 8, reg := some i }

/-! ### Events that write registers -/

/-- A device register written in M-mode by the control core of the caller's plain (16 R344, 17 R357). -/
def State.coreWrite (s : State) (i : Nat) (v : DWord) : State := s.masterRegWrite (0x480 + s.caller % 16) i v

/-- REGISTER_WRITE, 16 R344, 17 R357. -/
def execRegisterWrite (index : Nat) (v : DWord) (s : State) : Host.Outcome State Fault Refusal := .next (s.coreWrite index v)
/-- QTAIL_WRITE, 17 R358. -/
def execQtailWrite (q : Nat) (v : Word) (s : State) : Host.Outcome State Fault Refusal :=
  .next (if q < 64 then s.coreWrite (0x402 + 4 * q) (v.setWidth 64) else s)
/-- ENGRES_CHANNEL_RESUME, 18 R386. -/
def execEngresChannelResume (v : Word) (s : State) : Host.Outcome State Fault Refusal :=
  .next (if v.getLsbD 30 then s else s.coreWrite 0x521 (v.setWidth 64))
/-- ENGRES_JOB_POST, 18 R386. -/
def execEngresJobPost (v : Word) (s : State) : Host.Outcome State Fault Refusal :=
  .next (if v.getLsbD 30 then s.coreWrite 0x521 (v.setWidth 64) else s)
/-- ATBASE_WRITE, 18 R390. -/
def execAtbaseWrite (t : Nat) (v : DWord) (s : State) : Host.Outcome State Fault Refusal :=
  .next (if t < 52 then s.coreWrite (0x540 + t) v else s)
/-- PTEN_WRITE, 18 R392. -/
def execPtenWrite (q : Nat) (v : Word) (s : State) : Host.Outcome State Fault Refusal :=
  .next (if q < 16 then s.coreWrite (0x580 + q) (v.setWidth 64) else s)
/-- PTEN_APPLY, 18 R392. -/
def execPtenApply (q : Nat) (s : State) : Host.Outcome State Fault Refusal := .next (s.applyPten q)
/-- SUPMAP_WRITE, 22 R423. -/
def execSupmapWrite (k : Nat) (v : Word) (s : State) : Host.Outcome State Fault Refusal :=
  .next (if k < 12 then s.coreWrite (0x700 + k) (v.setWidth 64) else s)
/-- SUPMAP_APPLY, 22 R423. -/
def execSupmapApply (n : Nat) (s : State) : Host.Outcome State Fault Refusal := .next (s.applySup n)
/-- MEXTGO, 22 R444. -/
def execMextgo (v : Word) (s : State) : Host.Outcome State Fault Refusal := .next (s.coreWrite 0x924 (v.setWidth 64))
/-- ATTREQ, 22 R445. -/
def execAttreq (v : DWord) (s : State) : Host.Outcome State Fault Refusal := .next (s.coreWrite 0x928 v)
/-- ATTESTATION_REPORT_DONE, 22 R445. -/
def execAttestationReportDone (s : State) : Host.Outcome State Fault Refusal := .next s.writeReport
/-- MCSTAT_CLEAR, 22 R437. -/
def execMcstatClear (i : Nat) (v : DWord) (s : State) : Host.Outcome State Fault Refusal :=
  .next (if i < 16 then s.coreWrite (0x800 + 8 * i) v else s)
/-- HOSTSEL_WRITE, 20 R417. -/
def execHostselWrite (v : Word) (s : State) : Host.Outcome State Fault Refusal := .next (s.coreWrite 0x630 (v.setWidth 64))
/-- STOP_CLEAR, 17 R364: QCTL written with what it holds and a 1 at STOP. -/
def execStopClear (q : Nat) (s : State) : Host.Outcome State Fault Refusal :=
  .next (if q < 64 then s.coreWrite (0x400 + 4 * q) (s.reg (0x400 + 4 * q) ||| 0x20000000) else s)
/-- FJSYNC, 20 R414. -/
def execFjsync (job : Nat) (s : State) : Host.Outcome State Fault Refusal :=
  .next (s.coreWrite 0x606 (BitVec.ofNat 64 (2 ^ 31 + job % 4096)))

end Sys2Proof.Machine
end

