-- ==== Sys2Proof/Machine/Place.lean ====
section
/-! DEFINITION. Placing crews: room on a core (02 R56, 17 R366), the partitions and row slots of a crew
(01 R15), and a crew's start (01 R40, R43). -/

namespace Sys2Proof.Machine

/-! ### Rows of a crew, 01 R14, R15 -/

/-- Logical parts a crew of `n` threads uses. -/
def partsOf (n : Nat) : Nat := (n + 1023) / 1024
/-- Rows of a logical part. -/
def rowsOf (n part : Nat) : Nat := ((if n - 1024 * part < 1024 then n - 1024 * part else 1024) + 31) / 32

/-- Orders of the four partitions, lexicographic. -/
def partOrders : List (List Nat) :=
  (List.range 4).flatMap fun a => (List.range 4).flatMap fun b => (List.range 4).flatMap fun c => (List.range 4).filterMap fun d =>
    if [a, b, c, d].Nodup then some [a, b, c, d] else none

/-- What a partition holds: rows, the sum of their floors, rows of one launch. -/
structure PartUse where
  rows : Nat := 0
  floors : Nat := 0
  mine : Nat := 0

def State.partUse (s : State) (p l : Nat) : PartUse :=
  (s.partRows p).foldl (fun u (r, _) =>
    ⟨u.rows + 1, u.floors + s.floorRow r, u.mine + (if (s.cr (r / 128)).launch = l then 1 else 0)⟩) {}

/-- Whether `n` more rows of a launch fit a partition (R56, R366, 01 R44). -/
def PartUse.fits (u : PartUse) (r : Rcd) (n : Nat) : Bool :=
  decide (u.rows + n ≤ 32) && decide (u.floors + n * r.floor + Config.reserveEntries ≤ Config.poolEntries)
  && (r.vcap == 0 || decide (r.floor * (u.mine + n) ≤ r.vcap))

/-- A crew of `n` threads placed on partitions in use as given: the first order that fits, and on each partition the lowest
row slots that are free (DESIGN CHOICE, log entry 52: 01 R15 leaves open which). -/
def choosePlace (use : Nat → PartUse) (r : Rcd) (n : Nat) : Option (List Nat) :=
  partOrders.find? fun o => (List.range (partsOf n)).all fun i => (use (o.getD i 0)).fits r (rowsOf n i)

/-- Crews started on a core that have not ended. -/
def State.coreCrews (s : State) (core : Nat) : List (Nat × Crew) :=
  s.crews.filter fun (_, c) => c.core == core && c.started && !c.ended

/-- Crews whose scratch stands on a core: those that have started, until every crew of their valley has ended (04 R107); a
handler crew for the life of its launch (17 R367). -/
def State.scratchCrews (s : State) (core : Nat) : List (Nat × Crew) :=
  s.crews.filter fun (c, x) => x.core == core && x.started && (x.handler ||
    !(decide ((s.la x.launch).rcd.crews ≤ (s.valleyCrews c).length) && (s.valleyCrews c).all fun m => (s.cr m).ended))

/-- Crew scratch of a launch's crew on its core. -/
def Rcd.scratch (r : Rcd) : Nat := if r.excl then 2 ^ 19 + 2 ^ 17 * r.l1lend else r.cscr

/-- Whether the scratch, exclusiveness and save area of a core admit a crew, a handler crew as any (R366, 04 R109). A core is
held exclusively by an EXCL crew until that crew ends; while its scratch stands after that, a crew that fits beside the scratch
may come (DESIGN CHOICE, log entry 52). -/
def State.coreAdmits (s : State) (core ctx : Nat) (r : Rcd) : Bool :=
  let here := s.coreCrews core
  let rcd (c : Crew) : Rcd := (s.la c.launch).rcd
  let kept := s.scratchCrews core
  let used := kept.foldl (fun n (_, c) => n + (rcd c).scratch) 0
  (Tab.getD core 0 (s.cx ctx).csave != 0 || r.floor == r.regs)
  && !(here.any fun (_, c) => (rcd c).excl)
  && (if r.excl then here.isEmpty && kept.isEmpty else decide (used + r.cscr ≤ 2 ^ 19))
  && !(s.co core).dead

/-- Room on a core for a crew of a launch: its partitions (R366). -/
def State.room (s : State) (core l : Nat) (handler : Bool) : Option (List Nat) :=
  let la := s.la l
  if s.coreAdmits core la.ctx la.rcd then
    choosePlace (fun p => s.partUse (4 * core + p) l) la.rcd (if handler then la.rcd.hcrew else la.rcd.threads)
  else none

/-- Whether a hold for a self-test keeps a cluster from a context: once the cluster is empty the system context that is to run
STEST comes (22 R440; DEDUCED, log entry 60). -/
def State.heldFrom (s : State) (n ctx : Nat) : Bool :=
  (s.cl n).hold.isSome && !((s.cl n).emptied.isSome && (s.cx ctx).sys)

/-- Whether a cluster may take a new crew of a context: in service, not held for a test, no change of its plain's tenant or
of its supply waiting (18 R392, 22 R423, R440). -/
def State.clusterOpen (s : State) (n ctx : Nat) : Bool :=
  s.inService n && !s.heldFrom n ctx && (Tab.find (0x580 + plainOfCluster n) s.held).isNone
  && (match Tab.find (0x700 + n / 16) s.held with
    | some v => v.toNat / 4 ^ (n % 16) % 4 == s.supplyOf n
    | none => true)

/-- Whether one valley, and the handler crew with it, fit an empty cluster (01 R39, 17 R362); with four crews the handler crew
shares a core with one of them, its rows and its scratch. -/
def Rcd.acceptable (r : Rcd) : Bool :=
  let free (_ : Nat) : PartUse := {}
  let one := choosePlace free r r.threads
  let h := r.hcrew
  let shared : Bool := match one with
    | some o => (choosePlace (fun p =>
        let i := (o.take (partsOf r.threads)).findIdx? (· == p)
        match i with
        | some i => ⟨rowsOf r.threads i, rowsOf r.threads i * r.floor, rowsOf r.threads i⟩
        | none => {}) r h).isSome
    | none => false
  one.isSome && decide (r.scratch ≤ 2 ^ 19 + 2 ^ 17 * 10)
  && (h == 0 || (if r.crews < 4 then (choosePlace free r h).isSome else !r.excl && shared && decide (2 * r.cscr ≤ 2 ^ 19)))

/-! ### Starting a crew -/

/-- The lowest row slots of a partition that are free. -/
def State.freeRowSlots (s : State) (p : Nat) : List Nat :=
  let used := (s.partRows p).map fun (_, x) => x.slot
  (List.range 32).filter fun i => !used.contains i

/-- The lowest place in the register image of a context's save area on a core that no row has. -/
def State.freeImg (s : State) (core ctx : Nat) : Nat :=
  let used := (s.rows.filter fun (r, _) => (s.cr (r / 128)).core == core && (s.cr (r / 128)).ctx == ctx).map fun (_, x) => x.img
  ((List.range 128).find? fun i => !used.contains i).getD 0

/-- Rows placed on their partitions' lowest free slots. -/
def State.placeRows (s : State) (crew n : Nat) : State :=
  (List.range (partsOf n)).foldl (fun s i =>
    let slots := s.freeRowSlots (4 * (s.cr crew).core + (s.cr crew).place.getD i 0)
    (List.range (rowsOf n i)).foldl (fun s j =>
      { s with rows := Tab.put (128 * crew + 32 * i + j) { slot := slots.getD j 0, img := s.freeImg (s.cr crew).core (s.cr crew).ctx } s.rows }) s) s

/-- The place of a crew in the shape of its launch, before its tid (02 R54, 19 R393). -/
def shapeIdx (r : Rcd) (c : Crew) (die : Nat) : Nat := c.crew + r.crews * (c.valley + r.valleys * (c.plain + r.plains * die))

/-- A crew begins on a core: rows, and for a crew of the launch its threads at the entry (01 R40, R43). -/
def State.beginCrew (s : State) (id core : Nat) (place : List Nat) : State :=
  let s := s.setCr id fun c => { c with core := core, place := place, started := true, ways := if (s.la c.launch).rcd.excl then (s.la c.launch).rcd.l1lend else 0 }
  let c := s.cr id
  let la := s.la c.launch
  let r := la.rcd
  let s := s.placeRows id (if c.handler then r.hcrew else r.threads)
  if c.handler then s
  else
    (List.range r.threads).foldl (fun s t =>
      s.spawn (id * 4096 + t) la.entry (t + r.threads * shapeIdx r c (c.die + r.dmax * la.dev)) (t + r.threads * shapeIdx r c c.die)) s

end Sys2Proof.Machine
end

