-- ==== Sys2Proof/Machine/System.lean ====
section
/-! DEFINITION. The system instructions (16 R341 to R355, 19 R394): system registers, return from level 2,
invalidation, recipe flush, parking, saving and restoring a context, self-test and performance. -/

namespace Sys2Proof.Machine

/-! ### System registers, R335 to R337, R344, R355 -/

/-- Causes that ROUTE has a bit for; 0x30 reads 0 (R337). -/
def routeMask : DWord := BitVec.ofNat 64 (listMask [1, 2, 3, 4, 8, 0x10, 0x11, 0x12, 0x14, 0x15, 0x18, 0x19, 0x20])

/-- A register of the code forwarding table (R355). -/
def Fwd.read (e : Fwd) (n : Nat) : DWord := if n = 0 then e.old else if n = 1 then e.new else e.len.setWidth 64
def Fwd.write (e : Fwd) (n : Nat) (v : DWord) : Fwd :=
  if n = 0 then { e with old := v &&& 0x00FFFFFFFFFFFFC0 }
  else if n = 1 then { e with new := v &&& 0x00FFFFFFFFFFFFC0 }
  else { e with len := v.setWidth 32 &&& 0x80FFFFFF }

/-- A context register (R336, 19 R394); CSAVE is the core's. -/
def Ctx.read (c : Ctx) (core i : Nat) : Option DWord :=
  if 0x200 ≤ i ∧ i ≤ 0x2BF then some ((Tab.getD ((i - 0x200) / 3) {} c.fwd).read ((i - 0x200) % 3))
  else match i with
    | 0x102 => some c.route
    | 0x103 => some c.tvec2
    | 0x104 => some c.croot
    | 0x105 => some (Tab.getD core 0 c.csave)
    | 0x106 => some c.lpvbase
    | _ => none

/-- A context register written; reserved bits are ignored (00 R9). -/
def Ctx.write (c : Ctx) (core i : Nat) (v : DWord) : Ctx :=
  if 0x200 ≤ i ∧ i ≤ 0x2BF then
    { c with fwd := Tab.put ((i - 0x200) / 3) ((Tab.getD ((i - 0x200) / 3) {} c.fwd).write ((i - 0x200) % 3) v) c.fwd }
  else match i with
    | 0x102 => { c with route := v &&& routeMask }
    | 0x103 => { c with tvec2 := v }
    | 0x104 => { c with croot := v &&& 0x000FFFFFFFFFE001 }
    | 0x105 => { c with csave := Tab.put core (v &&& 0xFFFFFFFFFFFFF000) c.csave }
    | 0x106 => { c with lpvbase := v &&& 0x00FFFFFFFFFF0000 }
    | _ => c

/-- A system register as a thread reads it; none for an unassigned number (R335, R336). -/
def State.sysRead (s : State) (k i : Nat) : Option DWord :=
  let t := s.th k
  let c := s.ctxTh k
  match i with
  | 0x000 => some (BitVec.ofNat 64 t.tlvl)
  | 0x001 => some t.tslc
  | 0x002 => some t.tfva
  | 0x004 | 0x005 | 0x006 | 0x007 => some (Tab.getD (i - 4) 0 t.sscr)
  | 0x100 => some (BitVec.ofNat 64 (c % 2 ^ 16))
  | 0x101 => some (BitVec.ofNat 64 ((if (s.cx c).sys then 1 else 0) + (if (s.cx c).excl then 2 else 0)))
  | _ => if i < 0x400 then (s.cx c).read (s.coreTh k) i else s.devRead (s.coreTh k) i

/-- A system register written by a thread (R344): a read-only one ignores it. -/
def State.sysWrite (s : State) (k i : Nat) (v : DWord) : State :=
  match i with
  | 0x001 => s.setTh k fun t => { t with tslc := v &&& 0x00FFFFFFFFFFFFFF }
  | 0x004 | 0x005 | 0x006 | 0x007 => s.setTh k fun t => { t with sscr := Tab.put (i - 4) v t.sscr }
  | _ =>
      if i < 0x400 then s.setCx (s.ctxTh k) fun c => c.write (s.coreTh k) i v
      else s.devWrite (s.coreTh k) (s.cx (s.ctxTh k)).sys i v

/-- Whether the register block of a thread's die admits its core to a system register: a device register stands in the block
(18 R388, R389), the others are the core's own. -/
def State.sysAdmits (s : State) (k i : Nat) (write : Bool) : Bool :=
  decide (i < 0x400) || s.admits (32 + s.plainTh k / 4) (s.coreTh k) (8 * i) 8 write

/-- An access of a thread to a device register denied (18 R389); its tva, and TFVA, is the register's number (log entry 15). -/
def State.sysDenied (s : State) (k i : Nat) : Eff :=
  .trap ⟨0x11, BitVec.ofNat 64 i, some (BitVec.ofNat 64 i), none⟩ (s.denied (s.plainTh k / 4 * 4) (some (s.ctxTh k)))

/-- SRD, R344. -/
def execSrd (h : Head) (d : Spec) (sreg : BitVec 12) (s : State) : Host.Outcome State Fault Refusal :=
  .next (s.issueEach (.srd h d sreg) noBlock fun s k =>
    match s.sysRead k sreg.toNat with
    | some v => if s.sysAdmits k sreg.toNat false then .done (s.regWrite k d h.ty.rw v) else s.sysDenied k sreg.toNat
    | none => .trap ⟨0x01, sreg.setWidth 64, none, none⟩ s)

/-- SWR, R344. -/
def execSwr (h : Head) (a : Spec) (sreg : BitVec 12) (s : State) : Host.Outcome State Fault Refusal :=
  .next (s.issueEach (.swr h a sreg) noBlock fun s k =>
    if (s.sysRead k sreg.toNat).isSome then
      (if s.sysAdmits k sreg.toNat true then .done (s.sysWrite k sreg.toNat (s.regRead k a h.ty.rw)) else s.sysDenied k sreg.toNat)
    else .trap ⟨0x01, sreg.setWidth 64, none, none⟩ s)

/-- TRETS, R341. -/
def execTrets (h : Head) (s : State) : Host.Outcome State Fault Refusal :=
  .next (s.issueEach (.trets h) noBlock fun s k =>
    if (s.th k).tlvl = 2 then .left (s.trapReturn k (h.md.getLsbD 0) h.h.yld) else .trap ⟨0x01, 0, none, none⟩ s)

/-! ### Invalidation, R345, R346 -/

/-- The context a context operand names (R343). -/
def State.ctxArg (s : State) (k : Nat) (c : Spec) : Nat := (s.r32 k c).toNat % 2 ^ 16

/-- Whether work of a context that may use an invalidated translation is still to be performed: accesses,
records, passes (R345). -/
def State.translating (s : State) (hit : Nat → Bool) : Bool :=
  (s.ops.any fun (_, o) => hit (s.cr o.crew).ctx && (o.space == .g || o.space == .l))
  || (s.crews.any fun (_, c) => hit c.ctx && c.ch.any fun (_, x) => x.plan.isSome)
  || s.clusters.any fun (_, x) => x.table.any fun j => hit j.ctx && j.running

/-- Contexts a TLBINV concerns, and the cached translations it drops. -/
def tlbHits (kind : BitVec 2) (c : Nat) (x : Nat) : Bool := kind == 2 || x == c
def tlbDrops (kind : BitVec 2) (c a : Nat) (t : Tlb) : Bool :=
  if kind = 2 then true else if kind = 1 then t.ctx == c && t.va == a / 2 ^ t.bits * 2 ^ t.bits else t.ctx == c

/-- Every core changed. -/
def State.allCores (s : State) (f : Core → Core) : State := { s with cores := s.cores.map fun (n, c) => (n, f c) }

/-- Cached code of the whole device dropped, with the loop buffers, and an acquire at device scope: what the loader and a
launch that sets CSYNC do (05 R142). -/
def State.codeSync (s : State) : State :=
  let s := s.allCores fun c => { c with icache := [], copies := c.copies.filter fun x => !x.kind.isSi }
  { s with parts := s.parts.map fun (n, p) => (n, { p with captured := [] }) }

/-- TLBINV, R345: a release at device scope; it ends when no work that used such a translation is left. -/
def execTlbinv (h : Head) (a b : Spec) (kind : BitVec 2) (s : State) : Host.Outcome State Fault Refusal :=
  .next (s.issueEach (.tlbinv h a b kind)
    (fun s k => s.releasing k .device || s.translating (tlbHits kind (s.ctxArg k b)))
    fun s k =>
      let drops := tlbDrops kind (s.ctxArg k b) (s.r64 k a).toNat
      let hit := tlbHits kind (s.ctxArg k b)
      .done (s.allCores fun c => { c with tlb := c.tlb.filter fun t => !drops t, walks := c.walks.filter fun x => !hit x.1 }))

/-- ICINV, R346: a release at device scope; convoys keep the stretch they have begun. -/
def execIcinv (h : Head) (s : State) : Host.Outcome State Fault Refusal :=
  .next (s.issueEach (.icinv h) (fun s k => s.releasing k .device) fun s _ =>
    let s := s.allCores fun c => { c with icache := [] }
    .done { s with parts := s.parts.map fun (n, p) => (n, { p with captured := [] }) })

/-! ### RCPFLUSH, R347 -/

/-- Rows of the crews of a context that stand on a core. -/
def State.ctxRows (s : State) (ctx : Nat) : List Nat :=
  (Tab.keys s.rows).filter fun r => (s.cr (r / 128)).ctx == ctx

/-- Threads of a context that have not exited. -/
def State.resident (s : State) (ctx : Nat) (core : Option Nat) : List Nat :=
  (s.ctxThreads ctx).filter fun k => s.live k && (match core with | some c => s.coreTh k == c | none => true)

/-- Whether a thread stands parked with nothing of it on its way: its loads have arrived, its stores are performed (R348,
05 R147). -/
def State.atRest (s : State) (k : Nat) : Bool := (s.th k).parked && (s.opsOf k fun o => o.kind.returns || o.kind.writes).isEmpty

/-- A thread's eligibility for a register over; of a lane that stays in recipe form it is remembered what its inputs were. -/
def Thread.flush (t : Thread) (g : Nat) : Thread :=
  { t with elig := t.elig.filter fun e => e.reg != g
           flushed := t.elig.filter (fun e => e.reg == g) ++ t.flushed.filter fun e => e.reg != g || (t.eligOf g).isSome == false }

/-- Recorded faults of a row forgotten: a new RCPFLUSH tries its lanes again (R347). -/
def Row.retry (x : Row) : Row := { x with regs := x.regs.map fun (g, y) => (g, { y with faults := [] }) }

/-- A row-register regenerated, its eligibility over. -/
def State.flushReg (s : State) (r g : Nat) : State :=
  (s.rowThreads r).foldl (fun s k => s.setTh k fun t => t.flush g) (s.regenNow r g)

/-- Every recipe of a context materialised (R347): registers held as values first lose their eligibility, so
that none is converted again. -/
def State.flushCtx (s : State) (ctx : Nat) : State :=
  let rows := s.ctxRows ctx
  let todo := rows.flatMap fun r => ((s.rw r).regs.filter fun (_, x) => x.isRecipe).map fun (g, _) => (r, g)
  let s := (s.resident ctx none).foldl (fun s k => s.setTh k fun t =>
    { t with slice := none, elig := t.elig.filter fun e => match s.rreg (rowKey k) e.reg with
        | some x => x.isRecipe
        | none => false }) s
  let s := rows.foldl (fun s r => s.setRw r Row.retry) s
  let s := todo.foldl (fun s (r, g) => s.flushReg r g) s
  (rows.map s.partRow).eraseDups.foldl State.settleReserve s

/-- RCPFLUSH, R347. -/
def execRcpflush (h : Head) (d c : Spec) (s : State) : Host.Outcome State Fault Refusal :=
  .next (s.issueEach (.rcpflush h d c) noBlock fun s k =>
    let x := s.ctxArg k c
    if (s.resident x none).any fun j => !s.atRest j then .done (s.regWrite k d 1 0xFFFFFFFF)
    else
      let s := s.flushCtx x
      let n := (s.ctxRows x).foldl (fun n r => n + ((s.rw r).regs.filter fun (_, y) => y.form == .mixed).length) 0
      .done (s.regWrite k d 1 (BitVec.ofNat 64 n)))

/-! ### PARK and HALT, R348, R349 -/

/-- A job stopped at a pass boundary (R319): PROG and ST 3 written, kept for its re-posting. -/
def State.stopJob (s : State) (n : Nat) (j : MxJob) : State :=
  let j := { j with st := 3, chosen := false, aged := false, kept := none }
  let s := (s.cardProg n j).cardState n j 0
  (s.setCr j.crew fun c => { c with stopped := c.stopped ++ [j] }).leaveTable n j

/-- A stopped job posted again (R319): its card as memory has it; none while the table has no room. -/
def State.repostJob (s : State) (n : Nat) (j : MxJob) : State :=
  let e := jobEng n j
  if !s.mxRoom n j.ctx then s
  else
    let gone (s : State) : State := s.setCr j.crew fun c => { c with stopped := c.stopped.filter (· != j) }
    match engRead e .g .own j.card.toNat 256 s with
    | (.ok b, s) => gone ((s.dropEngReads e.owner).enterJob n j.crew j.card b)
    | (.fault code a, s) => (gone s).jobFault n j code a
    | (.poison, s) => (gone s).engKill e n
    | (.wait, s) => s

/-- The stopped jobs of crews that no PARK holds, posted again as far as there is room. -/
def State.repostAll (s : State) : State :=
  (s.crews.filter fun (_, c) => !c.parked && !c.stopped.isEmpty).foldl (fun s (_, c) =>
    c.stopped.foldl (fun s j => s.repostJob (clusterOfCore c.core) j) s) s

/-- A PARK asked of a context on a core (R348): its threads are to be pre-empted, its channels stop at a
record boundary, its jobs at a pass boundary. -/
def State.askPark (s : State) (ctx core : Nat) : State :=
  let cs := s.ctxCrews ctx (some core)
  let s := cs.foldl (fun s c => s.setCr c fun x =>
    { x with parked := true
             ch := x.ch.map fun (n, y) => (n, if y.plan.isNone then { y with flight := none } else y) }) s
  let s := (s.resident ctx (some core)).foldl (fun s k => s.setTh k fun t => { t with preempt := !t.parked }) s
  let n := clusterOfCore core
  ((s.cl n).table.filter fun j => cs.contains j.crew && j.open_ && !j.running && !j.closing).foldl (fun s j => s.stopJob n j) s

/-- Whether a PARK of a context on a core is complete. -/
def State.isParked (s : State) (ctx core : Nat) : Bool :=
  let cs := s.ctxCrews ctx (some core)
  (s.resident ctx (some core)).all s.atRest
  && cs.all (fun c => (s.cr c).ch.all fun (_, x) => x.plan.isNone)
  && (s.cl (clusterOfCore core)).table.all fun j => !(cs.contains j.crew && j.open_)

/-- Contexts that the convoy in front asks to park: members whose guard is true and that may do so. -/
def State.parkAsks (s : State) (i : Instr) (b : Spec) : List (Nat × Nat) :=
  match s.front, i.head with
  | some c, some h => (s.actors.filter fun k => (s.wordFault c i h k).isNone && s.guard k h.g && s.ctxArg k b != s.ctxTh k).map
      fun k => (s.ctxArg k b, s.coreTh k)
  | _, _ => []

/-- Cause 0x01 of an operand that names the issuer's own context (R348, R349). -/
def ownCtx (c : Nat) : Raise := ⟨0x01, BitVec.ofNat 64 c, none, none⟩

/-- PARK, R348: it asks when it reaches the issue slot, and waits. -/
def execPark (h : Head) (b : Spec) (s : State) : Host.Outcome State Fault Refusal :=
  let i : Instr := .park h b
  let s := (s.parkAsks i b).foldl (fun s x => s.askPark x.1 x.2) s
  .next (s.issueEach i (fun s k => s.ctxArg k b != s.ctxTh k && !s.isParked (s.ctxArg k b) (s.coreTh k)) fun s k =>
    if s.ctxArg k b = s.ctxTh k then .trap (ownCtx (s.ctxArg k b)) s else .done s)

/-- What a PARK stopped on a core, released (R348): waits are renewed, arrivals at PHASE stay. -/
def State.unpark (s : State) (ctx core : Nat) : State :=
  let s := (s.ctxCrews ctx (some core)).foldl (fun s c => s.setCr c fun x => { x with parked := false }) s
  let s := (s.resident ctx (some core)).foldl (fun s k => s.setTh k fun t =>
    { t with parked := false, preempt := false, since := s.cycle }) s
  s.repostAll

/-- PARK.rel, R348. -/
def execParkRel (h : Head) (b : Spec) (s : State) : Host.Outcome State Fault Refusal :=
  .next (s.issueEach (.parkRel h b) noBlock fun s k =>
    let c := s.ctxArg k b
    if c = s.ctxTh k then .trap (ownCtx c) s else .done (s.unpark c (s.coreTh k)))

/-- Whether a running thread stands at a WAITF whose flags are not zero (01 R38). -/
def State.inWaitf (s : State) (k : Nat) : Bool :=
  match (s.peek k (s.th k).pc).map decodeWord with
  | some (.ok (.waitf h mask)) => s.guard k h.g && s.flagsUp mask k
  | _ => false

/-- Whether a running thread stands at an instruction that waits for a line another thread has leased, or for one that LEASE
cannot have yet (01 R38). -/
def State.inProbe (s : State) (k : Nat) : Bool :=
  let leased (ls : List Nat) : Bool := ls.any (s.leasedByOther k)
  match (s.peek k (s.th k).pc).map decodeWord with
  | some (.ok i) => i.head.any (fun h => s.guard k h.g) && (match i with
      | .lease _ _ a _ m => (match (s.leaseLine k (s.effAddr k m a none)).1 with
          | .at_ w => w.line.any (s.lineBusy k)
          | .busy _ => true
          | _ => false)
      | .cinv _ a b | .cinvDiscard _ a b | .cwb _ a b => leased (s.cacheLines k (s.r64 k a).toNat (s.r32 k b).toNat)
      | .mbarr _ _ a _ m => leased (s.mbLines k (s.effAddr k m a none) mbarrNeed)
      | .mbwait _ a _ m => leased (s.mbLines k (s.effAddr k m a none) mbwaitNeed)
      | .mxstat _ _ a => leased (s.mbLines k (s.statAddr k a) mxstatNeed)
      | _ => false)
  | _ => false

/-- Whether a thread stands at a point where a pre-emption takes effect (01 R28): at a boundary, between two repeats, in a
wait. Inside a repetition whose remote access is out it is at none. -/
def State.atPoint (s : State) (k : Nat) : Bool :=
  let t := s.th k
  match t.status with
  | .waiting | .phase => true
  | .ready => t.stopsHere
  | .running => (s.heldOps k).isEmpty && (t.rep.any (fun r => decide (0 < r.idx))
      || (s.convoys.any fun c => c.mem.contains k && c.hdr == t.pc) || s.inWaitf k || s.inProbe k)
  | .exited => false

/-- PREEMPTION_TAKE_EFFECT, 01 R28: a thread is taken where it stands at such a point; its leases break. -/
def State.takePreempt (s : State) (k : Nat) : State :=
  if (s.th k).preempt && s.atPoint k then
    ((s.breakLeases k).leaveConvoy k).setTh k fun t =>
      { t with parked := true, preempt := false, status := if t.status = .running then .ready else t.status }
  else s

/-- Every thread of which one is asked and that has come to such a point: the first it comes to is where it is taken. -/
def State.takePreempts (s : State) : State :=
  (s.threads.filter fun (_, t) => t.preempt).foldl (fun s (k, _) => s.takePreempt k) s

/-- PREEMPTION_TAKE_EFFECT, 01 R28. -/
def execPreemptionTakeEffect (t : Nat) (s : State) : Host.Outcome State Fault Refusal := .next (s.takePreempt t)

/-- A HALT asked of a context on a core: its threads are taken at the points of 01 R28 (01 R27). -/
def State.askHalt (s : State) (ctx core : Nat) : State :=
  (s.resident ctx (some core)).foldl (fun s k => s.setTh k fun t => { t with preempt := !t.parked }) s

/-- HALT, R349: it asks when it reaches the issue slot, waits until every thread of the context on the core has been taken,
and ends them. -/
def execHalt (h : Head) (b : Spec) (s : State) : Host.Outcome State Fault Refusal :=
  let i : Instr := .halt h b
  let s := (s.parkAsks i b).foldl (fun s x => s.askHalt x.1 x.2) s
  .next (s.issueEach i
    (fun s k => s.ctxArg k b != s.ctxTh k && (s.resident (s.ctxArg k b) (some (s.coreTh k))).any fun j => !(s.th j).parked) fun s k =>
    let c := s.ctxArg k b
    if c = s.ctxTh k then .trap (ownCtx c) s else .done (s.haltCtx c (some (s.coreTh k))))

/-! ### CTXSAVE, R350, R351 -/

/-- The offsets of a save area's sections (R351, log entry 10). -/
structure Area where
  img : Nat
  thr : Nat
  desc : Nat
  elig : Nat
  crew : Nat
  scr : Nat
  eng : Nat

/-- The sections one after another. -/
def areaOf (nrow regs ndesc ncrew scr : Nat) : Area :=
  let thr := 0x1000 + nrow * regs * 128
  let desc := thr + nrow * 32 * 512
  let elig := desc + 16 * ndesc
  let crew := elig + nrow * 32 * 512
  ⟨0x1000, thr, desc, elig, crew, crew + 1024 * ncrew, crew + 1024 * ncrew + scr⟩

/-- Descriptors of a row, in save order (R351, 02 R64). -/
def Row.descs (x : Row) : List (Nat × RowReg) := x.regs.filter fun (_, y) => y.isRecipe

/-- A descriptor's 16 bytes (02 R64). -/
def descBytes (crew r g : Nat) (y : RowReg) : List Byte :=
  leBytes 16 (y.lmask.toNat * 2 ^ 96 + g * 2 ^ 88 + r % 32 * 2 ^ 83 + y.depth * 2 ^ 81 + 2 ^ 80 + y.len * 2 ^ 76 + crew * 2 ^ 74
    + r / 32 % 4 * 2 ^ 72 + y.saddr.toNat % 2 ^ 56)

/-- An eligibility entry's 16 bytes (R351). -/
def eligBytes (e : Elig) : List Byte :=
  leBytes 8 (2 ^ 63 + e.saddr.toNat % 2 ^ 56) ++ leBytes 1 e.reg ++ leBytes 1 e.depth
    ++ (List.range 4).flatMap (fun i => leBytes 1 (e.pins.getD i 0xFF)) ++ leBytes 2 0

/-- Where the ticket stands in a thread record, behind its named fields, and where what is left of the record begins. -/
def ticketAt : Nat := 88
def ticketEnd : Nat := 96

/-- A thread record's named fields (R351), then the ticket of the image it belongs to. -/
def threadBytes (t : Thread) (ticket : Nat) : List Byte :=
  let d (x : DWord) := leBytes 8 x.toNat
  d t.pc ++ d t.tpc1 ++ d t.tpc2 ++ (List.range 4).flatMap (fun i => d ((t.loops[i]?.map fun l => l.ls).getD 0))
    ++ (List.range 4).flatMap (fun i => d ((t.loops[i]?.map fun l => l.le).getD 0)) ++ leBytes 8 ticket

/-- Bytes that hold device state (R351): free values. -/
def State.devBytes (s : State) (n : Nat) : List Byte × State :=
  ((List.range n).map fun i => Config.freeByte (s.free + i), { s with free := s.free + n })

/-- A row-register's 128 bytes in the register image (R351). -/
def State.imgBytes (s : State) (r g : Nat) : List Byte :=
  match s.rreg r g with
  | some x =>
      if x.form = .spilled then s.coh (s.imgAddr r g) 128
      else (List.range 32).flatMap fun l => leBytes 4 ((s.th (laneKey r l)).vget g).toNat
  | none => List.replicate 128 0

/-- The header of a save area (R351). -/
def areaHeader (a : Area) (core ctx ncrew nrow regs : Nat) (eng : Bool) : List Byte :=
  leBytes 4 0x53585443 ++ leBytes 2 1 ++ leBytes 2 core ++ leBytes 4 ctx ++ leBytes 1 ncrew ++ leBytes 1 (if eng then 1 else 0)
    ++ leBytes 2 nrow ++ leBytes 1 regs ++ List.replicate 15 0
    ++ [a.thr, a.img, a.desc, a.elig, a.crew, a.scr, a.eng].flatMap (leBytes 8) ++ List.replicate 168 0

/-- Crews of a context that are saved from a core. -/
def State.savedCrews (s : State) (ctx core : Nat) : List (Nat × Crew) :=
  s.crews.filter fun (_, c) => c.ctx == ctx && c.core == core && c.started && !c.ended
def State.savedRows (s : State) (cs : List (Nat × Crew)) : List (Nat × Row) :=
  s.rows.filter fun (r, _) => cs.any fun (c, _) => c == r / 128

/-- Everything a save of a context on a core writes, by offset in its area (R350, R351). -/
def State.areaBytes (s : State) (ctx core ticket : Nat) (eng : Bool) : List (Nat × List Byte) × State :=
  let cs := s.savedCrews ctx core
  let rows := s.savedRows cs
  let regs := match cs with
    | (_, c) :: _ => (s.la c.launch).rcd.regs
    | [] => 0
  let descs := rows.flatMap fun (r, x) => x.descs.map fun (g, y) => (r, g, y)
  let slim (c : Nat × Crew) : Nat := s.slim c.1
  let a := areaOf rows.length regs descs.length cs.length (cs.foldl (fun n c => n + slim c) 0)
  let at_ (i : Nat) : Nat × Row := rows.getD i (0, { slot := 0 })
  let crewIdx (r : Nat) : Nat := (cs.findIdx? fun (c, _) => c == r / 128).getD 0
  let slots := (List.range rows.length).flatMap fun i => (List.range 32).map fun l => (i, l)
  let img := (List.range rows.length).flatMap fun i => (List.range regs).map fun g => (a.img + (i * regs + g) * 128, s.imgBytes (at_ i).1 g)
  let thr := slots.map fun (i, l) => (a.thr + (32 * i + l) * 512, threadBytes (s.th (laneKey (at_ i).1 l)) ticket)
  let elig := slots.map fun (i, l) =>
    let es := (s.th (laneKey (at_ i).1 l)).elig
    (a.elig + (32 * i + l) * 512, es.flatMap eligBytes ++ List.replicate (16 * (32 - es.length)) 0)
  let desc := ((List.range descs.length).zip descs).map fun (i, r, g, y) => (a.desc + 16 * i, descBytes (crewIdx r) (r % 128) g y)
  let scr := (cs.foldl (fun (acc : Nat × List (Nat × List Byte)) c =>
    (acc.1 + slim c, acc.2 ++ [(acc.1, (List.range (slim c)).map fun o => Tab.getD o 0 c.2.scratch)])) (a.scr, [])).2
  -- the rest of the records is device state
  let p := s.devBytes (slots.length * (512 - ticketEnd) + 1024 * cs.length + (if eng then 16 * 256 + 64 * 65536 else 0))
  let cut (o n : Nat) : List Byte := (p.1.drop o).take n
  let rest := ((List.range slots.length).map fun i => (a.thr + i * 512 + ticketEnd, cut ((512 - ticketEnd) * i) (512 - ticketEnd)))
    ++ [(a.crew, cut (slots.length * (512 - ticketEnd)) (1024 * cs.length))]
    ++ (if eng then [(a.eng, p.1.drop (slots.length * (512 - ticketEnd) + 1024 * cs.length))] else [])
  ((0, areaHeader a core ctx cs.length rows.length regs eng) :: img ++ thr ++ elig ++ desc ++ scr ++ rest, p.2)

/-- What a save keeps of a context on a core under its ticket. -/
def State.imageOf (s : State) (ctx core : Nat) (eng : Bool) : Image :=
  let cs := s.savedCrews ctx core
  let x := s.cl (clusterOfCore core)
  { ctx := ctx, core := core, crews := cs, rows := s.savedRows cs
    threads := s.threads.filter fun (k, _) => cs.any fun (c, _) => c == crewOf k
    tiles := if eng then x.tiles.filter fun (n, _) => Tab.find n x.tileCtx == some ctx else [] }

/-- Tiles a context holds on a cluster given up. -/
def Cluster.dropTiles (x : Cluster) (ctx : Nat) : Cluster :=
  { x with tiles := x.tiles.filter fun (n, _) => Tab.find n x.tileCtx != some ctx
           tileCtx := x.tileCtx.filter fun (_, c) => c != ctx }

/-- Whether a core may access memory at a physical address: it is there, and its access table grants it (18 R389). -/
def State.coreMay (s : State) (core pa n : Nat) (write : Bool) : Bool :=
  s.paOk pa && s.paOk (pa + n - 1) && s.admits (pa / 2 ^ 36) core (pa % 2 ^ 36) n write

/-- A write of the save logic of a core: into memory that the core may write, else denied and counted (18 R389), so that an
operand which breaks R350 reaches nobody else's memory (00 R4). -/
def State.areaStore (s : State) (core ctx pa : Nat) (bs : List Byte) : State :=
  if bs.isEmpty then s
  else if s.coreMay core pa bs.length true then s.homeStore pa bs
  else if s.paOk pa then s.denied (pa / 2 ^ 36) (some ctx) else s

/-- A context saved from a core and all it held there freed (R350). -/
def State.saveCtx (s : State) (ctx core h : Nat) (eng : Bool) : State :=
  let ticket := s.seq
  let im := s.imageOf ctx core eng
  let r := s.bump.areaBytes ctx core ticket eng
  let s := r.1.foldl (fun s (o, bs) => s.areaStore core ctx (h + o) bs) r.2
  let s := { s with images := Tab.put ticket im s.images }
  let s := im.crews.foldl (fun s (c, _) => s.dropCrew c) s
  if eng then s.setCl (clusterOfCore core) fun x => x.dropTiles ctx else s

/-- Why a save is refused (R350): D, or 0. -/
def State.saveRefusal (s : State) (ctx core : Nat) : Nat :=
  if (s.resident ctx (some core)).isEmpty then 2
  else if (s.resident ctx (some core)).any fun k => !s.atRest k then 1
  else 0

/-- Bytes of the area that a save of a context from a core takes. -/
def State.areaLen (s : State) (ctx core : Nat) (eng : Bool) : Nat :=
  let cs := s.savedCrews ctx core
  let rows := s.savedRows cs
  let regs := (cs.map fun (_, c) => (s.la c.launch).rcd.regs).headD 0
  let descs := rows.foldl (fun n (_, x) => n + x.descs.length) 0
  (areaOf rows.length regs descs cs.length (cs.foldl (fun n c => n + s.slim c.1) 0)).eng + (if eng then 16 * 256 + 64 * 65536 else 0)

/-- Whether a line of a stretch of memory is leased, an engine's, or under remote read leases: a store there waits
(05 R131, R135, R143). -/
def State.areaHeld (s : State) (pa n : Nat) : Bool :=
  let hit (l : Nat) : Bool := decide (l < pa + n) && decide (pa < l + 128)
  (s.threads.any fun (_, t) => t.leases.any fun x => hit x.line) || (s.engOwned.any fun (l, _) => hit l)
    || s.readLeases.any fun r => hit r.line && (s.leaseUntil r.line).isSome

/-- Whether something the save must keep is still on its way, pending operations of the crews, or a line of the area is not
to be had. -/
def State.saveWait (s : State) (ctx core h : Nat) (eng : Bool) : Bool :=
  s.saveRefusal ctx core == 0
  && ((s.ops.any fun (_, o) => (s.savedCrews ctx core).any fun (c, _) => c == o.crew) || s.areaHeld h (s.areaLen ctx core eng))

/-- CTXSAVE, R350. -/
def execCtxsave (h : Head) (d a b : Spec) (s : State) : Host.Outcome State Fault Refusal :=
  .next (s.issueEach (.ctxsave h d a b) (fun s k => s.saveWait (s.ctxArg k a) (s.coreTh k) (s.r64 k b).toNat (h.md.getLsbD 0)) fun s k =>
    let c := s.ctxArg k a
    match s.saveRefusal c (s.coreTh k) with
    | 0 => .done ((s.saveCtx c (s.coreTh k) (s.r64 k b).toNat (h.md.getLsbD 0)).regWrite k d 1 0)
    | n => .done (s.regWrite k d 1 (BitVec.ofNat 64 n)))

/-! ### CTXLOAD, R352 -/

/-- Whether a save area's header is accepted for a context (R352). -/
def areaOk (b : List Byte) (ctx : Nat) : Bool :=
  at64 b 0 4 == 0x53585443 && at64 b 4 2 == 1 && at64 b 8 4 == ctx && decide (at64 b 0x0D 1 < 2)
  && (List.range 15).all (fun i => at64 b (0x11 + i) 1 == 0) && (List.range 168).all fun i => at64 b (0x58 + i) 1 == 0

/-- A thread restored: parked, with the fields software may have rewritten for a code move (R351, R356). -/
def Thread.restore (t : Thread) (b eb : List Byte) : Thread :=
  let d (o : Nat) : DWord := BitVec.ofNat 64 (at64 b o 8)
  let pc := d 0
  let elig := ((List.range 32).zip t.elig).filterMap fun (i, e) =>
    let w := at64 eb (16 * i) 8
    if 2 ^ 63 ≤ w then
      some { e with saddr := BitVec.ofNat 64 (w % 2 ^ 56), reg := at64 eb (16 * i + 8) 1, depth := at64 eb (16 * i + 9) 1
                    pins := ((List.range 4).map fun j => at64 eb (16 * i + 10 + j) 1).filter (· != 0xFF) }
    else none
  { t with pc := pc, hdr := slotPC ((slotN pc : Int) - ((slotN t.pc : Int) - slotN t.hdr)), tpc1 := d 8 &&& 0x00FFFFFFFFFFFFFF, tpc2 := d 16 &&& 0x00FFFFFFFFFFFFFF
           loops := ((List.range 4).zip t.loops).map fun (i, l) => { l with ls := d (24 + 8 * i), le := d (56 + 8 * i) }
           elig := elig, parked := true, preempt := false, observed := [], status := if t.status = .running then .ready else t.status }

/-- A row-register restored (02 R71): a value or mixed entry where the row's floor or the pool has one within VCAP (02 R56),
else spilled; a descriptor as the area has it. -/
def State.restoreReg (s : State) (r g : Nat) (y : RowReg) (desc : Option (List Byte)) (img : Nat) : State :=
  let words (s : State) : State := (s.rowThreads r).foldl (fun s' k => s'.setTh k fun t =>
    { t with v := Tab.put g (BitVec.ofNat 32 (leNat (s.coh (img + 4 * laneOf k) 4))) t.v }) s
  let put (s : State) (y : RowReg) : State := s.setRw r fun x => { x with regs := Tab.put g { y with reserve := false } x.regs }
  let y := match desc with
    | some b =>
        let n := leNat b
        { y with saddr := BitVec.ofNat 64 (n % 2 ^ 56), len := n / 2 ^ 76 % 16, depth := n / 2 ^ 81 % 4, lmask := BitVec.ofNat 32 (n / 2 ^ 96) }
    | none => y
  let p := s.partRow r
  let room := (decide ((s.rw r).entries < s.floorLeft r) || decide (s.freeEntries p > 0)) && s.capOk p (s.cr (r / 128)).launch
  match y.form with
  | .recipe | .spilled => put s y
  | .mixed | .value => if room then put (words s) y else put s { y with form := .spilled }

/-- The crews of an image placed on a core, one after another; none without room (R352). -/
def State.placeCrews (s : State) (im : Image) (core : Nat) : List (Nat × Crew) → Option State
  | [] => some s
  | (id, c) :: rest =>
      -- each crew of a valley has a core of its own (17 R366)
      let mate (j : Nat) (x : Crew) : Bool := j != id && x.core == core && x.started && !x.handler && x.launch == c.launch && x.die == c.die
        && x.plain == c.plain && x.valley == c.valley
      if (Tab.find id s.crews).isSome || (!c.handler && s.crews.any fun (j, x) => mate j x) then none
      else match s.room core c.launch c.handler with
        | none => none
        | some place =>
            let s := { s with crews := Tab.put id { c with core := core, place := place, parked := true } s.crews }
            let rows := im.rows.filter fun (r, _) => r / 128 == id
            let s := rows.foldl (fun s (r, _) =>
              let slot := (s.freeRowSlots (s.partRow r)).headD 0
              { s with rows := Tab.put r { slot := slot, img := (im.rows.findIdx? fun x => x.1 == r).getD 0 } s.rows }) s
            s.placeCrews im core rest

/-- An image restored to a core from its area; none without room (R352). -/
def State.loadImage (s : State) (im : Image) (core h : Nat) (hd : List Byte) : Option State :=
  let s := s.setCx im.ctx fun c => { c with csave := Tab.put core (BitVec.ofNat 64 h) c.csave }
  match s.placeCrews im core im.crews with
  | none => none
  | some s =>
      let off (i : Nat) : Nat := h + at64 hd (0x20 + 8 * i) 8
      let idx (r : Nat) : Nat := (im.rows.findIdx? fun x => x.1 == r).getD 0
      let s := im.threads.foldl (fun s (k, t) =>
        let n := 32 * idx (rowKey k) + laneOf k
        { s with threads := Tab.put k (t.restore (s.coh (off 0 + 512 * n) 88) (s.coh (off 3 + 512 * n) 512)) s.threads }) s
      let regs := at64 hd 0x10 1
      let all := im.rows.flatMap fun (r, x) => x.regs.map fun (g, y) => (r, g, y)
      let ds := (all.filter fun (_, _, y) => y.isRecipe).map fun (r, g, _) => (r, g)
      -- mixed registers take their entries first
      let order := (all.filter fun (_, _, y) => y.form != .value) ++ all.filter fun (_, _, y) => y.form == .value
      let s := order.foldl (fun s (r, g, y) =>
        let desc := (ds.findIdx? fun x => x == (r, g)).map fun i => s.coh (off 2 + 16 * i) 16
        s.restoreReg r g y desc (off 1 + (idx r * regs + g) * 128)) s
      some (s.setCl (clusterOfCore core) fun x =>
        { x with tiles := im.tiles.foldl (fun l (n, t) => Tab.put n t l) x.tiles
                 tileCtx := im.tiles.foldl (fun l (n, _) => Tab.put n im.ctx l) x.tileCtx })

/-- Whether the descriptors of an area have their reserved bits 0 and no reserved value (02 R64, 00 R9). -/
def State.descClean (s : State) (h : Nat) (hd : List Byte) : Bool :=
  (List.range ((at64 hd 0x38 8 - at64 hd 0x30 8) / 16)).all fun i =>
    let n := leNat (s.coh (h + at64 hd 0x30 8 + 16 * i) 16)
    n / 2 ^ 56 % 2 ^ 16 == 0 && (n / 2 ^ 81 % 4 == 1 || n / 2 ^ 81 % 4 == 2) && decide (1 ≤ n / 2 ^ 76 % 16) && decide (n / 2 ^ 76 % 16 ≤ 8)

/-- A core made ready for new threads: no .ro or .si copy, no cached code and no captured stretch from before (05 R142,
R144). -/
def State.freshCore (s : State) (core : Nat) : State :=
  let s := (s.dropCopies core fun _ => true).setCo core fun c => { c with icache := [] }
  (List.range 4).foldl (fun s i => s.setPt (4 * core + i) fun p => { p with captured := [] }) s

/-- Whether a cluster holds a valley of another launch with an unstarted crew, which has first call on its room (01 R40). -/
def State.unstartedBeside (s : State) (n l : Nat) : Bool :=
  s.crews.any fun (_, c) => clusterOfCore c.core == n && !c.started && c.launch != l

/-- Whether the eligibility entries of an area have their reserved bytes 0 (R351). -/
def State.eligClean (s : State) (h : Nat) (hd : List Byte) : Bool :=
  (List.range (32 * at64 hd 0x0E 2)).all fun n =>
    let b := s.coh (h + at64 hd 0x38 8 + 512 * n) 512
    (List.range 32).all fun i => at64 b (16 * i + 14) 2 == 0

/-- CTXLOAD for a core (R352): D and the state. What software has made of the device's own bytes of an area touches no other
context: an image of another is refused (00 R4). -/
def State.loadCtx (s : State) (ctx core h : Nat) : Nat × State :=
  let hd := s.coh h 256
  if !s.coreMay core h 256 false || !areaOk hd ctx || !s.descClean h hd || !s.eligClean h hd then (1, s)
  else
    match (Tab.find (leNat (s.coh (h + at64 hd 0x20 8 + ticketAt) 8)) s.images).filter fun im => im.ctx == ctx with
    | none => (1, s)
    | some im =>
        if im.crews.any fun (_, c) => s.unstartedBeside (clusterOfCore core) c.launch then (2, s)
        else match (s.freshCore core).loadImage im core h hd with
          | some s => (0, s)
          | none => (2, s)

/-- CTXLOAD, R352. -/
def execCtxload (h : Head) (d a b : Spec) (s : State) : Host.Outcome State Fault Refusal :=
  .next (s.issueEach (.ctxload h d a b) (fun s k => s.linesHeld 0 (spanLines [(.mem (s.r64 k b).toNat, 256)])) fun s k =>
    let r := s.loadCtx (s.ctxArg k a) (s.coreTh k) (s.r64 k b).toNat
    .done (r.2.regWrite k d 1 (BitVec.ofNat 64 r.1)))

/-! ### STEST, R353, 22 R440, R441 -/

/-- Whether a cluster's engines are idle: no job, no record in flight. -/
def State.enginesIdle (s : State) (n : Nat) : Bool :=
  (s.cl n).table.isEmpty && (s.clusterCrews n).all fun c => (s.cr c).ch.all fun (_, x) => x.st != 1

/-- Whether a self-test may run for a thread (R353). -/
def State.testAllowed (s : State) (k : Nat) : Bool :=
  let n := clusterOfCore (s.coreTh k)
  (s.cx (s.ctxTh k)).sys && (s.clusterCrews n).all (fun c => (s.cr c).ctx == s.ctxTh k) && s.enginesIdle n

/-- An L1 written back and invalidated. -/
def State.flushL1 (s : State) (core : Nat) : State :=
  let s := ((s.co core).owned.map (·.1)).foldl State.recall s
  s.setCo core fun c => { c with copies := [] }

/-- STSTAT after a STEST on a cluster (22 R440): its hold ends. -/
def State.endHold (s : State) (n : Nat) (last : Option Nat) : State :=
  let s := s.setCl n fun x => { x with hold := none, emptied := none }
  let held := (s.reg 0x721).getLsbD 31 && field (s.reg 0x721) 27 20 == n
  let old := s.reg 0x721
  let old := if held then old &&& 0x7FFFFFFF else old
  s.setReg 0x721 (match last with
    | some c => (old &&& ~~~0xF) ||| BitVec.ofNat 64 c
    | none => old)

/-- What a self-test finds (R353): whether it fails and in which unit is the device's own, so a free
value. -/
def State.selfTest (s : State) : Option Nat × State :=
  let w := Config.freeDWord s.free
  (if w.getLsbD 16 then some (w.toNat % 2 ^ 16) else none, { s with free := s.free + 1 })

/-- A self-test that failed (22 R441): its record, and the cluster withdrawn; a failing L2 slice is fatal. -/
def State.testFailed (s : State) (n test unit : Nat) : State :=
  let l2 := test == 5 || (test == 0 && unit % 256 == 5)
  let s := s.logMc { bank := 14, sev := if l2 then 3 else 2, type := if l2 then 0x61 else 0x60, skind := 1, sidx := n
                     synd := unit % 256 * 256 + test }
  if l2 then s.fatalError
  else { s with caps := { s.caps with clusin := s.caps.clusin &&& ~~~(1#192 <<< n) } }

/-- STEST, R353. -/
def State.stestEff (s : State) (k : Nat) (d : Spec) (test : Nat) : Eff :=
  let n := clusterOfCore (s.coreTh k)
  if !s.testAllowed k then .done ((s.endHold n (some 2)).regWrite k d 1 (BitVec.ofNat 64 (test * 256 + 2)))
  else
    let s := (List.range 4).foldl (fun s i => s.flushL1 (4 * n + i)) s
    let r := s.selfTest
    match r.1 with
    | none => .done ((r.2.endHold n (some 0)).regWrite k d 1 (BitVec.ofNat 64 (test * 256)))
    | some u => .done (((r.2.testFailed n test u).endHold n (some 1)).regWrite k d 1 (BitVec.ofNat 64 (u * 2 ^ 16 + test * 256 + 1)))

/-- STEST, R353. -/
def execStest (h : Head) (d : Spec) (test : BitVec 8) (s : State) : Host.Outcome State Fault Refusal :=
  .next (s.issueEach (.stest h d test) noBlock fun s k => s.stestEff k d test.toNat)

/-! ### SETPERF.sys, R354 -/

/-- SETPERF.sys for a thread: the old value, then the new one; no effect on a context that does not exist. -/
def State.setPerfSys (s : State) (k : Nat) (d c : Spec) (get : Ctx → Nat) (put : Ctx → Ctx) : Eff :=
  match Tab.find (s.ctxArg k c) s.ctxs with
  | none => .done (s.regWrite k d 1 0xFFFFFFFF)
  | some x => .done ((s.setCx (s.ctxArg k c) put).regWrite k d 1 (BitVec.ofNat 64 (get x)))

/-- SETPERF.sys.cap, R354. -/
def execSetperfSysCap (h : Head) (d a b : Spec) (s : State) : Host.Outcome State Fault Refusal :=
  .next (s.issueEach (.setperfSysCap h d a b) noBlock fun s k =>
    s.setPerfSys k d b (fun x => x.cap) fun x => { x with cap := between 0 3 (s.r32 k a).toNat })

/-- SETPERF.sys.permits, R354. -/
def execSetperfSysPermits (h : Head) (d a b : Spec) (s : State) : Host.Outcome State Fault Refusal :=
  .next (s.issueEach (.setperfSysPermits h d a b) noBlock fun s k =>
    s.setPerfSys k d b (fun x => x.permits) fun x => { x with permits := between 0 64 (s.r32 k a).toNat })

end Sys2Proof.Machine
end

