-- ==== Sys2Proof/Machine/Launches.lean ====
section
/-! DEFINITION. Launches from their queue entry to their end: reading and checking a launch record (01 R44,
R45, 03 R89, 17 R358 to R363), readiness and rank (17 R359 to R361), binding valleys and starting crews
(01 R40, 17 R365 to R367), phases (01 R42, R43, 20 R411), completion (05 R144) and pre-emption of slices
(17 R369). -/

namespace Sys2Proof.Machine

/-! ### Physical pages (log entry 22) -/

/-- Bytes of a page. -/
def pageBytes : Nat := 65536

/-- Whether two ranges of pages meet. -/
def pagesMeet (a n b m : Nat) : Bool := decide (a < b + m) && decide (b < a + n)

/-- The first place at or after a start where `n` pages in a row, aligned, meet no range taken; the search
goes round below `top` once. -/
def findPages (taken : List (Nat × Nat)) (top n align : Nat) : Nat → Nat → Option Nat
  | 0, _ => none
  | fuel + 1, x =>
      let x := (x + align - 1) / align * align
      if top < x + n then findPages taken top n align fuel align
      else match taken.find? fun (b, m) => pagesMeet x n b m with
        | some (b, m) => findPages taken top n align fuel (b + m)
        | none => some x

/-- A fresh free value. -/
def State.draw (s : State) : Nat × State := ((Config.freeDWord s.free).toNat, { s with free := s.free + 1 })

/-- `n` physical pages in a row on a plain. -/
def State.newFrames (s : State) (q n : Nat) : Option (Nat × State) :=
  let r := s.draw
  let top := s.caps.chan.getD q 0 * 2 ^ 15
  let taken := (r.2.frames.filter fun (b, _) => b / 2 ^ 20 == q).map fun (b, m) => (b % 2 ^ 20, m)
  (findPages taken top n 1 (2 * taken.length + 3) (r.1 % (top + 1))).map fun x =>
    (q * 2 ^ 20 + x, { r.2 with frames := r.2.frames ++ [(q * 2 ^ 20 + x, n)] })

/-! ### The launch record, 01 R44 -/

/-- A record's fields from its 256 bytes. -/
def Rcd.ofBytes (b : List Byte) : Rcd :=
  let d (o : Nat) : DWord := BitVec.ofNat 64 (at64 b o 8)
  let n (o w : Nat) : Nat := at64 b o w
  let nr := n 0x57 1
  { entry := d 0, version := n 8 2, size := n 0x0A 2, threads := n 0x0C 2, crews := n 0x0E 1, valleys := n 0x0F 1, plains := n 0x10 1
    dmin := n 0x11 1, dmax := n 0x12 1, flags := n 0x13 1, devs := n 0x14 2, regs := n 0x16 1, floor := n 0x17 1, vcap := n 0x18 2
    l1lend := n 0x1A 1, prio := n 0x1B 1, cscr := n 0x1C 4, pscr := n 0x20 4, lstack := n 0x24 4, kbank := d 0x28, fslot := d 0x30
    trap1 := d 0x38, msgtab := d 0x40, msgn := n 0x48 2, hcrew := n 0x4A 2, sympool := n 0x4C 4, seed := BitVec.ofNat 32 (n 0x50 4)
    jobid := n 0x54 2, fsmask := n 0x56 1, nrange := nr, evq := BitVec.ofNat 32 (n 0x58 4), evtag := BitVec.ofNat 32 (n 0x5C 4)
    ranges := (List.range nr).map fun i =>
      let w := n (0x80 + 16 * i) 8
      ⟨w / 2 ^ 62, w % 2 ^ 56, n (0x88 + 16 * i) 8⟩ }

/-- The most clusters a plain of the device has enabled (22 R442). -/
def State.mostClusters (s : State) : Nat :=
  (List.range 16).foldl (fun m q =>
    let n := ((List.range 12).filter fun c => s.enabledCl (12 * q + c)).length
    if m < n then n else m) 0

/-- Rows a crew places on its fullest partition (01 R44). -/
def Rcd.rowsMax (r : Rcd) : Nat := let n := (r.threads + 31) / 32; if n < 32 then n else 32

/-- Whether a record is malformed (01 R44). DEVS is 1 to 4,096 in bits 11:0, and how 4,096 would be written is open: here
bits 15:12 have to be 0, and 0 is no count (DESIGN CHOICE, log entry 52). -/
def State.malformedRcd (s : State) (r : Rcd) (b : List Byte) : Bool :=
  let within (lo hi x : Nat) : Bool := decide (lo ≤ x) && decide (x ≤ hi)
  let ok :=
    r.version == 1 && r.size == 0x100 && within 1 4096 r.threads && within 1 4 r.crews && within 1 s.mostClusters r.valleys
    && within 1 12 r.valleys && within 1 4 r.plains && within 1 4 r.dmin && within r.dmin 4 r.dmax && decide (r.flags < 4)
    && decide (r.devs < 2 ^ 12) && within 1 4096 r.devs && within 1 255 r.regs && within 2 r.regs r.floor
    && (r.vcap == 0 || within (r.floor * r.rowsMax) 2048 r.vcap) && within 0 10 r.l1lend && (r.l1lend == 0 || r.excl)
    && within 0 7 r.prio && r.cscr % 1024 == 0 && within 0 (2 ^ 19 + 2 ^ 17 * r.l1lend) r.cscr
    && r.pscr % 65536 == 0 && within 0 (12 * 2 ^ 20) r.pscr && r.lstack % 16 == 0
    && r.kbank.toNat % 64 == 0 && r.fslot.toNat % 64 == 0 && (r.fsmask != 0 || r.fslot == 0) && (r.trap1 == 0 || isSlotPC r.trap1)
    && r.msgtab.toNat % 64 == 0 && within 0 256 r.msgn && (r.msgn != 0 || r.msgtab == 0)
    && (if r.msgn = 0 then r.hcrew == 0 else r.hcrew % 32 == 0 && within 32 1024 r.hcrew)
    && r.sympool % 64 == 0 && within 0 65472 r.sympool && decide (r.jobid < 2 ^ 12) && within 0 8 r.nrange
    && r.evq.toNat / 2 ^ 10 % 2 ^ 21 == 0 && (List.range 32).all (fun i => at64 b (0x60 + i) 1 == 0)
    && (List.range r.nrange).all fun i =>
        let w := at64 b (0x80 + 16 * i) 8
        w / 2 ^ 62 != 0 && w / 2 ^ 56 % 64 == 0 && at64 b (0x88 + 16 * i) 8 != 0
  !ok

/-- The entry address of a function reference (07 R190): none where it names no loaded function. -/
def State.resolve (s : State) (ref : DWord) : Option DWord :=
  if field ref 63 48 ≠ 0 then none
  else (Tab.find (field ref 47 32) s.containers).bind fun c => Tab.find (field ref 31 0) c.syms

/-! ### Reading an entry, 17 R358, R359 -/

/-- The launch of a queue's entry. -/
def State.launchAt (s : State) (q n : Nat) : Option (Nat × Launch) := s.launches.find? fun (_, l) => l.q == q && l.n == n

/-- QCTL fields of a queue. -/
def State.qEn (s : State) (q : Nat) : Bool := (s.reg (0x400 + 4 * q)).getLsbD 31
def State.qRanged (s : State) (q : Nat) : Bool := (s.reg (0x400 + 4 * q)).getLsbD 30
def State.qStop (s : State) (q : Nat) : Bool := (s.reg (0x400 + 4 * q)).getLsbD 29
def State.qPri (s : State) (q : Nat) : Nat := field (s.reg (0x400 + 4 * q)) 28 26
def State.qTenant (s : State) (q : Nat) : Nat := field (s.reg (0x400 + 4 * q)) 15 0
def State.qTail (s : State) (q : Nat) : Nat := field (s.reg (0x402 + 4 * q)) 31 0
def State.qHead (s : State) (q : Nat) : Nat := field (s.reg (0x403 + 4 * q)) 31 0

/-- How far an entry number lies above HEAD. -/
def State.aboveHead (s : State) (q n : Nat) : Nat := (n + 2 ^ 32 - s.qHead q) % 2 ^ 32

/-- Whether an entry is in its queue's window. -/
def State.inWindow (s : State) (q n : Nat) : Bool :=
  let d := s.aboveHead q n
  let len := (s.qTail q + 2 ^ 32 - s.qHead q) % 2 ^ 32
  decide (q < 64) && s.qEn q && !s.qStop q && decide (d < len) && (if s.qRanged q then decide (d < 16) else d == 0)

/-- A context id for a new launch (log entry 23): from a free value up, the first that no launch has had, else
the first whose launches have all ended. -/
def State.newCtxId (s : State) : Nat :=
  let ids := (List.range (s.ctxs.length + 1)).map fun i => ((Config.freeDWord s.free).toNat + i) % 2 ^ 16
  match ids.find? fun i => (Tab.find i s.ctxs).isNone with
  | some i => i
  | none => (ids.find? fun i => s.launches.all fun (_, l) => l.ctx != i || decide (l.status ≥ 2)).getD 0

/-- A launch made for an entry: its context is created with the resident OS's settings (log entry 4). -/
def State.makeLaunch (s : State) (q n : Nat) : Nat × State :=
  let id := s.seq
  let c := s.newCtxId
  (id, { s.bump with launches := Tab.put id { q := q, n := n, ctx := c } s.launches, ctxs := Tab.put c s.os s.ctxs,
                     free := s.free + 1 })

/-- The agent that reads a launch's record and tables (log entry 18): the control core's master id of the
tenant's lowest plain. -/
def State.launchEng (s : State) (l : Nat) : Eng :=
  let t := s.qTenant (s.la l).q
  let q := ((List.range 16).find? fun q => s.tenantOf q == some t).getD 0
  { owner := 2 ^ 62 + l, crew := 0, ctx := (s.la l).ctx, launch := l, master := 0x480 + q, plain := q }

/-- A launch rejected (17 R363). -/
def State.reject (s : State) (l st code : Nat) : State := s.endLaunch l st (some code)

/-- Everything a launch reads once (01 R45): record, constant bank, slots, handler table. -/
def readLaunch (e : Eng) (lrec : Nat) : EngM (List Byte) := engRead e .g .own lrec 256
def readTables (e : Eng) (r : Rcd) : EngM (List Byte × List Byte × List Byte) :=
  EngM.bind (engRead e .g .own r.kbank.toNat 1024) fun kb =>
  EngM.bind (if r.fsmask = 0 then EngM.pure [] else engRead e .g .own r.fslot.toNat 256) fun fs =>
  EngM.bind (engRead e .g .own r.msgtab.toNat (8 * r.msgn)) fun mt => EngM.pure (kb, fs, mt)

/-- The record of a launch: as the device has read it, else as memory has it, where that can be read. -/
def State.recordOf? (s : State) (id : Nat) (l : Launch) : Option Rcd :=
  if l.entered then some l.rcd
  else match readLaunch (s.launchEng id) (at64 (s.coh (s.entryAddr l.q l.n) 8) 0 8) s with
    | (.ok b, _) => some (Rcd.ofBytes b)
    | _ => none
def State.recordOf (s : State) (id : Nat) (l : Launch) : Rcd := (s.recordOf? id l).getD {}

/-- Plains of a tenant's partition. -/
def State.tenantHas (s : State) (t q : Nat) : Bool := s.tenantOf q == some t

/-- Plains of a die that a launch may be placed on at all (17 R366). -/
def State.diePlains (s : State) (l d : Nat) : List Nat :=
  let la := s.la l
  ((List.range 4).map fun i => 4 * d + i).filter fun q => s.tenantHas (s.qTenant la.q) q && decide (la.rcd.valleys ≤ (s.plainClusters q).length)

/-- Whether a launch can ever be accepted on its tenant's plains (17 R362). -/
def State.placeable (s : State) (l : Nat) : Bool :=
  let r := (s.la l).rcd
  r.acceptable && decide (r.dmin ≤ ((List.range 4).filter fun d => decide (r.plains ≤ (s.diePlains l d).length)).length)

/-- Whether the job table rejects a launch (20 R400). -/
def State.jobRejects (s : State) (l : Nat) : Bool :=
  let la := s.la l
  let j := s.jobOf l
  if j.valid then j.devs != la.rcd.devs || j.self != la.dev else decide (la.rcd.devs > 1)

/-- The pool counter of an accepted launch with a pool (02 R76): on launch device 0 a page of plain 0 that nobody has, its first
eight bytes 0; a launch for which there is none cannot be accepted (DESIGN CHOICE, log entry 14). On the other devices its
address on launch device 0, a free value. -/
def State.makePool (s : State) (l : Nat) : Option State :=
  if (s.la l).rcd.sympool < 64 then some s
  else if (s.la l).dev = 0 then (s.newFrames 0 1).map fun (f, s) =>
    (s.homeStore (f * pageBytes) (List.replicate 8 0)).setLa l fun x => { x with poolAt := some (f * pageBytes) }
  else let r := s.draw; some (r.2.setLa l fun x => { x with poolAt := some (r.1 % 2 ^ 40 / 8 * 8) })

/-- The counter freed once the launch has ended on every device; one that other devices may still draw from stays. -/
def State.freePool (s : State) (l : Nat) : State :=
  let la := s.la l
  match la.poolAt with
  | some a =>
      if 2 ≤ la.status ∧ la.dev = 0 ∧ (la.rcd.devs ≤ 1 ∨ (List.range la.rcd.devs).all la.goneDevs.contains) then
        { s with frames := s.frames.filter fun (f, _) => f * pageBytes != a }.setLa l fun x => { x with poolAt := none }
      else s
  | none => s

/-- A launch whose record and tables have been read is checked and waits, or is rejected. -/
def State.takeIn (s : State) (l : Nat) (b : List Byte) (t : List Byte × List Byte × List Byte) : State :=
  let r := Rcd.ofBytes b
  let slots := (List.range 8).map fun i => Fp.Slot.ofBytes ((t.2.1.drop (32 * i)).take 32)
  -- bits 63:56 of a handler's entry are ignored (12 R324)
  let msgs : List DWord := (List.range r.msgn).map fun i => BitVec.ofNat 64 (at64 t.2.2 (8 * i) 7)
  let bad := (List.range 8).any fun i => r.fsmask.testBit i && (slots.getD i (Fp.Slot.ofBytes [])).malformed
  let s := s.setLa l fun x =>
    { x with kbank := (List.range 256).map fun i => BitVec.ofNat 32 (at64 t.1 (4 * i) 4), slots := slots, msgs := msgs
             target := if x.resized then x.target else r.dmax, entered := true }
  let s := s.setCx (s.la l).ctx fun c => { c with excl := r.excl }
  if bad then s.reject l 3 4
  else match s.resolve r.entry with
    | none => s.reject l 7 4
    | some pc =>
        let s := s.setLa l fun x => { x with entry := pc }
        let s := s.readJob r.jobid
        if s.jobRejects l || !s.placeable l then s.reject l 4 4
        else match s.makePool l with
          | none => s.reject l 4 4
          | some s => (s.setLa l fun x => { x with own := if (s.jobOf l).valid then none else some {} }).writeStatus l 0

/-- LAUNCH_WINDOW_ENTRY, 17 R359: an entry in the window is read, its context id written, its record and
tables read and checked. -/
def State.enterWindow (s : State) (q n : Nat) : State :=
  let fresh := match s.launchAt q n with
    | some (_, l) => !l.entered && decide (l.status = 0) && !l.ending
    | none => true
  if !s.inWindow q n || !fresh then s
  else
    let a := s.entryAddr q n
    let eb := s.coh a 16
    let m : Nat × State := match s.launchAt q n with
      | some (id, _) => (id, s)
      | none => s.makeLaunch q n
    let l := m.1
    let s := m.2.setLa l fun x => { x with lrec := BitVec.ofNat 64 (at64 eb 0 8), dev := at64 eb 0xA 2 % 2 ^ 12 }
    let s := s.deviceStore (a + 0xC) (leBytes 4 (s.la l).ctx)
    let e := s.launchEng l
    let lrec := at64 eb 0 8
    if lrec % 256 ≠ 0 then (s.setLa l fun x => { x with entered := true }).reject l 3 4
    else
      match readLaunch e lrec s with
      | (.wait, s) => s
      | (.poison, s) => (s.setLa l fun x => { x with entered := true }).reject l 3 4
      | (.fault code _, s) => (s.setLa l fun x => { x with entered := true }).reject l 3 code
      | (.ok b, s) =>
          let r := Rcd.ofBytes b
          let s := s.setLa l fun x => { x with rcd := r }
          if s.malformedRcd r b || decide ((s.la l).dev ≥ r.devs) then (s.setLa l fun x => { x with entered := true }).reject l 3 4
          else match readTables e r s with
            | (.wait, s) => s
            | (.poison, s) => (s.setLa l fun x => { x with entered := true }).reject l 3 4
            | (.fault code _, s) => (s.setLa l fun x => { x with entered := true }).reject l 3 code
            | (.ok t, s) => s.takeIn l b t

/-- LAUNCH_WINDOW_ENTRY, 17 R359. -/
def execLaunchWindowEntry (q n : Nat) (s : State) : Host.Outcome State Fault Refusal := .next (s.enterWindow q n)

/-! ### Readiness and rank, 17 R359 to R361 -/

/-- Whether two launches' ranges conflict (R360). -/
def Rcd.conflicts (a b : Rcd) : Bool :=
  let all : List Range := [⟨3, 0, 2 ^ 64⟩]
  let us (r : Rcd) := if r.nrange = 0 then all else r.ranges
  (us a).any fun x => (us b).any fun y =>
    let lo (r : Range) := r.base / 256 * 256
    let hi (r : Range) := (r.base + r.len + 255) / 256 * 256
    decide (lo x < hi y) && decide (lo y < hi x) && (decide (x.mode ≥ 2) || decide (y.mode ≥ 2))

/-- Whether every earlier entry of the queue that orders this one has finished. -/
def State.ordered (s : State) (l : Nat) : Bool :=
  let la := s.la l
  (List.range (s.aboveHead la.q la.n)).all fun i =>
    match s.launchAt la.q ((s.qHead la.q + i) % 2 ^ 32) with
    | some (_, e) => decide (2 ≤ e.status) || (s.qRanged la.q && e.entered && !e.rcd.conflicts la.rcd)
    | none => false

/-- Whether a launch is ready, or runs (R359). -/
def State.launchReady (s : State) (l : Nat) : Bool :=
  let la := s.la l
  la.entered && !la.ending && !la.cancelled && (la.status == 1 || (la.status == 0 && !s.qStop la.q && s.ordered l))

/-- Effective priority of a base priority that became ready at a time (R361). -/
def agedPrio (base since now : Nat) : Nat := let p := base + (now - since) / 250000; if p < 7 then p else 7

/-- Effective priority by the time a launch has been ready. -/
def Launch.prioAt (la : Launch) (now : Nat) : Nat :=
  match la.readyAt with
  | some t => agedPrio la.base t now
  | none => la.base

/-- LAUNCH_PRIORITY_AGING, R361. -/
def State.agePrio (s : State) (l : Nat) : State := s.setLa l fun x => { x with eff := x.prioAt s.ns }

/-- LAUNCH_PRIORITY_AGING, R361. -/
def execLaunchPriorityAging (l : Nat) (s : State) : Host.Outcome State Fault Refusal := .next (s.agePrio l)

/-- What waits for room: a launch with a valley to bind, or a saved slice (R361, R369). -/
inductive Cand where
  | launch (l : Nat)
  | slice (id : Nat)
  deriving DecidableEq, Repr

/-- By what candidates rank (R361): effective priority, of equal ones a slice first (R369), ready time, queue, entry. -/
structure Rank where
  p : Nat
  slice : Bool
  since : Nat
  q : Nat
  n : Nat

def Rank.before (a b : Rank) : Bool :=
  decide (a.p > b.p) || (a.p == b.p && ((a.slice && !b.slice) || (a.slice == b.slice &&
    (decide (a.since < b.since) || (a.since == b.since && (decide (a.q < b.q) || (a.q == b.q && decide (a.n < b.n))))))))

def State.rankOf (s : State) (c : Cand) : Rank :=
  match c with
  | .launch l => let x := s.la l; ⟨x.eff, false, x.readyAt.getD 0, x.q, s.aboveHead x.q x.n⟩
  | .slice i => match Tab.find i s.slices with
    | some y => let x := s.la y.launch; ⟨agedPrio x.base y.readyAt s.ns, true, y.readyAt, x.q, s.aboveHead x.q x.n⟩
    | none => ⟨0, true, 0, 0, 0⟩

/-- Whether one candidate ranks before another. -/
def State.before (s : State) (a b : Cand) : Bool := (s.rankOf a).before (s.rankOf b)

/-! ### Where a launch may bind, 17 R365, R366 -/

/-- Whether a crew of the launch would find room on a core of a cluster that may take a new valley. -/
def State.coreFor (s : State) (n l : Nat) : Option (Nat × List Nat) :=
  (List.range 4).findSome? fun i => (s.room (4 * n + i) l false).map fun p => (4 * n + i, p)

/-- Whether a cluster holds a valley with an unstarted crew (01 R40). -/
def State.unstartedOn (s : State) (n : Nat) : Bool := s.crews.any fun (_, c) => clusterOfCore c.core == n && !c.started

/-- The lowest cluster of a plain that can bind a valley of the launch. -/
def State.clusterFor (s : State) (q l : Nat) : Option Nat :=
  ((List.range 12).map fun c => 12 * q + c).find? fun n => s.clusterOpen n (s.la l).ctx && !s.unstartedOn n && (s.coreFor n l).isSome

/-- Free clusters of a plain: in service, with no crew. -/
def State.freeClusters (s : State) (q : Nat) : Nat :=
  ((List.range 12).filter fun c => s.inService (12 * q + c) && (s.clusterCrews (12 * q + c)).isEmpty).length

/-- Whether a physical die is available to a launch (R365). -/
def State.dieAvailable (s : State) (l d : Nat) : Bool :=
  decide ((s.la l).rcd.plains ≤ ((s.diePlains l d).filter fun q => (s.clusterFor q l).isSome).length)

/-- The best of a list by an order. -/
def bestOf {α : Type} (before : α → α → Bool) : List α → Option α
  | [] => none
  | a :: t => match bestOf before t with
    | some b => if before b a then some b else some a
    | none => some a

/-- A list in an order, at most `fuel` of it. -/
def rankList (before : Nat → Nat → Bool) : Nat → List Nat → List Nat
  | 0, _ => []
  | fuel + 1, l => match bestOf before l with
    | some a => a :: rankList before fuel (l.filter (· != a))
    | none => []

/-- Physical plains of the logical plains of a die that joins (R366). -/
def State.plainsFor (s : State) (l d : Nat) : List Nat :=
  let before (a b : Nat) : Bool := decide (s.freeClusters a > s.freeClusters b) || (s.freeClusters a == s.freeClusters b && decide (a < b))
  rankList before (s.la l).rcd.plains (s.diePlains l d)

/-- Dies that join a launch: the lowest available ones, mapped. -/
def State.joinDies (s : State) (l : Nat) (ds : List Nat) : State :=
  ds.foldl (fun s d =>
    let i := (s.la l).dies.length
    let qs := s.plainsFor l d
    s.setLa l fun x => { x with dies := x.dies ++ [d], map := x.map ++ (List.range qs.length).map fun p => (4 * i + p, qs.getD p 0) }) s

/-- The dies of phase 0 chosen (R365); none while too few are available. -/
def State.chooseDies (s : State) (l : Nat) : Option State :=
  let la := s.la l
  if !la.dies.isEmpty then some s
  else
    let av := (List.range 4).filter (s.dieAvailable l)
    let most := if la.rcd.dmax < la.target then la.rcd.dmax else la.target
    let n := if av.length < most then av.length else most
    if n < la.rcd.dmin then none else some (s.joinDies l (av.take n))

/-- The next unbound valley of a logical plain's key. -/
def Launch.nextValley (la : Launch) (key : Nat) : Option Nat :=
  (List.range la.rcd.valleys).find? fun v => (Tab.find (key * 16 + v) la.bound).isNone

/-- The logical plain of a launch that lies on a physical plain and has a valley to bind. -/
def Launch.openPlain (la : Launch) (q : Nat) : Option (Nat × Nat) :=
  la.map.findSome? fun (key, p) => if p = q then (la.nextValley key).map fun v => (key, v) else none

/-- When a launch's slice on a cluster was started: with the first crew of it there (R369). -/
def State.markSlice (s : State) (l n : Nat) : State :=
  if s.crews.any fun (_, c) => c.launch == l && clusterOfCore c.core == n && c.started && !c.ended then s
  else s.setLa l fun x => { x with since := Tab.put n s.ns x.since }

/-- The handler crew of a launch placed before its first valley on the device (R367), on no cluster where a crew of another
valley has still to start (01 R40). -/
def State.placeHandler (s : State) (l : Nat) : Option State :=
  let la := s.la l
  if la.rcd.msgn = 0 ∨ la.hcrewId.isSome then some s
  else
    let q := Tab.getD 0 0 la.map
    if !s.tenantHas (s.qTenant la.q) q then none
    else
    let cores := ((List.range 12).map fun c => 12 * q + c).flatMap fun n => if s.clusterOpen n la.ctx && !s.unstartedOn n then (List.range 4).map fun i => 4 * n + i else []
    (cores.findSome? fun c => (s.room c l true).map fun p => (c, p)).map fun x =>
      let id := s.seq
      let s := { s.bump with crews := Tab.put id { launch := l, ctx := la.ctx, core := x.1, die := 0, plain := 0, handler := true } s.crews }
      (((s.markSlice l (clusterOfCore x.1)).freshCore x.1).beginCrew id x.1 x.2).setLa l fun y => { y with hcrewId := some id }

/-- A valley bound to a cluster: its crews are made, and the first starts on the lowest core with room
(01 R40, R366). -/
def State.bindValley (s : State) (l key v n core : Nat) (place : List Nat) : State :=
  let la := s.la l
  let first := s.seq
  let s := (List.range la.rcd.crews).foldl (fun s i =>
    { s.bump with crews := Tab.put s.seq { launch := l, ctx := la.ctx, core := 4 * n, crew := i, valley := v, plain := key % 4, die := key / 4 } s.crews }) s
  let s := (s.markSlice l n).setLa l fun x =>
    { x with bound := Tab.put (key * 16 + v) n x.bound, hold := false, candSince := none, unbound := none }
  -- a launch that sets CSYNC does so before its first fetch (05 R142)
  let s := if la.status = 0 then (if la.rcd.flags.testBit 1 then s.codeSync else s).writeStatus l 1 else s
  (s.freshCore core).beginCrew first core place

/-- A valley of a launch bound on a physical plain, where that can be done (R366). -/
def State.tryBind (s : State) (l q : Nat) : Option State :=
  if !s.launchReady l then none
  else (s.chooseDies l).bind fun s =>
    match if s.tenantHas (s.qTenant (s.la l).q) q then (s.la l).openPlain q else none with
    | none => none
    | some (key, v) => (s.placeHandler l).bind fun s =>
        match s.clusterFor q l with
        | none => none
        | some n => (s.coreFor n l).map fun x => s.bindValley l key v n x.1 x.2

/-- Whether a launch may use a physical plain: it has a valley to bind there, or has none placed yet. -/
def State.mayUse (s : State) (l q : Nat) : Bool :=
  let la := s.la l
  s.launchReady l && (if la.dies.isEmpty then (s.diePlains l (q / 4)).contains q else (la.openPlain q).isSome)

/-- Whether a saved slice may be restored on a plain: its own, while it is its tenant's (R369, 18 R392). -/
def State.sliceMay (s : State) (x : SavedSlice) (q : Nat) : Bool := x.plain == q && s.tenantHas (s.qTenant (s.la x.launch).q) q

/-- Whether a cluster of a plain is open to a saved slice: it is restored before any valley that ranks behind it binds there
(R369). -/
def State.sliceWaits (s : State) (id q : Nat) : Bool :=
  match Tab.find id s.slices with
  | some x => (List.range 12).any fun c => s.clusterOpen (12 * q + c) x.ctx && !s.unstartedBeside (12 * q + c) x.launch
  | none => false

/-- What may use a plain (R361). -/
def State.cands (s : State) (q : Nat) : List Cand :=
  ((Tab.keys s.launches).filter fun l => s.mayUse l q).map .launch ++ (s.slices.filter fun (_, x) => s.sliceMay x q).map fun (i, _) => .slice i

/-- VALLEY_BIND, R361, R366: room is offered in rank order. -/
def State.valleyBind (s : State) (l q : Nat) : State :=
  match s.tryBind l q with
  | none => s
  | some s' =>
      let above := (s.cands q).filter fun c => c != .launch l && s.before c (.launch l)
      if above.any fun c => match c with
        | .launch m => (s.la m).hold || (s.tryBind m q).isSome
        | .slice i => s.sliceWaits i q
      then s else s'

/-- VALLEY_BIND, R366. -/
def execValleyBind (l plain : Nat) (s : State) : Host.Outcome State Fault Refusal := .next (s.valleyBind l plain)

/-- The candidate of a physical plain (R361): what ranks first of all that may use it. -/
def State.candidate (s : State) (q : Nat) : Option Cand := bestOf s.before (s.cands q)

/-- Whether a launch or a slice is the candidate of some plain. -/
def State.isCandidate (s : State) (c : Cand) : Bool := (List.range 16).any fun q => s.candidate q == some c

/-- CANDIDATE_HOLD, R361: a candidate that has been unable to bind for 200 µs holds its plains. -/
def State.candidateHold (s : State) (l : Nat) : State :=
  match (s.la l).candSince with
  | some t => if t + 200000 ≤ s.ns ∧ s.isCandidate (.launch l) ∧ ((List.range 16).all fun q => (s.tryBind l q).isNone) then s.setLa l fun x => { x with hold := true } else s
  | none => s

/-- CANDIDATE_HOLD, R361. -/
def execCandidateHold (l : Nat) (s : State) : Host.Outcome State Fault Refusal := .next (s.candidateHold l)

/-- Whether a launch has a valley to bind. -/
def Launch.wants (la : Launch) : Bool := la.dies.isEmpty || la.map.any fun (key, _) => (la.nextValley key).isSome

/-- What holds of the queues after every step: the launches' base priorities, when they became ready, how they rank, since when
one is a candidate and since when it has a valley unbound. A hold lasts until its launch has bound a valley (R361). -/
def State.tidyLaunches (s : State) : State :=
  let s := (Tab.keys s.launches).foldl (fun s l =>
    let r := s.launchReady l
    ((s.setLa l fun x =>
      { x with base := if x.rcd.prio < s.qPri x.q then x.rcd.prio else s.qPri x.q, hold := x.hold && r
               readyAt := if r then some (x.readyAt.getD s.ns) else if x.status = 0 then none else x.readyAt
               unbound := if r && x.wants then some (x.unbound.getD s.ns) else none }).agePrio l).freePool l) s
  (Tab.keys s.launches).foldl (fun s l =>
    let c := s.isCandidate (.launch l)
    s.setLa l fun x => { x with candSince := if c then some (x.candSince.getD s.ns) else none }) s

/-! ### Starting the other crews of a valley, 01 R40 -/

/-- The lowest core of a crew's cluster that has room and no other crew of its valley (R366). -/
def State.startCore (s : State) (c : Nat) : Option (Nat × List Nat) :=
  let me := s.cr c
  let n := clusterOfCore me.core
  let mates := s.valleyCrews c
  (List.range 4).findSome? fun i =>
    if mates.any fun m => (s.cr m).started && (s.cr m).core == 4 * n + i then none
    else (s.room (4 * n + i) me.launch false).map fun p => (4 * n + i, p)

/-- CREW_START, 01 R40. -/
def State.crewStart (s : State) (c : Nat) : State :=
  if (Tab.find c s.crews).isNone || (s.cr c).started || (s.la (s.cr c).launch).cancelled then s
  else match s.startCore c with
    | some x => ((s.markSlice (s.cr c).launch (clusterOfCore x.1)).freshCore x.1).beginCrew c x.1 x.2
    | none => s

/-- CREW_START, 01 R40. -/
def execCrewStart (crew : Nat) (s : State) : Host.Outcome State Fault Refusal := .next (s.crewStart crew)

/-! ### Phases, 01 R42, R43, 17 R365, 20 R411 -/

/-- Crews of a launch here, but for the handler crew. -/
def State.launchCrews (s : State) (l : Nat) : List (Nat × Crew) := s.crews.filter fun (_, c) => c.launch == l && !c.handler

/-- How many crews the launch has on its dies. -/
def Launch.crewCount (la : Launch) : Nat := la.dies.length * la.rcd.plains * la.rcd.valleys * la.rcd.crews

/-- Whether a crew has arrived at the end of its phase (01 R42); a thread that stands at PHASE on level 2 has not (08 R207). -/
def State.crewArrived (s : State) (c : Nat) : Bool :=
  (s.cr c).started && (s.crewThreads c).all fun k => ((s.th k).status == .phase && (s.th k).tlvl == 0) || !s.live k

/-- Whether every crew of the launch on this device has arrived. -/
def State.allArrived (s : State) (l : Nat) : Bool :=
  let cs := s.launchCrews l
  (s.la l).status == 1 && !(s.la l).cancelled && cs.length == (s.la l).crewCount && cs.all fun (c, _) => s.crewArrived c

/-- Whether every thread of the launch on this device has exited: it takes part in no further phase, whatever its engines have
still to do (01 R42, R43). -/
def State.allExited (s : State) (l : Nat) : Bool := (s.launchCrews l).all fun (c, _) => (s.crewThreads c).all fun k => !s.live k

/-- How many dies of a launch the next boundary keeps at most (17 R365). -/
def Launch.diesWanted (la : Launch) : Nat :=
  let most := if la.rcd.dmax < la.target then la.rcd.dmax else la.target
  if most < la.rcd.dmin then la.rcd.dmin else most

/-- Crews of the dies from `n` on. -/
def State.diesFrom (s : State) (l n : Nat) : List Nat := ((s.launchCrews l).filter fun (_, c) => decide (n ≤ c.die)).map (·.1)

/-- Whether stores of crews that the boundary would withdraw are still to be performed: it waits for them (01 R43). -/
def State.leavingBusy (s : State) (l : Nat) : Bool :=
  s.ops.any fun (_, o) => o.kind.writes && o.space != .l && (s.diesFrom l (s.la l).diesWanted).contains o.crew

/-- Dies withdrawn from `n` on: their crews end at the boundary, their stores complete (01 R43). -/
def State.withdraw (s : State) (l n : Nat) : State :=
  let s := (s.diesFrom l n).foldl State.haltCrew s
  s.setLa l fun x => { x with dies := x.dies.take n, map := x.map.filter fun (k, _) => decide (k / 4 < n), bound := x.bound.filter fun (k, _) => decide (k / 64 < n) }

/-- Step 1 of 01 R42 as 17 R365 has it. -/
def State.resize (s : State) (l : Nat) : State :=
  let la := s.la l
  let most := la.diesWanted
  let av := (List.range 4).filter fun d => !la.dies.contains d && s.dieAvailable l d
  if most < la.dies.length then s.withdraw l most
  else s.joinDies l (av.take (most - la.dies.length))

/-- The next phase begins (01 R42): its threads are released with an acquire (05 R145). -/
def State.startPhase (s : State) (l : Nat) : State :=
  let sc : Scope := if (s.la l).rcd.devs > 1 then .domain else .device
  let s := (s.resize l).setLa l fun x => { x with phase := x.phase + 1, arrived := x.goneDevs, told := false }
  let cs := s.launchCrews l
  let s := cs.foldl (fun s (_, c) => s.acquire c.core sc) s
  cs.foldl (fun s (c, _) => (s.crewThreads c).foldl (fun s k => s.setTh k fun t =>
    if t.status = .phase then { t with status := .ready, since := s.cycle, starved := false } else t) s) s

/-- A flit of a launch's job to another of its devices. -/
def State.jobFlit (s : State) (l dev kind : Nat) : Flit :=
  let j := s.jobOf l
  { kind := BitVec.ofNat 8 kind, size := 0, dst := BitVec.ofNat 16 (j.dmap.getD dev 0), src := BitVec.ofNat 16 s.myDev
    job := BitVec.ofNat 16 (s.la l).rcd.jobid, epoch := BitVec.ofNat 16 j.epoch, fn := 0, seq := BitVec.ofNat 32 (s.la l).phase, addr := 0
    time := 0, data := [], payload := [] }

/-- Devices counted as arrived. -/
def addDev (d : Nat) (l : List Nat) : List Nat := if l.contains d then l else l ++ [d]

/-- An arrival counted at launch device 0; `gone` one whose threads have all exited (20 R411, 01 R42). -/
def State.noteArrival (s : State) (l d : Nat) (gone : Bool) : State :=
  s.setLa l fun x => { x with arrived := addDev d x.arrived, goneDevs := if gone then addDev d x.goneDevs else x.goneDevs }

/-- This device's arrival told to launch device 0, once a phase; with every thread exited it stands for every
later phase too, FN 1 (20 R411, 01 R42, log entry 13). -/
def State.tellArrival (s : State) (l : Nat) : State :=
  if (s.la l).told then s
  else
    let gone := s.allExited l
    let s := s.setLa l fun x => { x with told := true, gone := gone }
    if (s.la l).dev = 0 then s.noteArrival l 0 gone
    else s.send { s.jobFlit l 0 0x0D with fn := if gone then 1 else 0 }

/-- This device's part of the next phase: a launch all of whose threads have exited only counts it. -/
def State.nextPhase (s : State) (l : Nat) : State :=
  if (s.la l).gone then s.setLa l fun x => { x with phase := x.phase + 1, arrived := x.goneDevs } else s.startPhase l

/-- At launch device 0: the phase goes on once all devices have arrived, as long as one of them has a thread left
(20 R411). -/
def State.goOn (s : State) (l : Nat) : State :=
  let la := s.la l
  let all := List.range la.rcd.devs
  if la.dev = 0 ∧ all.all la.arrived.contains ∧ ¬ all.all la.goneDevs.contains then
    (all.filter fun d => d != 0).foldl (fun s d => s.send (s.jobFlit l d 0x0E)) s |>.nextPhase l
  else s

/-- PHASE_BOUNDARY, 01 R42, 20 R411: every crew here has arrived, and not all their threads have exited. -/
def State.phaseBoundary (s : State) (l : Nat) : State :=
  if !s.allArrived l || s.leavingBusy l then s
  else if (s.la l).rcd.devs ≤ 1 then
    if s.allExited l then s else s.startPhase l
  else (s.tellArrival l).goOn l

/-- PHASE_BOUNDARY, 01 R42. -/
def execPhaseBoundary (l : Nat) (s : State) : Host.Outcome State Fault Refusal := .next (s.phaseBoundary l)

/-! ### The end of a launch, 05 R144 -/

/-- Whether everything a launch did here is over: its crews have ended, its accesses are performed, its
handlers have run and the records and jobs they posted are done. -/
def State.launchOver (s : State) (l : Nat) : Bool :=
  let la := s.la l
  let cs := s.launchCrews l
  la.status == 1 && !la.ending && !la.cancelled && !la.dies.isEmpty && cs.length == la.crewCount && cs.all (fun (_, c) => c.ended)
  && !(s.ops.any fun (_, o) => (Tab.find o.crew s.crews).any fun c => c.launch == l)
  && la.hq.isEmpty && (match la.hcrewId with
      | some c => (s.crewThreads c).isEmpty && (Tab.find c s.crews).isSome && s.crewDone c
      | none => true)

/-- LAUNCH_COMPLETE, 05 R144, 17 R363: its crews are gone with their scratch; the record follows every
effect. A launch of several devices has arrived at every later phase (01 R42). -/
def State.completeLaunch (s : State) (l : Nat) : State :=
  if !s.launchOver l then s
  else
    let s := if (s.la l).rcd.devs > 1 then (s.tellArrival l).goOn l else s
    -- the launch's end drops its .ro copies (04 R113)
    let s := (s.crews.filter fun (_, c) => c.launch == l).foldl (fun s (c, x) => (s.dropCopies x.core fun y => y.kind.isRo).dropCrew c) s
    (s.setLa l fun x => { x with pscr := [], bound := [], hcrewId := none }).endLaunch l 2 (some 1)

/-- LAUNCH_COMPLETE, 05 R144. -/
def execLaunchComplete (l : Nat) (s : State) : Host.Outcome State Fault Refusal := .next (s.completeLaunch l)

/-! ### Pre-emption of slices, 17 R369 -/

/-- Cores of a cluster on which a context has crews. -/
def State.sliceCores (s : State) (ctx n : Nat) : List Nat :=
  ((List.range 4).map fun i => 4 * n + i).filter fun core => !(s.savedCrews ctx core).isEmpty

/-- Whether a slice may be pre-empted for a candidate (R369). -/
def State.preemptible (s : State) (x : Cand) (l n : Nat) : Bool :=
  let la := s.la l
  let ctx := la.ctx
  let cores := s.sliceCores ctx n
  la.status == 1 && !la.cancelled && !cores.isEmpty && (s.cands (plainOfCluster n)).contains x && decide (la.base < (s.rankOf x).p)
  && decide (Tab.getD n 0 la.since + field (s.reg 0x510) 31 0 * 1000 ≤ s.ns) && field (s.reg 0x510) 31 0 != 0
  && !(s.cx ctx).sys && cores.all (fun c => Tab.getD c 0 (s.cx ctx).csave != 0) && (s.cl n).hold.isNone

/-- Whether a candidate has waited 200 µs unbound. -/
def State.waited (s : State) (x : Cand) : Bool :=
  match match x with
    | .launch l => (s.la l).unbound
    | .slice i => (Tab.find i s.slices).map fun y => y.readyAt with
  | some t => decide (t + 200000 ≤ s.ns)
  | none => false

/-- Everything that waits for room. -/
def State.allCands (s : State) : List Cand := (Tab.keys s.launches).map .launch ++ (Tab.keys s.slices).map .slice

/-- Slices of the device: launches and clusters. -/
def State.slicesNow (s : State) : List (Nat × Nat) :=
  (s.crews.filterMap fun (_, c) => if c.started && !c.ended then some (c.launch, clusterOfCore c.core) else none).eraseDups

/-- Whether a slice is taken before another (R369). -/
def State.sliceBefore (s : State) (a b : Nat × Nat) : Bool :=
  let x := s.la a.1
  let y := s.la b.1
  let tx := Tab.getD a.2 0 x.since
  let ty := Tab.getD b.2 0 y.since
  decide (x.base < y.base) || (x.base == y.base && (decide (tx > ty) || (tx == ty && decide (a.2 < b.2))))

/-- Whether a slice is the one to pre-empt for some candidate that has waited 200 µs. -/
def State.toPreempt (s : State) (l n : Nat) : Bool :=
  s.allCands.any fun x => s.waited x && s.isCandidate x && s.preemptible x l n
    && s.slicesNow.all fun y => !(s.preemptible x y.1 y.2) || y == (l, n) || s.sliceBefore (l, n) y

/-- SLICE_PREEMPT, R369: the effects of PARK, and once all is parked those of CTXSAVE on every core. -/
def State.preemptSlice (s : State) (l n : Nat) : State :=
  let ctx := (s.la l).ctx
  let cores := s.sliceCores ctx n
  if !((s.la l).leaving.contains n || s.toPreempt l n) then s
  else if (s.cl n).hold.isSome then
    -- nothing on a held cluster is pre-empted (22 R440): what was asked to park goes on
    (cores.foldl (fun s c => s.unpark ctx c) s).setLa l fun x => { x with leaving := x.leaving.filter (· != n) }
  else if cores.isEmpty then s.setLa l fun x => { x with leaving := x.leaving.filter (· != n) }
  else
    let s := cores.foldl (fun s c => s.askPark ctx c) s
    let s := s.setLa l fun x => { x with leaving := if x.leaving.contains n then x.leaving else x.leaving ++ [n] }
    let busy := s.ops.any fun (_, o) => cores.any fun c => (s.savedCrews ctx c).any fun (id, _) => id == o.crew
    if busy || !(cores.all fun c => s.isParked ctx c) then s
    else
      let s := cores.foldl (fun s c => s.saveCtx ctx c (Tab.getD c 0 (s.cx ctx).csave).toNat (cores.head? == some c)) s
      let x : SavedSlice := { ctx := ctx, launch := l, plain := plainOfCluster n, cluster := n, cores := cores, readyAt := s.ns }
      { (s.setLa l fun y => { y with leaving := y.leaving.filter (· != n), since := Tab.drop n y.since }) with slices := Tab.put s.seq x s.slices, seq := s.seq + 1 }

/-- SLICE_PREEMPT, R369. -/
def execSlicePreempt (l cluster : Nat) (s : State) : Host.Outcome State Fault Refusal := .next (s.preemptSlice l cluster)

/-- The saved cores of a slice loaded onto cores of a cluster, one each; none without room for all. -/
def State.loadCores (s : State) (ctx n : Nat) : List Nat → List Nat → Option State
  | [], _ => some s
  | c :: rest, free =>
      let h := (Tab.getD c 0 (s.cx ctx).csave).toNat
      match free.findSome? fun x => let r := s.loadCtx ctx x h; if r.1 = 0 then some (x, r.2) else none with
      | some (x, s) => s.loadCores ctx n rest (free.filter (· != x))
      | none => none

/-- A slice restored by the effects of CTXLOAD, then of PARK.rel, onto one cluster of its plain (R369); none where it may not be,
or where there is no room. Where crews of its valleys have started on its cluster since, that one (01 R40). -/
def State.tryRestore (s : State) (id n : Nat) : Option State :=
  match Tab.find id s.slices with
  | none => none
  | some x =>
      let l := x.launch
      let tied := s.crews.any fun (_, c) => c.launch == l && c.started && !c.handler && clusterOfCore c.core == x.cluster
      if ¬ s.sliceMay x (plainOfCluster n) ∨ ¬ s.clusterOpen n x.ctx ∨ s.unstartedBeside n l ∨ (s.la l).cancelled ∨ (tied ∧ n ≠ x.cluster) then none
      else (s.loadCores x.ctx n x.cores ((List.range 4).map fun i => 4 * n + i)).map fun s =>
        -- crews of the slice's valleys that have not started start on the new cluster
        let move (y : Crew) : Crew :=
          if y.launch == l && !y.started && clusterOfCore y.core == x.cluster then { y with core := 4 * n } else y
        let s := { s with crews := s.crews.map fun (c, y) => (c, move y), slices := Tab.drop id s.slices }
        let s := s.setLa l fun y =>
          { y with bound := y.bound.map fun (k, m) => (k, if m = x.cluster then n else m), since := Tab.put n s.ns y.since }
        (List.range 4).foldl (fun s i => s.unpark x.ctx (4 * n + i)) s

/-- SLICE_RESTORE, R369: in rank order among what may use the plain. A hold of R361 does not concern it. -/
def State.restoreSlice (s : State) (id n : Nat) : State :=
  match s.tryRestore id n with
  | none => s
  | some s' =>
      let q := plainOfCluster n
      let above := (s.cands q).filter fun c => s.before c (.slice id)
      if above.any fun c => match c with
        | .launch m => (s.tryBind m q).isSome
        | .slice i => (List.range 12).any fun c => (s.tryRestore i (12 * q + c)).isSome
      then s else s'

/-- SLICE_RESTORE, R369. -/
def execSliceRestore (slice cluster : Nat) (s : State) : Host.Outcome State Fault Refusal := .next (s.restoreSlice slice cluster)

end Sys2Proof.Machine
end

