-- ==== Sys2Proof/Machine/Arbiter.lean ====
section
/-! DEFINITION. What a partition does between convoys (01 R21 to R23, R28 to R31), and the events of the memory
system: results written back, stores merged, ownership granted, leases ended (01 R32, 04 R112, 05 R128, R143,
11 R283, R286, 20 R404, R419). -/

namespace Sys2Proof.Machine

/-! ### Convoys, 01 R21 to R23 -/

/-- The ready threads of a partition (R21). -/
def State.competitors (s : State) (p : Nat) : List Nat := (Tab.keys s.threads).filter fun k => s.partTh k == p && s.canIssue k

/-- Where a thread stands, as R22 and R26 group threads: context, address, header. -/
def State.standAt (s : State) (k : Nat) : Nat × DWord × DWord := (s.ctxTh k, (s.th k).pc, (s.th k).hdr)

/-- The thread that has been ready longest, a tie to the lower tid. Threads of two crews that tie in both, which R22 does not
separate, are taken in the order of the list, crew ids rising (DESIGN CHOICE, log entry 46). -/
def State.longest (s : State) : List Nat → Option Nat
  | [] => none
  | k :: t => match s.longest t with
    | some j => if s.readyFrom j < s.readyFrom k ∨ (s.readyFrom j = s.readyFrom k ∧ tidOf j < tidOf k) then some j else some k
    | none => some k

/-- What separates two addresses (R22, rules 2 to 6). -/
def State.addrBefore (s : State) (a b : List Nat) : Bool :=
  let pri (l : List Nat) : Nat := match l with
    | k :: _ => (match s.headerAt k (s.th k).hdr with | some w => (hdrPri w).toNat | none => 0)
    | [] => 0
  let yld (l : List Nat) : Bool := l.any fun k => (s.th k).yld
  let lanes (l : List Nat) : Nat := ((l.map laneOf).eraseDups).length
  let since (l : List Nat) : Nat := match s.longest l with
    | some k => s.readyFrom k
    | none => 0
  let pc (l : List Nat) : Nat := match l with
    | k :: _ => (s.th k).pc.toNat
    | [] => 0
  if pri a ≠ pri b then decide (pri a > pri b)
  else if yld a ≠ yld b then !yld a
  else if lanes a ≠ lanes b then decide (lanes a > lanes b)
  else if since a ≠ since b then decide (since a < since b)
  else decide (pc a < pc b)

/-- The first in order of groups of threads; two groups at one address, under another header or of another context, are
taken in the order of the list (DESIGN CHOICE, log entry 46). -/
def State.bestGroup (s : State) : List (List Nat) → Option (List Nat)
  | [] => none
  | a :: t => match s.bestGroup t with
    | some b => if s.addrBefore b a then some b else some a
    | none => some a

/-- Threads grouped by where they stand. -/
def State.groups (s : State) (ks : List Nat) : List (List Nat) :=
  ((ks.map s.standAt).eraseDups).map fun x => ks.filter fun k => s.standAt k == x

/-- The thread of a lane that joins the convoy formed of a group: the one ready longest, one that yielded only where no other
of its lane stands there (08 R206), a starved one whatever else (R23). -/
def State.pickLane (s : State) (g : List Nat) (l : Nat) : Option Nat :=
  let here := g.filter fun k => laneOf k == l
  let first := here.filter fun k => !(s.th k).yielded || s.isStarved k
  s.longest (if first.isEmpty then here else first)

/-- The members of the next convoy (R22, R23). -/
def State.chosen (s : State) (p : Nat) : List Nat :=
  let ks := s.competitors p
  let g := match s.longest (ks.filter s.isStarved) with
    | some k => some (ks.filter fun j => s.standAt j == s.standAt k)
    | none => s.bestGroup (s.groups ks)
  match g with
  | none => []
  | some g => ((g.map laneOf).eraseDups).filterMap (s.pickLane g)

/-- A thread put into a list in increasing tid, crews of one tid in increasing id. -/
def insertTid (k : Nat) : List Nat → List Nat
  | [] => [k]
  | j :: t => if tidOf k < tidOf j ∨ (tidOf k = tidOf j ∧ k ≤ j) then k :: j :: t else j :: insertTid k t

/-- Threads in increasing tid: the order in which one instruction acts for them (11 R275, R292). -/
def byTid (ks : List Nat) : List Nat := ks.foldr insertTid []

/-- A convoy formed of threads that stand at one address; at a resume point its header is read now, and what
its fetch raises is raised there. -/
def State.formConvoy (s : State) (p : Nat) (lane : Option Nat) (ks : List Nat) : State :=
  let ks := byTid ks
  match ks with
  | [] => s
  | k :: _ =>
      let t := s.th k
      let s := ks.foldl (fun s j => (s.leaveConvoy j).setTh j fun t => { t with status := .running, yielded := false, starved := false }) s
      let c : Convoy := { part := p, lane := lane, mem := ks, pc := t.pc, hdr := t.hdr }
      if t.pc = t.hdr then { s with convoys := s.convoys ++ [c] }
      else match s.fetch k [] t.hdr with
        | (.busy _, s) => ks.foldl (fun s j => s.setTh j fun t => { t with status := .ready }) s
        | (.fault cz tf, s) =>
            let a := blockAddr t.hdr
            let s := s.noteFetch k t.hdr cz
            ks.foldl (fun s j => s.trap j ⟨cz, a, if tf then some a else none, none⟩) s
        | (.word w, s) =>
            let len := (hdrLen w).toNat
            let r := s.capture k [] (stretchBlocks t.hdr len)
            let c := { c with wait := hdrWait w, sa := w.extractLsb' 65 5, sb := w.extractLsb' 60 5, len := hdrLen w, pri := hdrPri w, code := r.1 }
            { r.2 with convoys := r.2.convoys ++ [c] }

/-- Threads that start to run from their lane's loop buffer (R30): in each lane at most one, the one ready
longest among those not taken whose stretch is captured. -/
def State.startBuffers (s : State) (p : Nat) : State :=
  (List.range 32).foldl (fun s l =>
    if s.convoys.any fun c => c.part == p && c.lane == some l then s
    else
      let ks := (s.competitors p).filter fun k => laneOf k == l && (s.th k).status == .ready && (s.th k).pc == (s.th k).hdr
        && (s.pt p).captured.any fun e => e.1 == (s.ctxTh k, (s.th k).pc)
      match s.longest ks with
      | some k => s.formConvoy p (some l) [k]
      | none => s) s

/-- CONVOY_ARBITRATION, R22: when the slot is free, and the RGU does not hold it. -/
def State.arbitrate (s : State) (p : Nat) : State :=
  if (s.convoys.any fun c => c.part == p && c.lane.isNone) || (s.pt p).rgu.isSome || (s.co (p / 4)).dead then s
  else
    let ks := s.chosen p
    if ks.isEmpty then s
    else
      let s := s.formConvoy p none ks
      -- a YIELD has been honoured at this boundary
      let s := ((Tab.keys s.threads).filter fun k => s.partTh k == p).foldl (fun s k => s.setTh k fun t => { t with yielded := false }) s
      s.startBuffers p

/-- CONVOY_ARBITRATION, R22. -/
def execConvoyArbitration (part : Nat) (s : State) : Host.Outcome State Fault Refusal := .next (s.arbitrate part)

/-- A thread that has been ready for 4,096 cycles without issuing is starved (R23). -/
def State.starve (s : State) (t : Nat) : State :=
  if s.canIssue t && (s.th t).status == .ready && decide (s.readyFrom t + Config.starveCycles ≤ s.cycle) then
    s.setTh t fun x => { x with starved := true }
  else s

/-- THREAD_STARVED, R23, R368. -/
def execThreadStarved (t : Nat) (s : State) : Host.Outcome State Fault Refusal := .next (s.starve t)

/-! ### Memory events -/

/-- Whether a place is host memory, which the host acknowledges. -/
def Where.isHost : Where → Bool
  | .host _ => true
  | _ => false

/-- LONG_LATENCY_COMPLETE, 01 R32: a load or returning atomic is performed and its result written. -/
def execLongLatencyComplete (op : Nat) (s : State) : Host.Outcome State Fault Refusal :=
  .next (match Tab.find op s.ops with
    | some o => if o.kind.returns && !o.loc.isHost then s.tryPerform op else s
    | none => s)

/-- HOME_STORE_MERGE, 04 R112, 05 R128: a .wt, .si or .uc store or a non-returning atomic is performed at the
home slice; on a replicated page at every copy (R140). -/
def execHomeStoreMerge (op : Nat) (s : State) : Host.Outcome State Fault Refusal :=
  .next (match Tab.find op s.ops with
    | some o =>
        let home : Bool := match o.loc with
          | .mem _ => o.rtype != .own || o.kind.isMbarr
          | .repl _ => true
          | _ => false
        if o.kind.writes && !o.kind.returns && home then s.tryPerform op else s
    | none => s)

/-- Whether an operation is a .own write of a core on a line. -/
def Op.ownsLine (o : Op) (core line : Nat) : Bool :=
  o.core == core && o.rtype == .own && o.kind.writes && !o.kind.returns && !o.kind.isMbarr
    && (match o.loc with
        | .mem a => lineOf a == line
        | _ => false)

/-- EXCLUSIVE_OWNERSHIP_GRANT, 05 R128: the L1 holds the line exclusive and writes the bytes of its stores. -/
def execExclusiveOwnershipGrant (core line : Nat) (s : State) : Host.Outcome State Fault Refusal :=
  .next ((s.ops.filter fun (_, o) => o.ownsLine core line).foldl (fun s (i, _) => s.tryPerform i) s)

/-- DELAYED_WRITE_PERFORM, 05 R143: a write put off by remote read leases is performed when they are over. -/
def execDelayedWritePerform (op : Nat) (s : State) : Host.Outcome State Fault Refusal :=
  .next (match Tab.find op s.ops with
    | some o => if o.notBefore.isSome && o.kind.writes then s.tryPerform op else s
    | none => s)

/-- LEASE_TIMER_EXPIRY, 11 R286. -/
def execLeaseTimerExpiry (t : Nat) (s : State) : Host.Outcome State Fault Refusal :=
  .next (if (s.th t).leases.any fun l => decide (l.ends ≤ s.cycle) then s.breakLeases t else s)

/-- LEASE_AGE_GRANT, 11 R283: the oldest request that waits for a line is granted when nobody holds it. -/
def State.grantAged (s : State) (t : Nat) : State :=
  match (s.th t).wait with
  | .leaseAge line timer sc =>
      if (s.th t).status != .waiting || (s.th t).parked || s.leasedByOther t line || s.leaseQueued t line || s.lineBusy t line
          || decide (s.shadowsUsed (s.coreTh t) ≥ Config.shadowBuffers) then s
      else (s.grantLease t line timer sc).setTh t fun x => { x with status := .ready, since := s.cycle }
  | _ => s

/-- LEASE_AGE_GRANT, 11 R283. -/
def execLeaseAgeGrant (t : Nat) (s : State) : Host.Outcome State Fault Refusal := .next (s.grantAged t)

/-- REMOTE_LEASE_EXPIRY, 05 R143: a copy is dropped when its lease has ended. -/
def execRemoteLeaseExpiry (core line : Nat) (s : State) : Host.Outcome State Fault Refusal :=
  .next (s.dropCopies core fun c => c.line == line && (match c.kind with
    | .leased e => decide (e ≤ s.ns)
    | _ => false))

/-- PTPERR_EXCEEDED, 20 R404: the bound on the clock's error; above 20 ns every leased copy is dropped at once. -/
def execPtperrExceeded (err : Word) (s : State) : Host.Outcome State Fault Refusal :=
  let s := { s with ptpErr := err }
  .next (if err.toNat ≤ 20 then s
    else (s.allCores fun c => { c with copies := c.copies.filter fun x => !x.kind.isLeased }).logMc
      { bank := 9, sev := 1, type := 0x32, skind := 5, sidx := 0 })

/-! ### The host and the control cores, 05 R138, R139, 20 R416 to R419 -/

/-- Where the configuration space of a function stands for HOST_READ: past every address of R139 (log entry 15). -/
def cfgBase : Nat := 2 ^ 56

/-- HOST_WRITE, 05 R138: at the home slice, tracked copies recalled; an address from 2^51 up is host memory,
which the host writes itself. -/
def execHostWrite (fn addr : Nat) (bytes : List Byte) (s : State) : Host.Outcome State Fault Refusal :=
  .next (if hostBase ≤ addr then { s with mem := writeBytes s.mem addr bytes, reply := .done } else s.masterWrite (0x4A0 + fn % 16) addr bytes)

/-- HOST_READ, 05 R139; from `cfgBase` on the capability list of PF0 (22 R442). -/
def execHostRead (fn addr len : Nat) (s : State) : Host.Outcome State Fault Refusal :=
  .next (if cfgBase ≤ addr then { s with report := if fn = 0 then (s.capBytes.drop (addr - cfgBase)).take len else [], reply := .done }
    else if hostBase ≤ addr then { s with report := readBytes s.mem addr len, reply := .done } else s.masterRead (0x4A0 + fn % 16) addr len)

/-- HOST_LINK_SWITCH, 20 R417: with AUTO the other link becomes the active one. -/
def execHostLinkSwitch (s : State) : Host.Outcome State Fault Refusal :=
  .next (if (s.reg 0x630).getLsbD 31 then
    (s.abortHost.setReg 0x630 (s.reg 0x630 ^^^ 1)).logMc { bank := 10, sev := 1, type := 0x40, skind := 5, sidx := 0 } else s)

/-- HOST_ACKNOWLEDGE, 20 R419: an access to host memory is performed. -/
def execHostAcknowledge (op : Nat) (s : State) : Host.Outcome State Fault Refusal :=
  .next (match Tab.find op s.ops with
    | some o => if o.loc.isHost then s.tryPerform op else s
    | none => s)

/-- CONTROL_CORE_ACCESS, 18 R389: memory, or the register block of the core's die (log entry 15); a host
function's BAR0 and BAR2 are reached in the same way (20 R416). -/
def execControlCoreAccess (master : Nat) (k : Access) (s : State) : Host.Outcome State Fault Refusal :=
  .next (if master < 0x480 ∨ 0x4AF < master then s
    else match k with
      | .load a n => s.masterRead master a n
      | .store a bs => s.masterWrite master a bs
      | .regRead i => s.masterRegRead master i
      | .regWrite i v => s.masterRegWrite master i v)

/-! ### Agents declared dead, 05 R148 -/

/-- A peer's wait on a memory barrier, which is told to its line's HINT (11 R295). -/
def flitWaits (f : Flit) : Bool := f.kind == 3 && f.fn.toNat % 256 == 0x21
/-- Whether two waits are of one crew on one barrier: they count once in HINT (11 R295). -/
def sameWaiter (f g : Flit) : Bool :=
  flitWaits f && flitWaits g && f.src == g.src && f.addr == g.addr && (f.data.drop 4).take 4 == (g.data.drop 4).take 4

/-- A stale-agent drop of the device's fabric interface, corrected (22 R438). -/
def State.staleDrop (s : State) (skind sidx : Nat) : State := s.logMc { bank := 3, sev := 1, type := 0x20, skind := skind, sidx := sidx }

/-- A write of a dead agent that its home slice discards. -/
def State.dropStale (s : State) (i : Nat) : State :=
  match Tab.find i s.ops with
  | some o => (match o.loc.line with
      | some l => (s.dropOp i).logHome l 1 0x20 none
      | none => (s.dropOp i).staleDrop 5 0)
  | none => s

/-- The error of the job that owned a dead agent: a line restored from memory. -/
def State.deadRestore (s : State) (line : Nat) (ctx : Option Nat) : State := s.logHome line 2 0x21 ctx

/-- A core's L1 dead: what only it held is lost, its unperformed writes are dropped as stale. -/
def State.killL1 (s : State) (core : Nat) : State :=
  let lines := (s.co core).owned.map (·.1)
  let ctx := (s.crews.find? fun (_, c) => c.core == core && c.started && !c.ended).map fun (_, c) => c.ctx
  let stale := s.ops.filter fun (_, o) => o.core == core && o.kind.writes && o.th < 2 ^ 60
  let s := s.setCo core fun c => { c with owned := [], copies := [], tlb := [], walks := [], icache := [], dead := true }
  -- its leases are over, and what they had not yet made visible is lost: who waits for their lines goes on
  let s := (s.threads.filter fun (k, t) => s.coreTh k == core && !t.leases.isEmpty).foldl
    (fun s (k, _) => (s.setTh k fun t => { t with broken := true }).endLeases k) s
  let s := s.setCo core fun c => { c with probes := [] }
  let gone := (s.convoys.filter fun c => c.part / 4 == core).flatMap fun c => c.mem
  let s := gone.foldl (fun s k => (s.leaveConvoy k).setTh k fun t => { t with status := .ready }) s
  let s := stale.foldl (fun s (i, _) => s.dropStale i) s
  lines.foldl (fun s l => s.deadRestore l ctx) s

/-- What a dead engine's work leaves by its owner number: writes that it has not performed are dropped as stale, the lines it
owned stand as memory has them and are named to its job. -/
def State.killOwner (s : State) (owner ctx : Nat) : State :=
  let lines := (s.engOwned.filter fun (_, w) => w == owner).map (·.1)
  let s := (s.opsOf (engKey owner) fun o => o.kind.writes).foldl State.dropStale s
  let s := (s.release owner).dropEngReads owner
  lines.foldl (fun s l => s.deadRestore l (some ctx)) s

/-- An engine dead: its work is halted. -/
def State.killCopy (s : State) (n : Nat) : State :=
  (s.clusterCrews n).foldl (fun s c => (s.cr c).ch.foldl (fun s (i, x) =>
    let s := s.killOwner (chanOwner c i) (s.cr c).ctx
    if x.st = 1 then s.setChan c i fun y => { y with st := 4, flight := none, plan := none } else s) s) s
def State.killMatrix (s : State) (n : Nat) : State :=
  (s.cl n).table.foldl (fun s j => (s.killOwner (jobOwner n j.seq) j.ctx).leaveTable n { j with st := 5 }) s

/-- A control core dead: its writes that wait are dropped as stale. -/
def State.killControl (s : State) (q : Nat) : State :=
  let dead (p : Posted) : Bool := decide (0x480 ≤ p.master) && decide (p.master < 0x4A0) && p.master % 16 == q
  (s.posted.filter dead).foldl (fun s p => s.logHome p.addr 1 0x20 none) { s with posted := s.posted.filter fun p => !dead p }

/-- A peer dead: no directory entry names it, its requests that wait are dropped as stale. -/
def State.killPeer (s : State) (d : Nat) : State :=
  let s : State := { s with readLeases := s.readLeases.filter fun r => r.dev != d }
  let fs := s.wakers.filter fun f => f.src.toNat == d
  let s := fs.foldl (fun s f =>
    let s : State := { s with wakers := s.wakers.filter (· != f) }
    let s := if flitWaits f && !(s.wakers.any (sameWaiter f)) then s.hint f.addr.toNat hintDown else s
    s.logHome f.addr.toNat 1 0x20 none) s
  ((s.streams.filter fun x => x.dev == d).map fun x => x.job).foldl (fun s j => s.loseStream j d) s

/-- AGENT_DECLARED_DEAD, 05 R148. -/
def execAgentDeclaredDead (agent : Agent) (s : State) : Host.Outcome State Fault Refusal :=
  let s := { s with gens := Tab.put (agentKey agent) (s.gen agent + 1) s.gens }
  .next (match agent with
    | .l1 c => s.killL1 c
    | .copyEngine n => s.killCopy n
    | .matrixEngine n => s.killMatrix n
    | .control q => s.killControl q
    | .peer d => s.killPeer d)

end Sys2Proof.Machine
end

