-- ==== Sys2Proof/Machine/Fabric.lean ====
section
/-! DEFINITION. The fabric interface (20 R397 to R415, R421, R422): requests of peers and their answers,
messages exactly once, waves, phases across devices, kill notices, ports. -/

namespace Sys2Proof.Machine

/-! ### Requests of peers, R402, R403 -/

/-- The bytes of a flit that carries a write, an operand or a read's data. -/
def Flit.body (f : Flit) (n : Nat) : List Byte := (f.data ++ f.payload).take n

/-- Whether a flit is for this device, and traffic is accepted (R399). -/
def State.hears (s : State) (f : Flit) : Bool := (s.reg 0x600).getLsbD 31 && f.dst.toNat == s.myDev

/-- The job a flit names, as the device has read its entry. -/
def State.flitJob (s : State) (f : Flit) : Job := Tab.getD (f.job.toNat % 4096) {} s.jobs

/-- What the target makes of a request (R402): one of another epoch is stale, whoever sent it (R414, R415). -/
inductive Admit where
  | ok | stale | refuse
  deriving DecidableEq, Repr

def State.admitFlit (s : State) (f : Flit) : Admit :=
  let j := s.flitJob f
  if !j.valid then .refuse
  else if f.epoch.toNat ≠ j.epoch then .stale
  else if j.killed || !j.dmap.contains f.src.toNat then .refuse
  else .ok

/-- A stale request discarded and counted (R402). -/
def State.staleFlit (s : State) : State := s.staleDrop 5 0

/-- A flit of a job that carries another epoch (R414). -/
def State.otherEpoch (s : State) (f : Flit) : Bool := (s.flitJob f).valid && f.epoch.toNat != (s.flitJob f).epoch

/-- An answer to a request: what it carries stands in DATA, more than fits inline in one data flit that follows (R398). -/
def State.answer (s : State) (f : Flit) (kind : Nat) (time : Nat) (bs : List Byte) : State :=
  s.send { kind := BitVec.ofNat 8 kind, size := BitVec.ofNat 8 bs.length, dst := f.src, src := BitVec.ofNat 16 s.myDev, job := f.job, epoch := f.epoch
           fn := f.fn, seq := f.seq, addr := f.addr, time := BitVec.ofNat 64 time
           data := if bs.length ≤ 32 then bs else [], payload := if bs.length ≤ 32 then [] else bs }

/-- A refusal; the number of its reason, which the spec does not give, is a free value (R398, log entry 13). -/
def State.refuse (s : State) (f : Flit) : State :=
  State.answer { s with free := s.free + 1 } { f with fn := (Config.freeDWord s.free).setWidth 16 } 5 0 []

/-- Whether a request's bytes are there and its target admits it (R402): local memory, master 0x4B0. -/
def State.peerMay (s : State) (f : Flit) (n : Nat) (write : Bool) : Bool :=
  let a := f.addr.toNat
  decide (n ≥ 1) && s.paOk a && s.paOk (a + n - 1) && s.admits (a / 2 ^ 36) 0x4B0 (a % 2 ^ 36) n write

/-- A request that may not act here refused; a denial of the access table is counted (18 R389). -/
def State.peerDeny (s : State) (f : Flit) (n : Nat) (write : Bool) : State :=
  let a := f.addr.toNat
  (if decide (n ≥ 1) && s.paOk a && s.paOk (a + n - 1) && !s.admits (a / 2 ^ 36) 0x4B0 (a % 2 ^ 36) n write then s.denied (a / 2 ^ 36) none else s).refuse f

/-- Whether a thread stands at an MBARR on a line that waits for its turn there. -/
def State.mbarrOn (s : State) (line : Nat) : Bool :=
  s.convoys.any fun c => c.mem.any fun k => (s.th k).pc == c.pc && (match (s.peek k c.pc).map decodeWord with
    | some (.ok (.mbarr h _ a _ m)) => s.guard k h.g && (s.mbLines k (s.effAddr k m a none) mbarrNeed).contains line
    | _ => false)

/-- Whether a record waits to be written into a ring on a line. -/
def State.ringOn (s : State) (line : Nat) : Bool := s.records.any fun r => s.ringBusy r.queue && (s.ringLines r.queue).contains line

/-- Whether a peer's request writes. -/
def flitWrites (f : Flit) : Bool := f.kind == 2 || (f.kind == 3 && !flitWaits f)

/-- Whether a write to a line waits here for read leases to end (05 R143): a thread's, an engine's or the device's own, an
arrival at a memory barrier, a completion record, a master's, or one of some requests of peers. -/
def State.writeWaits (s : State) (line : Nat) (fs : List Flit) : Bool :=
  (s.ops.any fun (_, o) => o.notBefore.isSome && o.loc.line == some line)
  || s.mbarrOn line || s.ringOn line
  || (s.posted.any fun p => !p.bytes.isEmpty && p.lines.contains line)
  || fs.any fun f => flitWrites f && lineOf f.addr.toNat == line

/-- A line a thread has leased or an engine owns: a peer's access waits. -/
def State.lineTaken (s : State) (line : Nat) : Bool := s.linesHeld 0 [line]

/-- A read performed at the home (R403), with a lease where it may be granted (R404); none while it waits. `before` are the
requests that arrived before it and still wait: a write among them goes first (05 R143). -/
def State.peerRead (s : State) (f : Flit) (before : List Flit) : Option State :=
  let a := f.addr.toNat
  let n := f.size.toNat
  let line := lineOf a
  if !s.peerMay f n false then some (s.peerDeny f n false)
  else if s.poisoned a n then some (s.refuse f)
  else if s.lineTaken line || s.writeWaits line before then none
  else
    let rt := f.fn.toNat % 8
    let len := (s.reg 0x603).toNat % 2 ^ 17
    let lease := decide (rt ≤ 2) && f.fn.getLsbD 15 && s.clockGood && len != 0 && !s.writeWaits line s.wakers
    let s := if lease then { s with readLeases := s.readLeases ++ [⟨line, f.src.toNat, s.ns + len, s.cycle + 4 * (len + 40)⟩] } else s
    some (s.answer f 4 (if lease then s.ns + len else 0) (s.coh a n))

/-- A write merged at the home once no read lease is left (R403, 05 R143). -/
def State.peerWrite (s : State) (f : Flit) : Option State :=
  let a := f.addr.toNat
  let n := f.size.toNat
  if !s.peerMay f n true then some (s.peerDeny f n true)
  else if s.lineTaken (lineOf a) || (s.leaseUntil (lineOf a)).isSome then none
  else some ((s.homeStore a (Flit.body f n)).answer f 4 0 [])

/-- An atomic, a draw from a symbol pool (FN 0x22) among them, an arrival (FN 0x20) or a wait (FN 0x21) on a memory barrier at
the home (R403, log entry 13). -/
def State.peerAtomic (s : State) (f : Flit) : Option State :=
  let a := f.addr.toNat
  let fn := f.fn.toNat % 256
  let n := f.size.toNat
  if !s.peerMay f n (fn != 0x21) then some (s.peerDeny f n (fn != 0x21))
  else if s.poisoned a n then some (s.refuse f)
  else if s.lineTaken (lineOf a) then none
  else if fn = 0x21 then
    let b := s.coh a 16
    if mbPassed (mbPhase b) (leNat (Flit.body f 4)) then some (s.answer f 4 0 b) else none
  else if (s.leaseUntil (lineOf a)).isSome then none
  else
    let ty := (VType.ofCode (BitVec.ofNat 4 (f.fn.toNat / 256))).getD .b32
    let o : Op := { th := 2 ^ 63, crew := 0, core := 0, kind := if fn = 0x20 then .mbarr false else .atom fn false, loc := .mem a, va := 0, size := n
                    space := .g, rtype := .uc, ty := ty, data := Flit.body f 64 }
    -- performed at the home: no .si copy hears of it (05 R138)
    let r := s.newBytes o
    some ((s.locWrite none o.loc r.2).answer f 4 0 r.1)

/-- A request served, or left waiting. -/
def State.peerServe (s : State) (f : Flit) (before : List Flit) : Option State :=
  match f.kind.toNat with
  | 1 => s.peerRead f before
  | 2 => s.peerWrite f
  | _ => s.peerAtomic f

/-- A request that waits: it takes an entry of the probe queue where its line is leased (11 R284); one that waits on a
memory barrier subscribes its crew and is answered with what stands there now, and again when the phase has passed. -/
def State.peerWaits (s : State) (f : Flit) : State :=
  let s := s.knock (peerWho f) (lineOf f.addr.toNat)
  if flitWaits f then
    let s := if s.wakers.any (sameWaiter f) then s else s.hint f.addr.toNat hintUp
    -- of a leased line a peer sees what stood there before
    State.answer { s with wakers := s.wakers ++ [f] } f 4 0 (s.homeBytes f.addr.toNat 16)
  else { s with wakers := s.wakers ++ [f] }

/-- A request arrives. -/
def State.peerRequest (s : State) (f : Flit) : State :=
  if !s.hears f then s
  else match s.admitFlit f with
    | .stale => s.staleFlit
    | .refuse => s.refuse f
    | .ok => match s.peerServe f s.wakers with
      | some s => s
      | none => s.peerWaits f

/-- Requests that wait, tried again in order of arrival, each behind those that came before it. With the last waiter of a
crew HINT falls. -/
def State.serveWakers (s : State) : State :=
  s.wakers.foldl (fun s f =>
    let rest : State := { s with wakers := s.wakers.filter (· != f) }
    match rest.peerServe f (s.wakers.takeWhile (· != f)) with
    | some s => if flitWaits f && !(s.wakers.any (sameWaiter f)) then s.hint f.addr.toNat hintDown else s
    | none => s.knock (peerWho f) (lineOf f.addr.toNat)) s

/-- FLIT_READ, R403. -/
def execFlitRead (f : Flit) (s : State) : Host.Outcome State Fault Refusal := .next (s.peerRequest { f with kind := 1 })
/-- FLIT_WRITE, R403. -/
def execFlitWrite (f : Flit) (s : State) : Host.Outcome State Fault Refusal := .next (s.peerRequest { f with kind := 2 })
/-- FLIT_ATOMIC, R403. -/
def execFlitAtomic (f : Flit) (s : State) : Host.Outcome State Fault Refusal := .next (s.peerRequest { f with kind := 3 })

/-! ### Answers to this device's requests, R402, R403 -/

/-- Whether an operation is the request of a remote MBWAIT, which is answered more than once (11 R295). -/
def Op.isMbWait (o : Op) : Bool := o.kind == .load && o.dst.isNone && o.held.isNone && decide (o.th < 2 ^ 60)

/-- The operation a peer's answer is for. -/
def State.answered (s : State) (f : Flit) : Option (Nat × Op) :=
  let id := f.seq.toNat
  match Tab.find id s.ops with
  | some o => (match o.loc with
      | .remote d _ => if d == f.src.toNat && (o.isMbWait || s.remote.any fun r => r.op == id) then some (id, o) else none
      | _ => none)
  | none => none

/-- An answer to a remote request: data for a load, with a copy kept under its lease or as .ro; the end of a
store or an atomic. -/
def State.gotAnswer (s : State) (f : Flit) : State :=
  match s.answered f with
  | none => s
  | some (id, o) =>
      let pa := f.addr.toNat
      let bs := Flit.body f o.size
      let line := lineOf o.loc.addr
      let rest : State := { s with remote := s.remote.filter fun r => r.op != id }
      match o.kind with
      | .load =>
          let s := rest.setOp id fun o => { o with early := some bs, held := o.held.map fun _ => .ok }
          let keep (k : CopyKind) : State := s.addCopy o.core ⟨k, some f.src.toNat, line, bs, pa % 128⟩
          if o.dst.isNone then s
          else if o.rtype = .ro then keep (.ro o.crew)
          else if f.time != 0 && s.clockGood && decide (s.ns < f.time.toNat) then keep (.leased f.time.toNat)
          else s
      | _ =>
          if o.held.isSome && s.live o.th then rest.setOp id fun o => { o with early := some bs, held := some .ok } else s.dropOp id

/-- Whether an answer carries a membership generation that has passed (05 R148). -/
def State.lateAnswer (s : State) (f : Flit) : Bool :=
  s.remote.any fun r => r.op == f.seq.toNat && r.dev == f.src.toNat && r.gen != s.gen (.peer r.dev)

/-- FLIT_RESPONSE, R403: one that carries another epoch, or an old membership generation, is a stale-agent drop. -/
def execFlitResponse (f : Flit) (s : State) : Host.Outcome State Fault Refusal :=
  .next (if !s.hears f then s
    else if f.epoch.toNat != (s.flitJob f).epoch || s.lateAnswer f then s.staleFlit
    else s.gotAnswer f)

/-- An engine's work ended with CODE 3 by its owner number (R402). -/
def State.failEngine (s : State) (owner addr : Nat) : State :=
  if owner < 2 ^ 48 then
    let c := owner / 4
    let ch := owner % 4
    let x := s.chan c ch
    let at_ : Option Where := match x.plan, x.flight with
      | some p, _ => some p.at_
      | none, some _ => (match (s.recPlace c ch x.cur.toNat).1 with
          | .ok ((w, _) :: _) => some w
          | _ => none)
      | none, none => none
    s.chanFault c ch 3 addr at_ (x.flight.getD [])
  else
    match s.clusters.findSome? fun (n, x) => (x.table.find? fun j => jobOwner n j.seq == owner).map fun j => (n, j) with
    | some (n, j) => s.jobFault n j 3 addr
    | none => s

/-- A remote access that fails (R402): a thread's raises a cause at its instruction, an engine's ends its record
or pass. -/
def State.failRemote (s : State) (id : Nat) (o : Op) (cause : BitVec 8) : State :=
  if o.held.isSome && s.live o.th then
    State.setOp { s with remote := s.remote.filter fun r => r.op != id } id fun o => { o with held := some (.failed cause) }
  else
  if 2 ^ 64 ≤ o.th then
    -- a replayed load: its lane takes the fault when it is regenerated (02 R69)
    State.setOp { s with remote := s.remote.filter fun r => r.op != id } id fun o => { o with held := some (.failed cause) }
  else
  let s := s.dropOp id
  if o.th < 2 ^ 60 then
    -- MBWAIT: the thread waits at it
    if s.live o.th then s.trap o.th ⟨cause, o.va, none, none⟩ else s
  else
    let owner := o.th - 2 ^ 60
    if owner < 2 ^ 61 then s.failEngine owner o.va.toNat
    else
      -- a thread's post of a card
      let k := owner - 2 ^ 61
      if s.live k && (s.th k).wait == .post then (s.dropEngReads owner).trap k ⟨cause, o.va, none, none⟩ else s

/-- The message of a stream that a reply is for. -/
def State.replied (s : State) (f : Flit) : Option Sent :=
  s.sent.find? fun m => m.job == f.job.toNat % 4096 && m.dst == f.src.toNat && m.die == flitDie f && m.seq == f.seq.toNat

/-- FLIT_REFUSAL, R402; a refused message is counted lost (R412, R413, R422). -/
def State.gotRefusal (s : State) (f : Flit) : State :=
  match if f.addr.toNat < 2 ^ 52 then none else s.replied f with
  | some m =>
      let s := { s with sent := s.sent.filter (· != m) }
      if m.retry = 0 then s.countMsg m fun j => { j with u := j.u - 1 } else s.loseMsg m
  | none => match s.answered f with
    | some (id, o) => s.failRemote id o 0x11
    | none => s

/-- FLIT_REFUSAL, R402. -/
def execFlitRefusal (f : Flit) (s : State) : Host.Outcome State Fault Refusal :=
  .next (if !s.hears f then s else if s.otherEpoch f then s.staleFlit else s.gotRefusal f)

/-- REMOTE_TIMEOUT, R402: no answer within RTO. -/
def State.timeoutRemote (s : State) (op : Nat) : State :=
  match s.remote.find? fun r => r.op == op, Tab.find op s.ops with
  | some r, some o =>
      if r.at_ + (s.reg 0x608).toNat % 2 ^ 32 * 1000 ≤ s.ns then
        (s.logMc { bank := 9, sev := 2, type := 0x33, skind := 5, sidx := 0, ctx := some (s.cr o.crew).ctx, addr := some o.va }).failRemote op o 0x30
      else s
  | _, _ => s

/-- REMOTE_TIMEOUT, R402. -/
def execRemoteTimeout (op : Nat) (s : State) : Host.Outcome State Fault Refusal := .next (s.timeoutRemote op)

/-! ### Messages, R406 to R408, R413, R422 -/

/-- The launch of a job that handles messages here, and whether one is submitted without its handler crew
(R422). -/
def State.handlerLaunch (s : State) (j : Nat) : Option Nat :=
  (s.launches.find? fun (_, l) => l.rcd.jobid == j && l.entered && l.status == 1 && l.hcrewId.isSome).map (·.1)
/-- Entries of the queues that are submitted: below TAIL and not finished. -/
def State.submitted (s : State) : List (Nat × Nat) :=
  ((List.range 64).filter s.qEn).flatMap fun q =>
    let len := (s.qTail q + 2 ^ 32 - s.qHead q) % 2 ^ 32
    let ring := 2 ^ (field (s.reg (0x400 + 4 * q)) 19 16 + 4)
    ((List.range (if len < ring then len else ring)).map fun i => (q, (s.qHead q + i) % 2 ^ 32)).filter fun (q, n) =>
      match s.launchAt q n with
      | some (_, l) => decide (l.status ≤ 1) && !l.ending
      | none => true

/-- The record of an entry, read already or as memory has it. -/
def State.entryRecord (s : State) (q n : Nat) : Option Rcd :=
  match s.launchAt q n with
  | some (id, l) => s.recordOf? id l
  | none => let m := s.makeLaunch q n; m.2.recordOf? m.1 (m.2.la m.1)

def State.handlerComing (s : State) (j : Nat) : Bool :=
  s.submitted.any fun (q, n) => ((s.launchAt q n).all fun (_, l) => l.hcrewId.isNone) && (s.entryRecord q n).any fun r => r.jobid == j

/-- The reply to a message: acknowledge, busy, or a refusal, with the stream it belongs to (log entry 13). -/
def State.replyMsg (s : State) (f : Flit) (kind : Nat) : State :=
  let f := { f with addr := msgAddr (flitDie f) }
  if kind = 5 then s.refuse f else s.answer f kind 0 []

/-- A message arrives (R406). One that its stream has had is acknowledged again; a refused one leaves the stream at the next
number, so that those behind it are judged too (DESIGN CHOICE, log entry 62). -/
def State.gotMessage (s : State) (f : Flit) : State :=
  let j := f.job.toNat % 4096
  let d := flitDie f
  let x := s.stream j f.src.toNat d
  let behind := (x.expect + 2 ^ 32 - f.seq.toNat) % 2 ^ 32
  let past (s : State) : State := s.setStream j f.src.toNat d fun y => { y with expect := (f.seq.toNat + 1) % 2 ^ 32 }
  match s.admitFlit f with
  | .stale => s.staleFlit
  | .refuse => s.replyMsg f 5
  | .ok =>
      if 0 < behind ∧ behind < 2 ^ 31 then s.replyMsg f 7
      else match s.handlerLaunch j with
      | none => if s.handlerComing j then s.replyMsg f 8 else (past s).replyMsg f 5
      | some l =>
          if behind ≠ 0 ∨ f.time.toNat < s.ns then s
          else if !s.takesMsg l then s.replyMsg f 8
          else
            let src := ((s.flitJob f).dmap.findIdx? fun d => d == f.src.toNat).getD 0
            ((past s).takeMsg l ⟨src, f.fn.toNat % 256, f.payload⟩).replyMsg f 7

/-- A message to the own device whose launch has ended, or is being cancelled, is refused (R422): lost. -/
def State.dropOwn (s : State) : State :=
  (s.sent.filter fun m => m.dst == s.myDev && (let l := s.la m.launch; decide (2 ≤ l.status) || l.ending || l.cancelled)).foldl
    (fun s m => State.loseMsg { s with sent := s.sent.filter (· != m) } m) s

/-- FLIT_MESSAGE, R406. -/
def execFlitMessage (f : Flit) (s : State) : Host.Outcome State Fault Refusal := .next (if s.hears f then s.gotMessage { f with kind := 6 } else s)

/-- FLIT_ACKNOWLEDGE, R406; an abandoned message stays in U until its stream is repaired. -/
def execFlitAcknowledge (f : Flit) (s : State) : Host.Outcome State Fault Refusal :=
  .next (if !s.hears f then s
    else if s.otherEpoch f then s.staleFlit
    else match s.replied f with
      | some m => if m.retry = 0 then s else { s with sent := s.sent.filter (· != m) }
      | none => s)

/-- FLIT_BUSY, R406: the deadline is renewed. -/
def execFlitBusy (f : Flit) (s : State) : Host.Outcome State Fault Refusal :=
  .next (if !s.hears f then s
    else if s.otherEpoch f then s.staleFlit
    else match s.replied f with
      | some m => { s with sent := s.sent.map fun x => if x == m && x.retry != 0 then { x with deadline := s.ns + s.msgLife } else x }
      | none => s)

/-- The dies of the device: each has its fabric interface. -/
def dies : List Nat := [0, 1, 2, 3]

/-- Messages of a stream of this device. -/
def Sent.isOf (m : Sent) (job dst die : Nat) : Bool := m.job == job && m.dst == dst && m.die == die

/-- MESSAGE_RETRANSMIT, R406: every 2 µs what a stream has not had acknowledged is sent again; messages to the
own device are offered again. -/
def State.retransmit (s : State) (job dst : Nat) : State :=
  if dst = s.myDev then s.offerOwn job s.sent.length
  else dies.foldl (fun s die =>
    if (s.stream job dst die).abandoned then s
    else
      let due := s.sent.filter fun m => m.isOf job dst die && m.retry != 0 && decide (m.retry ≤ s.ns)
      let s := due.foldl (fun s m => s.send (s.msgFlit m)) s
      { s with sent := s.sent.map fun m => if due.contains m then { m with retry := s.ns + 2000 } else m }) s

/-- MESSAGE_RETRANSMIT, R406. -/
def execMessageRetransmit (job dst : Nat) (s : State) : Host.Outcome State Fault Refusal := .next (s.retransmit job dst)

/-- STREAM_ABANDON, R407, of one die: a message past its latest deadline by 40 ns. What was sent counts in L and U; a message held
since the stream was abandoned is lost at its own deadline, and confirmed. -/
def State.abandonDie (s : State) (job dst die : Nat) : State :=
  let x := s.stream job dst die
  let mine (m : Sent) : Bool := m.isOf job dst die && m.retry != 0 && dst != s.myDev
  if x.abandoned then
    let ms := s.sent.filter fun m => mine m && decide (m.deadline ≤ s.ns)
    ms.foldl State.loseMsg { s with sent := s.sent.filter fun m => !ms.contains m }
  else if s.sent.any fun m => mine m && decide (m.deadline + 40 ≤ s.ns) then
    let ms := s.sent.filter mine
    let s := ms.foldl (fun s m => (s.countMsg m fun j => { j.lose with u := j.u + 1 }).lostRecord m 0) s
    let s := { s with sent := s.sent.map fun m => if ms.contains m then { m with retry := 0 } else m }
    s.setStream job dst die fun y => { y with abandoned := true, repairing := some s.ns }
  else s

/-- STREAM_ABANDON, R407. -/
def State.abandon (s : State) (job dst : Nat) : State := dies.foldl (fun s die => s.abandonDie job dst die) s

/-- STREAM_ABANDON, R407. -/
def execStreamAbandon (job dst : Nat) (s : State) : Host.Outcome State Fault Refusal := .next (s.abandon job dst)

/-- The launch a job's flits speak for. -/
def State.jobLaunch (s : State) (j : Nat) : Nat := ((s.jobLaunches j).head?).getD (((s.launches.find? fun (_, l) => l.rcd.jobid == j).map (·.1)).getD 0)

/-- A sender's next fresh number: the first of the messages held since, else the next. -/
def State.freshSeq (s : State) (job dst die : Nat) : Nat :=
  match s.sent.find? fun m => m.isOf job dst die && m.retry != 0 with
  | some m => m.seq
  | none => (s.stream job dst die).next

/-- A repair flit (R408): SEQ is the sender's next fresh number; ADDR names the stream of its die and a question. -/
def State.repairFlit (s : State) (job dst die : Nat) : Flit :=
  { kind := 9, size := 0, dst := BitVec.ofNat 16 dst, src := BitVec.ofNat 16 s.myDev, job := BitVec.ofNat 16 job
    epoch := BitVec.ofNat 16 (Tab.getD job {} s.jobs).epoch, fn := 0, seq := BitVec.ofNat 32 (s.freshSeq job dst die), addr := msgAddr die, time := 0, data := [], payload := [] }

/-- REPAIR_SEND, R408: every 2 µs while a stream is abandoned. -/
def State.sendRepair (s : State) (job dst : Nat) : State :=
  dies.foldl (fun s die =>
    match (s.stream job dst die).repairing with
    | some t => if (s.stream job dst die).abandoned && decide (t ≤ s.ns) then
        (s.send (s.repairFlit job dst die)).setStream job dst die fun y => { y with repairing := some (s.ns + 2000) } else s
    | none => s) s

/-- REPAIR_SEND, R408. -/
def execRepairSend (job dst : Nat) (s : State) : Host.Outcome State Fault Refusal := .next (s.sendRepair job dst)

/-- A repair answered (R408): every unconfirmed message below `n` was accepted after all, every other is
confirmed lost; U falls and held messages are sent. -/
def State.repaired (s : State) (job dst die n : Nat) : State :=
  if !(s.stream job dst die).abandoned then s
  else
    let un := s.sent.filter fun m => m.isOf job dst die && m.retry == 0
    let s := un.foldl (fun s m =>
      let below := 0 < (n + 2 ^ 32 - m.seq) % 2 ^ 32 ∧ (n + 2 ^ 32 - m.seq) % 2 ^ 32 < 2 ^ 31
      let s := s.countMsg m fun j => { j with u := j.u - 1, i := if below then (j.i + 1) % 2 ^ 48 else j.i }
      if below then s.lostRecord m 1 else s) s
    let s := { s with sent := s.sent.filter fun m => !un.contains m }
    let s := s.setStream job dst die fun y => { y with abandoned := false, repairing := none }
    let held := s.sent.filter fun m => m.isOf job dst die
    let s := held.foldl (fun s m => s.send (s.msgFlit m)) s
    { s with sent := s.sent.map fun m => if held.contains m then { m with retry := s.ns + 2000 } else m }

/-- What marks the answer to a repair flit in ADDR. -/
def repairAnswer : DWord := 4

/-- FLIT_REPAIR, R408: the question of a sender, answered with the next expected number, which becomes the
sender's fresh one; or the answer to our own, the number in TIME. -/
def execFlitRepair (f : Flit) (s : State) : Host.Outcome State Fault Refusal :=
  let j := f.job.toNat % 4096
  let d := flitDie f
  .next (if !s.hears f then s
    else match s.admitFlit f with
      | .stale => s.staleFlit
      | .refuse => s
      | .ok =>
          if f.addr.getLsbD 2 then s.repaired j f.src.toNat d f.time.toNat
          else
            let n := (s.stream j f.src.toNat d).expect
            (s.answer { f with addr := msgAddr d ||| repairAnswer } 9 n []).setStream j f.src.toNat d fun y => { y with expect := f.seq.toNat })

/-! ### Waves, R409, R410 -/

/-- A job's counters changed. -/
def State.setCtr (s : State) (j : Nat) (f : JobCtr → JobCtr) : State := { s with jobs := Tab.modify j (fun x => { x with ctr := f x.ctr }) s.jobs }

/-- FLIT_WAVE, R410: pass 1 sets the wave number; the sums are returned. SEQ bit 0 is the pass, 1 in pass 1. -/
def execFlitWave (f : Flit) (s : State) : Host.Outcome State Fault Refusal :=
  let j := f.job.toNat % 4096
  .next (if !s.hears f then s
    else if !(s.flitJob f).valid then s
    else if f.epoch.toNat != (s.flitJob f).epoch then s.staleFlit
    else
      let x := (s.flitJob f).ctr
      let sums := leBytes 8 x.i ++ leBytes 8 x.c ++ leBytes 8 x.l ++ leBytes 8 x.u
      let s := s.answer f 0x0B 0 sums
      if f.seq.getLsbD 0 then s.setCtr j fun c => { c with wave := f.addr.toNat } else s)

/-- FLIT_WAVE_REPLY, R410: replies go up to the coordinator switch; a device takes none. -/
def execFlitWaveReply (_f : Flit) (s : State) : Host.Outcome State Fault Refusal := .next s

/-- FLIT_QUIET, R410: the job is quiet at a wave; none of a BROKEN job (R414). -/
def execFlitQuiet (f : Flit) (s : State) : Host.Outcome State Fault Refusal :=
  let x := s.flitJob f
  .next (if !s.hears f || !x.valid then s
    else if f.epoch.toNat != x.epoch then s.staleFlit
    else if x.ctr.broken then s
    else s.setCtr (f.job.toNat % 4096) fun c => { c with quiet := some (match c.quiet with | some q => if q < f.addr.toNat then f.addr.toNat else q | none => f.addr.toNat) })

/-- The counters under a key of `jobKey`: a job's, or a launch's own. -/
def State.keyCtr (s : State) (key : Nat) : Option JobCtr :=
  if key < 4096 then (match Tab.find key s.jobs with
    | some j => if j.valid && j.devs == 1 then some j.ctr else none
    | none => none)
  else (Tab.find (key - 4096) s.launches).bind fun l => l.own
def State.setKeyCtr (s : State) (key : Nat) (f : JobCtr → JobCtr) : State :=
  if key < 4096 then s.setCtr key f else s.setLa (key - 4096) fun l => { l with own := l.own.map f }

/-- WLOCAL in ns (R399). -/
def State.waveEvery (s : State) : Nat := (s.reg 0x607).toNat % 2 ^ 32 * 1000

/-- LOCAL_WAVE, R410: a pass of a wave inside the device, every WLOCAL µs; the second pass declares quiet where
it finds the same balanced sums. -/
def State.localWave (s : State) (key : Nat) : State :=
  match s.keyCtr key with
  | none => s
  | some x =>
      let sums := (x.i, x.c, x.l, x.u)
      let even := (x.c + x.l) % 2 ^ 48 == x.i % 2 ^ 48 && x.u == 0
      match x.prev with
      | some p =>
          s.setKeyCtr key fun y => { y with prev := none, pass := 0, quiet := if p = sums ∧ ¬ x.broken then some x.wave else y.quiet }
      | none =>
          if s.ns < x.due then s
          else
            s.setKeyCtr key fun y => { y with wave := y.wave + 1, due := s.ns + s.waveEvery, pass := if even then 2 else 0, prev := if even then some sums else none }

/-- LOCAL_WAVE, R410. -/
def execLocalWave (job : Nat) (s : State) : Host.Outcome State Fault Refusal := .next (s.localWave job)

/-- WAVE_TIMEOUT, R410: a pass not complete within 10 ms voids the wave. -/
def execWaveTimeout (job : Nat) (s : State) : Host.Outcome State Fault Refusal :=
  .next (match s.keyCtr job with
    | some x => if x.prev.isSome && decide (x.due + 10000000 ≤ s.ns + s.waveEvery) then s.setKeyCtr job fun y => { y with prev := none, pass := 0 } else s
    | none => s)

/-! ### Phases and kills across devices, R411, R412 -/

/-- The launch of a job whose phase a flit names: one that waits, runs, or has ended here while other devices go on. -/
def State.phaseLaunch (s : State) (f : Flit) : Option Nat :=
  (s.launches.find? fun (_, l) => l.rcd.jobid == f.job.toNat % 4096 && l.entered && decide (l.status ≤ 2)
    && !(List.range l.rcd.devs).all l.goneDevs.contains && BitVec.ofNat 32 l.phase == f.seq).map (·.1)

/-- An arrival counted at launch device 0 (R411); none where it is of no launch read so far. -/
def State.arriveFlit (s : State) (f : Flit) : Option State :=
  match s.phaseLaunch f, (s.flitJob f).dmap.findIdx? fun d => d == f.src.toNat with
  | some l, some i =>
      let s := s.noteArrival l i (f.fn.toNat % 2 = 1)
      some (if (s.la l).told then s.goOn l else s)
  | _, _ => none

/-- FLIT_PHASE_ARRIVE, R411; one that comes before its launch has been read here is kept. -/
def execFlitPhaseArrive (f : Flit) (s : State) : Host.Outcome State Fault Refusal :=
  .next (if !s.hears f then s
    else match s.admitFlit f with
      | .stale => s.staleFlit
      | .refuse => s
      | .ok => (s.arriveFlit f).getD { s with early := s.early ++ [f] })

/-- Arrivals kept, counted once their launch has been read; those of an epoch that is over are discarded (R414). -/
def State.servePhases (s : State) : State :=
  s.early.foldl (fun s f =>
    if s.otherEpoch f then State.staleFlit { s with early := s.early.filter (· != f) }
    else ((s.arriveFlit f).map fun s => { s with early := s.early.filter (· != f) }).getD s) s

/-- FLIT_PHASE_GO, R411: the next phase starts. -/
def execFlitPhaseGo (f : Flit) (s : State) : Host.Outcome State Fault Refusal :=
  .next (if !s.hears f then s
    else match s.admitFlit f with
      | .stale => s.staleFlit
      | .refuse => s
      | .ok => match s.phaseLaunch f with
        | some l => s.nextPhase l
        | none => s)

/-- FLIT_KILL_NOTICE, R412: KILLED is set, the event logged, requests of the job refused from then on; of every device that
sends one. -/
def execFlitKillNotice (f : Flit) (s : State) : Host.Outcome State Fault Refusal :=
  let j := f.job.toNat % 4096
  .next (if !s.hears f then s
    else if s.otherEpoch f then s.staleFlit
    else if !(s.flitJob f).valid || !(s.flitJob f).dmap.contains f.src.toNat then s
    else
          let s := (s.flagJob j 1).jobEvent 0x34 j f.src.toNat
          { s with jobs := Tab.modify j (fun x => { x with killed := true }) s.jobs })

/-! ### Ports, R397, R399 -/

/-- PORTn's STATE set; its peer and lanes are told only of a port that is up. -/
def State.setPort (s : State) (n st peer lanes : Nat) : State :=
  s.setReg (0x610 + n) (BitVec.ofNat 64 (st % 4 * 2 ^ 30 + peer % 2 ^ 12 * 2 ^ 12 + lanes % 5 * 2 ^ 8))

/-- A port trains anew. -/
def State.retrain (s : State) (n : Nat) : State := State.setPort { s with linkFails := Tab.drop n s.linkFails } n 1 0 0

/-- A flit whose check fails at a port (R397): replayed, and logged as corrected; with the eighth failure of the same flit the
port trains anew. -/
def State.linkError (s : State) (n : Nat) (again : Bool) : State :=
  if 20 ≤ n ∨ ¬ s.caps.ports.getLsbD n then s
  else
    let s := s.logMc { bank := 9, sev := 1, type := 0x30, skind := 4, sidx := n }
    let c := if again then Tab.getD n 0 s.linkFails + 1 else 1
    if 8 ≤ c then s.retrain n else { s with linkFails := Tab.put n c s.linkFails }

/-- PORT_RETRAIN, R397: a flit has failed for the eighth time, which is logged as any replay is. -/
def execPortRetrain (port : Nat) (s : State) : Host.Outcome State Fault Refusal :=
  .next (if port < 20 ∧ s.caps.ports.getLsbD port then
    (s.retrain port).logMc { bank := 9, sev := 1, type := 0x30, skind := 4, sidx := port } else s)

/-- LINK_TRAINING_END, R397: up, with what its replay buffer holds sent again, or failed, its traffic on the other ports: flits
are neither lost nor doubled (log entry 13). Who the peer is and how many lanes trained are free values. -/
def execLinkTrainingEnd (port : Nat) (ok : Bool) (s : State) : Host.Outcome State Fault Refusal :=
  .next (if port < 20 ∧ s.caps.ports.getLsbD port ∧ field (s.reg (0x610 + port)) 31 30 = 1 then
      (if ok then
        let w := (Config.freeDWord s.free).toNat
        State.setPort { s with free := s.free + 1 } port 2 (w % 2 ^ 12) (w / 2 ^ 12 % 4 + 1)
      else s.setPort port 3 0 0)
    else s)

end Sys2Proof.Machine
end

