-- ==== Sys2Proof/Machine/Power.lean ====
section
/-! DEFINITION. Power, dependability and bring-up: the interval end with permits, grants, clock steps and
refills (08 R219, 22 R425 to R428, R432, R446), replay-rate excursions (R429), fatal errors
(R435), self-test holds (R440) and reset (R442, R443). -/

namespace Sys2Proof.Machine

/-! ### Performance requests, 08 R219 -/

/-- The greatest number of a list. -/
def maxOf (l : List Nat) : Option Nat := l.foldl (fun m n => some (match m with
  | some x => if x < n then n else x
  | none => n)) none

/-- A context's request on a cluster: over the threads of its crews there that have not exited and are not
parked at PHASE, each capped by `.cap`; 2 at most while it holds no permit. -/
def State.request (s : State) (ctx n : Nat) : Option Nat :=
  let x := s.cx ctx
  let rs := (s.threads.filter fun (k, t) =>
    let c := s.crewTh k
    c.ctx == ctx && clusterOfCore c.core == n && !c.ended && t.status != .exited && t.status != .phase).map fun (_, t) => if t.perf < x.cap then t.perf else x.cap
  (maxOf rs).map fun r => if x.permits = 0 ∧ 2 < r then 2 else r

/-- The contexts resident on a cluster. -/
def State.clusterCtxs (s : State) (n : Nat) : List Nat := ((s.clusterCrews n).map fun c => (s.cr c).ctx).eraseDups

/-- A cluster's request: the greatest of its contexts. -/
def State.clusterAsks (s : State) (n : Nat) : Option Nat := maxOf ((s.clusterCtxs n).filterMap fun c => s.request c n)

/-- What a step leaves of a cluster's claim (R426) and of the contexts an interval is charged to (R219): a
claim is made when the request rises to 3 and dropped when it falls. -/
def State.tidyClaim (s : State) (n : Nat) : State :=
  let want := s.clusterAsks n == some 3
  let more := (s.clusterCtxs n).filter fun c => s.request c n == some 3 && !(s.cl n).asked.contains c
  if want == (s.cl n).claim && more.isEmpty then s
  else s.setCl n fun x => { x with claim := want, claimAge := if want && !x.claim then s.ns else x.claimAge, asked := x.asked ++ more }

/-! ### The end of an interval -/

/-- Permits spent (R425) and refilled (R428): a count and an idle count, charged `n` times. -/
def permitsAfter (permits idle n : Nat) : Nat × Nat :=
  if 0 < n then (permits - n, 0)
  else if idle + 1 = 4 then ((if permits < 64 then permits + 1 else 64), 0)
  else (permits, idle + 1)

/-- Clusters charged for the interval. -/
def State.chargedClusters (s : State) : List Nat := (s.clusters.filter fun (_, x) => x.charged).map (·.1)

/-- Charges and refills of domains and contexts. -/
def State.chargeInterval (s : State) : State :=
  let cs := s.chargedClusters
  let s := (List.range 4).foldl (fun s d =>
    let r := permitsAfter (s.dom d).dperm (s.dom d).idle (cs.filter fun n => s.supplyOf n == d).length
    s.setDom d fun x => { x with dperm := r.1, idle := r.2 }) s
  let paid := cs.flatMap fun n => (s.cl n).asked
  { s with ctxs := s.ctxs.map fun (c, x) =>
      let r := permitsAfter x.permits x.idle (if paid.contains c then 1 else 0)
      (c, { x with permits := r.1, idle := r.2 }) }

/-- A grant withdrawn (R426, R427). -/
def State.loseGrant (s : State) (n : Nat) : State := s.setCl n fun x => { x with granted := false }

/-- Whether boost is held back on a cluster: its die is hot (R446) or its domain in a replay-rate excursion
(R429). -/
def State.noBoost (s : State) (n : Nat) : Bool := Tab.getD (dieOfPlain (plainOfCluster n)) 0 s.hot != 0 || (s.dom (s.supplyOf n)).excess

/-- Clusters ordered by claim age, oldest first. -/
def State.byClaim (s : State) (l : List Nat) : List Nat :=
  rankList (fun a b => decide ((s.cl a).claimAge < (s.cl b).claimAge) || ((s.cl a).claimAge == (s.cl b).claimAge && decide (a ≤ b))) l.length l

/-- BMAX of a domain as it acts (R424). -/
def State.boostMax (s : State) (d : Nat) : Nat := if s.isoDomain d then (s.dom d).bmax else 0

/-- Grants of a domain at a boundary (R426): dropped claims give theirs up, the youngest go until the limits
hold, then waiting claims are granted by age. -/
def State.grantDomain (s : State) (d : Nat) : State :=
  let s := ((s.granted d).filter fun n => !(s.cl n).claim || s.noBoost n).foldl State.loseGrant s
  let keep := if (s.dom d).dperm = 0 then 0 else s.boostMax d
  let s := ((s.byClaim (s.granted d)).drop keep).foldl State.loseGrant s
  let waiting := s.byClaim ((List.range Config.clusters).filter fun n =>
    s.supplyOf n == d && (s.cl n).claim && !(s.cl n).granted && !s.noBoost n)
  (waiting.take (keep - (s.granted d).length)).foldl (fun s n => s.setCl n fun x => { x with granted := true }) s

/-- Clock steps in units of 50 MHz: 3.0, 3.5, 4.0, 4.2 and 4.4 GHz. -/
def clockSteps : List Nat := [60, 70, 80, 84, 88]

/-- The step after or before one. -/
def stepUp (c : Nat) : Nat := (clockSteps.find? fun x => decide (c < x)).getD c
def stepDown (c : Nat) : Nat := (clockSteps.reverse.find? fun x => decide (x < c)).getD c

/-- Where a cluster's clock goes to (R219, R427, R446). -/
def State.clockTarget (s : State) (n : Nat) : Nat :=
  let x := s.cl n
  let want := match s.clusterAsks n with
    | some 0 => 60
    | some 1 => 70
    | some 3 => if x.granted then 88 else 80
    | _ => 80
  match Tab.getD (dieOfPlain (plainOfCluster n)) 0 s.hot with
  | 2 => 60
  | 3 => if want < x.clk then want else if x.clk < 80 then x.clk else 80
  | _ => want

/-- A cluster's clock moved one step toward its target; a rise whose recosted reservations would exceed 32
waits (R432). -/
def State.stepClock (s : State) (n : Nat) : State :=
  let x := s.cl n
  let t := s.clockTarget n
  let clk := if x.clk < t then stepUp x.clk else if t < x.clk then stepDown x.clk else x.clk
  if clk = x.clk ∨ (x.clk < clk ∧ 32 < Cluster.units { x with clk := clk }) then s else s.setCl n fun x => { x with clk := clk }

/-- A new interval: what it will be charged for is what runs above 4.0 GHz under a grant. -/
def State.openInterval (s : State) (n : Nat) : State :=
  let x := s.cl n
  let on := x.granted && decide (80 < x.clk)
  let asked := (s.clusterCtxs n).filter fun c => s.request c n == some 3
  if on = x.charged ∧ asked = x.asked then s else s.setCl n fun x => { x with charged := on, asked := asked }

/-- A replay-rate excursion ends when the rate is back within its target (R429): what the device measures is
its own, a free value, asked for at each whole millisecond. -/
def State.endExcess (s : State) (d : Nat) : State :=
  if (s.dom d).excess ∧ s.interval % 100 = 0 then
    let s := if (Config.freeDWord s.free).getLsbD 0 then s.setDom d fun x => { x with excess := false } else s
    { s with free := s.free + 1 }
  else s

/-- POWER_INTERVAL_END: each 10 µs boundary that has come. -/
def State.endInterval (s : State) : State :=
  if s.ns < (s.interval + 1) * 10000 then s
  else
    let s : State := { s with interval := s.interval + 1 }
    let all := List.range Config.clusters
    let s := s.chargeInterval
    let s := all.foldl State.tidyClaim s
    let s := (List.range 4).foldl State.endExcess s
    let s := (List.range 4).foldl State.grantDomain s
    let s := all.foldl State.stepClock s
    all.foldl State.openInterval s

/-- POWER_INTERVAL_END, R425. -/
def execPowerIntervalEnd (s : State) : Host.Outcome State Fault Refusal := .next s.endInterval

/-- REPLAY_RATE_EXCURSION, R429: the domain of the core withdraws every grant, and keeps to nominal. -/
def execReplayRateExcursion (core : Nat) (s : State) : Host.Outcome State Fault Refusal :=
  let d := s.supplyOf (clusterOfCore core)
  let s := (s.granted d).foldl State.loseGrant s
  .next ((s.setDom d fun x => { x with excess := true }).logMc { bank := 13, sev := 1, type := 0x50, skind := 0, sidx := core })

/-! ### Errors, R435, R438, R446 -/

/-- Clusters of a die. -/
def dieClusters (d : Nat) : List Nat := (List.range 48).map fun i => 48 * d + i

/-- THERMAL_STEP, R446: a die's hottest sensor reads a temperature in °C. -/
def State.thermal (s : State) (die temp : Nat) : State :=
  let old := Tab.getD die 0 s.hot
  let s : State := { s with hot :=
    if 100 < temp then Tab.put die 2 s.hot
    else if temp < 95 then Tab.drop die s.hot
    else if 2 ≤ old then Tab.put die 3 s.hot
    else if 95 < temp then Tab.put die 1 s.hot
    else s.hot }
  if 95 < temp then
    let s := ((dieClusters die).filter fun n => (s.cl n).granted).foldl State.loseGrant s
    if old = 0 then s.logMc { bank := 13, sev := 1, type := 0x51, skind := 3, sidx := die } else s
  else s

/-- THERMAL_STEP, R446. -/
def execThermalStep (die temp : Nat) (s : State) : Host.Outcome State Fault Refusal := .next (if die < 4 then s.thermal die temp else s)

/-- THERMAL_TRIP, R446: the record, then the fatal error. -/
def execThermalTrip (die : Nat) (s : State) : Host.Outcome State Fault Refusal :=
  .next (s.logMc { bank := 13, sev := 3, type := 0x52, skind := 3, sidx := die }).fatalError

/-- SUPPLY_OUT_OF_REGULATION, R438: the supplies of the package are the device's. -/
def execSupplyOutOfRegulation (_d : Nat) (s : State) : Host.Outcome State Fault Refusal :=
  .next (s.logMc { bank := 13, sev := 3, type := 0x53, skind := 5, sidx := 0 }).fatalError

/-! ### Self-test between kernels, R440 -/

/-- INT of STCTL in ns. -/
def State.testEvery (s : State) : Nat := field (s.reg 0x720) 23 0 * 1000000

/-- The next cluster in service from one on, in rotation. -/
def State.nextInService (s : State) (from_ : Nat) : Option Nat :=
  ((List.range Config.clusters).map fun i => (from_ + i) % Config.clusters).find? s.inService

/-- SELFTEST_HOLD, R440: every INT ms. -/
def State.holdNext (s : State) : State :=
  if !(s.reg 0x720).getLsbD 31 || (s.reg 0x721).getLsbD 31 || decide (s.ns < s.testFrom + s.testEvery) then s
  else match s.nextInService s.testNext with
    | none => s
    | some n =>
        let s := s.setCl n fun x => { x with hold := some s.ns, emptied := none }
        let s := s.setReg 0x721 (BitVec.ofNat 64 (2 ^ 31 + n * 2 ^ 20) ||| (s.reg 0x721 &&& 0xF))
        { s with testNext := (n + 1) % Config.clusters, testFrom := s.ns }

/-- SELFTEST_HOLD, R440. -/
def execSelftestHold (s : State) : Host.Outcome State Fault Refusal := .next s.holdNext

/-- The cluster held. -/
def State.heldCluster (s : State) : Option Nat :=
  if (s.reg 0x721).getLsbD 31 then some (field (s.reg 0x721) 27 20) else none

/-- SELFTEST_CLUSTER_READY, R440: it holds no context; the control core of its plain is interrupted. -/
def execSelftestClusterReady (s : State) : Host.Outcome State Fault Refusal :=
  .next (match s.heldCluster with
    | some n =>
        if (s.cl n).emptied.isNone && (s.clusterCrews n).isEmpty then
          (s.setCl n fun x => { x with emptied := some s.ns }).raiseIrq (plainOfCluster n)
        else s
    | none => s)

/-- SELFTEST_HOLD_TIMEOUT, R440: 1 ms after the cluster emptied, or after 10 × INT ms if it never does. -/
def execSelftestHoldTimeout (s : State) : Host.Outcome State Fault Refusal :=
  .next (match s.heldCluster with
    | some n =>
        let past := match (s.cl n).emptied with
          | some t => decide (t + 1000000 ≤ s.ns)
          | none => decide (s.testFrom + 10 * s.testEvery ≤ s.ns)
        if past then s.endHold n none else s
    | none => s)

/-! ### Reset, R442, R443 -/

/-- Whether the enabled counts reach the minimums of 00 R2. -/
def Caps.enough (c : Caps) : Bool :=
  ((List.range 16).all fun q => decide (10 ≤ ((List.range 12).filter fun i => c.clusen.getLsbD (12 * q + i)).length))
  && ((List.range 16).all fun q => decide (28 ≤ c.chan.getD q 0) && decide (c.chan.getD q 0 ≤ 32))
  && decide (16 ≤ ((List.range 20).filter fun i => c.ports.getLsbD i).length)

/-- The machine right after a reset with a capability list: host memory, the clock of the free values and
what is still to act are not the device's (log entry 20). -/
def State.afterReset (s : State) (caps : Caps) : State :=
  { State.reset with caps := caps, mem := s.mem.filter fun (a, _) => decide (hostBase ≤ a), free := s.free, agenda := s.agenda }

/-- A boot stage (R443): its signature and security version are good or the device stays in recovery mode;
a good one is measured. Which, and its digest, are the image's own: free values. -/
def State.bootStage (s : State) (n : Nat) : State :=
  if s.recovery then s
  else
    let good := (Config.freeDWord s.free).getLsbD 0
    let digest := (List.range 32).map fun i => Config.freeByte (s.free + 1 + i)
    let s : State := { s with free := s.free + 33 }
    if good then { s with meas := Tab.put n (sha256 (s.measure n ++ digest)) s.meas } else { s with recovery := true }

/-- DEVICE_RESET, R443: firmware sets the enabling, which must reach the minimums, then verifies and measures
the three stages. -/
def execDeviceReset (caps : Caps) (s : State) : Host.Outcome State Fault Refusal :=
  let s := s.afterReset caps
  .next (if Caps.enough caps then (List.range 3).foldl State.bootStage s else { s with recovery := true })

end Sys2Proof.Machine
end

