-- ==== Sys2Proof/Machine/Resident.lean ====
section
/-! DEFINITION. Memory as the resident OS gives it out (17 R374, 18 R375 to R379): physical pages, page table
entries, and the bytes of the control program's own address space. Where it puts things is its own choice,
so each search starts at a free value (log entry 22). -/

namespace Sys2Proof.Machine

/-- Pages a byte count takes. -/
def pagesFor (n : Nat) : Nat := (n + pageBytes - 1) / pageBytes

/-- A range of virtual addresses that is given out to nobody; never the page of address 0. -/
def State.newRange (s : State) (n align : Nat) : Option (Nat × State) :=
  let r := s.draw
  let taken := (0, 1) :: r.2.allocs
  (findPages taken (2 ^ 40) n align (2 * taken.length + 3) (r.1 % 2 ^ 40)).map fun x => (x, { r.2 with allocs := r.2.allocs ++ [(x, n)] })

/-- A table's 8 KiB cleared. -/
def State.clearTable (s : State) (a : Nat) : State := s.homeStore a (List.replicate 8192 0)

/-- A leaf entered for a page, with the tables that are missing on its way. -/
def State.mapLeaf (q va leaf : Nat) : Nat → Nat → Nat → State → Option State
  | 0, _, _, _ => none
  | fuel + 1, lvl, t, s =>
      let a := t + 8 * (va / 2 ^ (46 - 10 * lvl) % 1024)
      if lvl = 3 then some (s.homeStore a (leBytes 8 leaf))
      else
        let e : DWord := BitVec.ofNat 64 (leNat (s.coh a 8))
        if e.getLsbD 0 then (if isLeaf e then none else State.mapLeaf q va leaf fuel (lvl + 1) (field e 51 13 * 2 ^ 13) s)
        else match s.newFrames q 1 with
          | none => none
          | some (f, s) =>
              State.mapLeaf q va leaf fuel (lvl + 1) (f * pageBytes) ((s.clearTable (f * pageBytes)).homeStore a (leBytes 8 (f * pageBytes + 1)))

/-- The root of the program's tables, made where there is none. -/
def State.osRoot (s : State) (q : Nat) : Option (Nat × State) :=
  if s.os.croot.getLsbD 0 then some (field s.os.croot 51 13 * 2 ^ 13, s)
  else (s.newFrames q 1).map fun (f, s) =>
    (f * pageBytes, { s.clearTable (f * pageBytes) with os := { s.os with croot := BitVec.ofNat 64 (f * pageBytes + 1) } })

/-- A page entered in the program's tables. -/
def State.mapPage (s : State) (q va leaf : Nat) : Option State :=
  (s.osRoot q).bind fun (t, s) => State.mapLeaf q va leaf 4 0 t s

/-- The leaf of a local page, or of one replicated on further plains (18 R378). -/
def freshLeaf (frame : Nat) (copies : List Nat) (w x : Bool) : Nat :=
  let q := frame / 2 ^ 20
  let c (i : Nat) : Nat := copies.getD i q
  frame * pageBytes + 7 + (if w then 8 else 0) + (if x then 16 else 0)
    + (if copies.isEmpty then q * 2 ^ 52 else 2 ^ 11 + c 0 * 2 ^ 52 + c 1 * 2 ^ 56 + c 2 * 2 ^ 60)

/-- Pages `0` to `n - 1` of a range mapped to frames in a row. -/
def State.mapRange (q va frame : Nat) (copies : List Nat) (w x : Bool) : Nat → State → Option State
  | 0, s => some s
  | n + 1, s => (State.mapRange q va frame copies w x n s).bind fun s =>
      s.mapPage q ((va + n) * pageBytes) (freshLeaf (frame + n) copies w x)

/-- Frames in a row on a plain, at the same place on each further plain too. -/
def State.newCopies (s : State) (q n : Nat) (copies : List Nat) : Option (Nat × State) :=
  (s.newFrames q n).bind fun (f, s) =>
    let at_ (p : Nat) : Nat := p * 2 ^ 20 + f % 2 ^ 20
    if copies.all fun p => decide (f % 2 ^ 20 + n ≤ s.caps.chan.getD p 0 * 2 ^ 15) && s.frames.all fun (b, m) => !pagesMeet (at_ p) n b m then
      some (f, { s with frames := s.frames ++ copies.map fun p => (at_ p, n) })
    else none

/-- Memory given out: its virtual address. -/
def State.alloc (s : State) (q n align : Nat) (copies : List Nat) (w x : Bool) : Option (Nat × State) :=
  (s.newRange n align).bind fun (v, s) => (s.newCopies q n copies).bind fun (f, s) =>
    (State.mapRange q v f copies w x n s).map fun s => (v * pageBytes, s)

/-- The leaf of an address of the program. -/
def State.osLeaf (s : State) (va : Nat) : Option (DWord × Nat) :=
  if !s.os.croot.getLsbD 0 || decide (2 ^ 56 ≤ va) then none
  else match s.walkFrom (2 ^ 16) (0x480 + s.caller) va 4 0 (field s.os.croot 51 13 * 2 ^ 13) with
    | .leaf e b => if isRemotePage e || isHostPage e then none else some (e, b)
    | _ => none

/-- The physical addresses of a byte of the program, the copies of a replicated page among them. -/
def State.osPlaces (s : State) (va : Nat) : Option (List Nat) :=
  (s.osLeaf va).map fun (e, b) => if isReplPage e then replOrder s.caller e (va % 2 ^ b) else [leafPA e + va % 2 ^ b]

/-- Bytes of the program's address space. -/
def State.osRead (s : State) (va : Nat) : Nat → Option (List Byte)
  | 0 => some []
  | n + 1 => (s.osPlaces va).bind fun l => (s.osRead (va + 1) n).map fun bs => s.cohByte (l.headD 0) :: bs

/-- Bytes written there; none where an address is not mapped. -/
def State.osWrite (s : State) (va : Nat) : List Byte → Option State
  | [] => some s
  | b :: t => (s.osPlaces va).bind fun l => (l.foldl (fun s a => s.homeStore a [b]) s).osWrite (va + 1) t

/-- A NUL-terminated name, at most 4,095 bytes. -/
def State.osName (s : State) (va : Nat) : Nat → Option (List Byte)
  | 0 => none
  | n + 1 => (s.osPlaces va).bind fun l =>
      let b := s.cohByte (l.headD 0)
      if b = 0 then some [] else (s.osName (va + 1) n).map fun bs => b :: bs

/-- A page taken out of the tables, its frames given back. -/
def State.unmapPage (s : State) (va : Nat) : State :=
  match s.osLeaf va with
  | none => s
  | some (e, _) =>
      let f := leafPA e / pageBytes
      let fs := f :: (if isReplPage e then (leafCopies e).map fun p => p * 2 ^ 20 + f % 2 ^ 20 else [])
      -- the range a frame belongs to is split around it
      let cut (x : Nat × Nat) : List (Nat × Nat) := match fs.find? fun f => decide (x.1 ≤ f) && decide (f < x.1 + x.2) with
        | some f => (if x.1 < f then [(x.1, f - x.1)] else []) ++ (if f + 1 < x.1 + x.2 then [(f + 1, x.1 + x.2 - (f + 1))] else [])
        | none => [x]
      let s : State := { s with frames := s.frames.flatMap cut }
      (s.mapPage s.caller va 0).getD s

/-- Memory given back: its pages unmapped, cached translations of them dropped. -/
def State.giveBack (s : State) (va : Nat) : State :=
  match s.allocs.find? fun (v, _) => v * pageBytes == va with
  | none => s
  | some (v, n) =>
      let s := (List.range n).foldl (fun s i => s.unmapPage ((v + i) * pageBytes)) s
      { s with allocs := s.allocs.filter fun (x, _) => x != v
               cores := s.cores.map fun (c, x) => (c, { x with walks := [], tlb := x.tlb.filter fun t => !(decide (va < t.va + 2 ^ t.bits) && decide (t.va < va + n * pageBytes)) }) }

end Sys2Proof.Machine
end

