-- ==== Sys2Proof/Machine/Loader.lean ====
section
/-! DEFINITION. The loader (07 R184 to R193): checking an application image, placing its sections, resolving
symbols, translating functions above the native level (R185), relocations (R189). -/

namespace Sys2Proof.Machine

/-- Bytes of a part; what lies past the end is missing. -/
def part (b : List Byte) (o n : Nat) : List Byte := (b.drop o).take n

/-- Whether a range of bytes is all zero. -/
def zeros (b : List Byte) (o n : Nat) : Bool := (part b o n).all (· == 0)

/-- A section table entry, R186. -/
structure Sect where
  stype : Nat
  level : Nat
  flags : Nat
  align : Nat
  ofs : Nat
  size : Nat
  link : Nat
  info : Nat
  deriving DecidableEq, Repr

/-- A symbol, R188. -/
structure Sym where
  name : Nat
  sect : Nat
  kind : Nat
  bind : Nat
  value : Nat
  size : Nat
  deriving DecidableEq, Repr

/-- A relocation, R189. -/
structure Rel where
  ofs : Nat
  sym : Nat
  type : Nat
  add : Int
  deriving DecidableEq, Repr

/-- An image cut into its parts. -/
structure Parts where
  img : List Byte
  elf : List Byte
  cont : List Byte
  man : List Byte
  deriving DecidableEq, Repr

/-- The parts an image header names (R191). R193 has no status for a part, or a section table, that is not aligned as R184
and R191 say: it is loaded where it stands (DESIGN CHOICE, log entry 52). -/
def partsOfImage (b : List Byte) : Parts :=
  { img := b, elf := part b (at64 b 8 8) (at64 b 0x10 8), cont := part b (at64 b 0x18 8) (at64 b 0x20 8), man := part b (at64 b 0x28 8) (at64 b 0x30 8) }

/-- Section `i` of a container. -/
def Sect.ofBytes (c : List Byte) (i : Nat) : Sect :=
  let e := part c (at64 c 0x10 8 + 32 * i) 32
  ⟨at64 e 0 1, at64 e 1 1, at64 e 2 2, at64 e 4 4, at64 e 8 8, at64 e 0x10 8, at64 e 0x18 4, at64 e 0x1C 4⟩

def sectsOf (c : List Byte) : List Sect := (List.range (at64 c 8 2)).map (Sect.ofBytes c)

/-- A section's bytes; BSS has zeros. -/
def Sect.body (c : List Byte) (x : Sect) : List Byte := if x.stype = 4 then List.replicate x.size 0 else part c x.ofs x.size

def Sect.dflt : Sect := ⟨0, 0xFF, 0, 1, 0, 0, 0, 0⟩

/-- Symbols of a SYM section. -/
def symsOf (c : List Byte) (x : Sect) : List Sym :=
  let b := x.body c
  (List.range (x.size / 24)).map fun i =>
    let e := part b (24 * i) 24
    ⟨at64 e 0 4, at64 e 4 2, at64 e 6 1, at64 e 7 1, at64 e 8 8, at64 e 0x10 8⟩

/-- Relocations of a REL section. -/
def relsOf (c : List Byte) (x : Sect) : List Rel :=
  let b := x.body c
  (List.range (x.size / 24)).map fun i =>
    let e := part b (24 * i) 24
    ⟨at64 e 0 8, at64 e 8 4, at64 e 0xC 2, (BitVec.ofNat 64 (at64 e 0x10 8)).toInt⟩

/-- The symbols of a section: none where it is no SYM section. -/
def symsAt (c : List Byte) (i : Nat) : List Sym :=
  let x := (sectsOf c).getD i Sect.dflt
  if x.stype = 5 then symsOf c x else []

/-- The SYM sections of a container. -/
def symSects (c : List Byte) : List Nat := (List.range (sectsOf c).length).filter fun i => ((sectsOf c).getD i Sect.dflt).stype == 5

/-- The symbols that function references, cross-references and the kernel table number, each with its SYM section: where there
are several, one numbers on from another (log entry 52). -/
def symTab (c : List Byte) : List (Nat × Sym) := (symSects c).flatMap fun t => (symsAt c t).map fun y => (t, y)

/-- The symbols by number. -/
def symList (c : List Byte) : List Sym := (symTab c).map (·.2)

/-- The number of the first symbol of a SYM section. -/
def symBase (c : List Byte) (tab : Nat) : Nat := ((symTab c).takeWhile fun x => x.1 != tab).length

/-- A name in a STR section. -/
def strAt (c : List Byte) (x : Sect) (o : Nat) : List Byte := ((x.body c).drop o).takeWhile (· != 0)

/-- The name of a symbol of a SYM section. -/
def Sym.nameIn (c : List Byte) (tab : Nat) (y : Sym) : List Byte :=
  strAt c ((sectsOf c).getD ((sectsOf c).getD tab Sect.dflt).link Sect.dflt) y.name

/-! ### Records, loops and tiles above the native level, R186, R187 -/

/-- Whether a word has a third register in its X field: two words that differ there alone differ in what they use. -/
def hasC (w : IWord) : Bool :=
  let at_ (n : IWord) : IWord := w &&& ~~~(0x3FF#96 <<< 20) ||| (n <<< 20)
  match decodeWord (at_ 0), decodeWord (at_ 2) with
  | .ok i, .ok j => i.uses != j.uses
  | _, _ => false

/-- Whether an extension byte of a 16-byte record is set where its field is no general register: it is reserved there. -/
def extBad (b : List Byte) : Bool :=
  let w : IWord := BitVec.ofNat 96 (leNat (b.take 12))
  let set (i : Nat) : Bool := b.getD (12 + i) 0 != 0
  (set 0 && w.extractLsb' 80 2 != 0) || (set 1 && w.extractLsb' 70 2 != 0) || (set 2 && w.extractLsb' 60 2 != 0)
    || (set 3 && (w.extractLsb' 28 2 != 0 || !hasC w))

/-- A loop annotation. -/
structure LoopAnn where
  first : Nat
  last : Nat
  depth : Nat
  kind : Nat
  trip : Nat
  deriving DecidableEq, Repr

/-- Loop annotations of a section. -/
def annsOf (c : List Byte) (x : Sect) : List LoopAnn :=
  (List.range (x.size / 16)).map fun i =>
    let e := part (x.body c) (16 * i) 16
    ⟨at64 e 0 4, at64 e 4 4, at64 e 8 1, at64 e 9 1, at64 e 0xC 4⟩

/-- A shape entry of a job card template: PARAM value × MULT goes into the card's field. -/
structure Shape where
  ofs : Nat
  width : Nat
  param : Nat
  mult : Int
  deriving DecidableEq, Repr

/-- The templates of a TILE section: each of its tile symbols names one, with its shape entries after it, as many as its SIZE
has beyond 256 bytes. Where a template begins and how many entries follow it the spec does not say (DESIGN CHOICE, log entry
68). -/
def tilesIn (c : List Byte) (i : Nat) : List Sym := (symSects c).flatMap fun t => (symsAt c t).filter fun y => y.kind == 7 && y.sect == i

/-- The bytes of a template's shape entries, and the entries. -/
def shapeBytes (b : List Byte) (y : Sym) : List (List Byte) := (List.range ((y.size - 256) / 16)).map fun j => part b (y.value + 256 + 16 * j) 16
def Shape.ofBytes (e : List Byte) : Shape := ⟨at64 e 0 2, at64 e 2 1, at64 e 4 4, (BitVec.ofNat 64 (at64 e 8 8)).toInt⟩

/-- A template bound to its shape, in the `n`th load (log entry 9). -/
def bindTile (n : Nat) (b : List Byte) (y : Sym) : List Byte :=
  ((shapeBytes b y).map Shape.ofBytes).foldl (fun b e =>
    patch b (y.value + e.ofs) (leBytes e.width ((Config.shapeParam n e.param * e.mult) % (2 ^ (8 * e.width) : Int)).toNat)) b

/-- A section's bytes as the translator leaves them: of a TILE section with its templates bound. -/
def Sect.bound (c : List Byte) (n i : Nat) (x : Sect) : List Byte :=
  if x.stype = 11 then (tilesIn c i).foldl (bindTile n) (x.body c) else x.body c

/-! ### The checks of R193, in order -/

/-- A reserved field of a section's entries that is not zero. -/
def Sect.reservedBad (c : List Byte) (i : Nat) (x : Sect) : Bool :=
  let b := x.body c
  let each (n : Nat) (p : Nat → Bool) : Bool := (List.range (x.size / n)).any fun i => p (n * i)
  decide (8 ≤ x.flags) || (match x.stype with
    | 1 => x.level != 0 && each 16 fun o => extBad (part b o 16)
    | 11 => (tilesIn c i).any fun y => (shapeBytes b y).any fun e => !zeros e 3 1
    | 7 => each 24 fun o => !zeros b (o + 0xE) 2
    | 8 => each 16 fun o => !zeros b (o + 3) 1 || !zeros b (o + 0xC) 4
    | 10 => each 16 fun o => !zeros b (o + 0xA) 2
    | _ => false)

/-- Status 1: magic, version and reserved fields. -/
def Parts.badHeader (p : Parts) : Bool :=
  let c := p.cont
  let m := p.man
  at64 p.img 0 4 != 0x4D494245 || at64 p.img 4 2 != 1 || !zeros p.img 6 2 || !zeros p.img 0x38 8
  || at64 m 0 2 != 1 || !zeros m 0x13 1 || !zeros m 0x60 32
  || ((List.range (at64 m 6 2)).any fun i => !zeros m (at64 m 0x18 8 + 16 * i + 8) 8)
  || at64 c 0 4 != 0x59545244 || at64 c 4 2 != 1 || decide (16 ≤ at64 c 0xA 1) || !zeros c 0xB 5 || !zeros c 0x20 32
  || (List.range (sectsOf c).length).any fun i => ((sectsOf c).getD i Sect.dflt).reservedBad c i

/-- Status 2: the measurements. -/
def Parts.badMeasure (p : Parts) : Bool := sha256 p.elf != part p.man 0x20 32 || sha256 p.cont != part p.man 0x40 32

/-- Status 3: what the image needs of the device. -/
def State.lacks (s : State) (p : Parts) : Bool :=
  let m := p.man
  decide (1 < at64 m 2 2) || (BitVec.ofNat 64 (at64 m 8 8) &&& ~~~s.caps.feat) != 0
  || !((List.range 16).all fun q => decide (at64 m 0x10 1 ≤ (s.plainClusters q).length))
  || !((List.range 16).all fun q => decide (at64 m 0x11 1 ≤ s.caps.chan.getD q 0))
  || decide (((List.range 20).filter fun i => s.caps.ports.getLsbD i).length < at64 m 0x12 1)

/-- Bytes a relocation patches. -/
def Rel.width (r : Rel) : Nat := match r.type with
  | 0 => 0
  | 2 => 4
  | 4 | 5 | 6 | 7 => 12
  | _ => 8

/-- Status 4: entries out of bounds. -/
def Parts.outOfBounds (p : Parts) : Bool :=
  let c := p.cont
  let ss := sectsOf c
  let n := ss.length
  let st := symList c
  let len (i : Nat) : Nat := (ss.getD i Sect.dflt).size
  decide (c.length < at64 c 0x10 8 + 32 * n) || decide (c.length < at64 c 0x18 8)
  || ss.any (fun x => x.stype != 4 && decide (at64 c 0x18 8 < x.ofs + x.size))
  || ss.any (fun x => (x.stype == 5 && decide (n ≤ x.link)) || (x.stype == 7 && (decide (n ≤ x.link) || decide (n ≤ x.info))))
  || (symSects c).any (fun t => (symsAt c t).any fun y => decide (len (ss.getD t Sect.dflt).link ≤ y.name)
      || (y.sect != 0xFFFF && (decide (n ≤ y.sect) || decide (len y.sect < y.value + y.size))))
  || ss.any (fun x => x.stype == 8 && (List.range (x.size / 16)).any fun i =>
      decide (st.length ≤ at64 (x.body c) (16 * i + 4) 4) || decide (st.length ≤ at64 (x.body c) (16 * i + 8) 4))
  || ss.any (fun x => x.stype == 7 && (relsOf c x).any fun r =>
      decide (9 < r.type) || decide ((symsAt c x.info).length ≤ r.sym) || decide (len x.link < r.ofs + r.width))
  || (List.range (at64 p.man 6 2)).any fun i => decide (st.length ≤ at64 p.man (at64 p.man 0x18 8 + 16 * i) 4)

/-- The address of a global symbol of a loaded container: where several bind the name, of any tenant's, the one loaded under the
lowest handle (DESIGN CHOICE, log entry 70). -/
def State.globalAt (s : State) (name : List Byte) : Option Nat :=
  s.containers.findSome? fun (_, c) => (c.globals.find? fun x => x.1 == name).map (·.2)

/-- Status 5: an extern that does not resolve. -/
def State.unresolved (s : State) (p : Parts) : Bool :=
  (symSects p.cont).any fun t => (symsAt p.cont t).any fun y => (y.bind == 2 || y.sect == 0xFFFF) && (s.globalAt (y.nameIn p.cont t)).isNone

/-! ### Levels, R185 -/

/-- Whether native sections are used. -/
def native (c : List Byte) : Bool := at64 c 6 2 == 1

/-- The level a symbol stands at. -/
def Sym.level (c : List Byte) (y : Sym) : Nat := ((sectsOf c).getD y.sect Sect.dflt).level

/-- Whether a symbol is a function the device can run: kernel, handler or function. -/
def Sym.isFun (y : Sym) : Bool := y.kind == 1 || y.kind == 2 || y.kind == 3 || y.kind == 4

/-- The KIND of the cross-references of a symbol (R188): of functions, of loops, of tiles. -/
def Sym.refKind (y : Sym) : Option Nat := if y.isFun then some 0 else if y.kind = 6 then some 1 else if y.kind = 7 then some 2 else none

/-- The cross-references that hold: pairs of symbols of their KIND which stand at the levels they name. -/
def crossRefs (c : List Byte) : List (Nat × Nat) :=
  let is (j k l : Nat) : Bool := ((symList c)[j]?).any fun y => y.refKind == some k && y.level c == l
  ((sectsOf c).filter fun x => x.stype == 8).flatMap fun x => (List.range (x.size / 16)).filterMap fun j =>
    let b := part (x.body c) (16 * j) 16
    let a := at64 b 4 4
    let z := at64 b 8 4
    if is a (at64 b 0 1) (at64 b 1 1) && is z (at64 b 0 1) (at64 b 2 1) then some (a, z) else none

/-- Symbols with those one cross-reference away, `fuel` times over. -/
def refClosure (xs : List (Nat × Nat)) : Nat → List Nat → List Nat
  | 0, l => l
  | fuel + 1, l => refClosure xs fuel ((l ++ xs.flatMap fun (a, z) => (if l.contains a then [z] else []) ++ (if l.contains z then [a] else [])).eraseDups)

/-- The symbols that are one function, loop or tile, by cross-references and by those in turn, itself first. -/
def sameSym (c : List Byte) (i : Nat) : List Nat := let xs := crossRefs c; refClosure xs xs.length [i]

/-- The symbol from which a function, a loop or a tile is taken: the native one where native sections are used, else the
highest level present. The sections tell which are; LEVELS of the header, should it disagree, does not count (DESIGN CHOICE,
log entry 52). -/
def sourceOf (c : List Byte) (i : Nat) : Option Nat :=
  let syms := symList c
  let at_ (l : Nat) : Option Nat := (sameSym c i).find? fun j => match syms[j]? with
    | some y => y.sect != 0xFFFF && y.level c == l
    | none => false
  match (if native c then at_ 0 else none) with
  | some j => some j
  | none => (at_ 3).or ((at_ 2).or (at_ 1))

/-- Status 7: a kernel present at no level the loader understands. -/
def Parts.noLevel (p : Parts) : Bool :=
  let syms := symList p.cont
  ((List.range syms.length).any fun i => match syms[i]? with
    | some y => y.kind == 1 && y.bind != 2 && y.sect != 0xFFFF && (sourceOf p.cont i).isNone
    | none => false)

/-! ### Placing -/

/-- Whether some function is taken from a level. -/
def levelUsed (c : List Byte) (l : Nat) : Bool :=
  let syms := symList c
  (List.range syms.length).any fun i => match (syms[i]?).filter Sym.isFun, (sourceOf c i).bind fun j => syms[j]? with
    | some _, some y => y.level c == l
    | _, _ => false

/-- Whether a section is placed in memory: it is loaded, and of no level, native, or the data or the tiles of a level above
from which functions are taken. -/
def Sect.placed (c : List Byte) (x : Sect) : Bool :=
  x.flags % 2 == 1 && (x.level == 0xFF || (x.level == 0 && native c)
    || (decide (1 ≤ x.level) && (x.stype == 2 || x.stype == 3 || x.stype == 4 || x.stype == 11) && levelUsed c x.level))

/-- Whether a section's relocations count: it is placed, or functions are translated from its records. -/
def Sect.used (c : List Byte) (x : Sect) : Bool := x.placed c || (x.stype == 1 && decide (1 ≤ x.level) && levelUsed c x.level)

/-- What loading has made so far: section addresses, function addresses, blocks of memory. -/
structure Laid where
  sect : List (Nat × Nat) := []
  funs : List (Nat × Nat) := []
  blocks : List Nat := []
  deriving DecidableEq, Repr

/-- Sections given memory, in order. -/
def State.layOut (c : List Byte) (q : Nat) : List (Nat × Sect) → Laid → State → Option (Laid × State)
  | [], y, s => some (y, s)
  | (i, x) :: t, y, s =>
      if !x.placed c || x.size == 0 then State.layOut c q t y s
      else (s.alloc q (pagesFor x.size) (if pagesFor x.align = 0 then 1 else pagesFor x.align) [] (x.flags.testBit 1) (x.flags.testBit 2)).bind fun (a, s) =>
        State.layOut c q t { y with sect := y.sect ++ [(i, a)], blocks := y.blocks ++ [a] } s

/-- The bytes of section `i` before anything is relocated. -/
def rawBody (c : List Byte) (n i : Nat) : List Byte := ((sectsOf c).getD i Sect.dflt).bound c n i

/-- What the translator starts from for a function: its records, the loops annotated there, the job cards of its level; `body`
gives the bytes of a section. -/
def sourceBytes (c : List Byte) (body : Nat → List Byte) (f : Sym) : List Byte :=
  let mine (l : LoopAnn) : Bool := decide (f.value ≤ 16 * l.first) && decide (16 * l.last < f.value + f.size)
  let anns := ((sectsOf c).filter fun x => x.stype == 10 && x.level == f.level c).flatMap fun x => (annsOf c x).filter mine
  let nums := (List.range (sectsOf c).length).zip (sectsOf c)
  part (body f.sect) f.value f.size
    ++ anns.flatMap (fun l => leBytes 4 (l.first - f.value / 16) ++ leBytes 4 (l.last - f.value / 16) ++ leBytes 1 l.depth ++ leBytes 1 l.kind ++ leBytes 4 l.trip)
    ++ (nums.filter fun (_, x) => x.stype == 11 && x.level == f.level c).flatMap fun (i, _) => body i

/-- How many fetch blocks the translator makes of a function, which it tells from its records before they are relocated. -/
def codeBlocks (c : List Byte) (n : Nat) (f : Sym) : Nat := Config.translatedBlocks (sourceBytes c (rawBody c n) f) % 1024 + 1

/-- What the translator makes of a function: whole fetch blocks with their trailers; its code is the translator's own, a free
value for the records it starts from. -/
def translation (blocks : Nat) (src : List Byte) : List Byte :=
  (List.range blocks).flatMap fun i =>
    let b := (List.range 60).map fun j => Config.translated src (60 * i + j)
    b ++ leBytes 4 (crc32c b)

/-- Functions that are translated, each once, from its source: given memory. -/
def State.allocFuns (c : List Byte) (q n : Nat) : List Nat → Laid → State → Option (Laid × State)
  | [], y, s => some (y, s)
  | i :: t, y, s =>
      match ((symList c)[i]?).filter fun f => f.isFun && f.level c != 0 && sourceOf c i == some i with
      | some f => (s.alloc q (pagesFor (64 * codeBlocks c n f)) 1 [] false true).bind fun (a, s) =>
          State.allocFuns c q n t { y with funs := y.funs ++ [(i, a)], blocks := y.blocks ++ [a] } s
      | none => State.allocFuns c q n t y s

/-- The translated functions written, from the sections' bytes as relocated. -/
def State.writeFuns (c : List Byte) (n : Nat) (body : Nat → List Byte) : List (Nat × Nat) → State → Option State
  | [], s => some s
  | (i, a) :: t, s =>
      let f := (symList c).getD i { name := 0, sect := 0, kind := 0, bind := 0, value := 0, size := 0 }
      (s.osWrite a (translation (codeBlocks c n f) (sourceBytes c body f))).bind fun s => State.writeFuns c n body t s

/-- Where a byte of TEXT that is not placed stands in the code of the function around it: at its beginning the function's own,
else in a slot of the translator's choice. -/
def insideFun (c : List Byte) (n : Nat) (y : Laid) (sect ofs : Nat) : Nat :=
  let syms := symList c
  let around (f : Sym) : Bool := f.isFun && f.sect == sect && decide (f.value ≤ ofs) && decide (ofs < f.value + f.size)
  match (List.range syms.length).find? fun i => (syms[i]?).any around with
  | none => 0
  | some i =>
      let d : Sym := { name := 0, sect := 0, kind := 0, bind := 0, value := 0, size := 0 }
      let f := syms.getD i d
      let j := (sourceOf c i).getD i
      let z := syms.getD j d
      let made := Tab.find j y.funs
      let a := made.getD (Tab.getD z.sect 0 y.sect + z.value)
      if ofs = f.value then a
      else
        let blocks := if made.isSome then codeBlocks c n z else z.size / 64 + 1
        let k := Config.translatedSlot (sourceBytes c (rawBody c n) z) (ofs - f.value) % (5 * blocks)
        a + k / 5 * 64 + k % 5 * 12

/-- The address of a byte of a section. -/
def placeOf (c : List Byte) (n : Nat) (y : Laid) (sect ofs : Nat) : Nat :=
  match Tab.find sect y.sect with
  | some a => a + ofs
  | none => if ((sectsOf c).getD sect Sect.dflt).stype = 1 then insideFun c n y sect ofs else ofs

/-- The final address of a symbol by number. -/
def State.symAddr (s : State) (c : List Byte) (n : Nat) (y : Laid) (i : Nat) : Nat :=
  match (symTab c)[i]? with
  | none => 0
  | some (tab, x) =>
      if x.bind = 2 ∨ x.sect = 0xFFFF then (s.globalAt (x.nameIn c tab)).getD 0
      else if x.refKind.isNone then placeOf c n y x.sect x.value
      else
        let j := (sourceOf c i).getD i
        let z := (symList c).getD j x
        match Tab.find j y.funs with
        | some a => a
        | none => placeOf c n y z.sect z.value

/-! ### Relocations, R189 -/

/-- Bits `lo` up, `n` of them, of a word of bytes replaced. -/
def putBits (b : List Byte) (o w lo n : Nat) (v : Int) : List Byte :=
  let x := leNat (part b o w)
  let new := (v % (2 ^ n : Int)).toNat
  patch b o (leBytes w (x - x / 2 ^ lo % 2 ^ n * 2 ^ lo + new * 2 ^ lo))

/-- A relocation applied to its section's bytes; none on an overflow. `p` is the address of what it patches, `at_`
the symbol's, `ref` its function reference. `recs` is where the symbol stands in the section itself, for TEXT of 16-byte
records: there type 6 counts records, and a displacement to another section is left to the translator. -/
def Rel.apply (r : Rel) (b : List Byte) (p at_ ref : Nat) (recs : Option (Option Nat)) : Option (List Byte) :=
  let v : Int := at_ + r.add
  let slot := decide (0 ≤ v) && isSlotPC (BitVec.ofNat 64 v.toNat) && decide (v < 2 ^ 56)
  match r.type with
  | 0 => some b
  | 1 => some (putBits b r.ofs 8 0 64 v)
  | 2 => if 0 ≤ v ∧ v < 2 ^ 32 then some (putBits b r.ofs 4 0 32 v) else none
  | 3 => some (putBits b r.ofs 8 0 64 (v - p))
  | 4 => some (putBits b r.ofs 12 20 32 v)
  | 5 => some (putBits b r.ofs 12 20 32 (v / 2 ^ 32))
  | 6 => match recs with
    | some none => some b
    | some (some x) =>
        let d : Int := ((x : Int) + r.add - (r.ofs : Nat)) / 16
        if ((x : Int) + r.add) % 16 = 0 ∧ -2 ^ 31 ≤ d ∧ d < 2 ^ 31 then some (putBits b r.ofs 12 20 32 d) else none
    | none =>
      let d : Int := (slotN (BitVec.ofNat 64 v.toNat) : Int) - slotN (BitVec.ofNat 64 p)
      if slot ∧ -2 ^ 31 ≤ d ∧ d < 2 ^ 31 then some (putBits b r.ofs 12 20 32 d) else none
  | 7 => if -524288 ≤ v ∧ v ≤ 524287 then some (putBits b r.ofs 12 20 20 v) else none
  | 8 => if r.add = 0 then some (putBits b r.ofs 8 0 64 ref) else none
  | _ => if slot then some (putBits b r.ofs 8 0 64 v) else none

/-- The trailer of a fetch block rewritten (06 R156). -/
def retrail (b : List Byte) (o : Nat) : List Byte :=
  let o := o / 64 * 64
  if o + 64 ≤ b.length then patch b (o + 60) (leBytes 4 (crc32c (part b o 60))) else b

/-- A section's bytes with its relocations, and the trailers of native TEXT they changed. In TEXT of records, at the tile level
as at the scalar and loop levels, type 6 counts records (DESIGN CHOICE for the tile level, log entry 69). -/
def State.relocate (s : State) (c : List Byte) (n hd : Nat) (y : Laid) (i : Nat) (x : Sect) : Option (List Byte) :=
  let rels := ((sectsOf c).filter fun r => r.stype == 7 && r.link == i).flatMap fun r => (relsOf c r).map fun e => (symBase c r.info + e.sym, e)
  let text := x.stype == 1 && x.level == 0
  let recs (y : Option Sym) : Option (Option Nat) :=
    if x.stype = 1 ∧ 1 ≤ x.level then some (match y with
      | some z => if z.sect = i then some z.value else none
      | none => none) else none
  rels.foldl (fun b (g, r) => b.bind fun b =>
    (r.apply b (placeOf c n y i r.ofs) (s.symAddr c n y g) (hd * 2 ^ 32 + g) (recs ((symList c)[g]?))).map fun b =>
      if text && r.type != 0 then retrail (retrail b r.ofs) (r.ofs + r.width - 1) else b) (some (x.bound c n i))

/-- Every section that is placed or translated from, relocated: its number and bytes. -/
def State.relocateAll (s : State) (c : List Byte) (n hd : Nat) (y : Laid) : List (Nat × Sect) → Option (List (Nat × List Byte))
  | [] => some []
  | (i, x) :: t =>
      if x.used c then (s.relocate c n hd y i x).bind fun b => (s.relocateAll c n hd y t).map fun l => (i, b) :: l
      else s.relocateAll c n hd y t

/-- Placed sections written. -/
def State.writeSects (y : Laid) : List (Nat × List Byte) → State → Option State
  | [], s => some s
  | (i, b) :: t, s => match Tab.find i y.sect with
    | some a => (s.osWrite a b).bind fun s => State.writeSects y t s
    | none => State.writeSects y t s

/-- Sections with their numbers. -/
def numSects (c : List Byte) : List (Nat × Sect) := (List.range (sectsOf c).length).zip (sectsOf c)

/-- The lowest handle no container has: a function reference has 16 bits for it (R190). -/
def State.newHandle (s : State) : Option Nat :=
  (List.range (s.containers.length + 1)).find? fun i => decide (i < 2 ^ 16) && (Tab.find i s.containers).isNone

/-- The container a load leaves, with what the manifest says of it (R192). -/
def State.containerOf (s : State) (p : Parts) (n : Nat) (y : Laid) : Container :=
  let c := p.cont
  let m := p.man
  let idx := (List.range (symTab c).length).zip (symTab c)
  { syms := (idx.filter fun (_, _, x) => x.isFun).map fun (i, _) => (i, BitVec.ofNat 64 (s.symAddr c n y i))
    kernels := (idx.filter fun (_, _, x) => x.kind == 1).map fun (i, t, x) => (x.nameIn c t, i)
    globals := (idx.filter fun (_, _, x) => x.bind == 1 && x.sect != 0xFFFF).map fun (i, t, x) => (x.nameIn c t, s.symAddr c n y i)
    blocks := y.blocks
    kerns := (List.range (at64 m 6 2)).map fun i => (at64 m (at64 m 0x18 8 + 16 * i) 4, at64 m (at64 m 0x18 8 + 16 * i + 4) 4)
    sysabi := at64 m 4 2, devMin := at64 m 0x14 2, devMax := at64 m 0x16 2 }

/-- What loading an image gives: a status of R193, no room, or a handle. -/
inductive Loaded where
  | refused (status : Nat)
  | noRoom
  | ok (handle : Nat) (s : State)
  deriving DecidableEq, Repr

/-- A container's sections placed, translated, relocated and written (R185, R189); an overflow is status 6,
no level status 7. Memory is given out first, so that no room, which R193 does not rank, is told before either of them
(DESIGN CHOICE, log entry 52). What a load changed in code is seen by every core (05 R142). -/
def State.loadParts (s : State) (p : Parts) : Loaded :=
  let c := p.cont
  let q := s.caller
  match s.newHandle, (State.layOut c q (numSects c) {} s).bind fun (y, s') => State.allocFuns c q s.free (List.range (symTab c).length) y s' with
  | some hd, some (y, s') =>
      match s'.relocateAll c s.free hd y (numSects c) with
      | none => .refused 6
      | some bs =>
          if p.noLevel then .refused 7
          else match (State.writeSects y bs s').bind (State.writeFuns c s.free (fun i => (Tab.find i bs).getD (rawBody c s.free i)) y.funs) with
            | none => .noRoom
            | some s' =>
                let m := sha256 (sha256 (s'.measure 3 ++ part p.man 0x20 32) ++ part p.man 0x40 32)
                .ok hd (State.codeSync { s' with containers := Tab.put hd (s'.containerOf p s.free y) s'.containers, meas := Tab.put 3 m s'.meas
                                                 free := s'.free + 1 })
  | _, _ => .noRoom

/-- An image loaded, or refused with the first status that applies (R193). -/
def State.loadImageBytes (s : State) (b : List Byte) : Loaded :=
  let p := partsOfImage b
  if p.badHeader then .refused 1
  else if p.badMeasure then .refused 2
  else if s.lacks p then .refused 3
  else if p.outOfBounds then .refused 4
  else if s.unresolved p then .refused 5
  else s.loadParts p

end Sys2Proof.Machine
end

