-- ==== Sys2Proof/Machine/Syscalls.lean ====
section
/-! DEFINITION. The system calls of a control program (17 R373, R374). Each is a fence of its memory accesses,
which a control core performs one by one; the result stands in `State.result`. -/

namespace Sys2Proof.Machine

/-- The result of a call. -/
def State.ret (s : State) (r : Int) : State := { s with result := r }

/-- The tenant of the calling program. -/
def State.callerTenant (s : State) : Option Nat := s.tenantOf s.caller

/-- The launch whose context a call names: the newest. -/
def State.launchOfCtx (s : State) (ctx : Nat) : Option (Nat × Launch) := s.launches.reverse.find? fun (_, l) => l.ctx == ctx

/-- Whether a queue is the caller's tenant's. -/
def State.ownsQueue (s : State) (q : Nat) : Bool := s.callerTenant == some (s.qTenant q)

/-- Why a call on a queue is refused: no such queue, none open, another tenant's. -/
def State.queueError (s : State) (q : Nat) : Option Int :=
  if 64 ≤ q then some (-1) else if !s.qEn q then some (-4) else if !s.ownsQueue q then some (-3) else none

/-- A call on a context's launch. -/
def State.onLaunch (s : State) (ctx : Nat) (f : Nat → Launch → State) : State :=
  match s.launchOfCtx ctx with
  | none => s.ret (-4)
  | some (id, l) => if s.ownsQueue l.q then f id l else s.ret (-3)

/-! ### Launches -/

/-- A launch cancelled (R374): a waiting one ends at once, with the record its launch record asks for (R363); of a running one
nothing starts any more, and HALT acts on it on every core (16 R349). -/
def State.cancel (s : State) (id : Nat) : State :=
  let l := s.la id
  if 2 ≤ l.status ∨ l.ending ∨ l.cancelled then s
  else if l.status = 1 then
    { s with slices := s.slices.filter fun (_, x) => x.ctx != l.ctx
             crews := s.crews.filter fun (_, c) => c.launch != id || c.started }.setLa id fun x => { x with cancelled := true, hold := false }
  else
    (s.setLa id fun x => { x with rcd := s.recordOf id l, lrec := BitVec.ofNat 64 (at64 (s.coh (s.entryAddr l.q l.n) 8) 0 8) }).endLaunch id 6 (some 0)

/-- A cancelled launch one turn on: its threads are asked to stop, and once every one has come to a point of 01 R28 the context
is halted on every core and STATUS 6 written. -/
def State.cancelStep (s : State) (id : Nat) : State :=
  let l := s.la id
  if !l.cancelled || l.ending || decide (2 ≤ l.status) then s
  else
    let s := (((s.ctxCrews l.ctx none).map fun c => (s.cr c).core).eraseDups).foldl (fun s c => s.askHalt l.ctx c) s
    let s := s.takePreempts
    if (s.resident l.ctx none).any fun k => !(s.th k).parked then s
    else ((s.haltCtx l.ctx none).setLa id fun x => { x with pscr := [], bound := [], hcrewId := none, cancelled := false }).endLaunch id 6 (some 0)

/-- Whether stores that the calling program's control core has made still wait: a call begins behind them (R373). -/
def State.storesWait (s : State) : Bool :=
  s.posted.any fun p => decide (0x480 ≤ p.master) && decide (p.master < 0x4A0) && p.master % 16 == s.caller && !p.bytes.isEmpty

/-- LAUNCH_CANCEL, R374: one that has ended is not found. -/
def State.launchCancel (s : State) (ctx : Nat) : State :=
  s.onLaunch ctx fun id l => if 2 ≤ l.status ∨ l.ending then s.ret (-4) else (s.cancel id).ret 0

/-- SYSCALL_EXIT, R374: the running launches of the program are cancelled; its waiting calls are gone. -/
def State.exitProgram (s : State) (code : Nat) : State :=
  { (s.calls.filter fun id => (s.la id).status == 1).foldl State.cancel s with calls := [], waiting := [] }.ret code

/-- LAUNCH_SUBMIT, R374: an entry of R358 and the new TAIL; the context id. -/
def State.submit (s : State) (q rcd dev : Nat) : State :=
  match s.queueError q with
  | some e => s.ret e
  | none =>
      let n := s.qTail q
      let ring := 2 ^ (field (s.reg (0x400 + 4 * q)) 19 16 + 4)
      if 2 ^ 12 ≤ dev ∨ 2 ^ 64 ≤ rcd then s.ret (-1)
      else if ring ≤ (n + 2 ^ 32 - s.qHead q) % 2 ^ 32 then s.ret (-5)
      else
        let m := s.makeLaunch q n
        let ctx := (m.2.la m.1).ctx
        let s := m.2.homeStore (s.entryAddr q n) (leBytes 8 rcd ++ leBytes 2 0 ++ leBytes 2 dev ++ leBytes 4 ctx)
        let s := s.setReg (0x402 + 4 * q) (BitVec.ofNat 64 ((n + 1) % 2 ^ 32))
        { s with calls := s.calls ++ [m.1] }.ret ctx

/-- LAUNCH_STATUS, R374. -/
def State.launchStatus (s : State) (ctx : Nat) : State := s.onLaunch ctx fun _ l => s.ret l.status

/-- LAUNCH_RESIZE, R365, R374. -/
def State.launchResize (s : State) (ctx dies : Nat) : State :=
  s.onLaunch ctx fun id _ =>
    if 1 ≤ dies ∧ dies ≤ 4 then (s.setLa id fun x => { x with target := dies, resized := true }).ret 0 else s.ret (-1)

/-! ### Images -/

/-- IMAGE_LOAD, R193. -/
def State.imageLoad (s : State) (addr size : Nat) : State :=
  match s.osRead addr size with
  | none => s.ret (-1)
  | some b => match s.loadImageBytes b with
    | .refused n => s.ret (-(16 + (n : Int)))
    | .noRoom => s.ret (-2)
    | .ok h s => s.ret h

/-- Records of the launches that are queued or running. -/
def State.activeRecords (s : State) : List Rcd := (s.launches.filter fun (_, l) => decide (l.status ≤ 1)).map fun (id, l) => s.recordOf id l

/-- IMAGE_UNLOAD, R374. -/
def State.imageUnload (s : State) (hd : Nat) : State :=
  match Tab.find hd s.containers with
  | none => s.ret (-4)
  | some c =>
      if s.activeRecords.any fun r => field r.entry 63 48 == 0 && field r.entry 47 32 == hd then s.ret (-5)
      else { c.blocks.foldl State.giveBack s with containers := Tab.drop hd s.containers }.ret 0

/-- FUNC_REF, R190, R374. -/
def State.funcRef (s : State) (hd name : Nat) : State :=
  match Tab.find hd s.containers, s.osName name 4096 with
    | none, _ => s.ret (-4)
    | _, none => s.ret (-1)
    | some c, some n => match c.kernels.find? fun x => x.1 == n with
      | some (_, i) => s.ret (hd * 2 ^ 32 + i)
      | none => s.ret (-4)

/-! ### Memory -/

/-- Plains of the caller's tenant. -/
def State.callerPlains (s : State) : List Nat := (List.range 16).filter fun q => (s.tenantOf q).isSome && s.tenantOf q == s.callerTenant

/-- MEM_ALLOC, R374. -/
def State.memAlloc (s : State) (size flags : Nat) : State :=
  let aff := flags % 32
  let q := if aff = 0 then s.caller else aff - 1
  if size = 0 ∨ 2 ^ 56 ≤ size ∨ 16 < aff ∨ (flags ≠ aff ∧ flags ≠ aff + 2 ^ 8) then s.ret (-1)
  else if !s.callerPlains.contains q then s.ret (-3)
  else
    let copies := if flags.testBit 8 then (s.callerPlains.filter (· != q)).take 3 else []
    match s.alloc q (pagesFor size) 1 copies true false with
    | some (va, s) => s.ret va
    | none => s.ret (-2)

/-- MEM_FREE, R374. -/
def State.memFree (s : State) (addr : Nat) : State :=
  match s.allocs.find? fun (v, _) => v * pageBytes == addr with
  | none => s.ret (-4)
  | some (_, n) =>
      if s.activeRecords.any fun r => r.ranges.any fun x => decide (x.base < addr + n * pageBytes) && decide (addr < x.base + x.len) then s.ret (-5)
      else (s.giveBack addr).ret 0

/-! ### Queues -/

/-- QUEUE_OPEN, R374: a ring of 4,096 entries, one page. -/
def State.queueOpen (s : State) (mode prio : Nat) : State :=
  match s.callerTenant with
  | none => s.ret (-3)
  | some t =>
      if 1 < mode ∨ 7 < prio then s.ret (-1)
      else match (List.range 64).find? fun q => !s.qEn q, s.newFrames s.caller 1 with
        | some q, some (f, s) =>
            let s := s.setReg (0x401 + 4 * q) (BitVec.ofNat 64 (f * pageBytes))
            let s := s.setReg (0x402 + 4 * q) (s.reg (0x403 + 4 * q))
            (s.setReg (0x400 + 4 * q) (BitVec.ofNat 64 (2 ^ 31 + mode * 2 ^ 30 + prio * 2 ^ 26 + 8 * 2 ^ 16 + t % 2 ^ 16))).ret q
        | _, _ => s.ret (-2)

/-- What a waiting close comes to (R374): −5 once STOP is set, done once the queue is empty. -/
def State.closeQueue (s : State) (q : Nat) : Option State :=
  if s.qStop q then some (s.ret (-5))
  else if s.qHead q = s.qTail q then some ((s.setReg (0x400 + 4 * q) (s.reg (0x400 + 4 * q) &&& ~~~0x80000000)).ret 0)
  else none

/-- QUEUE_CLOSE, R374: it waits without bound. -/
def State.queueClose (s : State) (q : Nat) : State :=
  match s.queueError q with
    | some e => s.ret e
    | none => (s.closeQueue q).getD { s with waiting := s.waiting ++ [.close q] }

/-- QUEUE_RESTART, R374. -/
def State.queueRestart (s : State) (q : Nat) : State :=
  match s.queueError q with
    | some e => s.ret e
    | none => (s.setReg (0x400 + 4 * q) (s.reg (0x400 + 4 * q) &&& ~~~0x20000000)).ret 0

/-! ### Event queues -/

/-- EVQ_OPEN, R374: a descriptor of R371 for the caller's tenant, its table made where the plain has none. -/
def State.evqOpen (s : State) (plain entries : Nat) : State :=
  match s.callerTenant with
  | none => s.ret (-3)
  | some t =>
      if 16 ≤ plain ∨ !((List.range 13).any fun i => 2 ^ (i + 4) == entries) then s.ret (-1)
      else if s.tenantOf plain ≠ some t then s.ret (-3)
      else
        let table : Option State := if s.reg (0x500 + plain) ≠ 0 then some s
          else (s.newFrames plain 1).map fun (f, s) => (s.homeStore (f * pageBytes) (List.replicate 2048 0)).setReg (0x500 + plain) (BitVec.ofNat 64 (f * pageBytes))
        match table.bind fun s => (s.newFrames plain (pagesFor (16 * entries))) with
        | none => s.ret (-2)
        | some (f, s) => match (List.range 64).find? fun e => s.memNat (s.eqDesc (plain * 64 + e) + 0x0E) 1 % 2 == 0 with
          | none => s.ret (-2)
          | some e =>
              let q := plain * 64 + e
              (s.homeStore (s.eqDesc q) (leBytes 8 (f * pageBytes) ++ leBytes 4 entries ++ leBytes 2 t ++ leBytes 1 1 ++ leBytes 1 0 ++ leBytes 16 0)).ret q

/-- Records copied to the buffer and consumed, `n` of them from record `i` on; none where the buffer is not
mapped. -/
def State.readRecords (s : State) (d buf i : Nat) : Nat → Option State
  | 0 => some s
  | n + 1 =>
      let rec_ := s.coh (s.memNat d 8 + 16 * (i % s.memNat (d + 8) 4)) 16
      (s.osWrite buf rec_).bind fun s => s.readRecords d (buf + 16) (i + 1) n

/-- What a waiting read comes to: records, or 0 once its time is out. -/
def State.readQueue (s : State) (q buf max due : Nat) : Option State :=
  let d := s.eqDesc q
  let h := s.memNat (d + 0x18) 8
  let n := (s.memNat (d + 0x10) 8 + 2 ^ 64 - h) % 2 ^ 64
  let n := if n < max then n else max
  if 0 < n then
    some (match s.readRecords d buf h n with
      | some s => (s.homeStore (d + 0x18) (leBytes 8 (h + n))).ret n
      | none => s.ret (-1))
  else if due ≤ s.ns then some (s.ret 0)
  else none

/-- EVQ_READ, R374. -/
def State.evqRead (s : State) (qw buf max timeout : Nat) : State :=
    if 1024 ≤ qw ∨ max = 0 then s.ret (-1)
    else if !s.eqValid qw then s.ret (-4)
    else if s.callerTenant ≠ some (s.memNat (s.eqDesc qw + 0xC) 2) then s.ret (-3)
    else
      let due := s.ns + 1000 * timeout
      (s.readQueue qw buf max due).getD { s with waiting := s.waiting ++ [.read qw buf max due] }

/-! ### The calls -/

/-- What a call does (R374); TIME_GET gives the job's time, as GETCLK selector 1 reads it. -/
def State.doCall (s : State) : SysCall → State
  | .launchCancel ctx => s.launchCancel ctx
  | .exit code => s.exitProgram code
  | .launchSubmit q rcd dev => s.submit q rcd dev
  | .launchStatus ctx => s.launchStatus ctx
  | .launchResize ctx dies => s.launchResize ctx dies
  | .imageLoad addr size => s.imageLoad addr size
  | .imageUnload hd => s.imageUnload hd
  | .funcRef hd name => s.funcRef hd name
  | .memAlloc size flags => s.memAlloc size flags
  | .memFree addr => s.memFree addr
  | .queueOpen mode prio => s.queueOpen mode prio
  | .queueClose q => s.queueClose q
  | .queueRestart q => s.queueRestart q
  | .evqOpen plain entries => s.evqOpen plain entries
  | .evqRead q buf max timeout => s.evqRead q buf max timeout
  | .timeGet => s.ret s.ns

/-- A call: at once, or when the stores before it have been performed (R373). -/
def State.call (s : State) (c : SysCall) : State :=
  if s.storesWait then { s with waiting := s.waiting ++ [.fenced c] } else s.doCall c

/-- LAUNCH_CANCEL. -/
def execLaunchCancel (ctx : Nat) (s : State) : Host.Outcome State Fault Refusal := .next (s.call (.launchCancel ctx))

/-- EXIT. -/
def execSyscallExit (code : Nat) (s : State) : Host.Outcome State Fault Refusal := .next (s.call (.exit code))

/-- LAUNCH_SUBMIT. -/
def execLaunchSubmit (q rcd dev : Nat) (s : State) : Host.Outcome State Fault Refusal := .next (s.call (.launchSubmit q rcd dev))

/-- LAUNCH_STATUS. -/
def execLaunchStatus (ctx : Nat) (s : State) : Host.Outcome State Fault Refusal := .next (s.call (.launchStatus ctx))

/-- LAUNCH_RESIZE. -/
def execLaunchResize (ctx dies : Nat) (s : State) : Host.Outcome State Fault Refusal := .next (s.call (.launchResize ctx dies))

/-- IMAGE_LOAD. -/
def execImageLoad (addr size : Nat) (s : State) : Host.Outcome State Fault Refusal := .next (s.call (.imageLoad addr size))

/-- IMAGE_UNLOAD. -/
def execImageUnload (hd : Nat) (s : State) : Host.Outcome State Fault Refusal := .next (s.call (.imageUnload hd))

/-- FUNC_REF. -/
def execFuncRef (hd name : Nat) (s : State) : Host.Outcome State Fault Refusal := .next (s.call (.funcRef hd name))

/-- MEM_ALLOC. -/
def execMemAlloc (size flags : Nat) (s : State) : Host.Outcome State Fault Refusal := .next (s.call (.memAlloc size flags))

/-- MEM_FREE. -/
def execMemFree (addr : Nat) (s : State) : Host.Outcome State Fault Refusal := .next (s.call (.memFree addr))

/-- QUEUE_OPEN. -/
def execQueueOpen (mode prio : Nat) (s : State) : Host.Outcome State Fault Refusal := .next (s.call (.queueOpen mode prio))

/-- QUEUE_CLOSE. -/
def execQueueClose (q : Nat) (s : State) : Host.Outcome State Fault Refusal := .next (s.call (.queueClose q))

/-- QUEUE_RESTART. -/
def execQueueRestart (q : Nat) (s : State) : Host.Outcome State Fault Refusal := .next (s.call (.queueRestart q))

/-- EVQ_OPEN. -/
def execEvqOpen (plain entries : Nat) (s : State) : Host.Outcome State Fault Refusal := .next (s.call (.evqOpen plain entries))

/-- EVQ_READ. -/
def execEvqRead (qw buf max timeout : Nat) (s : State) : Host.Outcome State Fault Refusal := .next (s.call (.evqRead qw buf max timeout))

/-- TIME_GET. -/
def execTimeGet (s : State) : Host.Outcome State Fault Refusal := .next (s.call .timeGet)

/-- Calls that wait, tried again. -/
def State.serveCalls (s : State) : State :=
  s.waiting.foldl (fun s c =>
    let drop (s : State) : State := { s with waiting := s.waiting.filter (· != c) }
    match c with
    | .close q => ((s.closeQueue q).map drop).getD s
    | .read q buf max due => ((s.readQueue q buf max due).map drop).getD s
    | .fenced c => if s.storesWait then s else (drop s).doCall c) s

end Sys2Proof.Machine
end

