-- ==== Sys2Proof/Machine/Upset.lean ====
section
/-! DEFINITION. Errors of the hardware that its checks find, and what follows from them (06 R157, 20 R397, 22 R429, R433 to R435,
R438): replays, residue mismatches, ECC. Which come, and when, is the agenda's (log entry 26). -/

namespace Sys2Proof.Machine

/-- An event of a core's own. -/
def State.logCore (s : State) (core bank sev type : Nat) (ctx : Option Nat) (addr : Option Nat := none) : State :=
  s.logMc { bank := bank, sev := sev, type := type, skind := 0, sidx := core, ctx := ctx, addr := addr.map (BitVec.ofNat 64) }

/-- An event of a cluster's engine, of one of its tiles or channels. -/
def State.logCluster (s : State) (n bank sev type : Nat) (ctx : Option Nat) : State :=
  s.logMc { bank := bank, sev := sev, type := type, skind := 1, sidx := n, ctx := ctx }

/-- An event of a plain's HBM, by the address. -/
def State.logHbm (s : State) (pa sev type : Nat) (ctx : Option Nat) : State :=
  s.logMc { bank := 5, sev := sev, type := type, skind := 2, sidx := pa / 2 ^ 36, ctx := ctx, addr := some (BitVec.ofNat 64 pa) }

/-- The context that data of a home belongs to, as the hardware tells it: a free value (log entry 26). -/
def State.dataCtx (s : State) : Option Nat × State :=
  let w := (Config.freeDWord s.free).toNat
  (if w.testBit 16 then some (w % 2 ^ 16) else none, { s with free := s.free + 1 })

/-- The context that data in a core belongs to: the one that has crews there, and a free value where there is none or more
than one. -/
def State.coreCtx (s : State) (core : Nat) : Option Nat × State :=
  match ((s.coreCrews core).map fun (_, c) => c.ctx).eraseDups with
  | [c] => (some c, s)
  | _ => s.dataCtx

/-- A 32-byte sector poisoned (22 R434). -/
def State.poisonAt (s : State) (pa : Nat) : State :=
  if s.poison.contains (sectorOf pa) then s else { s with poison := s.poison ++ [sectorOf pa] }

/-! ### Residue, R433 -/

/-- Instructions that the multipliers and adders of the vector and FP64 pipes execute (log entry 26). -/
def checkedByResidue : Instr → Bool
  | .iadd _ _ _ _ | .iaddImm _ _ _ _ | .isub _ _ _ _ | .isubImm _ _ _ _ | .ineg _ _ _ | .iabs _ _ _ => true
  | .imul _ _ _ _ | .imulImm _ _ _ _ | .imulhi _ _ _ _ | .imulhiImm _ _ _ _ | .imad _ _ _ _ _ | .imadw _ _ _ _ _ => true
  | .idiv _ _ _ _ | .idivImm _ _ _ _ | .irem _ _ _ _ | .iremImm _ _ _ _ => true
  | .isad _ _ _ _ _ | .idp4 _ _ _ _ _ | .idp2 _ _ _ _ _ | .lea _ _ _ _ _ | .leaw _ _ _ _ _ => true
  | .fadd _ _ _ _ | .faddImm _ _ _ _ | .fsub _ _ _ _ | .fsubImm _ _ _ _ | .fmul _ _ _ _ | .fmulImm _ _ _ _ | .ffma _ _ _ _ _ => true
  | .fdiv _ _ _ _ | .fsqrt _ _ _ | .frcp _ _ _ | .frsq _ _ _ | .fexp2 _ _ _ | .flog2 _ _ _ | .fsin _ _ _ | .fcos _ _ _ | .ftanh _ _ _ => true
  | .hadd2 _ _ _ _ | .hadd2Imm _ _ _ _ | .hmul2 _ _ _ _ | .hmul2Imm _ _ _ _ | .hfma2 _ _ _ _ _ => true
  | .mredAdd _ _ _ _ _ | .scanAdd _ _ _ _ | .redxAdd _ _ _ _ => true
  | .afadd _ _ _ _ | .afsub _ _ _ _ | .afscl _ _ _ _ | .afmul _ _ _ _ | .afsqr _ _ _ | .afrec _ _ _ | .afcond _ _ _ _ _ _ => true
  | _ => false

/-- The thread for which a lane of a partition next executes an instruction that residues check. -/
def State.laneRuns (s : State) (part lane : Nat) : Option Nat :=
  (s.convoys.filter fun c => c.part == part && c.pc != c.hdr).findSome? fun c =>
    c.mem.find? fun k => laneOf k == lane && (s.th k).pc == c.pc && (match (s.peek k c.pc).map decodeWord with
      | some (.ok i) => checkedByResidue i
      | _ => false)

/-- A residue mismatch of a lane (22 R433): the instruction is executed again before any result is written, which is logged. A
second mismatch raises the contained machine check on the lane's thread. -/
def State.laneUpset (s : State) (part lane : Nat) (twice : Bool) : State :=
  match s.laneRuns part lane with
  | none => s
  | some k =>
      let ctx := some (s.ctxTh k)
      let s := s.logCore (part / 4) 0 1 0x01 ctx
      if twice then (s.logCore (part / 4) 0 2 0x02 ctx).trap k badRead else s

/-- The same of the pass that a matrix engine runs: a second mismatch kills its context. -/
def State.passUpset (s : State) (n : Nat) (twice : Bool) : State :=
  match (s.cl n).table.find? fun j => j.running with
  | none => s
  | some j =>
      let s := s.logCluster n 6 1 0x01 (some j.ctx)
      if twice then (s.logCluster n 6 2 0x02 (some j.ctx)).engKill (jobEng n j) n else s

/-- The same of the record that a channel has in work; its bank has no residue event (22 R438), so that the kill is what is
logged. -/
def State.recordUpset (s : State) (c ch : Nat) (twice : Bool) : State :=
  if twice && (s.chan c ch).flight.isSome then s.engKill (s.chanEng c ch) (clusterOfCore (s.cr c).core) else s

/-! ### ECC, R434: one bit is corrected, two are handled by where they lie -/

/-- A row-register's entry or descriptor: two bits poison their lanes. -/
def State.entryUpset (s : State) (r g : Nat) (lanes : Word) (twice : Bool) : State :=
  match s.rreg r g with
  | none => s
  | some x =>
      let core := s.partRow r / 4
      let ctx := some (s.cr (r / 128)).ctx
      if x.form = .spilled ∧ x.lmask = 0 then s
      else if twice then
        (s.setRw r fun y => { y with regs := Tab.modify g (fun z => { z with bad := z.bad ||| lanes }) y.regs }).logCore core 1 2 0x11 ctx
      else s.logCore core 1 1 0x10 ctx

/-- A dirty line, in the L1 that owns it, else in its home slice: two bits poison their sector. -/
def State.sectorUpset (s : State) (pa : Nat) (twice : Bool) : State :=
  if !s.paOk pa then s
  else
    let sev := if twice then 2 else 1
    let type := if twice then 0x11 else 0x10
    let s := match s.ownerOf (lineOf pa) with
      | some (c, _) => let x := s.coreCtx c; x.2.logCore c 2 sev type x.1 (some pa)
      | none => let x := s.dataCtx; x.2.logHome pa sev type x.1
    if twice then s.poisonAt pa else s

/-- A clean line of an L2 slice or of a stack cache: fetched again. -/
def State.cleanHomeUpset (s : State) (pa : Nat) (stack : Bool) : State :=
  if !s.paOk pa then s
  else
    let x := s.dataCtx
    if stack then x.2.logHbm pa 1 0x10 x.1 else x.2.logHome pa 1 0x10 x.1

/-- A sector of HBM: what it holds of a line that an L1 owns is not read before that is written back. -/
def State.hbmUpset (s : State) (pa : Nat) (twice : Bool) (fixed : Nat) : State :=
  if !s.paOk pa then s
  else
    let x := s.dataCtx
    let s := x.2.logHbm pa (if twice then 2 else 1) (if twice then 0x11 else fixed) x.1
    if twice && (s.ownerOf (lineOf pa)).isNone then s.poisonAt pa else s

/-- A scratch word: two bits poison its 32-byte sector. The address is the offset of the access forms (04 R105). -/
def State.scratchUpset (s : State) (w : Where) (twice : Bool) : State :=
  let sev := if twice then 2 else 1
  let type := if twice then 0x11 else 0x10
  let mark (w : Where) : State := if twice && !s.scrPoison.contains w then { s with scrPoison := s.scrPoison ++ [w] } else s
  match w with
  | .crewScratch c o =>
      if (Tab.find c s.crews).isNone ∨ s.slim c ≤ o then s
      else (mark (.crewScratch c (o / 32 * 32))).logCore (s.cr c).core 2 sev type (some (s.cr c).ctx) (some o)
  | .plainScratch l q o =>
      if (Tab.find l s.launches).isNone ∨ (s.la l).rcd.pscr ≤ o then s
      else (mark (.plainScratch l q (o / 32 * 32))).logMc
        { bank := 4, sev := sev, type := type, skind := 2, sidx := q, ctx := some (s.la l).ctx, addr := some (BitVec.ofNat 64 o) }
  | _ => s

/-- The bytes that a lease has shadowed: two bits poison their sector, which the line has again where the lease is broken. -/
def State.shadowUpset (s : State) (pa : Nat) (twice : Bool) : State :=
  match s.leaseHolder (lineOf pa) with
  | none => s
  | some k =>
      let s := s.logCore (s.coreTh k) 2 (if twice then 2 else 1) (if twice then 0x11 else 0x10) (some (s.ctxTh k)) (some pa)
      let mark (x : Lease) : Lease :=
        if x.line = lineOf pa ∧ x.bad.contains (sectorOf pa) = false then { x with bad := x.bad ++ [sectorOf pa] } else x
      if twice then s.setTh k fun t => { t with leases := t.leases.map mark } else s

/-- What a core holds of a clean line, as copy, translation or code, with its captured stretches: dropped, to be fetched again. -/
def State.cleanUpset (s : State) (core line : Nat) : State :=
  let x := s.coreCtx core
  ((List.range 4).foldl (fun s i => s.setPt (4 * core + i) fun p => { p with captured := [] })
    (x.2.setCo core fun c =>
      { c with copies := c.copies.filter fun y => y.line != line, tlb := []
               icache := c.icache.filter fun y => lineOf y.1 != line })).logCore core 2 1 0x10 x.1 (some line)

/-- A tile that a context has written: two bits, which only an engine reads, kill that context as a poisoned sector read by one
does (log entry 26). -/
def State.tileUpset (s : State) (n t : Nat) (twice : Bool) : State :=
  match Tab.find t (s.cl n).tileCtx with
  | none => s
  | some ctx =>
      if twice then (s.logCluster n 6 2 0x11 (some ctx)).kill ctx 0x30 0 0 0 1 n else s.logCluster n 6 1 0x10 (some ctx)

/-- The buffer of a channel with a record in work: the same. -/
def State.channelUpset (s : State) (c ch : Nat) (twice : Bool) : State :=
  let n := clusterOfCore (s.cr c).core
  if (s.chan c ch).flight.isNone then s
  else if twice then (s.logCluster n 7 2 0x11 (some (s.cr c).ctx)).engKill (s.chanEng c ch) n
  else s.logCluster n 7 1 0x10 (some (s.cr c).ctx)

/-- HBM_SCRUB: a single-bit error corrected as the line is read, or a double-bit one. -/
def execHbmScrub (addr : Nat) (bad : Bool) (s : State) : Host.Outcome State Fault Refusal := .next (s.hbmUpset addr bad 0x15)

/-- An error found. -/
def State.upset (s : State) : Upset → State
  | .fetch core => let x := s.coreCtx core; x.2.logCore core 2 1 0x12 x.1
  | .replay core => s.count core 2
  | .lane p l twice => s.laneUpset p l twice
  | .pass n twice => s.passUpset n twice
  | .record c ch twice => s.recordUpset c ch twice
  | .clean core line => s.cleanUpset core line
  | .cleanHome pa stack => s.cleanHomeUpset pa stack
  | .shadow pa twice => s.shadowUpset pa twice
  | .hbm pa twice => s.hbmUpset pa twice 0x10
  | .tile n t twice => s.tileUpset n t twice
  | .channel c ch twice => s.channelUpset c ch twice
  | .entry r g lanes twice => s.entryUpset r g lanes twice
  | .sector pa twice => s.sectorUpset pa twice
  | .scratch w twice => s.scratchUpset w twice
  | .directory pa => let x := s.dataCtx; (x.2.logHome pa 3 0x14 x.1).fatalError
  | .network lost =>
      let s := s.logMc { bank := 8, sev := if lost then 3 else 1, type := if lost then 0x14 else 0x16, skind := 5, sidx := 0 }
      if lost then s.fatalError else s
  | .link port again => s.linkError port again

end Sys2Proof.Machine
end

