-- ==== Sys2Proof/Machine/Dispatch.lean ====
section
/-! DEFINITION. Every instruction and event to its meaning. -/

namespace Sys2Proof.Machine

def exec (i : Instr) (s : State) : Host.Outcome State Fault Refusal :=
  match i with
  | .strh wait sa sb len pri => Sys2Proof.Machine.execStrh wait sa sb len pri s
  | .nop h => Sys2Proof.Machine.execNop h s
  | .bra h x => Sys2Proof.Machine.execBra h x s
  | .brx h a => Sys2Proof.Machine.execBrx h a s
  | .call h d x => Sys2Proof.Machine.execCall h d x s
  | .callx h d a => Sys2Proof.Machine.execCallx h d a s
  | .ret h a => Sys2Proof.Machine.execRet h a s
  | .loop h a x => Sys2Proof.Machine.execLoop h a x s
  | .loopx h a x => Sys2Proof.Machine.execLoopx h a x s
  | .lbrk h => Sys2Proof.Machine.execLbrk h s
  | .exit h => Sys2Proof.Machine.execExit h s
  | .yield h => Sys2Proof.Machine.execYield h s
  | .phase h => Sys2Proof.Machine.execPhase h s
  | .trap h code => Sys2Proof.Machine.execTrap h code s
  | .tret h => Sys2Proof.Machine.execTret h s
  | .rpt h cnt dstep astep bstep => Sys2Proof.Machine.execRpt h cnt dstep astep bstep s
  | .waitf h mask => Sys2Proof.Machine.execWaitf h mask s
  | .setmode h value mask => Sys2Proof.Machine.execSetmode h value mask s
  | .setperf h a => Sys2Proof.Machine.execSetperf h a s
  | .getclk h d a => Sys2Proof.Machine.execGetclk h d a s
  | .iadd h d a b => Sys2Proof.Machine.execIadd h d a b s
  | .iaddImm h d a x => Sys2Proof.Machine.execIaddImm h d a x s
  | .isub h d a b => Sys2Proof.Machine.execIsub h d a b s
  | .isubImm h d a x => Sys2Proof.Machine.execIsubImm h d a x s
  | .ineg h d a => Sys2Proof.Machine.execIneg h d a s
  | .iabs h d a => Sys2Proof.Machine.execIabs h d a s
  | .imul h d a b => Sys2Proof.Machine.execImul h d a b s
  | .imulImm h d a x => Sys2Proof.Machine.execImulImm h d a x s
  | .imulhi h d a b => Sys2Proof.Machine.execImulhi h d a b s
  | .imulhiImm h d a x => Sys2Proof.Machine.execImulhiImm h d a x s
  | .imad h d a b c => Sys2Proof.Machine.execImad h d a b c s
  | .imadw h d a b c => Sys2Proof.Machine.execImadw h d a b c s
  | .idiv h d a b => Sys2Proof.Machine.execIdiv h d a b s
  | .idivImm h d a x => Sys2Proof.Machine.execIdivImm h d a x s
  | .irem h d a b => Sys2Proof.Machine.execIrem h d a b s
  | .iremImm h d a x => Sys2Proof.Machine.execIremImm h d a x s
  | .imin h d a b => Sys2Proof.Machine.execImin h d a b s
  | .iminImm h d a x => Sys2Proof.Machine.execIminImm h d a x s
  | .imax h d a b => Sys2Proof.Machine.execImax h d a b s
  | .imaxImm h d a x => Sys2Proof.Machine.execImaxImm h d a x s
  | .isad h d a b c => Sys2Proof.Machine.execIsad h d a b c s
  | .idp4 h d a b c => Sys2Proof.Machine.execIdp4 h d a b c s
  | .idp2 h d a b c => Sys2Proof.Machine.execIdp2 h d a b c s
  | .lea h d a b sh => Sys2Proof.Machine.execLea h d a b sh s
  | .leaw h d a b sh => Sys2Proof.Machine.execLeaw h d a b sh s
  | .and h d a b => Sys2Proof.Machine.execAnd h d a b s
  | .andImm h d a x => Sys2Proof.Machine.execAndImm h d a x s
  | .or h d a b => Sys2Proof.Machine.execOr h d a b s
  | .orImm h d a x => Sys2Proof.Machine.execOrImm h d a x s
  | .xor h d a b => Sys2Proof.Machine.execXor h d a b s
  | .xorImm h d a x => Sys2Proof.Machine.execXorImm h d a x s
  | .andn h d a b => Sys2Proof.Machine.execAndn h d a b s
  | .andnImm h d a x => Sys2Proof.Machine.execAndnImm h d a x s
  | .not h d a => Sys2Proof.Machine.execNot h d a s
  | .bool3 h d a b c tbl => Sys2Proof.Machine.execBool3 h d a b c tbl s
  | .shl h d a b => Sys2Proof.Machine.execShl h d a b s
  | .shlImm h d a x => Sys2Proof.Machine.execShlImm h d a x s
  | .shr h d a b => Sys2Proof.Machine.execShr h d a b s
  | .shrImm h d a x => Sys2Proof.Machine.execShrImm h d a x s
  | .sar h d a b => Sys2Proof.Machine.execSar h d a b s
  | .sarImm h d a x => Sys2Proof.Machine.execSarImm h d a x s
  | .rot h d a b => Sys2Proof.Machine.execRot h d a b s
  | .rotImm h d a x => Sys2Proof.Machine.execRotImm h d a x s
  | .xshr h d a b c => Sys2Proof.Machine.execXshr h d a b c s
  | .bfx h d a pos len => Sys2Proof.Machine.execBfx h d a pos len s
  | .bfi h d a b pos len => Sys2Proof.Machine.execBfi h d a b pos len s
  | .brev h d a => Sys2Proof.Machine.execBrev h d a s
  | .popc h d a => Sys2Proof.Machine.execPopc h d a s
  | .clz h d a => Sys2Proof.Machine.execClz h d a s
  | .ctz h d a => Sys2Proof.Machine.execCtz h d a s
  | .bpick h d a b codes => Sys2Proof.Machine.execBpick h d a b codes s
  | .icmp h d a b cmp join => Sys2Proof.Machine.execIcmp h d a b cmp join s
  | .icmpv h d a b cmp join => Sys2Proof.Machine.execIcmpv h d a b cmp join s
  | .fcmp h d a b cmp join => Sys2Proof.Machine.execFcmp h d a b cmp join s
  | .fcmpv h d a b cmp join => Sys2Proof.Machine.execFcmpv h d a b cmp join s
  | .pbool3 h d a b c tbl => Sys2Proof.Machine.execPbool3 h d a b c tbl s
  | .pmovGet h d => Sys2Proof.Machine.execPmovGet h d s
  | .pmovSet h a mask => Sys2Proof.Machine.execPmovSet h a mask s
  | .sel h d a b pc ng => Sys2Proof.Machine.execSel h d a b pc ng s
  | .mov h d a => Sys2Proof.Machine.execMov h d a s
  | .movi h d x => Sys2Proof.Machine.execMovi h d x s
  | .movw h d a => Sys2Proof.Machine.execMovw h d a s
  | .fadd h d a b => Sys2Proof.Machine.execFadd h d a b s
  | .faddImm h d a x => Sys2Proof.Machine.execFaddImm h d a x s
  | .fsub h d a b => Sys2Proof.Machine.execFsub h d a b s
  | .fsubImm h d a x => Sys2Proof.Machine.execFsubImm h d a x s
  | .fmul h d a b => Sys2Proof.Machine.execFmul h d a b s
  | .fmulImm h d a x => Sys2Proof.Machine.execFmulImm h d a x s
  | .ffma h d a b c => Sys2Proof.Machine.execFfma h d a b c s
  | .fdiv h d a b => Sys2Proof.Machine.execFdiv h d a b s
  | .fsqrt h d a => Sys2Proof.Machine.execFsqrt h d a s
  | .frcp h d a => Sys2Proof.Machine.execFrcp h d a s
  | .frsq h d a => Sys2Proof.Machine.execFrsq h d a s
  | .fmin h d a b => Sys2Proof.Machine.execFmin h d a b s
  | .fminImm h d a x => Sys2Proof.Machine.execFminImm h d a x s
  | .fmax h d a b => Sys2Proof.Machine.execFmax h d a b s
  | .fmaxImm h d a x => Sys2Proof.Machine.execFmaxImm h d a x s
  | .fabs h d a => Sys2Proof.Machine.execFabs h d a s
  | .fneg h d a => Sys2Proof.Machine.execFneg h d a s
  | .fcpys h d a b => Sys2Proof.Machine.execFcpys h d a b s
  | .fclass h d a mask => Sys2Proof.Machine.execFclass h d a mask s
  | .frnd h d a => Sys2Proof.Machine.execFrnd h d a s
  | .ffrac h d a => Sys2Proof.Machine.execFfrac h d a s
  | .fexp2 h d a => Sys2Proof.Machine.execFexp2 h d a s
  | .flog2 h d a => Sys2Proof.Machine.execFlog2 h d a s
  | .fsin h d a => Sys2Proof.Machine.execFsin h d a s
  | .fcos h d a => Sys2Proof.Machine.execFcos h d a s
  | .ftanh h d a => Sys2Proof.Machine.execFtanh h d a s
  | .fscale h d a b => Sys2Proof.Machine.execFscale h d a b s
  | .fgetexp h d a => Sys2Proof.Machine.execFgetexp h d a s
  | .hadd2 h d a b => Sys2Proof.Machine.execHadd2 h d a b s
  | .hadd2Imm h d a x => Sys2Proof.Machine.execHadd2Imm h d a x s
  | .hmul2 h d a b => Sys2Proof.Machine.execHmul2 h d a b s
  | .hmul2Imm h d a x => Sys2Proof.Machine.execHmul2Imm h d a x s
  | .hfma2 h d a b c => Sys2Proof.Machine.execHfma2 h d a b c s
  | .hmin2 h d a b => Sys2Proof.Machine.execHmin2 h d a b s
  | .hmin2Imm h d a x => Sys2Proof.Machine.execHmin2Imm h d a x s
  | .hmax2 h d a b => Sys2Proof.Machine.execHmax2 h d a b s
  | .hmax2Imm h d a x => Sys2Proof.Machine.execHmax2Imm h d a x s
  | .cvtnPk h d a b => Sys2Proof.Machine.execCvtnPk h d a b s
  | .cvtnUnpk h d a b => Sys2Proof.Machine.execCvtnUnpk h d a b s
  | .cvtw h d a b => Sys2Proof.Machine.execCvtw h d a b s
  | .vblkx h d a b idx => Sys2Proof.Machine.execVblkx h d a b idx s
  | .lanexPick h d a b mask => Sys2Proof.Machine.execLanexPick h d a b mask s
  | .lanexBack h d a b mask => Sys2Proof.Machine.execLanexBack h d a b mask s
  | .lanexFwd h d a b mask => Sys2Proof.Machine.execLanexFwd h d a b mask s
  | .lanexFlip h d a b mask => Sys2Proof.Machine.execLanexFlip h d a b mask s
  | .lanexRot h d a b mask => Sys2Proof.Machine.execLanexRot h d a b mask s
  | .pollAll h d a mask => Sys2Proof.Machine.execPollAll h d a mask s
  | .pollAny h d a mask => Sys2Proof.Machine.execPollAny h d a mask s
  | .pollMask h d a mask => Sys2Proof.Machine.execPollMask h d a mask s
  | .pollSame h d a mask => Sys2Proof.Machine.execPollSame h d a mask s
  | .pollCount h d a mask => Sys2Proof.Machine.execPollCount h d a mask s
  | .peersGroup h d a mask => Sys2Proof.Machine.execPeersGroup h d a mask s
  | .peersWhole h d a mask => Sys2Proof.Machine.execPeersWhole h d a mask s
  | .mredAdd h d a b mask => Sys2Proof.Machine.execMredAdd h d a b mask s
  | .mredMin h d a b mask => Sys2Proof.Machine.execMredMin h d a b mask s
  | .mredMax h d a b mask => Sys2Proof.Machine.execMredMax h d a b mask s
  | .mredAnd h d a b mask => Sys2Proof.Machine.execMredAnd h d a b mask s
  | .mredOr h d a b mask => Sys2Proof.Machine.execMredOr h d a b mask s
  | .mredXor h d a b mask => Sys2Proof.Machine.execMredXor h d a b mask s
  | .scanAdd h d a mask => Sys2Proof.Machine.execScanAdd h d a mask s
  | .scanMin h d a mask => Sys2Proof.Machine.execScanMin h d a mask s
  | .scanMax h d a mask => Sys2Proof.Machine.execScanMax h d a mask s
  | .scanAnd h d a mask => Sys2Proof.Machine.execScanAnd h d a mask s
  | .scanOr h d a mask => Sys2Proof.Machine.execScanOr h d a mask s
  | .scanXor h d a mask => Sys2Proof.Machine.execScanXor h d a mask s
  | .redxAdd h d a mask => Sys2Proof.Machine.execRedxAdd h d a mask s
  | .redxMin h d a mask => Sys2Proof.Machine.execRedxMin h d a mask s
  | .redxMax h d a mask => Sys2Proof.Machine.execRedxMax h d a mask s
  | .redxAnd h d a mask => Sys2Proof.Machine.execRedxAnd h d a mask s
  | .redxOr h d a mask => Sys2Proof.Machine.execRedxOr h d a mask s
  | .redxXor h d a mask => Sys2Proof.Machine.execRedxXor h d a mask s
  | .hist h d a b mask => Sys2Proof.Machine.execHist h d a b mask s
  | .hmrg h d a b mask => Sys2Proof.Machine.execHmrg h d a b mask s
  | .slice h d n => Sys2Proof.Machine.execSlice h d n s
  | .rcpmat h a => Sys2Proof.Machine.execRcpmat h a s
  | .rcpdrop h d => Sys2Proof.Machine.execRcpdrop h d s
  | .rcpstat h d a => Sys2Proof.Machine.execRcpstat h d a s
  | .afadd h d a b => Sys2Proof.Machine.execAfadd h d a b s
  | .afsub h d a b => Sys2Proof.Machine.execAfsub h d a b s
  | .afscl h d a b => Sys2Proof.Machine.execAfscl h d a b s
  | .afmul h d a b => Sys2Proof.Machine.execAfmul h d a b s
  | .afsqr h d a => Sys2Proof.Machine.execAfsqr h d a s
  | .afrec h d a => Sys2Proof.Machine.execAfrec h d a s
  | .afcond h d a b k rad => Sys2Proof.Machine.execAfcond h d a b k rad s
  | .afbnd h d a => Sys2Proof.Machine.execAfbnd h d a s
  | .afini h d a b sym => Sys2Proof.Machine.execAfini h d a b sym s
  | .afsym h d => Sys2Proof.Machine.execAfsym h d s
  | .afld h d a b m => Sys2Proof.Machine.execAfld h d a b m s
  | .afst h d a b m => Sys2Proof.Machine.execAfst h d a b m s
  | .ld h d a b m => Sys2Proof.Machine.execLd h d a b m s
  | .st h d a b m => Sys2Proof.Machine.execSt h d a b m s
  | .pref h a b m => Sys2Proof.Machine.execPref h a b m s
  | .atomAdd h d a b m => Sys2Proof.Machine.execAtomAdd h d a b m s
  | .atomMin h d a b m => Sys2Proof.Machine.execAtomMin h d a b m s
  | .atomMax h d a b m => Sys2Proof.Machine.execAtomMax h d a b m s
  | .atomAnd h d a b m => Sys2Proof.Machine.execAtomAnd h d a b m s
  | .atomOr h d a b m => Sys2Proof.Machine.execAtomOr h d a b m s
  | .atomXor h d a b m => Sys2Proof.Machine.execAtomXor h d a b m s
  | .atomExch h d a b m => Sys2Proof.Machine.execAtomExch h d a b m s
  | .atomInc h d a b m => Sys2Proof.Machine.execAtomInc h d a b m s
  | .atomDec h d a b m => Sys2Proof.Machine.execAtomDec h d a b m s
  | .atomCas h d a b m => Sys2Proof.Machine.execAtomCas h d a b m s
  | .atomFadd h d a b m => Sys2Proof.Machine.execAtomFadd h d a b m s
  | .atomFmin h d a b m => Sys2Proof.Machine.execAtomFmin h d a b m s
  | .atomFmax h d a b m => Sys2Proof.Machine.execAtomFmax h d a b m s
  | .lease h d a b m => Sys2Proof.Machine.execLease h d a b m s
  | .lend h d => Sys2Proof.Machine.execLend h d s
  | .fenceAcq h scope => Sys2Proof.Machine.execFenceAcq h scope s
  | .fenceRel h scope => Sys2Proof.Machine.execFenceRel h scope s
  | .fenceAr h scope => Sys2Proof.Machine.execFenceAr h scope s
  | .fenceSc h scope => Sys2Proof.Machine.execFenceSc h scope s
  | .roinv h => Sys2Proof.Machine.execRoinv h s
  | .cinv h a b => Sys2Proof.Machine.execCinv h a b s
  | .cinvDiscard h a b => Sys2Proof.Machine.execCinvDiscard h a b s
  | .cwb h a b => Sys2Proof.Machine.execCwb h a b s
  | .cresize h a => Sys2Proof.Machine.execCresize h a s
  | .bninit h a b => Sys2Proof.Machine.execBninit h a b s
  | .bnarr h d a => Sys2Proof.Machine.execBnarr h d a s
  | .bnwait h a b => Sys2Proof.Machine.execBnwait h a b s
  | .bntest h d a b => Sys2Proof.Machine.execBntest h d a b s
  | .mbarr h d a b m => Sys2Proof.Machine.execMbarr h d a b m s
  | .mbwait h a b m => Sys2Proof.Machine.execMbwait h a b m s
  | .cpgo h a b => Sys2Proof.Machine.execCpgo h a b s
  | .cpstat h d a b => Sys2Proof.Machine.execCpstat h d a b s
  | .cvinit h d a b => Sys2Proof.Machine.execCvinit h d a b s
  | .mxsign h d a => Sys2Proof.Machine.execMxsign h d a s
  | .mxpost h d a => Sys2Proof.Machine.execMxpost h d a s
  | .mxstat h d a => Sys2Proof.Machine.execMxstat h d a s
  | .msend h a b hx => Sys2Proof.Machine.execMsend h a b hx s
  | .eqpost h a b c => Sys2Proof.Machine.execEqpost h a b c s
  | .waitq h d => Sys2Proof.Machine.execWaitq h d s
  | .qwave h d => Sys2Proof.Machine.execQwave h d s
  | .srd h d sreg => Sys2Proof.Machine.execSrd h d sreg s
  | .swr h a sreg => Sys2Proof.Machine.execSwr h a sreg s
  | .trets h => Sys2Proof.Machine.execTrets h s
  | .tlbinv h a b kind => Sys2Proof.Machine.execTlbinv h a b kind s
  | .icinv h => Sys2Proof.Machine.execIcinv h s
  | .rcpflush h d a => Sys2Proof.Machine.execRcpflush h d a s
  | .ctxsave h d a b => Sys2Proof.Machine.execCtxsave h d a b s
  | .ctxload h d a b => Sys2Proof.Machine.execCtxload h d a b s
  | .park h a => Sys2Proof.Machine.execPark h a s
  | .parkRel h a => Sys2Proof.Machine.execParkRel h a s
  | .halt h a => Sys2Proof.Machine.execHalt h a s
  | .stest h d test => Sys2Proof.Machine.execStest h d test s
  | .setperfSysCap h d a b => Sys2Proof.Machine.execSetperfSysCap h d a b s
  | .setperfSysPermits h d a b => Sys2Proof.Machine.execSetperfSysPermits h d a b s
  | .convoyArbitration part => Sys2Proof.Machine.execConvoyArbitration part s
  | .threadStarved t => Sys2Proof.Machine.execThreadStarved t s
  | .preemptionTakeEffect t => Sys2Proof.Machine.execPreemptionTakeEffect t s
  | .longLatencyComplete op => Sys2Proof.Machine.execLongLatencyComplete op s
  | .phaseBoundary l => Sys2Proof.Machine.execPhaseBoundary l s
  | .qtailWrite q v => Sys2Proof.Machine.execQtailWrite q v s
  | .launchWindowEntry q n => Sys2Proof.Machine.execLaunchWindowEntry q n s
  | .launchPriorityAging l => Sys2Proof.Machine.execLaunchPriorityAging l s
  | .candidateHold l => Sys2Proof.Machine.execCandidateHold l s
  | .valleyBind l plain => Sys2Proof.Machine.execValleyBind l plain s
  | .crewStart crew => Sys2Proof.Machine.execCrewStart crew s
  | .launchComplete l => Sys2Proof.Machine.execLaunchComplete l s
  | .slicePreempt l cluster => Sys2Proof.Machine.execSlicePreempt l cluster s
  | .sliceRestore slice cluster => Sys2Proof.Machine.execSliceRestore slice cluster s
  | .stopClear q => Sys2Proof.Machine.execStopClear q s
  | .regenerationComplete part => Sys2Proof.Machine.execRegenerationComplete part s
  | .homeStoreMerge op => Sys2Proof.Machine.execHomeStoreMerge op s
  | .leaseTimerExpiry t => Sys2Proof.Machine.execLeaseTimerExpiry t s
  | .leaseAgeGrant t => Sys2Proof.Machine.execLeaseAgeGrant t s
  | .remoteLeaseExpiry core line => Sys2Proof.Machine.execRemoteLeaseExpiry core line s
  | .delayedWritePerform op => Sys2Proof.Machine.execDelayedWritePerform op s
  | .ptperrExceeded err => Sys2Proof.Machine.execPtperrExceeded err s
  | .hostWrite fn addr bytes => Sys2Proof.Machine.execHostWrite fn addr bytes s
  | .hostRead fn addr len => Sys2Proof.Machine.execHostRead fn addr len s
  | .hostLinkSwitch => Sys2Proof.Machine.execHostLinkSwitch s
  | .copyRecordRead crew ch => Sys2Proof.Machine.execCopyRecordRead crew ch s
  | .copyRecordComplete crew ch => Sys2Proof.Machine.execCopyRecordComplete crew ch s
  | .matrixPassGrant cluster => Sys2Proof.Machine.execMatrixPassGrant cluster s
  | .matrixEntryAged cluster j => Sys2Proof.Machine.execMatrixEntryAged cluster j s
  | .matrixPassComplete cluster => Sys2Proof.Machine.execMatrixPassComplete cluster s
  | .matrixJobComplete cluster j => Sys2Proof.Machine.execMatrixJobComplete cluster j s
  | .reservationGrant cluster => Sys2Proof.Machine.execReservationGrant cluster s
  | .reservationAged cluster j => Sys2Proof.Machine.execReservationAged cluster j s
  | .eventRecordAppend n => Sys2Proof.Machine.execEventRecordAppend n s
  | .handlerStart l => Sys2Proof.Machine.execHandlerStart l s
  | .flitRead f => Sys2Proof.Machine.execFlitRead f s
  | .flitWrite f => Sys2Proof.Machine.execFlitWrite f s
  | .flitAtomic f => Sys2Proof.Machine.execFlitAtomic f s
  | .flitResponse f => Sys2Proof.Machine.execFlitResponse f s
  | .flitRefusal f => Sys2Proof.Machine.execFlitRefusal f s
  | .flitMessage f => Sys2Proof.Machine.execFlitMessage f s
  | .flitAcknowledge f => Sys2Proof.Machine.execFlitAcknowledge f s
  | .flitBusy f => Sys2Proof.Machine.execFlitBusy f s
  | .flitRepair f => Sys2Proof.Machine.execFlitRepair f s
  | .flitWave f => Sys2Proof.Machine.execFlitWave f s
  | .flitWaveReply f => Sys2Proof.Machine.execFlitWaveReply f s
  | .flitQuiet f => Sys2Proof.Machine.execFlitQuiet f s
  | .flitPhaseArrive f => Sys2Proof.Machine.execFlitPhaseArrive f s
  | .flitPhaseGo f => Sys2Proof.Machine.execFlitPhaseGo f s
  | .flitKillNotice f => Sys2Proof.Machine.execFlitKillNotice f s
  | .portRetrain port => Sys2Proof.Machine.execPortRetrain port s
  | .remoteTimeout op => Sys2Proof.Machine.execRemoteTimeout op s
  | .messageRetransmit job dst => Sys2Proof.Machine.execMessageRetransmit job dst s
  | .streamAbandon job dst => Sys2Proof.Machine.execStreamAbandon job dst s
  | .repairSend job dst => Sys2Proof.Machine.execRepairSend job dst s
  | .localWave job => Sys2Proof.Machine.execLocalWave job s
  | .waveTimeout job => Sys2Proof.Machine.execWaveTimeout job s
  | .fjsync job => Sys2Proof.Machine.execFjsync job s
  | .engresChannelResume v => Sys2Proof.Machine.execEngresChannelResume v s
  | .engresJobPost v => Sys2Proof.Machine.execEngresJobPost v s
  | .atbaseWrite t v => Sys2Proof.Machine.execAtbaseWrite t v s
  | .ptenWrite q v => Sys2Proof.Machine.execPtenWrite q v s
  | .ptenApply q => Sys2Proof.Machine.execPtenApply q s
  | .supmapWrite k v => Sys2Proof.Machine.execSupmapWrite k v s
  | .supmapApply n => Sys2Proof.Machine.execSupmapApply n s
  | .mextgo v => Sys2Proof.Machine.execMextgo v s
  | .attreq v => Sys2Proof.Machine.execAttreq v s
  | .attestationReportDone => Sys2Proof.Machine.execAttestationReportDone s
  | .mcstatClear n v => Sys2Proof.Machine.execMcstatClear n v s
  | .registerWrite index v => Sys2Proof.Machine.execRegisterWrite index v s
  | .powerIntervalEnd => Sys2Proof.Machine.execPowerIntervalEnd s
  | .replayRateExcursion core => Sys2Proof.Machine.execReplayRateExcursion core s
  | .hbmScrub addr bad => Sys2Proof.Machine.execHbmScrub addr bad s
  | .thermalStep die temp => Sys2Proof.Machine.execThermalStep die temp s
  | .thermalTrip die => Sys2Proof.Machine.execThermalTrip die s
  | .supplyOutOfRegulation d => Sys2Proof.Machine.execSupplyOutOfRegulation d s
  | .selftestHold => Sys2Proof.Machine.execSelftestHold s
  | .selftestClusterReady => Sys2Proof.Machine.execSelftestClusterReady s
  | .selftestHoldTimeout => Sys2Proof.Machine.execSelftestHoldTimeout s
  | .deviceReset caps => Sys2Proof.Machine.execDeviceReset caps s
  | .syscallExit code => Sys2Proof.Machine.execSyscallExit code s
  | .imageLoad addr size => Sys2Proof.Machine.execImageLoad addr size s
  | .imageUnload hd => Sys2Proof.Machine.execImageUnload hd s
  | .funcRef hd name => Sys2Proof.Machine.execFuncRef hd name s
  | .memAlloc size flags => Sys2Proof.Machine.execMemAlloc size flags s
  | .memFree addr => Sys2Proof.Machine.execMemFree addr s
  | .queueOpen mode prio => Sys2Proof.Machine.execQueueOpen mode prio s
  | .queueClose q => Sys2Proof.Machine.execQueueClose q s
  | .launchSubmit q rcd dev => Sys2Proof.Machine.execLaunchSubmit q rcd dev s
  | .launchStatus ctx => Sys2Proof.Machine.execLaunchStatus ctx s
  | .launchResize ctx dies => Sys2Proof.Machine.execLaunchResize ctx dies s
  | .launchCancel ctx => Sys2Proof.Machine.execLaunchCancel ctx s
  | .evqOpen plain entries => Sys2Proof.Machine.execEvqOpen plain entries s
  | .evqRead qw buf max timeout => Sys2Proof.Machine.execEvqRead qw buf max timeout s
  | .queueRestart q => Sys2Proof.Machine.execQueueRestart q s
  | .timeGet => Sys2Proof.Machine.execTimeGet s
  | .exclusiveOwnershipGrant core line => Sys2Proof.Machine.execExclusiveOwnershipGrant core line s
  | .hostAcknowledge op => Sys2Proof.Machine.execHostAcknowledge op s
  | .controlCoreAccess master k => Sys2Proof.Machine.execControlCoreAccess master k s
  | .agentDeclaredDead agent => Sys2Proof.Machine.execAgentDeclaredDead agent s
  | .linkTrainingEnd port ok => Sys2Proof.Machine.execLinkTrainingEnd port ok s
  | .hostselWrite v => Sys2Proof.Machine.execHostselWrite v s

end Sys2Proof.Machine
end

