-- ==== Sys2Proof/Machine/Issue.lean ====
section
/-! DEFINITION. The issue slot of a partition: fetching and decoding the next word of a convoy and what a
word that is no instruction raises (01 R18 to R20, R24, 06 R155 to R159, R166, R167); what follows by itself
after every step; and what acts when the agenda names nothing (log entry 1). -/

namespace Sys2Proof.Machine

/-! ### Fetching for a convoy -/

/-- The convoy of a slot brought to the front. -/
def State.bringFront (s : State) (p : Nat) (lane : Option Nat) : Option (Convoy × State) :=
  (s.convoys.find? fun c => c.isOf p lane).map fun c => (c, { s with convoys := c :: s.convoys.filter (· != c) })

/-- The word at a convoy's program counter for members of it, and what its fetch raises on which (06 R159). -/
def State.fetchAll (s : State) (c : Convoy) : List Nat → Option IWord × List (Nat × Raise) × State
  | [] => (none, [], s)
  | k :: rest =>
      match s.fetch k c.code c.pc with
      | (.word w, s) => let r := s.fetchAll c rest; (some w, r.2.1, r.2.2)
      | (.busy _, s) => s.fetchAll c rest
      | (.fault cz t, s) =>
          let r := s.fetchAll c rest
          (r.1, (k, ⟨cz, blockAddr c.pc, if t then some (blockAddr c.pc) else none, none⟩) :: r.2.1, r.2.2)

/-- The word fetched for a convoy; a block that fails its check is logged once, however many of its threads need it (06 R157). -/
def State.fetchFor (s : State) (c : Convoy) (ks : List Nat) : Option IWord × List (Nat × Raise) × State :=
  let r := s.fetchAll c ks
  match r.2.1.find? fun (_, x) => x.cause == 0x30 with
  | some (k, _) => (r.1, r.2.1, r.2.2.badBlock k c.pc)
  | none => r

/-- A member of a convoy whose next word cannot be fetched yet, and the leased line that holds it up (05 R131). -/
def State.fetchWaits (s : State) (c : Convoy) : Option (Nat × Nat) :=
  (c.mem.filter fun k => (s.th k).pc == c.pc).findSome? fun k => match (s.fetch k c.code c.pc).1 with
    | .busy l => some (k, l)
    | _ => none

/-- A cycle of the slot, with the word it issues (01 R18). -/
def State.begin_ (s : State) (w : IWord) : State := { s.setFront fun c => { c with word := w } with cycle := s.cycle + 1 }

/-- The guard and hints of a word that is no instruction. -/
def rawHead (w : IWord) : Head := ⟨Guard.ofBits (w.extractLsb' 16 4), .b32, 0, Hints.ofBits (w.extractLsb' 0 8)⟩

/-- Whether the OP and FN of a word are those of a transfer, however illegal its other fields are (01 R20). -/
def isTransferWord (w : IWord) : Bool :=
  match wordShape w with
  | some i => i.isTransfer
  | none => false

/-- What a word that is no instruction raises on a member (01 R20, 06 R155, R166, R167): position first, a transfer before the
last position among it, then OP 0x01, 0x00 and 0xFF whatever the guard. -/
def State.badRaise (s : State) (c : Convoy) (w : IWord) (k : Nat) : Option Raise :=
  let op := (w.extractLsb' 88 8).toNat
  if c.misplaced (s.th k) (endBit w) (flgBits w) || op == 1 || (isTransferWord w && !c.last && s.guard k (rawHead w).g) then some ⟨0x04, c.hdr, none, none⟩
  else if op = 0 ∨ op = 0xFF ∨ s.guard k (rawHead w).g then some ⟨0x01, highBits w, none, none⟩
  else none

/-- A word that is no instruction, issued (06 R166). -/
def State.issueBad (s : State) (c : Convoy) (w : IWord) : State :=
  let h := rawHead w
  let ks := s.actors
  let op := (w.extractLsb' 88 8).toNat
  let stuck := ks.filter fun k => s.guardPending k h && !c.misplaced (s.th k) (endBit w) (flgBits w) && op != 0 && op != 1 && op != 0xFF
  if !stuck.isEmpty then stuck.foldl State.countStall s
  else
    let s := s.count (c.part / 4) 4
    let bad := ks.filterMap fun k => (s.badRaise c w k).map fun r => (k, r)
    let s' := bad.foldl (fun s (k, r) => s.trap k r) s
    let rest := ks.filter fun k => (s.badRaise c w k).isNone
    (rest.foldl (fun s k => State.applyEff k (endBit w) (.done s)) s').finishIssue c.part c.lane (w.getLsbD 3)

/-- A word fetched for the convoy in front: a header at its start, else the instruction it decodes to, its
fields stepped in a repeat (08 R210). -/
def State.issueWord (s : State) (c : Convoy) (w : IWord) : Host.Outcome State Fault Refusal :=
  if c.pc = c.hdr then
    if !isHeader w then .next (s.trapAll c fun k => ⟨0x04, (s.th k).src, none, none⟩)
    else match decodeWord w with
      | .ok i => exec i (s.begin_ w)
      | .error _ => .next (s.trapAll c fun _ => ⟨0x04, highBits w, none, none⟩)
  else
    let n := ((s.actors.find? fun k => !(s.th k).idles).map fun k => (s.th k).steps).getD (0, 0, 0)
    let w := (stepWord w n).getD w
    match decodeWord w with
    | .ok i =>
        if s.burstAgain c w then (match s.takeBurst c with
          | (true, s) => exec i (s.begin_ w)
          | (false, s) => .next s)
        else exec i (s.begin_ w)
    | .error _ => .next ((s.begin_ w).issueBad c w)

/-- The turn of an issue slot: the convoy there fetches its next word; threads that cannot fetch it trap. -/
def State.issueTurn (s : State) (p : Nat) (lane : Option Nat) : Host.Outcome State Fault Refusal :=
  match s.bringFront p lane with
  | none => .next s
  | some (c, s) =>
      if c.pc = c.hdr ∧ !isSlotPC c.pc then .next (s.trapAll c fun k => ⟨0x04, (s.th k).src, none, none⟩)
      else match s.fetchWaits c with
      | some (k, l) => .next (s.knock k l)
      | none => match s.fetchFor c (c.mem.filter fun k => (s.th k).pc == c.pc) with
        | (none, bad, s) => .next ((bad.foldl (fun s (k, r) => s.trap k r) s).finishIssue p lane false)
        | (some w, bad, s) =>
            let s := bad.foldl (fun s (k, r) => s.trap k r) s
            match s.front with
            | some c' => if c'.isOf p lane then s.issueWord c' w else .next s
            | none => .next s

/-! ### What follows by itself after a step -/

/-- Whether a waiting thread may try its instruction again (01 R38, 10 R245, 11 R292, R295, 12 R323, R328). -/
def State.mayResume (s : State) (k : Nat) (t : Thread) : Bool :=
  match t.wait with
  | .barrier n tok => phasePassed ((s.crewTh k).barrier n).phase tok
  | .mbar pa none tok => mbPassed (mbPhase (s.coh pa 16)) tok
  | .mbar pa (some d) _ => (s.mbAsked k d pa).any fun x => x.2.isSome
  | .quiet w => s.quietAfter (s.crewTh k).launch w
  | .valley c => s.mateStarted (crewOf k) c
  | .ring q => !s.eqValid q || s.eqRoom q
  | .post => s.postOpen k
  | .rendezvous m i _ =>
      let here := s.metWith (rowKey k) t.pc i m
      here.head? == some k && (s.absentees (rowKey k) m here).isEmpty
  | .leaseAge _ _ _ => false
  | .none => true

/-- Waiting threads that no PARK holds are made ready once they may go on; what they noted is kept. -/
def State.resumeWaiters (s : State) : State :=
  (s.threads.filter fun (k, t) => t.status == .waiting && !t.parked && s.mayResume k t).foldl (fun s (k, _) =>
    s.setTh k fun t => { t with status := .ready, since := s.cycle, starved := false }) s

/-- Rows in which threads wait for each other: convergence faults (10 R247). -/
def State.convergeAll (s : State) : State :=
  let rows := (s.threads.filterMap fun (k, t) => if t.meeting.isSome then some (rowKey k) else none).eraseDups
  rows.foldl State.converge s

/-- A convoy that has nobody left at its program counter moves on. -/
def State.resync (s : State) : State :=
  match s.convoys.find? fun c => !(c.mem.any fun k => (s.th k).pc == c.pc && (s.th k).jump.isNone) with
  | some c => State.finishIssue { s with convoys := c :: s.convoys.filter (· != c) } c.part c.lane false
  | none => s

/-- Keys under which messages to the own device wait. -/
def State.ownKeys (s : State) : List Nat := ((s.sent.filter fun m => m.dst == s.myDev).map fun m => m.job).eraseDups

/-- What holds after every step: waits that are over, crews and engines at rest, requests and calls that
could be served, the queues' ranks and the clusters' claims. -/
def State.settle (s : State) : State :=
  let s := s.resync
  let s := s.takePreempts
  let s := (Tab.keys s.launches).foldl State.cancelStep s
  let s := s.expireLeases
  let s := s.serveWakers
  let s := s.servePosted
  let s := s.servePhases
  let s := s.dropOwn
  let s := s.ownKeys.foldl (fun s k => s.offerOwn k s.sent.length) s
  let s := s.retryEngres
  let s := s.repostAll
  let s := (Tab.keys s.crews).foldl State.settleCrew s
  let s := (Tab.keys s.clusters).foldl State.tidyCluster s
  let used (x : Nat × Crew) : Nat := clusterOfCore x.2.core
  let s := ((s.crews.map used ++ Tab.keys s.clusters).eraseDups).foldl State.tidyClaim s
  let s := s.serveCalls
  let s := s.convergeAll
  s.resumeWaiters.tidyLaunches

/-! ### Turns -/

/-- What a core may drop at any time: copies, translations, cached code, and lines it holds exclusive that
no lease keeps (04 R111 to R113, 05 R142, 18 R383). -/
def State.evict (s : State) (core : Nat) : State :=
  let leased := (s.threads.filter fun (k, _) => s.coreTh k == core).flatMap fun (_, t) => t.leases.map fun l => l.line
  let s := (((s.co core).owned.map (·.1)).filter fun l => !leased.contains l).foldl State.recall s
  s.setCo core fun c => { c with copies := [], tlb := [], walks := [], icache := [] }

/-- Whether a place is a scratch. -/
def Where.isScratch : Where → Bool
  | .crewScratch _ _ => true
  | .plainScratch _ _ _ => true
  | _ => false

/-- A scratch access performed (04 R107, R108). -/
def State.land (s : State) (op : Nat) : State :=
  match Tab.find op s.ops with
  | some o => if o.loc.isScratch then s.tryPerform op else s
  | none => s

/-- Cycles and time pass. -/
def State.pass (s : State) (cycles ns : Nat) : State := { s with cycle := s.cycle + cycles, ns := s.ns + ns }

/-- Whether an instruction is a word of the issue slot: those act through it alone. -/
def isWord (i : Instr) : Bool := (encode i).isSome

/-- A turn taken. -/
def State.perform (s : State) (t : Turn) : Host.Outcome State Fault Refusal :=
  match t with
  | .issue p => s.issueTurn p none
  | .issueLane p l => s.issueTurn p (some l)
  | .act i => if isWord i then .next s else exec i s
  | .tick c n => .next (s.pass c n)
  | .evict c => .next (s.evict c)
  | .land o => .next (s.land o)
  | .piece c ch k => .next (s.copyPiece c ch k)
  | .upset u => .next (s.upset u)

/-! ### What acts when the agenda is empty -/

/-- The first of a list of moves that changes the state. -/
def State.firstChange (s : State) : List (State → State) → Option State
  | [] => none
  | f :: t => let s' := f s; if s' = s then s.firstChange t else some s'

/-- Moves of the memory system: operations that can be performed, records, requests that are late. -/
def State.memoryMoves (s : State) : List (State → State) :=
  ((s.ops.filter fun (_, o) => match o.loc with
      | .remote _ _ => o.early.isSome
      | _ => true).map fun (i, _) => fun s : State => s.tryPerform i)
  ++ (List.range s.records.length).map (fun n s => s.appendRecord n)
  ++ (s.threads.filter fun (_, t) => !t.leases.isEmpty || (match t.wait with | .leaseAge _ _ _ => true | _ => false)).map fun (k, _) =>
      fun s : State => if (s.th k).leases.any fun l => decide (l.ends ≤ s.cycle) then s.breakLeases k else s.grantAged k

/-- Moves of the engines. -/
def State.engineMoves (s : State) : List (State → State) :=
  (s.crews.flatMap fun (c, x) => x.ch.flatMap fun (ch, y) =>
      ((List.range (match y.plan with | some p => p.pieces.length | none => 0)).map fun n => fun s : State => s.copyPiece c ch n)
      ++ [fun s : State => s.completeRecord c ch, fun s : State => s.readRecord c ch])
  ++ (s.clusters.flatMap fun (n, x) =>
      [fun s : State => s.completePass n, fun s : State => s.grantResv n, fun s : State => s.grantPass n]
      ++ (List.range x.table.length).map fun j => fun s : State => s.completeJob n j)
  ++ (s.parts.filter fun (_, p) => p.rgu.isSome).map fun (n, _) => fun s : State =>
      match (s.pt n).rgu with
      | some (r, g) => (s.setPt n fun p => { p with rgu := none }).regenNow r g
      | none => s

/-- Moves of the scheduler: room goes first to crews of bound valleys (01 R40). -/
def State.launchMoves (s : State) : List (State → State) :=
  (s.crews.filter fun (_, c) => !c.started).map (fun (c, _) => fun s : State => s.crewStart c)
  ++ ((List.range 64).filter s.qEn).flatMap (fun q => (List.range 16).map fun i => fun s : State => s.enterWindow q ((s.qHead q + i) % 2 ^ 32))
  ++ (s.launches.filter fun (_, l) => decide (l.status ≤ 1)).flatMap (fun (l, x) =>
      [fun s : State => s.startHandler l, fun s : State => s.phaseBoundary l, fun s : State => s.completeLaunch l]
      ++ (x.leaving.map fun n => fun s : State => s.preemptSlice l n)
      ++ (List.range 16).map (fun q s => s.valleyBind l q) ++ [fun s : State => s.candidateHold l])
  ++ s.slices.flatMap (fun (i, x) => (List.range 12).map fun n => fun s : State => s.restoreSlice i (12 * x.plain + n))
  ++ (s.held.map fun (i, _) => fun s : State => if i < 0x600 then s.applyPten (i - 0x580) else (List.range 16).foldl (fun s j => s.applySup (16 * (i - 0x700) + j)) s)

/-- Moves of the fabric and of time. -/
def State.timeMoves (s : State) : List (State → State) :=
  (s.remote.map fun r => fun s : State => s.timeoutRemote r.op)
  ++ (s.streams.flatMap fun x => [fun s : State => s.retransmit x.job x.dev, fun s : State => s.abandon x.job x.dev, fun s : State => s.sendRepair x.job x.dev])
  ++ ((Tab.keys s.jobs ++ (Tab.keys s.launches).map (4096 + ·)).map fun k => fun s : State => s.localWave k)
  ++ [State.writeReport, State.endInterval, State.holdNext]

/-- Partitions where threads stand. -/
def State.partsInUse (s : State) : List Nat := (s.threads.map fun (k, _) => s.partTh k).eraseDups

/-- Everything that may move but the issue slots. -/
def State.moves (s : State) : List (State → State) :=
  (s.threads.filter fun (_, t) => t.preempt).map (fun (k, _) => fun s : State => s.takePreempt k)
  ++ (s.threads.filter fun (_, t) => t.status == .ready && !t.starved).map (fun (k, _) => fun s : State => s.starve k)
  ++ s.partsInUse.map (fun p s => s.arbitrate p) ++ s.memoryMoves ++ s.engineMoves ++ s.launchMoves ++ s.timeMoves

/-- With an empty agenda the slots and all else take turns: the convoy that has waited longest issues, then
something else moves or time passes. -/
def State.defaultTurn (s : State) : Host.Outcome State Fault Refusal :=
  let s' : State := { s with beat := s.beat + 1 }
  match s.beat % 2, s'.convoys.getLast? with
  | 0, some c => s'.issueTurn c.part c.lane
  | _, _ => .next ((s'.firstChange s'.moves).getD (s'.pass 4 1))

/-! ### Placing a word for the next step -/

/-- A fetch block of the words given, with its trailer (06 R156). -/
def blockOf (ws : List IWord) : List Byte :=
  let b := (ws ++ List.replicate (5 - ws.length) 0).flatMap fun (w : IWord) => leBytes 12 w.toNat
  b ++ leBytes 4 (crc32c b)

/-- The header put before a word: it names both completion flags, and one more word unless the word ends its
stretch. -/
def placeHeader (w : IWord) : IWord := headerWord 0 0x10 0x11 (if endBit w then 1 else 2) 0

/-- A NOP that ends its stretch. -/
def endNop : IWord := (encode (.nop ⟨⟨false, 7⟩, .b32, 0, ⟨true, 0, false, false, 0⟩⟩)).getD 0

/-- The block in which a word is placed: a header stands in slot 0, any other word in slot 1 behind one. -/
def placeBlock (w : IWord) : List Byte :=
  if isHeader w then blockOf (w :: List.replicate 4 endNop) else blockOf [placeHeader w, w, endNop]

/-- Physical and virtual address of the block, and of the page tables. -/
def placeAt : Nat := 0x10000
def placeRoot : Nat := 0x20000

/-- A launch of one thread with all its registers, and the thread's convoy at the word (log entry 24). -/
def State.placeWord (s : State) (w : IWord) : State :=
  let b := placeBlock w
  let tabs := [(placeRoot, placeRoot + 0x2000 + 1), (placeRoot + 0x2000, placeRoot + 0x4000 + 1), (placeRoot + 0x4000, placeRoot + 0x6000 + 1),
    (placeRoot + 0x6008, placeAt + 0x1F)]
  let m := tabs.foldl (fun m x => writeBytes m x.1 (leBytes 8 x.2)) (writeBytes s.mem placeAt b)
  let hdr : DWord := BitVec.ofNat 64 placeAt
  let h := placeHeader w
  let pc := if isHeader w then hdr else nextPC hdr
  let all : AccTable := { regions := [(0, 0, 2 ^ 24)], perms := [(0, 3)] }
  let r : Rcd := { regs := 255, flags := 1 }
  { s with
    mem := m
    threads := Tab.put 0 { pc := pc, hdr := hdr, src := hdr, status := .running } s.threads
    convoys := [{ part := 0, mem := [0], pc := pc, hdr := hdr, wait := 0, sa := h.extractLsb' 65 5, sb := h.extractLsb' 60 5, len := hdrLen h }]
    rows := Tab.put 0 { slot := 0 } s.rows
    crews := Tab.put 0 { launch := 0, ctx := 0, core := 0, started := true } s.crews
    launches := Tab.put 0 { rcd := r, status := 1, entered := true, dies := [0], map := [(0, 0)], bound := [(0, 0)] } s.launches
    ctxs := Tab.put 0 { sys := true, croot := BitVec.ofNat 64 (placeRoot + 1) } s.ctxs
    acc := [0, 32, 36].foldl (fun l t => Tab.put t all l) s.acc
    agenda := [.issue 0]
    seq := s.seq + 1 }

end Sys2Proof.Machine
end

