-- ==== Sys2Proof/Machine/Step.lean ====
section
/-! DEFINITION. One step of the machine, and a word placed for the next one. -/

namespace Sys2Proof.Machine

/-- Whether the device answers nothing but what `answers` names: a fatal error has ended it, or it stays in recovery mode
(22 R435, R442, R443). -/
def State.stopped (s : State) : Bool := s.fatal || s.recovery

/-- An outcome with what follows by itself; on a stopped device nothing does. -/
def settled : Host.Outcome State Fault Refusal → Host.Outcome State Fault Refusal
  | .next s => .next (if s.stopped then s else s.settle)
  | .fault f => .fault f
  | .refused r => .refused r

/-- What a stopped device still does: reset, the host's reads of its banks through BAR0, and configuration reads, with its
capability list (22 R435, R442). -/
def answers (t : Turn) : Bool :=
  match t with
  | .act (.deviceReset _) => true
  | .act (.hostRead _ addr _) => decide (cfgBase ≤ addr)
  | .act (.controlCoreAccess m (.regRead i)) => decide (0x4A0 ≤ m) && decide (m ≤ 0x4AF) && decide (0x800 ≤ i) && decide (i ≤ 0x87F) && devAssigned i
  | _ => false

/-- One step: the turn the agenda names next, else the model's own choice (log entry 1). A stopped device leaves everything else
unanswered and as it is (22 R435). -/
def step (s : State) : Host.Outcome State Fault Refusal :=
  match s.agenda with
  | t :: rest =>
      if s.stopped && !answers t then .next { s with agenda := rest }
      else settled (State.perform { s with agenda := rest } t)
  | [] => if s.stopped then .next s else settled s.defaultTurn

/-- The state with an instruction word where the next step fetches it. -/
def State.withFetchWord (s : State) (nbits w : Nat) : State := s.placeWord (BitVec.ofNat 96 (w % 2 ^ nbits))

end Sys2Proof.Machine
end

