-- ==== Sys2Proof/Safety.lean ====
section
/-! DEFINITION. The terms in which statements about the machine are made: what a state holds apart from a thread's
place in its program and the notes of the issue logic, when a word may issue for one thread, and what it means that
a word has completed for it. -/

namespace Sys2Proof

/-! ### Values -/

/-- An operand as the exact number its type reads. -/
def Rd.num (r : Rd) (t : VType) (a : Spec) : Int := intOf t (r.src t a)

/-- An exact integer brought into the range of a type (09 R224). -/
def clampTo (t : VType) (v : Int) : Int :=
  if t.signed then max (-(2 ^ (t.bits - 1))) (min (2 ^ (t.bits - 1) - 1) v) else max 0 (min (2 ^ t.bits - 1) v)

/-- A number written in a type (03 R78). -/
def numOut (t : VType) (v : Int) : Out := { v := intPut t v }

/-- An exact integer reduced modulo 2^w, or under .sat clamped (09 R224, R225). -/
def intResult (h : Head) (v : Int) : Out := numOut h.ty (if h.md.getLsbD 0 then clampTo h.ty v else v)

/-- Bits written as they are. -/
def wordOut (v : DWord) : Out := { v := v }
def bitsOut (n : Nat) : Out := wordOut (BitVec.ofNat 64 n)

/-- The bits of a type's width. -/
def lowBits (t : VType) (v : DWord) : DWord := if t.rw = 1 then v &&& 0xFFFFFFFF else v

/-- An operand as a float value of a type, a subnormal read as zero where the word flushes (03 R79, R96). -/
def Rd.val (r : Rd) (t : VType) (ftz : Bool) (a : Spec) : Fp.Val := Fp.decode t.fmt (Fp.flushIn t.fmt ftz (fget t (r.src t a)))

/-- A float result: rounded once in a mode (03 R90 to R93), flushed where the word flushes (R96). -/
def fltOut (t : VType) (mode : Fp.Rnd) (ftz : Bool) (x : Fp.Res) : Out :=
  fpOut t (Fp.flushOut t.fmt ftz (Fp.roundTo t.fmt mode false x))

/-- The rounding mode and the flushing that MOD names: 0 to 3 RN, RZ, RU, RD, 4 dynamic, and .ftz (06 R152, 02 R52). -/
def Rd.mode (r : Rd) (h : Head) : Fp.Rnd := rndOf h.md r.fmode 0
def Rd.ftz (r : Rd) (h : Head) : Bool := ftzOf h.md r.fmode

/-- One step of the rng (03 R94). -/
def rngStep (x : Word) : Word :=
  let x := x ^^^ (x <<< 13)
  let x := x ^^^ (x >>> 17)
  x ^^^ (x <<< 5)

/-! ### Numbers as fractions -/

/-- The number of an exact fraction. -/
def Q.val (a : Q) : Rat := (a.num : Rat) / (a.den : Rat)

/-- The number n ÷ d, negated where `neg` is set. -/
def ratOf (neg : Bool) (n d : Nat) : Rat := if neg then -((n : Rat) / (d : Rat)) else (n : Rat) / (d : Rat)

/-- The magnitude of a number. -/
def ratAbs (x : Rat) : Rat := if x < 0 then -x else x

/-- The number of a finite value. -/
def Fp.Val.num? : Fp.Val → Option Rat
  | .fin s m e => some (ratOf s (Fp.frac m e).1 (Fp.frac m e).2)
  | _ => none

/-- The number an encoding of a format stands for, where it is finite. -/
def Fp.Fmt.num? (f : Fp.Fmt) (b : Nat) : Option Rat := (Fp.decode f b).num?

/-- The number of an exact result. -/
def Fp.Ex.num? : Fp.Ex → Option Rat
  | .num s n d => some (ratOf s n d)
  | _ => none

/-- The formats of 03 R80. -/
def allFormats : List Fp.Fmt := [Fp.f64, Fp.f32, Fp.f19, Fp.bf16, Fp.f16, Fp.e5m2, Fp.e4m3, Fp.e3m4, Fp.e3m2, Fp.e2m3, Fp.e2m1]

/-- A sum of magnitudes. -/
def magSum (l : List Rat) : Rat := (l.map ratAbs).sum

/-- The coefficient of a symbol. -/
def coefOf (q : List (Nat × Q)) (s : Nat) : Rat := (Tab.getD s Q.zero q).val

/-- A table of terms: symbols rising, denominators positive. -/
def termsOk (q : List (Nat × Q)) : Prop := (q.map (·.1)).Pairwise (· < ·) ∧ ∀ t ∈ q, 0 < t.2.den

/-- An affine operand as instructions read one. -/
def Aff.ok (a : Aff) : Prop := 0 < a.c.den ∧ 0 < a.r.den ∧ 0 ≤ a.r.num ∧ termsOk a.q

namespace Machine

/-- The memory of a state keeps its canonical form. -/
abbrev State.MemOk (s : State) : Prop := Memory.wf s.mem = true

/-- The L1s of a state: a line is held exclusive by one core at most, and its dirty bytes lie within it (04 R111, R112). -/
structure State.L1Ok (s : State) : Prop where
  sorted : (s.cores.map (·.1)).Pairwise (· < ·)
  one : ∀ x ∈ s.cores, ∀ y ∈ s.cores, ∀ l, (Tab.find l x.2.owned).isSome → (Tab.find l y.2.owned).isSome → x.1 = y.1
  lines : ∀ x ∈ s.cores, (x.2.owned.map (·.1)).Pairwise (· < ·) ∧ ∀ o ∈ x.2.owned, o.1 % 128 = 0
    ∧ (o.2.map (·.1)).Pairwise (· < ·) ∧ ∀ d ∈ o.2, d.1 < 128

/-! ### What a thread and the device hold -/

/-- A thread without its place in the program (its program counter, stretch, loops, repeat, slice and recipes, and
where it stands): its registers, flags, modes, trap registers and leases. -/
def Thread.regs (t : Thread) : Thread :=
  { t with pc := 0, hdr := 0, src := 0, loops := [], skips := [], rep := none, idle := [], elig := [], slice := none, dropped := []
           status := .ready, wait := .none, since := 0, starved := false, yielded := false, yld := false
           stalled := false, jump := none, flagAt := [] }

/-- A thread's place in its program: its address, its loops and skips, the repeat in progress. -/
structure Flow where
  pc : DWord
  loops : List Loop
  skips : List Skip
  rep : Option Rep
  deriving DecidableEq, Repr

def Thread.flow (t : Thread) : Flow := ⟨t.pc, t.loops, t.skips, t.rep⟩

/-- The device without its threads and the notes of the issue logic (convoys, row-register pool, event counters):
memory, caches, pending operations, crews, launches, contexts, engines, device registers. -/
def State.world (s : State) : State := { s with threads := [], convoys := [], rows := [], parts := [], counters := [] }

/-- `t` is `u` with the thread moved on from its instruction (01 R25, R35, R36, 08 R200): its registers, every other
thread and the rest of the device are those of `u`. -/
structure Went (u t : State) (k : Nat) (fin : Bool) : Prop where
  regs : (t.th k).regs = (u.th k).regs
  flow : (t.th k).flow = ((u.th k).complete u.cycle fin).flow
  others : ∀ j, j ≠ k → t.th j = u.th j
  world : t.world = u.world

/-- The END hint of a word's head. -/
def endHint (i : Instr) : Bool := (i.head.map fun h => h.h.fin).getD false

/-- The instruction completes for the thread: the next state is `u` with the thread moved on. -/
def Completes (s : State) (i : Instr) (k : Nat) (u : State) : Prop := ∃ t, exec i s = .next t ∧ Went u t k (endHint i)

/-- Two states that agree but for the notes of the issue logic. -/
structure Same (t u : State) : Prop where
  threads : ∀ j, t.th j = u.th j
  world : t.world = u.world

/-- A thread stands in no convoy. -/
def State.outside (s : State) (k : Nat) : Bool := s.convoys.all fun c => !c.mem.contains k

/-- The instruction ends for the thread `k`, which it takes out of its convoy: the next state is `u`. -/
def Leaves (s : State) (i : Instr) (k : Nat) (u : State) : Prop :=
  ∃ t, exec i s = .next t ∧ Same t u ∧ t.outside k = true

/-- A cause the thread raises has a handler that its context has set: it is not a kill (16 R340). -/
def State.handled (s : State) (k : Nat) (cause : BitVec 8) : Bool :=
  (s.th k).tlvl != 2 && (s.toLevel1 k cause || (s.cx (s.ctxTh k)).tvec2 != 0) && (s.th k).leases.isEmpty

/-! ### When a word issues for a thread by itself -/

/-- The thread `k` is the only member of the convoy `c` in front and stands at its word `i` of head `h`. -/
structure Stands (s : State) (i : Instr) (h : Head) (k : Nat) (c : Convoy) : Prop where
  head : i.head = some h
  front : s.front = some c
  alone : c.mem = [k]
  only : ((s.convoys.drop 1).all fun d => !d.isOf c.part c.lane && !d.mem.contains k) = true
  here : (s.th k).pc = c.pc
  fresh : (s.th k).jump = none
  live : s.live k = true
  rgu : (s.pt c.part).rgu = none
  reserve : (s.rows.all fun (_, x) => x.regs.all fun (_, y) => !y.reserve) = true

/-- The word issues for the thread: its guard is true, it raises no cause of R20, R166 or R165, nothing it needs is
pending, and no register it reads is poisoned, or to be regenerated or reloaded. -/
structure Ready (s : State) (i : Instr) (h : Head) (k : Nat) (c : Convoy) : Prop extends Stands s i h k c where
  guard : s.guard k h.g = true
  legal : s.wordFault c i h k = none
  free : s.holdsBack c i h noBlock k = false
  unheld : s.heldOp k = none
  values : s.regenFor k i (s.coverOf i h [k] (rowKey k)) = none
  faults : s.regenFault k i = none
  sound : s.readsBad k i = false
  loaded : ((s.vReads k i).all fun g => match s.rreg (rowKey k) g with
    | some x => x.form != .spilled
    | none => true) = true

/-! ### When the threads of a row meet at a cross-lane word -/

/-- The members of the convoy `c` in front, all of row `r`, stand at the cross-lane word `i` of mask `mask`; with them every
thread of the row that the mask names and that has not exited arrives, and the word issues for each of them. -/
structure Meeting (s : State) (i : Instr) (h : Head) (mask : Word) (r : Nat) (c : Convoy) : Prop where
  head : i.head = some h
  front : s.front = some c
  some_ : c.mem ≠ []
  nodup : c.mem.Nodup
  row : ∀ k ∈ c.mem, rowKey k = r ∧ mask.getLsbD (laneOf k) = true
  whole : ∀ l, l < 32 → mask.getLsbD l = true → s.live (laneKey r l) = true → laneKey r l ∈ c.mem
  alone : ∀ k ∈ s.rowThreads r, (s.th k).meeting = none
  only : ((s.convoys.drop 1).all fun d => !d.isOf c.part c.lane && d.mem.all fun k => !c.mem.contains k) = true
  each : ∀ k ∈ c.mem, (s.th k).pc = c.pc ∧ (s.th k).jump = none ∧ (s.th k).rep = none ∧ (s.th k).wait = .none ∧ s.live k = true
    ∧ s.wordFault c i h k = none ∧ s.holdsBack c i h noBlock k = false ∧ s.heldOp k = none
  values : ∀ k ∈ c.mem, s.guard k h.g = true → s.regenFor k i (s.coverOf i h c.mem r) = none ∧ s.regenFault k i = none ∧ s.readsBad k i = false
    ∧ ((s.vReads k i).all fun g => match s.rreg r g with
      | some x => x.form != .spilled
      | none => true) = true
  rgu : (s.pt c.part).rgu = none
  reserve : (s.rows.all fun (_, x) => x.regs.all fun (_, y) => !y.reserve) = true

/-- The lanes that contribute: those whose thread has arrived with its guard true (10 R246). -/
def State.contributors (s : State) (h : Head) (r : Nat) (c : Convoy) : List Nat :=
  (List.range 32).filter fun l => c.mem.contains (laneKey r l) && s.guard (laneKey r l) h.g

/-- The word completes for every member, each with the registers of the thread `f` gives for it. -/
def CompletesAll (s : State) (i : Instr) (c : Convoy) (f : Nat → Thread) : Prop :=
  ∃ t, exec i s = .next t
    ∧ (∀ k ∈ c.mem, (t.th k).regs = (f k).regs ∧ (t.th k).flow = ((s.th k).complete s.cycle (endHint i)).flow)
    ∧ (∀ j, j ∉ c.mem → t.th j = s.th j) ∧ t.world = s.world

/-- The word completes for every member: each contributing lane `l` gets what `f l` makes of its thread, the others nothing. -/
def CompletesLanes (s : State) (i : Instr) (h : Head) (r : Nat) (c : Convoy) (f : Nat → Thread → Thread) : Prop :=
  CompletesAll s i c fun k => if laneOf k ∈ s.contributors h r c then f (laneOf k) (s.th k) else s.th k

/-- The general registers a destination of `w` registers names. -/
def destRegs (d : Spec) (w : Nat) : List Nat :=
  match d with
  | .v i => if w = 1 then [i.toNat] else [i.toNat, i.toNat + 1]
  | _ => []

/-- The registers are held as values, or the row has entries of its floor left for those it has not written. -/
def State.hasRoom (s : State) (k : Nat) (gs : List Nat) : Bool :=
  (gs.all fun g => match s.rreg (rowKey k) g with
    | some x => x.form == .value
    | none => false)
  || ((gs.all fun g => match s.rreg (rowKey k) g with
    | some x => x.form == .value
    | none => true)
    && decide ((s.rw (rowKey k)).entries + gs.length ≤ s.floorLeft (rowKey k)) && (s.laTh k).rcd.vcap == 0)

/-- A thread with a destination written (02 R46, R48, R51): an index of class 0b00, a special register as its row of
R51 says, or nothing. -/
def Thread.dest (t : Thread) (d : Spec) (w : Nat) (v : DWord) : Thread :=
  match d with
  | .v i =>
      if w = 1 then { t with v := Tab.put i.toNat (v.setWidth 32) t.v }
      else { t with v := Tab.put (i.toNat + 1) ((v >>> 32).setWidth 32) (Tab.put i.toNat (v.setWidth 32) t.v) }
  | .sp i => t.spWrite i.toNat (if w = 1 then (v.setWidth 32).setWidth 64 else v)
  | _ => t

/-- The state with a destination of a thread written. -/
def State.dest (s : State) (k : Nat) (d : Spec) (w : Nat) (v : DWord) : State := s.setTh k fun t => t.dest d w v

/-- A thread with the result of a value instruction: the rng it leaves, its flags, and the destination (06 R168). -/
def Thread.outcome (t : Thread) (d : Spec) (w : Nat) (o : Out) : Thread :=
  ({ t with rng := o.rng.getD t.rng, fflg := t.fflg ||| o.fl } : Thread).dest d w o.v

/-- The state with the result of a value instruction of a thread. -/
def State.outcome (s : State) (k : Nat) (d : Spec) (w : Nat) (o : Out) : State := s.setTh k fun t => t.outcome d w o

/-- A thread with consecutive general registers written. -/
def Thread.puts (t : Thread) (g : Nat) : List Word → Thread
  | [] => t
  | v :: vs => ({ t with v := Tab.put g v t.v } : Thread).puts (g + 1) vs

/-- The state as a word begins for a thread: the issue counted, and its registers noted. -/
def State.begun (s : State) (c : Convoy) (k : Nat) (i : Instr) : State :=
  ((s.count (c.part / 4) 4).keep c.part [k] i).touch k i

/-- A predicate destination written (06 R160, 02 R46). -/
def State.pred (s : State) (k : Nat) (d : Spec) (b : Bool) : State :=
  match d with
  | .sp i => s.setTh k fun t => t.setPred i.toNat b
  | _ => s

/-- The convoy is held back as a whole: nothing has changed but the notes of the issue logic. -/
def Waits (s : State) (i : Instr) : Prop :=
  ∃ t, exec i s = .next t ∧ t.world = s.world ∧ ∀ j, (t.th j).regs = (s.th j).regs ∧ (t.th j).flow = (s.th j).flow

/-- No row holds a reserve entry (02 R68). -/
def State.unreservedRows (s : State) : Prop := (s.rows.all fun (_, x) => x.regs.all fun (_, y) => !y.reserve) = true

/-! ### What an instruction gives -/

/-- Wherever the word is ready and its destination has room, it completes with the value `f` gives of the thread's
operands written to the destination. -/
def Gives (i : Instr) (h : Head) (d : Spec) (w : Nat) (f : Rd → Out) : Prop :=
  ∀ (s : State) (k : Nat) (c : Convoy), Ready s i h k c → s.hasRoom k (destRegs d w) = true →
    Completes s i k (s.outcome k d w (f (s.rd k)))

/-- It gives a value told bit by bit, and sets no flag. -/
def GivesBits (i : Instr) (h : Head) (d : Spec) (w : Nat) (bit : Rd → Nat → Bool) : Prop :=
  ∃ f : Rd → Out, Gives i h d w f ∧ ∀ r, (f r).fl = 0 ∧ (f r).rng = none ∧ ∀ n, (f r).v.getLsbD n = bit r n

end Machine
end Sys2Proof
end

