-- ==== Sys2Proof/Certificates/Slice0/Obligations.lean ====
section
/-! DEFINITION. The statements. -/

open Sys2Proof Sys2Proof.Machine

/-! ### Numbers, 03 R78 to R97 -/

/-- 03 R80: each format's fields, special encodings and worked encodings, the values of E2M1. F19 is given by its 19 bits, in bits 31:13 of its container. -/
def Obligations.FormatTable : Prop :=
  let row (f : Fp.Fmt) (e m b : Nat) (nan : Option Nat) (maxEnc : Nat) (minNormal minSub : Int) (one : Nat) : Prop :=
    f.e = e ∧ f.m = m ∧ f.bias = b ∧ f.nan = nan ∧ f.maxEnc = maxEnc
      ∧ Fp.decode f (2 ^ m) = .fin false (2 ^ m) (minNormal - m) ∧ Fp.decode f 1 = .fin false 1 minSub
      ∧ Fp.decode f one = .fin false (2 ^ m) (-(m : Int)) ∧ (f.top = .ieee → Fp.decode f f.inf = .inf false)
  row Fp.f64 11 52 1023 (some 0x7FF8000000000000) 0x7FEFFFFFFFFFFFFF (-1022) (-1074) 0x3FF0000000000000
  ∧ row Fp.f32 8 23 127 (some 0x7FC00000) 0x7F7FFFFF (-126) (-149) 0x3F800000
  ∧ row Fp.f19 8 10 127 (some (0x7FC00000 / 2 ^ 13)) (0x7F7FE000 / 2 ^ 13) (-126) (-136) (0x3F800000 / 2 ^ 13)
  ∧ row Fp.bf16 8 7 127 (some 0x7FC0) 0x7F7F (-126) (-133) 0x3F80
  ∧ row Fp.f16 5 10 15 (some 0x7E00) 0x7BFF (-14) (-24) 0x3C00
  ∧ row Fp.e5m2 5 2 15 (some 0x7E) 0x7B (-14) (-16) 0x3C
  ∧ row Fp.e4m3 4 3 7 (some 0x7F) 0x7E (-6) (-9) 0x38
  ∧ row Fp.e3m4 3 4 3 (some 0x7F) 0x7E (-2) (-6) 0x30
  ∧ row Fp.e3m2 3 2 3 none 0x1F (-2) (-4) 0x0C
  ∧ row Fp.e2m3 2 3 1 none 0x1F 0 (-3) 0x08
  ∧ row Fp.e2m1 2 1 1 none 0x7 0 (-1) 0x2
  ∧ (let minus (f : Fp.Fmt) := Fp.roundTo f .rn false ⟨.num true 5 2, 0⟩
    [Fp.f64, Fp.f32, Fp.f19, Fp.bf16, Fp.f16, Fp.e5m2, Fp.e4m3, Fp.e3m4, Fp.e3m2, Fp.e2m3].map minus
      = [0xC004000000000000, 0xC0200000, 0xC0200000 / 2 ^ 13, 0xC020, 0xC100, 0xC1, 0xC2, 0xC4, 0x31, 0x32].map (fun b => (b, 0)) ∧ minus Fp.e2m1 = (0xC, Fp.NX))
  -- E all ones: ∞ and NaN, a NaN with T = 0 at its top bit signalling; one quiet NaN among numbers; numbers alone
  ∧ (∀ f t, t < 2 ^ f.m →
    let ones := Fp.decode f ((2 ^ f.e - 1) * 2 ^ f.m + t)
    let number : Fp.Val := .fin false (2 ^ f.m + t) (2 ^ f.e - 1 - f.bias - f.m)
    (f ∈ [Fp.f64, Fp.f32, Fp.f19, Fp.bf16, Fp.f16, Fp.e5m2] → ones = if t = 0 then .inf false else .nan (!t.testBit (f.m - 1)))
    ∧ (f ∈ [Fp.e4m3, Fp.e3m4] → ones = if t = 2 ^ f.m - 1 then .nan false else number)
    ∧ (f ∈ [Fp.e3m2, Fp.e2m3, Fp.e2m1] → ones = number))
  ∧ (∀ s : Bool, (List.range 8).map (fun c => Fp.e2m1.num? (c + if s then 8 else 0)) = ([0, 1 / 2, 1, 3 / 2, 2, 3, 4, 6] : List Rat).map fun x => some (if s then -x else x))

/-- 03 R90, R92: a number rounded into a format, where it does not overflow: no number of the format lies nearer in the sense of
the mode, a tie goes to the even encoding in RN and away from zero in RNA, the sign is kept, NX tells that the result differs,
UF that moreover the number is below the least normal one. A number within the format's range never overflows. 03 R94:
stochastic rounding takes the neighbour away from zero when the draw lies below F, else the one toward zero; one step of the rng
as the rule writes it. -/
def Obligations.RoundingModes : Prop :=
  (∀ (f : Fp.Fmt) (mode : Fp.Rnd) (neg : Bool) (n d : Nat), f ∈ allFormats → 0 < d → (∀ r, mode ≠ .sr r) →
    let x := ratOf neg n d
    let o := Fp.roundTo f mode false ⟨.num neg n d, 0⟩
    let other (p : Rat → Prop) : Prop := ∀ b w, b < 2 ^ f.width → f.num? b = some w → p w
    ((∀ m, f.num? f.maxEnc = some m → ratAbs x ≤ m → o.2 &&& Fp.OF = 0)
    ∧ (o.2 &&& Fp.OF = 0 → o.1 < 2 ^ f.width ∧ o.1.testBit (f.e + f.m) = neg ∧ ∃ v, f.num? o.1 = some v
      ∧ (match mode with
        | .rz => ratAbs v ≤ ratAbs x ∧ other fun w => ratAbs w ≤ ratAbs x → ratAbs w ≤ ratAbs v
        | .ru => x ≤ v ∧ other fun w => x ≤ w → v ≤ w
        | .rd => v ≤ x ∧ other fun w => w ≤ x → w ≤ v
        | .rn => other fun w => ratAbs (v - x) ≤ ratAbs (w - x) ∧ (ratAbs (v - x) = ratAbs (w - x) → v = w ∨ o.1 % 2 = 0)
        | .rna => other fun w => ratAbs (v - x) ≤ ratAbs (w - x) ∧ (ratAbs (v - x) = ratAbs (w - x) → ratAbs w ≤ ratAbs v)
        | .sr _ => True)
      ∧ (o.2 &&& Fp.NX ≠ 0 ↔ v ≠ x) ∧ (o.2 &&& Fp.UF ≠ 0 ↔ v ≠ x ∧ ∃ m, f.num? (2 ^ f.m) = some m ∧ ratAbs x < m))))
  ∧ ((∀ (f : Fp.Fmt) (neg : Bool) (n d r : Nat) (lo hi : Rat), f ∈ allFormats → 0 < d → r < 65536 →
    let x := ratOf neg n d
    let res (m : Fp.Rnd) := Fp.roundTo f m false ⟨.num neg n d, 0⟩
    let away := res (if neg then .rd else .ru)
    away.2 &&& Fp.OF = 0 → f.num? (res .rz).1 = some lo → f.num? away.1 = some hi →
    let y := f.num? (res (.sr r)).1
    (lo = x → y = some x)
    ∧ (lo ≠ x → y = some (if ((r : Rat) + 1) * (ratAbs hi - ratAbs lo) ≤ (ratAbs x - ratAbs lo) * 65536 then hi else lo)))
  ∧ (∀ x : Word, let a := x ^^^ (x <<< 13); let b := a ^^^ (a >>> 17); rngStep x = b ^^^ (b <<< 5))
  ∧ (rngStep 1 = 0x00042021 ∧ Fp.roundTo Fp.e2m1 (.sr 4) false ⟨.num false 5 2, 0⟩ = (5, Fp.NX) ∧ Fp.decode Fp.e2m1 5 = .fin false 3 0))

/-- 09 R235, 03 R90, R92: sums, products, quotients and scalings of finite values are exact before they are rounded, a zero sum
of opposite signs is +0, or −0 in RD; infinities and NaNs give the results and flags of the rules; a square root in RD and RU is
the nearest number below and above the root. -/
def Obligations.ExactArithmetic : Prop :=
  (∀ (a b c : Fp.Val) (x y z : Rat) (rd : Bool), a.num? = some x → b.num? = some y → c.num? = some z →
    (Fp.add rd a b).fl = 0 ∧ (Fp.add rd a b).x.num? = some (x + y)
    ∧ (Fp.mul a b).fl = 0 ∧ (Fp.mul a b).x.num? = some (x * y)
    ∧ (Fp.fma rd a b c).fl = 0 ∧ (Fp.fma rd a b c).x.num? = some (x * y + z)
    ∧ (y ≠ 0 → (Fp.div a b).fl = 0 ∧ (Fp.div a b).x.num? = some (x / y))
    ∧ (x ≠ 0 → y = 0 → Fp.div a b = ⟨.inf (Fp.signOf a != Fp.signOf b), Fp.DZ⟩)
    ∧ (x = 0 → y = 0 → Fp.div a b = ⟨.nan, Fp.NV⟩)
    ∧ (x + y = 0 → Fp.signOf a ≠ Fp.signOf b → ∃ d, (Fp.add rd a b).x = .num rd 0 d)
    ∧ (∀ n : Nat, n ≤ 4096 → (Fp.scaleB a n).x.num? = some (x * 2 ^ n) ∧ (Fp.scaleB a (-(n : Int))).x.num? = some (x / 2 ^ n)))
  ∧ (∀ (s t rd : Bool) (a : Fp.Val) (x : Rat), a.num? = some x →
    Fp.add rd (.inf s) a = ⟨.inf s, 0⟩ ∧ Fp.add rd a (.inf s) = ⟨.inf s, 0⟩
    ∧ Fp.add rd (.inf s) (.inf t) = (if s = t then ⟨.inf s, 0⟩ else ⟨.nan, Fp.NV⟩)
    ∧ Fp.mul (.inf s) a = (if x = 0 then ⟨.nan, Fp.NV⟩ else ⟨.inf (s != Fp.signOf a), 0⟩)
    ∧ Fp.mul (.inf s) (.inf t) = ⟨.inf (s != t), 0⟩
    ∧ Fp.div (.inf s) (.inf t) = ⟨.nan, Fp.NV⟩ ∧ Fp.div (.inf s) a = ⟨.inf (s != Fp.signOf a), 0⟩
    ∧ Fp.div a (.inf s) = ⟨.num (Fp.signOf a != s) 0 1, 0⟩)
  ∧ (∀ (a b c : Fp.Val) (rd : Bool), a.isNaN = true ∨ b.isNaN = true →
    (Fp.add rd a b) = ⟨.nan, Fp.sigFl a ||| Fp.sigFl b⟩ ∧ Fp.mul a b = ⟨.nan, Fp.sigFl a ||| Fp.sigFl b⟩
    ∧ Fp.div a b = ⟨.nan, Fp.sigFl a ||| Fp.sigFl b⟩ ∧ (Fp.fma rd a b c).x = .nan)
  ∧ (∀ (f : Fp.Fmt) (b : Nat) (x : Rat), f ∈ [Fp.f16, Fp.bf16, Fp.f32, Fp.f64] → b < 2 ^ f.width → f.num? b = some x → 0 < x →
    let root (m : Fp.Rnd) := f.num? (Fp.roundTo f m false (Fp.sqrt (Fp.decode f b))).1
    ∃ lo hi, root .rd = some lo ∧ root .ru = some hi ∧ 0 < lo ∧ lo * lo ≤ x ∧ x ≤ hi * hi ∧ 0 < hi
      ∧ ∀ e w, e < 2 ^ f.width → f.num? e = some w → 0 ≤ w → (w * w ≤ x → w ≤ lo) ∧ (x ≤ w * w → hi ≤ w))

/-! ### Integers, 09 R225 to R230 -/

/-- 09 R225: each result computed exactly, then reduced modulo 2^w, or clamped where .sat is named. 09 R225, IDP4 and IDP2: the
sum of c, read as i32, and of the products of the elements of a and b, modulo 2^32. 09 R226: a + b × 2^s modulo 2^32, and a +
ext(b) × 2^s modulo 2^64. -/
def Obligations.IntegerArithmetic : Prop :=
  (∀ (h : Head) (d a b c : Spec) (x : Word),
    let A (r : Rd) := r.num h.ty a
    let B (r : Rd) := r.num h.ty b
    let C (r : Rd) := r.num h.ty c
    let X := intOf h.ty (immX h.ty x)
    Gives (.iadd h d a b) h d h.ty.rw (fun r => intResult h (A r + B r))
    ∧ Gives (.iaddImm h d a x) h d h.ty.rw (fun r => intResult h (A r + X))
    ∧ Gives (.isub h d a b) h d h.ty.rw (fun r => intResult h (A r - B r))
    ∧ Gives (.isubImm h d a x) h d h.ty.rw (fun r => intResult h (A r - X))
    ∧ Gives (.ineg h d a) h d h.ty.rw (fun r => intResult h (-A r))
    ∧ Gives (.iabs h d a) h d h.ty.rw (fun r => intResult h ((A r).natAbs : Int))
    ∧ Gives (.imad h d a b c) h d h.ty.rw (fun r => intResult h (A r * B r + C r))
    ∧ Gives (.imul h d a b) h d h.ty.rw (fun r => numOut h.ty (A r * B r))
    ∧ Gives (.imulImm h d a x) h d h.ty.rw (fun r => numOut h.ty (A r * X))
    ∧ Gives (.imulhi h d a b) h d h.ty.rw (fun r => numOut h.ty ((A r * B r) / 2 ^ h.ty.bits))
    ∧ Gives (.imulhiImm h d a x) h d h.ty.rw (fun r => numOut h.ty ((A r * X) / 2 ^ h.ty.bits))
    ∧ Gives (.imin h d a b) h d h.ty.rw (fun r => numOut h.ty (min (A r) (B r)))
    ∧ Gives (.iminImm h d a x) h d h.ty.rw (fun r => numOut h.ty (min (A r) X))
    ∧ Gives (.imax h d a b) h d h.ty.rw (fun r => numOut h.ty (max (A r) (B r)))
    ∧ Gives (.imaxImm h d a x) h d h.ty.rw (fun r => numOut h.ty (max (A r) X))
    ∧ Gives (.imadw h d a b c) h d 2 (fun r => wordOut (BitVec.ofInt 64 (A r * B r + (r.bits 2 c).toNat)))
    ∧ Gives (.isad h d a b c) h d 1 (fun r => bitsOut (((A r - B r).natAbs + (r.bits 1 c).toNat) % 2 ^ 32)))
  ∧ (∀ (h : Head) (d a b c : Spec),
    let el (r : Rd) (s : Spec) (j : Nat) : Int := intOf h.ty (r.bits 1 s >>> (h.ty.bits * j))
    let low (v : Int) : Out := bitsOut (v % 2 ^ 32).toNat
    Gives (.idp4 h d a b c) h d 1 (fun r => low (intOf .i32 (r.bits 1 c) + el r a 0 * el r b 0 + el r a 1 * el r b 1
      + el r a 2 * el r b 2 + el r a 3 * el r b 3))
    ∧ Gives (.idp2 h d a b c) h d 1 (fun r => low (intOf .i32 (r.bits 1 c) + el r a 0 * el r b 0 + el r a 1 * el r b 1)))
  ∧ (∀ (h : Head) (d a b : Spec) (sh : BitVec 5),
    Gives (.lea h d a b sh) h d 1 (fun r => bitsOut (((r.bits 1 a).toNat + (r.bits 1 b).toNat * 2 ^ sh.toNat) % 2 ^ 32))
    ∧ Gives (.leaw h d a b sh) h d 2 (fun r => wordOut (BitVec.ofInt 64 ((r.bits 2 a).toNat + intOf h.ty (r.bits 1 b) * 2 ^ sh.toNat))))

/-- 09 R228: the logic and shift instructions; the shift count is a single 32-bit operand read as n32. -/
def Obligations.LogicAndShifts : Prop :=
  ∀ (h : Head) (d a b c : Spec) (x : Word) (tbl : BitVec 8),
    let w := h.ty.bits
    let A (r : Rd) := r.src h.ty a
    let B (r : Rd) := r.src h.ty b
    let X := immX h.ty x
    let n (r : Rd) := (A r).toNat
    let sh (r : Rd) := (r.bits 1 b).toNat
    let low (v : DWord) : Out := wordOut (lowBits h.ty v)
    Gives (.and h d a b) h d h.ty.rw (fun r => low (A r &&& B r))
    ∧ Gives (.andImm h d a x) h d h.ty.rw (fun r => low (A r &&& X))
    ∧ Gives (.or h d a b) h d h.ty.rw (fun r => low (A r ||| B r))
    ∧ Gives (.orImm h d a x) h d h.ty.rw (fun r => low (A r ||| X))
    ∧ Gives (.xor h d a b) h d h.ty.rw (fun r => low (A r ^^^ B r))
    ∧ Gives (.xorImm h d a x) h d h.ty.rw (fun r => low (A r ^^^ X))
    ∧ Gives (.andn h d a b) h d h.ty.rw (fun r => low (A r &&& ~~~(B r)))
    ∧ Gives (.andnImm h d a x) h d h.ty.rw (fun r => low (A r &&& ~~~X))
    ∧ Gives (.not h d a) h d h.ty.rw (fun r => low (~~~(A r)))
    ∧ GivesBits (.bool3 h d a b c tbl) h d 1 (fun r i => decide (i < 32) &&
        tbl.getLsbD (((r.bits 1 a).getLsbD i).toNat + 2 * ((r.bits 1 b).getLsbD i).toNat + 4 * ((r.bits 1 c).getLsbD i).toNat))
    ∧ Gives (.shl h d a b) h d h.ty.rw (fun r => bitsOut (n r * 2 ^ sh r % 2 ^ w))
    ∧ Gives (.shlImm h d a x) h d h.ty.rw (fun r => bitsOut (n r * 2 ^ x.toNat % 2 ^ w))
    ∧ Gives (.shr h d a b) h d h.ty.rw (fun r => bitsOut (n r / 2 ^ sh r))
    ∧ Gives (.shrImm h d a x) h d h.ty.rw (fun r => bitsOut (n r / 2 ^ x.toNat))
    ∧ Gives (.sar h d a b) h d h.ty.rw (fun r => numOut h.ty (r.num h.ty a / 2 ^ sh r))
    ∧ Gives (.sarImm h d a x) h d h.ty.rw (fun r => numOut h.ty (r.num h.ty a / 2 ^ x.toNat))
    ∧ Gives (.rot h d a b) h d h.ty.rw (fun r => bitsOut (n r * 2 ^ (sh r % w) % 2 ^ w + n r / 2 ^ (w - sh r % w)))
    ∧ Gives (.rotImm h d a x) h d h.ty.rw (fun r => bitsOut (n r * 2 ^ (x.toNat % w) % 2 ^ w + n r / 2 ^ (w - x.toNat % w)))
    ∧ Gives (.xshr h d a b c) h d 1 (fun r =>
        bitsOut (((r.bits 1 b).toNat * 2 ^ 32 + (r.bits 1 a).toNat) / 2 ^ ((r.bits 1 c).toNat % 64) % 2 ^ 32))

/-- 09 R229: bit fields, reversal and counts. The field is cut at the width. 09 R230: each byte of d from a 5-bit code over the
eight bytes of a and b. -/
def Obligations.BitFields : Prop :=
  (∀ (h : Head) (d a b : Spec) (pos len : BitVec 8),
    let w := h.ty.bits
    let n (r : Rd) := (r.src h.ty a).toNat
    let top := min (pos.toNat + len.toNat) w
    let field (r : Rd) : Nat := n r % 2 ^ top / 2 ^ pos.toNat
    Gives (.bfx h d a pos len) h d h.ty.rw (fun r => numOut h.ty
        (if h.ty.signed ∧ 0 < top - pos.toNat ∧ (n r).testBit (top - 1) then (field r : Int) - 2 ^ (top - pos.toNat) else field r))
    ∧ Gives (.bfi h d a b pos len) h d h.ty.rw (fun r =>
        bitsOut (n r - field r * 2 ^ pos.toNat + (r.src h.ty b).toNat % 2 ^ (top - pos.toNat) * 2 ^ pos.toNat))
    ∧ GivesBits (.brev h d a) h d h.ty.rw (fun r i => decide (i < w) && (r.src h.ty a).getLsbD (w - 1 - i))
    ∧ Gives (.popc h d a) h d 1 (fun r => bitsOut ((List.range w).countP fun i => (n r).testBit i))
    ∧ Gives (.clz h d a) h d 1 (fun r => bitsOut (if n r = 0 then w else w - 1 - Nat.log2 (n r)))
    ∧ Gives (.ctz h d a) h d 1 (fun r => bitsOut (((List.range w).find? fun i => (n r).testBit i).getD w)))
  ∧ (∀ (h : Head) (d a b : Spec) (codes : BitVec 20),
    let byte (r : Rd) (i : Nat) : Byte :=
      let j := (codes.extractLsb' (5 * i) 3).toNat
      let v := if j < 4 then (r.bits 1 a).extractLsb' (8 * j) 8 else (r.bits 1 b).extractLsb' (8 * (j - 4)) 8
      match (codes.extractLsb' (5 * i + 3) 2).toNat with
      | 0 => v
      | 1 => 0x00
      | 2 => if v.getLsbD 7 then 0xFF else 0x00
      | _ => 0xFF
    Gives (.bpick h d a b codes) h d 1 (fun r => wordOut ((byte r 3 ++ byte r 2 ++ byte r 1 ++ byte r 0).setWidth 64)))

/-- 09 R227: truncated quotient and remainder of a non-zero divisor; with DZT 0, all ones and the dividend for zero. -/
def Obligations.Division : Prop :=
  ∀ (h : Head) (d a b : Spec) (x : Word) (s : State) (k : Nat) (c : Convoy), s.hasRoom k (destRegs d h.ty.rw) = true →
    let r := s.rd k
    let A := r.num h.ty a
    let quot (B : Int) : Out := numOut h.ty (if B = 0 then 2 ^ h.ty.bits - 1 else A.tdiv B)
    let rest (B : Int) : Out := numOut h.ty (if B = 0 then A else A - A.tdiv B * B)
    let B := r.num h.ty b
    let X := intOf h.ty (immX h.ty x)
    let runs (B : Int) : Prop := B ≠ 0 ∨ (s.th k).fmode.getLsbD 4 = false
    (Ready s (.idiv h d a b) h k c → runs B → Completes s (.idiv h d a b) k (s.outcome k d h.ty.rw (quot B)))
    ∧ (Ready s (.idivImm h d a x) h k c → runs X → Completes s (.idivImm h d a x) k (s.outcome k d h.ty.rw (quot X)))
    ∧ (Ready s (.irem h d a b) h k c → runs B → Completes s (.irem h d a b) k (s.outcome k d h.ty.rw (rest B)))
    ∧ (Ready s (.iremImm h d a x) h k c → runs X → Completes s (.iremImm h d a x) k (s.outcome k d h.ty.rw (rest X)))

/-! ### Compares, predicates, selects and moves, 09 R231 to R234 -/

/-- 09 R231: r := a CMP b in the type's order, joined with the destination's old truth. 09 R232: the ordered and unordered
relations, NV of .lt, .le, .gt, .ge on any NaN and of the others on a signalling one. -/
def Obligations.Compares : Prop :=
  (∀ (h : Head) (d a b : Spec) (cmp : BitVec 4) (join : BitVec 2),
    let rel (r : Rd) : Bool :=
      let A := r.num h.ty a
      let B := r.num h.ty b
      match cmp.toNat with
      | 0 => decide (A = B) | 1 => decide (A ≠ B) | 2 => decide (A < B) | 3 => decide (A ≤ B) | 4 => decide (B < A)
      | _ => decide (B ≤ A)
    let joined (r : Rd) : Bool :=
      let old := r.reg d 1 != 0
      match join.toNat with
      | 0 => rel r | 1 => rel r && old | 2 => rel r || old | _ => rel r ^^ old
    Gives (.icmp h d a b cmp join) h d 1 (fun r => bitsOut (joined r).toNat)
    ∧ Gives (.icmpv h d a b cmp join) h d 1 (fun r => bitsOut (joined r).toNat))
  ∧ (∀ (h : Head) (d a b : Spec) (cmp : BitVec 4) (join : BitVec 2),
    let A (r : Rd) := r.val h.ty (h.md.getLsbD 3) a
    let B (r : Rd) := r.val h.ty (h.md.getLsbD 3) b
    let un (r : Rd) : Bool := (A r).isNaN || (B r).isNaN
    let base (r : Rd) (n : Nat) : Bool :=
      match n with
      | 0 => Fp.eq (A r) (B r) | 1 => !Fp.eq (A r) (B r) | 2 => Fp.lt (A r) (B r)
      | 3 => Fp.lt (A r) (B r) || Fp.eq (A r) (B r) | 4 => !Fp.lt (A r) (B r) && !Fp.eq (A r) (B r)
      | _ => !Fp.lt (A r) (B r)
    let rel (r : Rd) : Bool :=
      if cmp.toNat < 6 then !un r && base r cmp.toNat
      else if cmp.toNat < 12 then un r || base r (cmp.toNat - 6)
      else if cmp.toNat = 12 then !un r else un r
    let joined (r : Rd) : Bool :=
      let old := r.reg d 1 != 0
      match join.toNat with
      | 0 => rel r | 1 => rel r && old | 2 => rel r || old | _ => rel r ^^ old
    let fl (r : Rd) : Fp.Flags :=
      if 2 ≤ cmp.toNat ∧ cmp.toNat ≤ 5 then (if un r then Fp.NV else 0) else Fp.sigFl (A r) ||| Fp.sigFl (B r)
    Gives (.fcmp h d a b cmp join) h d 1 (fun r => { v := BitVec.ofNat 64 (joined r).toNat, fl := fl r })
    ∧ Gives (.fcmpv h d a b cmp join) h d 1 (fun r => { v := BitVec.ofNat 64 (joined r).toNat, fl := fl r }))

/-- 09 R233, R234: PBOOL3, PMOV, SEL and the moves. -/
def Obligations.SelectsAndMoves : Prop :=
  ∀ (h : Head) (d a b c : Spec) (x : Word) (tbl : BitVec 8) (mask : BitVec 7) (pc : BitVec 3) (ng : BitVec 1),
    let bit (r : Rd) (s : Spec) : Nat := (decide (r.bits 1 s ≠ 0)).toNat
    Gives (.pbool3 h d a b c tbl) h d 1 (fun r => bitsOut (tbl.getLsbD (bit r a + 2 * bit r b + 4 * bit r c)).toNat)
    ∧ GivesBits (.pmovGet h d) h d 1 (fun r n => if n < 7 then r.pred n else decide (n = 7))
    ∧ (∀ (s : State) (k : Nat) (c : Convoy), Ready s (.pmovSet h a mask) h k c →
        Completes s (.pmovSet h a mask) k (s.setTh k fun t => { t with p := (t.p &&& ~~~mask) ||| ((s.r32 k a).setWidth 7 &&& mask) }))
    ∧ Gives (.sel h d a b pc ng) h d h.ty.rw (fun r =>
        wordOut (lowBits h.ty (if r.pred pc.toNat ^^ ng.getLsbD 0 then r.src h.ty a else r.src h.ty b)))
    ∧ Gives (.mov h d a) h d h.ty.rw (fun r => wordOut (lowBits h.ty (r.src h.ty a)))
    ∧ Gives (.movi h d x) h d 1 (fun _ => wordOut (x.setWidth 64))
    ∧ Gives (.movw h d a) h d 2 (fun r => wordOut (BitVec.ofInt 64 (intOf h.ty (r.bits 1 a))))

/-! ### Floating point, 09 R235 to R243 -/

/-- 09 R235: the exact result of the operands, rounded once in the named mode. 09 R240: the packed instructions act on each half
as the scalar instruction of the type. -/
def Obligations.FloatArithmetic : Prop :=
  (∀ (h : Head) (d a b c : Spec) (x : Word),
    let A (r : Rd) := r.val h.ty (r.ftz h) a
    let B (r : Rd) := r.val h.ty (r.ftz h) b
    let C (r : Rd) := r.val h.ty (r.ftz h) c
    let X (r : Rd) := Fp.decode h.ty.fmt (Fp.flushIn h.ty.fmt (r.ftz h) (fget h.ty (immX h.ty x)))
    let down (r : Rd) := r.mode h == .rd
    let put (r : Rd) (y : Fp.Res) : Out := fltOut h.ty (r.mode h) (r.ftz h) y
    Gives (.fadd h d a b) h d h.ty.rw (fun r => put r (Fp.add (down r) (A r) (B r)))
    ∧ Gives (.faddImm h d a x) h d h.ty.rw (fun r => put r (Fp.add (down r) (A r) (X r)))
    ∧ Gives (.fsub h d a b) h d h.ty.rw (fun r => put r (Fp.add (down r) (A r) (B r).neg))
    ∧ Gives (.fsubImm h d a x) h d h.ty.rw (fun r => put r (Fp.add (down r) (A r) (X r).neg))
    ∧ Gives (.fmul h d a b) h d h.ty.rw (fun r => put r (Fp.mul (A r) (B r)))
    ∧ Gives (.fmulImm h d a x) h d h.ty.rw (fun r => put r (Fp.mul (A r) (X r)))
    ∧ Gives (.ffma h d a b c) h d h.ty.rw (fun r => put r (Fp.fma (down r) (A r) (B r) (C r)))
    ∧ Gives (.fdiv h d a b) h d h.ty.rw (fun r => put r (Fp.div (A r) (B r)))
    ∧ Gives (.fsqrt h d a) h d h.ty.rw (fun r => put r (Fp.sqrt (A r)))
    ∧ Gives (.fscale h d a b) h d h.ty.rw (fun r => put r (Fp.scaleB (A r) (intOf .i32 (r.bits 1 b)))))
  ∧ (∀ (h : Head) (d a b c : Spec) (x : Word),
    let t := h.ty
    let half (w : DWord) (i : Nat) : Nat := (w.toNat / 65536 ^ i) % 65536
    let A (r : Rd) (i : Nat) := half (r.packed t a) i
    let B (r : Rd) (i : Nat) := half (r.packed t b) i
    let C (r : Rd) (i : Nat) := half (r.packed t c) i
    let X (i : Nat) := half (x.setWidth 64) i
    let val (r : Rd) (e : Nat) := Fp.decode t.fmt (Fp.flushIn t.fmt (r.ftz h) e)
    let down (r : Rd) := r.mode h == .rd
    let put (r : Rd) (y : Nat → Fp.Res) : Out :=
      let o (i : Nat) := Fp.flushOut t.fmt (r.ftz h) (Fp.roundTo t.fmt (r.mode h) false (y i))
      { v := BitVec.ofNat 64 ((o 0).1 + 65536 * (o 1).1), fl := (o 0).2 ||| (o 1).2 }
    let pick (greater : Bool) (m n : Nat → Nat) : Out :=
      let o (i : Nat) := Fp.minMax t.fmt greater (h.md.getLsbD 0) (m i) (n i)
      { v := BitVec.ofNat 64 ((o 0).1 + 65536 * (o 1).1), fl := (o 0).2 ||| (o 1).2 }
    Gives (.hadd2 h d a b) h d 1 (fun r => put r fun i => Fp.add (down r) (val r (A r i)) (val r (B r i)))
    ∧ Gives (.hadd2Imm h d a x) h d 1 (fun r => put r fun i => Fp.add (down r) (val r (A r i)) (val r (X i)))
    ∧ Gives (.hmul2 h d a b) h d 1 (fun r => put r fun i => Fp.mul (val r (A r i)) (val r (B r i)))
    ∧ Gives (.hmul2Imm h d a x) h d 1 (fun r => put r fun i => Fp.mul (val r (A r i)) (val r (X i)))
    ∧ Gives (.hfma2 h d a b c) h d 1 (fun r => put r fun i => Fp.fma (down r) (val r (A r i)) (val r (B r i)) (val r (C r i)))
    ∧ Gives (.hmin2 h d a b) h d 1 (fun r => pick false (A r) (B r))
    ∧ Gives (.hmin2Imm h d a x) h d 1 (fun r => pick false (A r) X)
    ∧ Gives (.hmax2 h d a b) h d 1 (fun r => pick true (A r) (B r))
    ∧ Gives (.hmax2Imm h d a x) h d 1 (fun r => pick true (A r) X))

/-- 03 R97, 09 R236: FMIN and FMAX of two values, −0 below +0, and their NaN forms. 09 R237: the sign instructions act on the
sign bit alone; FCLASS tells the class of an encoding. -/
def Obligations.MinMaxAndSigns : Prop :=
  (∀ (h : Head) (d a b : Spec) (x : Word),
    let t := h.ty
    let A (r : Rd) := fget t (r.src t a)
    let B (r : Rd) := fget t (r.src t b)
    let X := fget t (immX t x)
    let pick (greater : Bool) (m n : Nat) : Out :=
      let u := Fp.decode t.fmt m
      let v := Fp.decode t.fmt n
      let below := Fp.lt u v || (Fp.eq u v && Fp.signOf u && !Fp.signOf v)
      let above := Fp.lt v u || (Fp.eq v u && Fp.signOf v && !Fp.signOf u)
      let w := if u.isNaN ∧ v.isNaN then (t.fmt.nan).getD 0
        else if u.isNaN then (if h.md.getLsbD 0 then (t.fmt.nan).getD 0 else n)
        else if v.isNaN then (if h.md.getLsbD 0 then (t.fmt.nan).getD 0 else m)
        else if (if greater then below else above) then n else m
      { v := fput t w, fl := Fp.sigFl u ||| Fp.sigFl v }
    Gives (.fmin h d a b) h d t.rw (fun r => pick false (A r) (B r))
    ∧ Gives (.fminImm h d a x) h d t.rw (fun r => pick false (A r) X)
    ∧ Gives (.fmax h d a b) h d t.rw (fun r => pick true (A r) (B r))
    ∧ Gives (.fmaxImm h d a x) h d t.rw (fun r => pick true (A r) X))
  ∧ (∀ (h : Head) (d a b : Spec) (mask : BitVec 10),
    let t := h.ty
    let sgn := t.fmt.signBit
    let mag (r : Rd) := fget t (r.src t a) % sgn
    let neg (r : Rd) (s : Spec) : Bool := (fget t (r.src t s)).testBit (t.fmt.e + t.fmt.m)
    let put (r : Rd) (n : Bool) : Out := { v := fput t (if n then sgn + mag r else mag r) }
    let cls (r : Rd) : Nat :=
      match Fp.decode t.fmt (fget t (r.src t a)) with
      | .inf s => if s then 0 else 7
      | .nan sig => if sig then 8 else 9
      | .fin s m _ =>
          if m = 0 then (if s then 3 else 4)
          else if mag r < 2 ^ t.fmt.m then (if s then 2 else 5)
          else (if s then 1 else 6)
    Gives (.fabs h d a) h d t.rw (fun r => put r false)
    ∧ Gives (.fneg h d a) h d t.rw (fun r => put r (!neg r a))
    ∧ Gives (.fcpys h d a b) h d t.rw (fun r => put r (neg r b))
    ∧ Gives (.fclass h d a mask) h d (fclassWidth h d) (fun r => if d.isPred then bitsOut (mask.getLsbD (cls r)).toNat else bitsOut (2 ^ cls r)))

/-- 09 R238: FRND, FFRAC and FGETEXP, by the exact value n ÷ m of a finite operand. 09 R239: each approximated function completes
on every operand, with one result for one operand of a type; the special results of the rule are those given for ±0, ±∞, NaN and
numbers below −0. The results between those are the part's own, free values (log entry 8); the readings of the special results are
those of log entry 31. -/
def Obligations.FloatFunctions : Prop :=
  (∀ (h : Head) (d a : Spec),
    let t := h.ty
    let exactly (x : Fp.Res) : Out := fpOut t (Fp.roundTo t.fmt .rn false x)
    Gives (.frnd h d a) h d t.rw (fun r =>
      match r.val t (r.ftz h) a with
      | .nan s => exactly ⟨.nan, if s then Fp.NV else 0⟩
      | .inf s => exactly ⟨.inf s, 0⟩
      | .fin s m e => { exactly ⟨.num s (Fp.roundInt (r.mode h) s (Fp.frac m e).1 (Fp.frac m e).2).1.natAbs 1, 0⟩ with fl := 0 })
    ∧ Gives (.ffrac h d a) h d t.rw (fun r =>
      match r.val t (h.md.getLsbD 3) a with
      | .nan s => exactly ⟨.nan, if s then Fp.NV else 0⟩
      | .inf _ => exactly ⟨.nan, Fp.NV⟩
      | .fin s m e => fltOut t .rn (h.md.getLsbD 3) ⟨.num s ((Fp.frac m e).1 % (Fp.frac m e).2) (Fp.frac m e).2, 0⟩)
    ∧ Gives (.fgetexp h d a) h d t.rw (fun r =>
      match r.val t false a with
      | .nan s => exactly ⟨.nan, if s then Fp.NV else 0⟩
      | .inf _ => exactly ⟨.inf false, 0⟩
      | .fin _ m e =>
          if m = 0 then exactly ⟨.inf true, Fp.DZ⟩
          else let l : Int := Nat.log2 m + e; exactly ⟨.num (decide (l < 0)) l.natAbs 1, 0⟩))
  ∧ (∀ (h : Head) (d a : Spec),
    let t := h.ty
    let sp (r : Rd) := r.val t (h.md.getLsbD 3) a
    -- the results the rule names, where it names one
    let named (fn : Nat) (v : Fp.Val) : Option Fp.Res :=
      match fn, v with
      | _, .nan s => some ⟨.nan, if s then Fp.NV else 0⟩
      | 0, .fin s 0 _ => some ⟨.inf s, Fp.DZ⟩
      | 1, .fin false 0 _ => some ⟨.inf false, Fp.DZ⟩
      | 3, .fin _ 0 _ => some ⟨.inf true, Fp.DZ⟩
      | 2, .inf s => some (if s then ⟨.num false 0 1, 0⟩ else ⟨.inf false, 0⟩)
      | 4, .inf _ | 5, .inf _ => some ⟨.nan, Fp.NV⟩
      | 6, .inf s => some ⟨.num s 1 1, 0⟩
      | 4, .fin s 0 _ | 6, .fin s 0 _ => some ⟨.num s 0 1, 0⟩
      | 5, .fin _ 0 _ => some ⟨.num false 1 1, 0⟩
      | 1, .inf true | 3, .inf true => some ⟨.nan, Fp.NV⟩
      | 1, .fin true (_ + 1) _ | 3, .fin true (_ + 1) _ => some ⟨.nan, Fp.NV⟩
      | _, _ => none
    let gives (i : Instr) (fn : Nat) : Prop :=
      ∃ f : Rd → Out, Gives i h d t.rw f ∧ (∀ r r', r.src t a = r'.src t a → f r = f r')
        ∧ ∀ r y, named fn (sp r) = some y → f r = fpOut t (Fp.roundTo t.fmt .rn false y)
    gives (.frcp h d a) 0 ∧ gives (.frsq h d a) 1 ∧ gives (.fexp2 h d a) 2 ∧ gives (.flog2 h d a) 3 ∧ gives (.fsin h d a) 4
      ∧ gives (.fcos h d a) 5 ∧ gives (.ftanh h d a) 6)

/-- 09 R241: the value of the source type rounded to the destination type; an integer destination clamps, with NV on a clamp and
on NaN, else NX where it is inexact; .sr takes one step of the rng. -/
def Obligations.Conversions : Prop :=
  ∀ (h : Head) (d a b : Spec),
    let st := stypeOf b
    let sr := h.md.extractLsb' 0 3 == 6
    let rng (r : Rd) : Word := if sr then rngStep r.rng else r.rng
    let mode (r : Rd) := rndOf h.md r.fmode ((rng r).toNat / 65536)
    let x (r : Rd) : Fp.Res :=
      if st.isFloat then let v := r.val st (r.ftz h) a; ⟨v.ex, Fp.sigFl v⟩
      else let n := r.num st a; ⟨.num (decide (n < 0)) n.natAbs 1, 0⟩
    let whole (r : Rd) : Out :=
      match (x r).x with
      | .nan => { v := 0, fl := Fp.NV }
      | .inf s => { v := intPut h.ty (clampTo h.ty (if s then -(2 ^ 64) else 2 ^ 64)), fl := Fp.NV }
      | .num s n m =>
          let q := Fp.roundInt (mode r) s n m
          { v := intPut h.ty (clampTo h.ty q.1), fl := if clampTo h.ty q.1 ≠ q.1 then Fp.NV else if q.2 then Fp.NX else 0 }
    Gives (.cvtw h d a b) h d h.ty.rw (fun r =>
      { (if h.ty.isFloat then fltOut h.ty (mode r) (r.ftz h) (x r) else whole r) with rng := if sr then some (rng r) else none })

/-- 09 R242, R243: the elements of a slot's format packed and unpacked, times the scale in bits 7:0 of B, and one element of a
variable-block row. Readings of the rules, a zero scale among them, are the model's (log entry 31). -/
def Obligations.SlotConversions : Prop :=
  ∀ (s : State) (k : Nat) (c : Convoy) (h : Head) (d a b : Spec) (idx : BitVec 3) (sl : Fp.Slot),
    let r := s.rd k
    r.slot (h.md.extractLsb' 0 3).toNat = some sl →
    let w := Fp.elemWidth sl.fmt
    let n := if w = 16 then 2 else if w = 4 then 8 else 4
    let S : Fp.Val := if sl.scheme = 0 then .fin false 1 0 else Fp.scaleVal sl.sfmt ((r.bits 1 b).toNat % 256)
    let packs := sl.scheme ≤ 2 ∧ w ≤ 16 ∧ (sl.scheme ≠ 0 ∨ b = .v 0)
    let f32 (v : Fp.Val) : Nat × Fp.Flags := Fp.roundTo Fp.f32 .rn false ⟨v.ex, 0⟩
    (∀ i, a = .v i → packs → Ready s (.cvtnPk h d a b) h k c → s.hasRoom k (destRegs d 1) = true →
      let q (j : Nat) : Nat × Fp.Flags :=
        if S.isNaN then ((match Fp.elemOf sl.fmt with | .flt f => f.nan.getD 0 | .int _ _ => 0), Fp.NV)
        else Fp.elemRound sl.fmt (sl.rnd (((Nat.repeat rngStep (j + 1) r.rng)).toNat / 65536)) sl.sat
          (Fp.div (Fp.decode Fp.f32 (r.bits 1 (.v (i + BitVec.ofNat 8 j))).toNat) S)
      Completes s (.cvtnPk h d a b) k (s.outcome k d 1
        { v := BitVec.ofNat 64 (((List.range n).map fun j => (q j).1 % 2 ^ w * 2 ^ (w * j)).sum)
          fl := (List.range n).foldr (fun j f => (q j).2 ||| f) 0
          rng := if sl.rm = 5 then some (Nat.repeat rngStep n r.rng) else none }))
    ∧ (∀ i, d = .v i → packs → Ready s (.cvtnUnpk h d a b) h k c → s.hasRoom k ((List.range n).map (i.toNat + ·)) = true →
      let code (j : Nat) : Nat := (r.bits 1 a).toNat / 2 ^ (w * j) % 2 ^ w
      let x (j : Nat) : Nat × Fp.Flags :=
        if S.isNaN then (0x7FC00000, 0)
        else let p := Fp.mulVal (Fp.elemVal sl.fmt (code j)) S; Fp.roundTo Fp.f32 .rn false ⟨p.1.ex, p.2⟩
      Completes s (.cvtnUnpk h d a b) k (s.setTh k fun t =>
        ({ t with fflg := t.fflg ||| (List.range n).foldr (fun j f => (x j).2 ||| f) 0 } : Thread).puts i.toNat
          ((List.range n).map fun j => BitVec.ofNat 32 (x j).1)))
    ∧ (sl.scheme = 3 → Ready s (.vblkx h d a b idx) h k c → s.hasRoom k (destRegs d 1) = true →
      let o := f32 (Fp.vblkVal sl.fmt ((r.bits 1 a).toNat / 2 ^ (4 * idx.toNat) % 16) ((r.bits 1 b).toNat % 65536))
      Completes s (.vblkx h d a b idx) k (s.outcome k d 1 { v := BitVec.ofNat 64 o.1, fl := o.2 }))

/-! ### Control, 01 R25, R35, R36, 08 R195 to R220 -/

/-- 01 R25, R35, R36, 08 R200, R201: where a thread stands once it has completed an instruction: at the target of a taken
transfer, at its next repetition, at the start of a loop whose count is above 1 at its end, at a pending skip's exit after an
END, else at the next slot; a level whose count is used up is free, and the level around it is checked at the same place. -/
def Obligations.MovingOn : Prop :=
  ∀ (t : Thread) (now : Nat) (fin : Bool),
    let u := t.complete now fin
    let skip := if fin then t.skips.find? fun q => q.lvl == t.tlvl else none
    (∀ a, t.rep = none → t.jump = some a → u.flow = ⟨a, t.loops, t.skips.filter fun q => q.lvl != t.tlvl, none⟩)
    ∧ (∀ r, t.rep = some r → r.idx + 1 < r.tot → u.flow = ⟨t.pc, t.loops, t.skips, some { r with idx := r.idx + 1 }⟩)
    ∧ (∀ r, t.rep = some r → r.tot ≤ r.idx + 1 → u.flow = (Thread.complete { t with rep := none, jump := none } now fin).flow)
    ∧ (t.rep = none → t.jump = none → skip = none → t.innerEnd ≠ some t.pc → u.flow = ⟨nextPC t.pc, t.loops, t.skips, none⟩)
    ∧ (∀ ls l, t.rep = none → t.jump = none → skip = none → t.loops = ls ++ [l] → l.lvl = t.tlvl → l.le = t.pc →
        (1 < l.lc.toNat → u.flow = ⟨l.ls, ls ++ [{ l with lc := l.lc - 1 }], t.skips, none⟩)
        ∧ (l.lc.toNat ≤ 1 → u.flow = (Thread.complete { t with loops := ls } now fin).flow))
    ∧ (∀ q, t.rep = none → t.jump = none → skip = some q → u.pc = q.exit ∧ u.skips = t.skips.filter fun x => x.lvl != t.tlvl)

/-- 08 R197, R198, R202: a taken transfer's target, and the link of a call. 08 R200: LOOP and LOOPX open a level from the next
stretch's header to the slot before the exit, a zero count of LOOPX leaves a skip pending instead; an exit too near, or a skip
that is pending, raises 0x04, a fifth level 0x01. -/
def Obligations.TransfersAndLoops : Prop :=
  (∀ (s : State) (k : Nat) (c : Convoy) (h : Head) (d a : Spec) (x : Word),
    let pc := (s.th k).pc
    let near : DWord := slotPC ((slotN pc : Int) + x.toInt)
    let far : DWord := (s.cx (s.ctxTh k)).forward (s.r64 k a)
    let link : DWord := slotPC (slotN pc + 1)
    let goes (u : State) (to_ : DWord) : State := u.setTh k fun t => { t with jump := some to_ }
    (Ready s (.bra h x) h k c → Completes s (.bra h x) k (goes s near))
    ∧ (Ready s (.brx h a) h k c → Completes s (.brx h a) k (goes s far))
    ∧ (Ready s (.ret h a) h k c → Completes s (.ret h a) k (goes s far))
    ∧ (Ready s (.call h d x) h k c → s.hasRoom k (destRegs d 2) = true →
        Completes s (.call h d x) k (goes (s.dest k d 2 link) near))
    ∧ (Ready s (.callx h d a) h k c → s.hasRoom k (destRegs d 2) = true →
        Completes s (.callx h d a) k (goes (s.dest k d 2 link) far))
    ∧ (∀ l, Ready s (.lbrk h) h k c → (s.th k).loops.getLast? = some l → l.lvl = (s.th k).tlvl →
        Completes s (.lbrk h) k (goes (s.setTh k fun t => { t with loops := t.loops.dropLast }) (slotPC (slotN l.le + 1))))
    ∧ (Ready s (.lbrk h) h k c → (∀ l, (s.th k).loops.getLast? = some l → l.lvl ≠ (s.th k).tlvl) → s.handled k 0x01 = true →
        Leaves s (.lbrk h) k (s.trap k ⟨0x01, 0, none, none⟩)))
  ∧ (∀ (s : State) (k : Nat) (c : Convoy) (h : Head) (a : Spec) (x : Word),
    let t := s.th k
    let n := (s.r32 k a).toNat
    let start : DWord := slotPC (slotN c.hdr + c.len.toNat + 1)
    let exit : DWord := slotPC ((slotN t.pc : Int) + x.toInt)
    let far := slotN start + 2 ≤ slotN exit
    let pending := ∃ q ∈ t.skips, q.lvl = t.tlvl
    let opened : State := s.setTh k fun t =>
      { t with loops := t.loops ++ [⟨BitVec.ofNat 32 (max n 1), start, slotPC ((slotN exit : Int) - 1), t.tlvl⟩] }
    let each (i : Instr) (skips : Bool) : Prop :=
      Ready s i h k c →
        (far → ¬pending → ¬(skips = true ∧ n = 0) → t.loops.length < 4 → Completes s i k opened)
        ∧ (far → ¬pending → skips = true → n = 0 → Completes s i k (s.setTh k fun t => { t with skips := t.skips ++ [⟨exit, t.tlvl⟩] }))
        ∧ (¬far ∨ pending → s.handled k 0x04 = true → Leaves s i k (s.trap k ⟨0x04, exit, none, none⟩))
        ∧ (far → ¬pending → ¬(skips = true ∧ n = 0) → 4 ≤ t.loops.length → s.handled k 0x01 = true →
            Leaves s i k (s.trap k ⟨0x01, 4, none, none⟩))
    each (.loop h a x) false ∧ each (.loopx h a x) true)

/-- 08 R196, R217 to R220: NOP, WAITF on flags that are zero, SETMODE, SETPERF and GETCLK. 08 R205 to R207: EXIT ends the thread
for good, YIELD goes on with the thread standing back, PHASE parks it at its next address once what its release orders is
performed; a PHASE of level 1, or in a message handler, raises 0x01. PHASE at level 2, what YIELD does at a loop's end and the clocks' start are the model's (log entries 3,
12, 35). -/
def Obligations.ModesExitAndPhase : Prop :=
  (∀ (s : State) (k : Nat) (c : Convoy) (h : Head) (d a : Spec) (mask : BitVec 12) (v m : BitVec 6),
    (Ready s (.nop h) h k c → Completes s (.nop h) k s)
    ∧ (Ready s (.waitf h mask) h k c → (∀ f, mask.getLsbD f = true → Tab.getD f 0 (s.th k).cf = 0) → Completes s (.waitf h mask) k s)
    ∧ (Ready s (.setmode h v m) h k c → Completes s (.setmode h v m) k (s.setTh k fun t => { t with fmode :=
        (let w := (t.fmode &&& ~~~m) ||| (v &&& m); if w.getLsbD 2 then (w &&& 0x38) ||| (t.fmode &&& 7) else w) }))
    ∧ (Ready s (.setperf h a) h k c → Completes s (.setperf h a) k (s.setTh k fun t => { t with perf := min (s.r32 k a).toNat 3 }))
    ∧ (Ready s (.getclk h d a) h k c → s.hasRoom k (destRegs d 2) = true →
        Completes s (.getclk h d a) k (s.dest k d 2 (BitVec.ofNat 64 (if a = .imm 0 then s.cycle else s.ns)))))
  ∧ (∀ (s : State) (k : Nat) (c : Convoy) (h : Head), (s.th k).status = .running →
    (Ready s (.exit h) h k c → (s.crewTh k).handler = false → ∃ t, exec (.exit h) s = .next t ∧ t.outside k = true ∧ t.live k = false
      ∧ (t.th k).cf = [] ∧ (t.th k).loops = [] ∧ (t.th k).skips = [] ∧ (t.th k).rep = none ∧ (t.th k).leases = []
      ∧ (t.ops.all fun (_, o) => !(o.th == k && o.kind == .load)) = true)
    ∧ (Ready s (.yield h) h k c → ∃ t, exec (.yield h) s = .next t ∧ Went s t k (endHint (.yield h)) ∧ (t.th k).yielded = true
      ∧ ((t.th k).status = .ready → (t.th k).since = s.cycle ∧ (t.th k).yld = true))
    ∧ (Ready s (.phase h) h k c → (s.th k).tlvl ≠ 1 → (s.crewTh k).handler = false → s.releasing k .device = false → (s.th k).leases = [] →
        ∃ t, exec (.phase h) s = .next t ∧ Went s t k (endHint (.phase h)) ∧ (t.th k).status = .phase ∧ t.outside k = true)
    ∧ (Ready s (.phase h) h k c → (s.th k).tlvl = 1 ∨ (s.crewTh k).handler = true → s.handled k 0x01 = true →
        Leaves s (.phase h) k (s.trap k ⟨0x01, 0, none, none⟩)))

/-- 08 R208 to R210: RPT sets the repeat state where the word that follows may repeat: CNT + 1 repetitions with its steps,
repetition i with i × step added to the D, A and B indices. Where the guard of RPT is false the word runs once, unstepped, and the
repetitions after it are guarded off. A repeat at a loop's end and the grant a repeated word asks for follow
log entries 35 and 41. -/
def Obligations.Repeats : Prop :=
  (∀ (s : State) (k : Nat) (c : Convoy) (h : Head) (cnt : BitVec 6) (d a b : BitVec 3) (w : IWord),
    let i : Instr := .rpt h cnt d a b
    let r : Rep := ⟨0, cnt.toNat + 1, d, a, b⟩
    Ready s i h k c → s.wantsBurst i h cnt = false →
      (c.last = true → s.handled k 0x04 = true → Leaves s i k (s.trap k ⟨0x04, c.hdr, none, none⟩))
      ∧ (c.last = false → s.wordAfter k (s.th k).pc 1 = .word w →
        let op := (w.extractLsb' 88 8).toNat
        let barred := (1 ≤ op ∧ op ≤ 0x0A) ∨ op = 0x58 ∨ (0x90 ≤ op ∧ op ≤ 0x97)
        (barred → s.handled k 0x01 = true → Leaves s i k (s.trap k ⟨0x01, highBits w, none, none⟩))
        ∧ (¬barred → stepClassOk w r = false → s.handled k 0x01 = true → Leaves s i k (s.trap k ⟨0x01, 0, none, none⟩))
        ∧ (¬barred → stepClassOk w r = true → (∀ n, n ≤ cnt.toNat → s.repOk k w r n = true) →
            ∃ t, exec i s = .next t ∧ (t.th k).regs = (s.th k).regs ∧ (t.th k).rep = some r
              ∧ (t.th k).pc = ((s.th k).complete s.cycle (endHint i)).pc ∧ (∀ j, j ≠ k → t.th j = s.th j) ∧ t.world = s.world)
        ∧ (∀ n, ¬barred → stepClassOk w r = true → n ≤ cnt.toNat → s.repOk k w r n = false → (∀ m, m < n → s.repOk k w r m = true) →
            s.handled k 0x01 = true → Leaves s i k (s.trap k ⟨0x01, BitVec.ofNat 64 n, none, none⟩))))
  ∧ (∀ (s : State) (k : Nat) (c : Convoy) (h : Head) (cnt : BitVec 6) (d a b : BitVec 3) (w : IWord),
    let i : Instr := .rpt h cnt d a b
    Stands s i h k c → s.guard k h.g = false → s.guardPending k h = false → c.misplaced (s.th k) h.h.fin h.h.flg = false →
      c.last = false → s.wordAfter k (s.th k).pc 1 = .word w → noRepeat (w.extractLsb' 88 8).toNat = false → 0 < cnt.toNat →
      ∃ t, exec i s = .next t ∧ (t.th k).regs = (s.th k).regs ∧ (t.th k).rep = some ⟨0, cnt.toNat + 1, 0, 0, 0⟩
        ∧ (t.th k).pc = ((s.th k).complete s.cycle (endHint i)).pc ∧ (∀ j, j ≠ k → t.th j = s.th j) ∧ t.world = s.world
        ∧ ((s.th k).rep = none → (t.th k).idles = false
          ∧ ∀ n g, 0 < n → State.guard (t.setTh k fun x => { x with rep := some ⟨n, cnt.toNat + 1, 0, 0, 0⟩ }) k g = false))
  ∧ (∀ (f : Fields) (n : Int × Int × Int),
      let moved (x : BitVec 10) (m : Int) : Option (BitVec 10) :=
        let j : Int := (x.toNat % 256 : Nat) + m
        if m = 0 then some x
        else if x.toNat < 512 ∧ 0 ≤ j ∧ j ≤ 255 then some (BitVec.ofNat 10 (x.toNat / 256 * 256 + j.toNat))
        else none
      stepWord f.toWord n = (moved f.d n.1).bind fun d => (moved f.a n.2.1).bind fun a => (moved f.b n.2.2).map fun b =>
        ({ f with d := d, a := a, b := b } : Fields).toWord)

/-! ### Causes, guards and headers, 01 R19, R20, 06 R151, R155, R165 to R167 -/

/-- 06 R151: a word whose guard is false has no effect on its thread, which moves on; the cross-lane words meet all the same, and
RPT is told of in Repeats. 01 R20, 06 R151, R165 to R167: of the causes that a word can raise by itself one is raised: 0x04 where its position or its hints
are wrong, whatever its guard, or a transfer stands before the last place; else 0x01 where it is malformed; else 0x03 where it
is privileged. Nothing else happens to the thread. 01 R19, R20, 06 R155: a header with legal fields opens its stretch for the
convoy; other fields raise 0x04 on every thread that arrives at it, and a header among the words of a stretch raises 0x04 there.
-/
def Obligations.WordCauses : Prop :=
  (∀ (s : State) (i : Instr) (h : Head) (k : Nat) (c : Convoy), Stands s i h k c → i.isCrossLane = false →
    (∀ g cnt d a b, i ≠ .rpt g cnt d a b) → s.guard k h.g = false → s.guardPending k h = false → c.misplaced (s.th k) h.h.fin h.h.flg = false → Completes s i k s)
  ∧ (∀ (s : State) (i : Instr) (h : Head) (k : Nat) (c : Convoy), Stands s i h k c →
    let t := s.th k
    let misplaced := (h.h.fin = true ↔ slotN c.pc - slotN c.hdr ≠ c.len.toNat) ∨ h.h.flg = 3 ∨ (h.h.flg = 1 ∧ c.sa.getLsbD 4 = false)
      ∨ (h.h.flg = 2 ∧ c.sb.getLsbD 4 = false) ∨ (t.innerEnd = some c.pc ∧ h.h.fin = false)
    let early := i.isTransfer = true ∧ slotN c.pc - slotN c.hdr ≠ c.len.toNat
    let malformed := i.wf = false ∨ s.slotOk k i = false ∨ (s.usesOf k i).all (Use.okRegs (s.regsTh k)) = false
    let privileged := (i.isSystem = true ∨ i.uses.any Use.level2 = true) ∧ s.isSys k = false
    (misplaced → s.handled k 0x04 = true → Leaves s i k (s.trap k ⟨0x04, c.hdr, none, none⟩))
    ∧ (s.guard k h.g = true → early → s.handled k 0x04 = true → Leaves s i k (s.trap k ⟨0x04, c.hdr, none, none⟩))
    ∧ (s.guard k h.g = true → ¬misplaced → ¬early → malformed → s.handled k 0x01 = true →
        Leaves s i k (s.trap k ⟨0x01, highBits c.word, none, none⟩))
    ∧ (s.guard k h.g = true → ¬misplaced → ¬early → ¬malformed → privileged → s.handled k 0x03 = true →
        Leaves s i k (s.trap k ⟨0x03, highBits c.word, none, none⟩)))
  ∧ (∀ (s : State) (c : Convoy) (wait : BitVec 12) (sa sb len : BitVec 5) (pri : BitVec 3), s.front = some c →
    let i : Instr := .strh wait sa sb len pri
    let legal := 1 ≤ len.toNat ∧ len.toNat ≤ 24 ∧ (sa.getLsbD 4 = true → (sa.extractLsb' 0 4).toNat ≤ 11)
      ∧ (sb.getLsbD 4 = true → (sb.extractLsb' 0 4).toNat ≤ 11)
    (c.pc = c.hdr → legal → c.mem ≠ [] → ∃ t d, exec i s = .next t ∧ t.front = some d ∧ d.wait = wait ∧ d.sa = sa ∧ d.sb = sb
      ∧ d.len = len ∧ d.pri = pri ∧ d.mem = c.mem ∧ d.hdr = c.hdr ∧ d.pc = nextPC c.hdr
      ∧ (∀ k, t.th k = if k ∈ c.mem ∧ (Tab.find k s.threads).isSome then { s.th k with pc := nextPC c.hdr } else s.th k) ∧ t.mem = s.mem)
    ∧ (c.pc = c.hdr → ¬legal → ∃ t, exec i s = .next t
      ∧ ∀ k, c.mem = [k] → t = s.trap k ⟨0x04, highBits (headerWord wait sa sb len pri), none, none⟩)
    ∧ (∀ k, c.pc ≠ c.hdr → c.mem = [k] → (s.th k).pc = c.pc →
        ((s.convoys.drop 1).all fun d => !d.isOf c.part c.lane && !d.mem.contains k) = true → s.handled k 0x04 = true →
        (s.rows.all fun (_, x) => x.regs.all fun (_, y) => !y.reserve) = true → Leaves s i k (s.trap k ⟨0x04, c.hdr, none, none⟩)))

/-! ### Traps, 08 R212 to R216, 16 R337 to R341 -/

/-- 08 R212, 16 R337: a cause raised at level 0 goes to level 1 where the route mask names it and TRAP1 is set; cause 0x30, and
every cause of level 1, goes to level 2. 08 R213, R214, 16 R338, R339: what entering a trap saves, where the thread goes on, and
what it leaves as it was; 02 R60: a trap within a slice ends the eligibility of its target. -/
def Obligations.TrapEntry : Prop :=
  (∀ (s : State) (k : Nat) (r : Raise),
    let t := s.th k
    let x := s.cx (s.ctxTh k)
    let to1 := t.tlvl = 0 ∧ x.route.getLsbD r.cause.toNat = true ∧ r.cause ≠ 0x30 ∧ (s.laTh k).rcd.trap1 ≠ 0
    s.live k = true →
    (to1 → s.trap k r = s.enter1 k r t.pc t.hofs)
    ∧ (t.tlvl ≠ 2 → ¬to1 → x.tvec2 ≠ 0 → s.trap k r = s.enter2 k r t.pc t.hofs)
    ∧ (t.tlvl = 2 ∨ (¬to1 ∧ x.tvec2 = 0) → s.trap k r = s.kill (s.ctxTh k) r.cause.toNat t.pc t.tpc2 t.tva2 0 (s.coreTh k)))
  ∧ (∀ (s : State) (k : Nat) (r : Raise) (pc : DWord) (hofs : Nat), (Tab.find k s.threads).isSome → (s.th k).leases = [] →
    (s.th k).loops.length ≤ 4 → (∀ p, (s.th k).rep = some p → p.idx < 64 ∧ p.tot ≤ 64) → hofs < 32 →
    let t := s.th k
    let status (from1 : Bool) (w : Word) : Prop :=
      w.extractLsb' 0 5 = BitVec.ofNat 5 hofs ∧ w.getLsbD 5 = from1 ∧ w.extractLsb' 28 3 = BitVec.ofNat 3 t.loops.length
      ∧ (match t.rep with
        | none => w.getLsbD 31 = false ∧ w.extractLsb' 6 22 = 0
        | some p => w.getLsbD 31 = true ∧ w.extractLsb' 25 3 = p.d ∧ w.extractLsb' 22 3 = p.a ∧ w.extractLsb' 19 3 = p.b
            ∧ w.extractLsb' 13 6 = BitVec.ofNat 6 p.idx ∧ w.extractLsb' 6 7 = BitVec.ofNat 7 p.tot)
    let low56 (x : DWord) : DWord := x &&& 0x00FFFFFFFFFFFFFF
    let kept (s' : State) : Prop :=
      let u := s'.th k
      u.rep = none ∧ u.loops = t.loops ∧ u.skips = t.skips ∧ u.v = t.v ∧ u.p = t.p ∧ u.cf = t.cf ∧ u.fflg = t.fflg
      ∧ u.fmode = t.fmode ∧ u.rng = t.rng ∧ u.perf = t.perf ∧ u.elig = t.elig.filter (fun e => !t.slice.any fun x => x.reg == e.reg) ∧ s'.outside k = true
      ∧ (∀ j, j ≠ k → s'.th j = s.th j) ∧ s'.world = s.world
    (t.tlvl = 0 → let s' := s.enter1 k r pc hofs
      let u := s'.th k
      kept s' ∧ u.tpc1 = low56 pc ∧ u.tca1 = r.cause.setWidth 32 ∧ u.tva1 = r.tva ∧ status false u.tst1 ∧ u.tlvl = 1
      ∧ u.pc = s.forward k (s.laTh k).rcd.trap1 ∧ u.tpc2 = t.tpc2 ∧ u.tca2 = t.tca2 ∧ u.tva2 = t.tva2 ∧ u.tst2 = t.tst2)
    ∧ (t.tlvl ≠ 2 → let s' := s.enter2 k r pc hofs
      let u := s'.th k
      kept s' ∧ u.tpc2 = low56 pc ∧ u.tca2 = r.cause.setWidth 32 ∧ u.tva2 = r.tva ∧ status (t.tlvl == 1) u.tst2 ∧ u.tlvl = 2
      ∧ u.pc = (s.cx (s.ctxTh k)).tvec2 ∧ u.tpc1 = t.tpc1 ∧ u.tca1 = t.tca1 ∧ u.tva1 = t.tva1 ∧ u.tst1 = t.tst1
      ∧ (∀ a, r.tslc = some a → u.tslc = low56 a)))

/-- 08 R215, 09 R227: TRAP raises 0x20 with its code, a division by zero 0x08 with the dividend, extended to 64 bits, where DZT is
1. 08 R216, 16 R341: TRET and TRETS return to the saved address, or to the one after it, free the levels above LBASE and wake the
others, restore or abandon the repeat, and lower the level; from another level they raise 0x01. Where a mismatch on return goes
follows log entry 40. -/
def Obligations.RaisedCausesAndReturns : Prop :=
  (∀ (s : State) (k : Nat) (c : Convoy) (h : Head) (d a b : Spec) (x : Word) (code : BitVec 16),
    (Ready s (.trap h code) h k c → s.handled k 0x20 = true →
        Leaves s (.trap h code) k (s.trap k ⟨0x20, code.setWidth 64, none, none⟩))
    ∧ (s.handled k 0x08 = true → (s.th k).fmode.getLsbD 4 = true →
        let r : Raise := ⟨0x08, BitVec.ofInt 64 ((s.rd k).num h.ty a), none, none⟩
        (Ready s (.idiv h d a b) h k c → (s.rd k).num h.ty b = 0 → Leaves s (.idiv h d a b) k (s.trap k r))
        ∧ (Ready s (.irem h d a b) h k c → (s.rd k).num h.ty b = 0 → Leaves s (.irem h d a b) k (s.trap k r))
        ∧ (Ready s (.idivImm h d a x) h k c → intOf h.ty (immX h.ty x) = 0 → Leaves s (.idivImm h d a x) k (s.trap k r))
        ∧ (Ready s (.iremImm h d a x) h k c → intOf h.ty (immX h.ty x) = 0 → Leaves s (.iremImm h d a x) k (s.trap k r))))
  ∧ (∀ (s : State) (k : Nat) (c : Convoy) (h : Head),
    let t := s.th k
    let each (i : Instr) (lvl dest : Nat) (tpc : DWord) (st : Word) : Prop :=
      let woken : Thread := { t with
        loops := (t.loops.take (st.extractLsb' 28 3).toNat).map fun l => { l with lvl := min l.lvl dest }
        skips := t.skips.filter fun q => decide (q.lvl ≤ dest) }
      let last := (match s.peek k (s.forward k tpc) with
        | some w => endBit w
        | none => false)
      let flow : Flow :=
        if h.md.getLsbD 0 then (Thread.complete { woken with pc := tpc, tlvl := dest, rep := none, jump := none } 0 last).flow
        else ⟨tpc, woken.loops, woken.skips, if st.getLsbD 31 then
          some ⟨(st.extractLsb' 13 6).toNat, (st.extractLsb' 6 7).toNat, st.extractLsb' 25 3, st.extractLsb' 22 3, st.extractLsb' 19 3⟩
          else none⟩
      -- within the same stretch where it goes on to the next slot and the word was no last one
      let hofs := if h.md.getLsbD 0 then (if last = true ∨ flow.pc ≠ nextPC tpc then 0 else st.toNat % 32 + 1) else st.toNat % 32
      let pc := s.forward k flow.pc
      let hdr := if hofs = 0 then pc else slotPC ((slotN pc : Int) - hofs)
      Ready s i h k c → t.tlvl = lvl → isSlotPC hdr = true → (∀ w, s.peek k hdr = some w → isHeader w = true ∧ hofs ≤ (hdrLen w).toNat) →
        ∃ u, exec i s = .next u ∧ u.outside k = true ∧ (u.th k).regs = { t.regs with tlvl := dest }
          ∧ (u.th k).flow = { flow with pc := pc } ∧ (u.th k).hdr = hdr ∧ (u.th k).status = .ready
          ∧ (∀ j, j ≠ k → u.th j = s.th j) ∧ u.world = s.world
    each (.tret h) 1 0 t.tpc1 t.tst1
    ∧ each (.trets h) 2 (if t.tst2.getLsbD 5 then 1 else 0) t.tpc2 t.tst2
    ∧ (Ready s (.tret h) h k c → t.tlvl ≠ 1 → s.handled k 0x01 = true → Leaves s (.tret h) k (s.trap k ⟨0x01, 0, none, none⟩))
    ∧ (Ready s (.trets h) h k c → t.tlvl ≠ 2 → s.handled k 0x01 = true → Leaves s (.trets h) k (s.trap k ⟨0x01, 0, none, none⟩)))

/-! ### Lanes, 10 R244 to R256 -/

/-- 10 R245, R246, R249: LANEX, for every row whose named threads have met. 10 R250, R251: POLL and PEERS. -/
def Obligations.LaneExchangeAndPolls : Prop :=
  (∀ (s : State) (r : Nat) (c : Convoy) (h : Head) (d a b : Spec) (mask : Word),
    let con := s.contributors h r c
    let named := (List.range 32).filter fun l => mask.getLsbD l
    let dist (l : Nat) : Nat := (s.r32 (laneKey r l) b).toNat
    let each (i : Instr) (src : Nat → Option Nat) : Prop :=
      Meeting s i h mask r c → (∀ k ∈ c.mem, s.hasRoom k (destRegs d h.ty.rw) = true) →
        CompletesLanes s i h r c fun l t =>
          let from_ := (src l).filter con.contains
          (t.dest d h.ty.rw (s.regRead (laneKey r (from_.getD l)) a h.ty.rw)).setPred (h.md.extractLsb' 0 3).toNat from_.isSome
    each (.lanexPick h d a b mask) (fun l => some (dist l % 32))
    ∧ each (.lanexBack h d a b mask) (fun l => if dist l ≤ l then some (l - dist l) else none)
    ∧ each (.lanexFwd h d a b mask) (fun l => if l + dist l ≤ 31 then some (l + dist l) else none)
    ∧ each (.lanexFlip h d a b mask) (fun l => some (l ^^^ (dist l % 32)))
    ∧ each (.lanexRot h d a b mask) (fun l =>
        ((List.range named.length).find? fun i => named[i]? == some l).bind fun i => named[(i + dist l) % named.length]?))
  ∧ (∀ (s : State) (r : Nat) (c : Convoy) (h : Head) (d a : Spec) (mask : Word),
    let con := s.contributors h r c
    let named := (List.range 32).filter fun l => mask.getLsbD l
    let holds (l : Nat) : Bool := con.contains l && s.r32 (laneKey r l) a != 0
    let key (l : Nat) : DWord := s.regRead (laneKey r l) a h.ty.rw
    let maskOf (p : Nat → Bool) : DWord := BitVec.ofNat 64 (((List.range 32).map fun l => if p l then 2 ^ l else 0).sum)
    let same (l : Nat) : Nat → Bool := fun j => con.contains j && key j == key l
    let one : Bool := con.all fun l => con.all fun j => key j == key l
    let ready (i : Instr) : Prop := Meeting s i h mask r c ∧ ∀ k ∈ c.mem, s.hasRoom k (destRegs d 1) = true
    let truth (i : Instr) (b : Bool) : Prop := ready i → CompletesLanes s i h r c fun _ t =>
      match d with
      | .sp p => t.setPred p.toNat b
      | _ => t.dest d 1 (BitVec.ofNat 64 b.toNat)
    let word (i : Instr) (v : DWord) : Prop := ready i → CompletesLanes s i h r c fun _ t => t.dest d 1 v
    let peers (i : Instr) (v : Nat → DWord) (p : Nat → Bool) : Prop := ready i → CompletesLanes s i h r c fun l t =>
      (t.dest d 1 (v l)).setPred (h.md.extractLsb' 0 3).toNat (p l)
    truth (.pollAll h d a mask) (named.all holds)
    ∧ truth (.pollAny h d a mask) (named.any holds)
    ∧ truth (.pollSame h d a mask) (named.all holds || !named.any holds)
    ∧ word (.pollMask h d a mask) (maskOf holds)
    ∧ word (.pollCount h d a mask) (BitVec.ofNat 64 (named.countP holds))
    ∧ peers (.peersGroup h d a mask) (fun l => maskOf (same l)) (fun l => con.any fun j => j != l && key j == key l)
    ∧ peers (.peersWhole h d a mask) (fun _ => if one then maskOf con.contains else 0) (fun _ => one))

/-- 10 R254: a combination starts from the lowest lane's value and takes the others in increasing lane order; a NaN alone
becomes the canonical one, an empty set gives the identity. -/
def Obligations.Combinations : Prop :=
  ∀ (op : Nat) (t : VType), op ≤ 5 → t ∈ (if op ≤ 2 then [.i32, .n32, .i64, .n64, .f32, .f64] else [.b32, .n64] : List VType) →
    let val (x : DWord) := Fp.decode t.fmt (fget t x)
    let step (x y : DWord) : DWord × Fp.Flags :=
      if op = 3 then (x &&& y, 0) else if op = 4 then (x ||| y, 0) else if op = 5 then (x ^^^ y, 0)
      else if t.isFloat then
        let r := if op = 0 then Fp.roundTo t.fmt .rn false (Fp.add false (val x) (val y))
          else Fp.minMax t.fmt (op == 2) false (fget t x) (fget t y)
        (fput t r.1, r.2)
      else
        let m := intOf t x
        let n := intOf t y
        (intPut t (if op = 0 then m + n else if op = 1 then min m n else max m n), 0)
    (∀ x y, combine op t [x, y] = step x y)
    ∧ (∀ x y z l, combine op t (x :: y :: (l ++ [z])) =
        (let a := combine op t (x :: y :: l); let b := step a.1 z; (b.1, a.2 ||| b.2)))
    ∧ (∀ x, combine op t [x] = if t.isFloat ∧ (val x).isNaN then (fput t ((t.fmt.nan).getD 0), Fp.sigFl (val x)) else (x, 0))
    ∧ combine op t [] = ((match op, t with
        | 0, .f32 => 0x80000000 | 0, .f64 => 0x8000000000000000
        | 1, .i32 => 0x7FFFFFFF | 1, .n32 => 0xFFFFFFFF | 1, .i64 => 0x7FFFFFFFFFFFFFFF | 1, .n64 => 0xFFFFFFFFFFFFFFFF
        | 1, .f32 => 0x7F800000 | 1, .f64 => 0x7FF0000000000000
        | 2, .i32 => 0x80000000 | 2, .i64 => 0x8000000000000000 | 2, .f32 => 0xFF800000 | 2, .f64 => 0xFFF0000000000000
        | 3, .b32 => 0xFFFFFFFF | 3, .n64 => 0xFFFFFFFFFFFFFFFF
        | _, _ => 0), 0)

/-- 10 R252, R253: MRED, SCAN and REDX over the contributing lanes of a row, an immediate operand converted to the type (02
R49). -/
def Obligations.LaneReductions : Prop :=
  ∀ (s : State) (r : Nat) (c : Convoy) (h : Head) (d a b : Spec) (mask : Word),
    let w := h.ty.rw
    let con := s.contributors h r c
    let val (x : Spec) (l : Nat) : DWord := (s.rd (laneKey r l)).src h.ty x
    let key (l : Nat) : Word := s.r32 (laneKey r l) a
    let group (l : Nat) : List Nat := con.filter fun j => key j == key l
    let leads (l : Nat) : Bool := con.all fun j => decide (l ≤ j) || key j != key l
    let leaders : Nat := ((List.range 32).map fun l => if con.contains l ∧ leads l then 2 ^ l else 0).sum
    let put (t : Thread) (o : DWord × Fp.Flags) : Thread := ({ t with fflg := t.fflg ||| o.2 } : Thread).dest d w o.1
    let mred (i : Instr) (op : Nat) : Prop :=
      Meeting s i h mask r c → (∀ k ∈ c.mem, s.hasRoom k ((List.range (w + 1)).map (d.vIndex + ·)) = true) →
        CompletesLanes s i h r c fun l t =>
          let t := if leads l then put t (combine op h.ty ((group l).map (val b))) else t
          ({ t with v := Tab.put (d.vIndex + w) (BitVec.ofNat 32 leaders) t.v } : Thread).setPred (h.md.extractLsb' 0 3).toNat (leads l)
    let over_ (i : Instr) (op : Nat) (set : Nat → List Nat) : Prop :=
      Meeting s i h mask r c → (∀ k ∈ c.mem, s.hasRoom k (destRegs d w) = true) →
        CompletesLanes s i h r c fun l t => put t (combine op h.ty ((set l).map (val a)))
    let upTo (l : Nat) : List Nat := con.filter fun j => if h.md.getLsbD 3 then decide (j < l) else decide (j ≤ l)
    (mred (.mredAdd h d a b mask) 0 ∧ mred (.mredMin h d a b mask) 1 ∧ mred (.mredMax h d a b mask) 2
      ∧ mred (.mredAnd h d a b mask) 3 ∧ mred (.mredOr h d a b mask) 4 ∧ mred (.mredXor h d a b mask) 5)
    ∧ (over_ (.scanAdd h d a mask) 0 upTo ∧ over_ (.scanMin h d a mask) 1 upTo ∧ over_ (.scanMax h d a mask) 2 upTo
      ∧ over_ (.scanAnd h d a mask) 3 upTo ∧ over_ (.scanOr h d a mask) 4 upTo ∧ over_ (.scanXor h d a mask) 5 upTo)
    ∧ (over_ (.redxAdd h d a mask) 0 (fun _ => con) ∧ over_ (.redxMin h d a mask) 1 (fun _ => con)
      ∧ over_ (.redxMax h d a mask) 2 (fun _ => con) ∧ over_ (.redxAnd h d a mask) 3 (fun _ => con)
      ∧ over_ (.redxOr h d a mask) 4 (fun _ => con) ∧ over_ (.redxXor h d a mask) 5 (fun _ => con))

/-- 10 R255, R256: HIST counts the contributing lanes of each bin in the bin's register, HMRG adds each register over them. -/
def Obligations.Histograms : Prop :=
  ∀ (s : State) (r : Nat) (c : Convoy) (h : Head) (d a : Spec) (x : BitVec 8) (mask : Word),
    let n := x.toNat
    let con := s.contributors h r c
    let bin (l : Nat) : Nat := (s.r32 (laneKey r l) a).toNat
    let counts (l : Nat) : Bool := decide (bin l < 32 * n) && con.contains (bin l % 32)
    let hits (l i : Nat) : Nat := con.countP fun j => counts j && bin j == 32 * i + l
    let room (k : Nat) : Prop := s.hasRoom k ((List.range n).map (d.vIndex + ·)) = true
    (Meeting s (.hist h d a (.imm x) mask) h mask r c → (∀ k ∈ c.mem, room k) →
      ∃ f : Nat → Thread, CompletesAll s (.hist h d a (.imm x) mask) c f
        ∧ ∀ k ∈ c.mem, let l := laneOf k
          let t : Thread := if l ∈ con then (s.th k).setPred (h.md.extractLsb' 0 3).toNat (counts l) else s.th k
          (f k).regs = { t.regs with v := (f k).v }
          ∧ ∀ g, (f k).vget g =
              if d.vIndex ≤ g ∧ g < d.vIndex + n then (s.th k).vget g + BitVec.ofNat 32 (hits l (g - d.vIndex)) else (s.th k).vget g)
    ∧ (Meeting s (.hmrg h d a (.imm x) mask) h mask r c → (∀ k ∈ c.mem, room k) →
        CompletesLanes s (.hmrg h d a (.imm x) mask) h r c fun _ t => t.puts d.vIndex ((List.range n).map fun i =>
          BitVec.ofNat 32 ((con.map fun j => ((s.th (laneKey r j)).vget (a.vIndex + i)).toNat).sum)))

/-- 10 R245, R247, R248: a thread whose own lane the mask does not name takes the convergence fault, reason 2; one that must wait
for a named thread leaves its convoy and waits at the instruction, the special registers the word reads noted as they stand; one
that waits anew keeps what it noted. -/
def Obligations.Rendezvous : Prop :=
  ∀ (s : State) (i : Instr) (h : Head) (mask : Word) (k : Nat) (c : Convoy), i.isCrossLane = true → (encode i).map (·.extractLsb' 20 32) = some mask →
    Ready s i h k c → (s.th k).rep = none → (∀ j ∈ s.rowThreads (rowKey k), (s.th j).meeting = none) →
    (mask.getLsbD (laneOf k) = false → s.handled k 0x19 = true →
      Leaves s i k (s.trap k ⟨0x19, BitVec.ofNat 64 (2 * 2 ^ 32 + mask.toNat), none, none⟩))
    ∧ (∀ l, mask.getLsbD (laneOf k) = true → l < 32 → mask.getLsbD l = true → l ≠ laneOf k → s.live (laneKey (rowKey k) l) = true →
        ((List.range 32).all fun m => !mask.getLsbD m || (s.th (laneKey (rowKey k) m)).status != .phase) = true →
        let waits (vals : List (Nat × DWord)) : Prop :=
          Leaves s i k (s.setTh k fun t => { t with status := .waiting, wait := .rendezvous mask 0 vals, stalled := false })
        ((s.th k).wait = .none → ∃ vals, waits vals
          ∧ ∀ u ∈ i.uses, ∀ n w, u.role = .src w → u.sp = .sp n → Tab.find n.toNat vals = some (s.spRead k n.toNat))
        ∧ (∀ vals, (s.th k).wait = .rendezvous mask 0 vals → waits vals))

/-! ### Recipes, 02 R59, R60, 10 R257 to R261 -/

/-- 02 R59, R60, 10 R258: SLICE marks the words that follow as the slice of vT where no rule is broken; else the first rule
broken, and the first word that breaks it, are the value of cause 0x02; a word is judged by its OP, FN and TYPE, whatever else is
wrong with it. 02 R60, R62: once the last word of its slice has completed, vT is eligible, at depth 2 if an input is. 10 R259 to R261: RCPMAT of a register that needs no
regeneration changes nothing, RCPDROP leaves the register reading 0 in its thread alone, RCPSTAT writes the status word. The
readings of 02 R57 to R68 are the model's (log entry 29). -/
def Obligations.SlicesAndStatus : Prop :=
  (∀ (s : State) (k : Nat) (c : Convoy) (h : Head) (g : BitVec 8) (n : BitVec 4) (w : Nat → IWord),
    let i : Instr := .slice h (.v g) n
    let t := s.th k
    let inside (p : Nat) : Bool := decide (slotN c.pc - slotN c.hdr + p ≤ c.len.toNat)
    let at_ (p : Nat) : Option Instr := if inside p then wordShape (w p) else none
    let before (p : Nat) : List Instr := (List.range (p - 1)).filterMap fun j => at_ (j + 1)
    let reads (p : Nat) : List Nat := ((List.range p).flatMap fun j => match at_ (j + 1) with
      | some x => (s.vReads k x).filter (· != g.toNat)
      | none => []).eraseDups
    let breaks (rule p : Nat) : Bool :=
      if p = 0 then rule == 1 && t.affine.any fun m => decide (16 * m ≤ g.toNat) && decide (g.toNat < 16 * m + 16)
      else if inside p = false then rule == 2
      else if rule = 2 then (w p).extractLsb' 16 4 != 7
      else match at_ p, (at_ p).bind Instr.head with
        | some x, some y => (match rule with
            | 3 => !s.sliceWrites k x y g.toNat
            | 4 => !isInstr (w p) || !s.slotOk k x || !sliceEligible x || (isSliceLoad x && (before p).any isSliceLoad)
            | 5 => s.sliceRounds k x y
            | 6 => !(s.usesOf k x).all sliceInput || ((s.vReads k x).contains g.toNat
                && !(before p).any fun z => ((s.usesOf k z).flatMap Use.writes).contains g.toNat)
            | 7 => decide (4 < (reads p).length)
            | 8 => (s.vReads k x).any fun r => r != g.toNat && t.elig.any fun e => e.reg == r && decide (2 ≤ e.depth) && t.eligOf r == some e
            | _ => false)
        | _, _ => rule == 3
    Ready s i h k c → s.affinePending k (.v g) = false → t.rep = none → (∀ p, 1 ≤ p → p ≤ n.toNat → s.wordAfter k t.pc p = .word (w p)) →
      ((∀ rule p, p ≤ n.toNat → breaks rule p = false) →
        ∃ u, exec i s = .next u ∧ Went s u k (endHint i) ∧ (u.th k).slice = some
          { reg := g.toNat, saddr := nextPC t.pc, len := n.toNat, pins := reads n.toNat, left := n.toNat })
      ∧ (∀ rule p, p ≤ n.toNat → breaks rule p = true → (∀ q, q < p → breaks rule q = false) →
          (∀ r q, r < rule → q ≤ n.toNat → breaks r q = false) → s.handled k 0x02 = true →
          Leaves s i k (s.trap k ⟨0x02, BitVec.ofNat 64 (16 * p + rule), none, none⟩)))
  ∧ (∀ (t : Thread) (now : Nat) (r : SliceRun), t.slice = some r → let u := t.sliceStep now
      (1 < r.left → u = { t with slice := some { r with left := r.left - 1 } })
      ∧ (r.left ≤ 1 → u.slice = none ∧ u.elig.length ≤ max 32 t.elig.length ∧ u.elig.getLast? = some
          ⟨r.reg, r.saddr, r.len, if r.pins.any fun p => (t.eligOf p).isSome then 2 else 1, r.pins, now⟩))
  ∧ (∀ (s : State) (k : Nat) (c : Convoy) (h : Head) (d a : Spec) (g : BitVec 8),
    let t := s.th k
    let r := g.toNat
    let status : Nat :=
      t.elig.length * 2 ^ 16
        + (match t.elig.find? fun e => e.reg == r with | some e => e.len * 2 ^ 8 + e.depth * 2 ^ 4 + 8 | none => 0)
        + (if t.affine.any fun m => decide (16 * m ≤ r) && decide (r < 16 * m + 16) then 2 ^ 7 else 0)
        + (if t.elig.any fun e => e.pins.contains r then 2 ^ 6 else 0)
        + (if t.dropped.contains r then 5 else match s.rreg (rowKey k) r with
            | none => 0
            | some x => match x.form with | .value => 1 | .recipe => 2 | .mixed => 3 | .spilled => 4)
    (Ready s (.rcpmat h a) h k c → Completes s (.rcpmat h a) k s)
    ∧ (Ready s (.rcpdrop h (.v g)) h k c → ∃ u, exec (.rcpdrop h (.v g)) s = .next u
        ∧ (∀ j, (u.th k).vget j = if r ≤ j ∧ j < r + h.ty.rw then 0 else t.vget j)
        ∧ (∀ j, j ≠ k → (u.th j).regs = (s.th j).regs) ∧ u.world = s.world
        ∧ (u.th k).flow = (t.complete s.cycle (endHint (.rcpdrop h (.v g)))).flow)
    ∧ (Ready s (.rcpstat h d (.v g)) h k c → s.hasRoom k (destRegs d 1) = true →
        Completes s (.rcpstat h d (.v g)) k (s.setTh k fun t =>
          (t.setPred (h.md.extractLsb' 0 3).toNat (t.elig.any fun e => e.reg == r)).dest d 1 (BitVec.ofNat 64 status))))

/-! ### Affine registers, 02 R74 to R76, 03 R102, R103, 10 R262 to R271 -/

/-- 10 R263 to R266, R268 to R270: the exact parts of each operation on operands read from their words. 10 R262 to R270: the
affine instructions write their sixteen words and mark the register affine; a result that would overflow, or an operand that is no
number, gives the NaN result with OF or NV. The readings of overflow and of operands that are no numbers are the model's (log
entry 32). -/
def Obligations.AffineArithmetic : Prop :=
  (∀ (a b : Aff) (f : Q) (mint : Bool), a.ok → b.ok → 0 < f.den →
    let W (x : Aff) : Rat := x.r.val + magSum (x.q.map fun t => t.2.val)
    let qa := coefOf a.q
    let qb := coefOf b.q
    let ca := a.c.val
    let cb := b.c.val
    let pre (x : AffRes) : List Rat := x.x.pre.map Q.val
    let sum := affLinear id a b
    let dif := affLinear Q.neg a b
    let scl := affScale f a
    let prd := affMul mint a b
    let sqr := affSqr mint a
    a.width.val = W a
    ∧ (sum.x.c.val = ca + cb ∧ (∀ s, coefOf sum.x.q s = qa s + qb s) ∧ pre sum = [a.r.val, b.r.val] ∧ sum.e.val = 0)
    ∧ (dif.x.c.val = ca - cb ∧ (∀ s, coefOf dif.x.q s = qa s - qb s) ∧ pre dif = [a.r.val, b.r.val] ∧ dif.e.val = 0)
    ∧ (scl.x.c.val = f.val * ca ∧ (∀ s, coefOf scl.x.q s = f.val * qa s) ∧ pre scl = [ratAbs f.val * a.r.val] ∧ scl.e.val = 0)
    ∧ (prd.x.c.val = ca * cb ∧ (∀ s, coefOf prd.x.q s = ca * qb s + cb * qa s)
      ∧ pre prd = [ratAbs ca * b.r.val + ratAbs cb * a.r.val] ∧ prd.e.val = W a * W b)
    ∧ (sqr.x.c.val = ca * ca + W a * W a / 2 ∧ (∀ s, coefOf sqr.x.q s = 2 * ca * qa s)
      ∧ pre sqr = [2 * ratAbs ca * a.r.val] ∧ sqr.e.val = W a * W a / 2)
    ∧ (affRec mint a = none ↔ ca - W a ≤ 0 ∧ 0 ≤ ca + W a)
    ∧ (∀ x, affRec mint a = some x →
        let l := ca - W a
        let u := ca + W a
        let m := if ratAbs u < ratAbs l then l else u
        let al := -(1 / (m * m))
        let g1 := 1 / l - al * l
        let g2 := 1 / u - al * u
        x.x.c.val = al * ca + (g1 + g2) / 2 ∧ (∀ s, coefOf x.x.q s = al * qa s) ∧ pre x = [ratAbs al * a.r.val]
          ∧ x.e.val = ratAbs (g1 - g2) / 2))
  ∧ (∀ (s : State) (k : Nat) (c : Convoy) (h : Head) (d a b : Spec),
    s.hasRoom k ((List.range 16).map (d.vIndex + ·)) = true →
    let put (ws : List Word) (fl : Fp.Flags) : State := s.setTh k fun t =>
      { (({ t with fflg := t.fflg ||| fl } : Thread).puts d.vIndex ws) with
        affine := if t.affine.contains (d.vIndex / 16) then t.affine else t.affine ++ [d.vIndex / 16] }
    let nan : List Word := [0, 0x7FF80000, 0, 0x7FF00000, 0, 0, 0, 0, 0, 0, 0, 0, 0, 0, 0, 0]
    let each (i : Instr) (res : Option AffRes) : Prop := Ready s i h k c → Completes s i k (match res with
      | none => put nan Fp.NV
      | some r => match r.x.words with
          | some ws => put ws 0
          | none => put nan Fp.OF)
    let two (f : Aff → Aff → AffRes) : Option AffRes := (s.aff k a).bind fun x => (s.aff k b).map fun y => f x y
    each (.afadd h d a b) (two (affLinear id)) ∧ each (.afsub h d a b) (two (affLinear Q.neg))
    ∧ each (.afscl h d a b) ((s.aff k a).bind fun x => (Q.ofVal (Fp.decode Fp.f64 (s.f64Of k b))).map fun f => affScale f x))

/-- 02 R74, 03 R102, R103: the sixteen words of a result enclose the exact one: the errors of the centre and of every
coefficient, the dropped terms and the radii given fit into the radius written. The terms stand in increasing symbol id. -/
def Obligations.AffineEncloses : Prop :=
  ∀ (x : AffExact) (ws : List Word), x.words = some ws → 0 < x.c.den → termsOk x.q → (∀ t ∈ x.q, 0 < t.1 ∧ t.1 < 65536) →
    (∀ y ∈ x.pre ++ x.post, 0 < y.den) →
    (∀ t ∈ x.q, ∀ b, Tab.find t.1 x.bits = some b → b < 2 ^ 32 ∧ Fp.f32.num? b = some t.2.val) →
    (∀ b, x.cBits = some b → b < 2 ^ 64 ∧ Fp.f64.num? b = some x.c.val) →
    (∀ n b, x.fresh = some (n, b) → 0 < n ∧ n < 65536 ∧ (∀ t ∈ x.q, t.1 ≠ n) ∧ b < 2 ^ 32 ∧ ∃ v, Fp.f32.num? b = some v) →
    ws.length = 16 ∧ ∃ y, Aff.ofWords (fun i => ws.getD i 0) = some y
      ∧ ratAbs (x.c.val - y.c.val) + magSum (x.q.map fun t => t.2.val - coefOf y.q t.1) + magSum ((x.pre ++ x.post).map Q.val) ≤ y.r.val
      ∧ (∀ n b, x.fresh = some (n, b) → Fp.f32.num? b = some (coefOf y.q n))
      ∧ (∀ s, coefOf y.q s ≠ 0 → (∃ t ∈ x.q, t.1 = s) ∨ (x.fresh.map (·.1)) = some s)
      ∧ (y.q.map (·.1)).Pairwise (· < ·)

/-- 02 R76, 10 R265 to R270: where the operations that make an error E put it: into a symbol drawn from the crew's block, or from
a new block of the launch, drawn by an atomic on its pool counter, else into the radius; with no symbol left they raise 0x18. A
crew of another device than launch device 0 asks that device for a block. AFREC of an operand that holds 0 raises 0x08. The
form of that request (log entry 14) and further readings (log entry 32) are the model's. -/
def Obligations.AffineErrors : Prop :=
  ∀ (s : State) (k : Nat) (c : Convoy) (h : Head) (d a b : Spec) (kk : BitVec 3) (rad : BitVec 1) (sym : BitVec 16),
    s.hasRoom k ((List.range 16).map (d.vIndex + ·)) = true →
    let put (u : State) (x : AffExact) : State := u.setTh k fun t =>
      { (({ t with fflg := t.fflg ||| (if x.words.isSome then 0 else Fp.OF) } : Thread).puts d.vIndex
          (x.words.getD [0, 0x7FF80000, 0, 0x7FF00000, 0, 0, 0, 0, 0, 0, 0, 0, 0, 0, 0, 0])) with
        affine := if t.affine.contains (d.vIndex / 16) then t.affine else t.affine ++ [d.vIndex / 16] }
    let bad (i : Instr) : Prop := Ready s i h k c → Completes s i k (s.setTh k fun t =>
      { (({ t with fflg := t.fflg ||| Fp.NV } : Thread).puts d.vIndex
          [0, 0x7FF80000, 0, 0x7FF00000, 0, 0, 0, 0, 0, 0, 0, 0, 0, 0, 0, 0]) with
        affine := if t.affine.contains (d.vIndex / 16) then t.affine else t.affine ++ [d.vIndex / 16] })
    let cr := crewOf k
    let la := s.laTh k
    let blocks := la.rcd.sympool / 64
    let takes (u : State) (n last : Nat) : State :=
      u.setCr cr fun x => { x with block := if n < last then some (n + 1, last) else none, draw := none }
    let each (i : Instr) (r : AffRes) : Prop := Ready s i h k c →
      let coef := if r.mint then Q.roundFin Fp.f32 .ru r.e else none
      (r.e.val = 0 → r.always = false → Completes s i k (put s r.x))
      ∧ (r.e.val ≠ 0 ∨ r.always = true → coef = none → Completes s i k (put s { r.x with post := [r.e] }))
      ∧ (∀ b, r.e.val ≠ 0 ∨ r.always = true → coef = some b →
          (∀ n last, (s.cr cr).block = some (n, last) →
              Completes s i k (put (takes s n last) { r.x with fresh := some (n, b.1) }))
          ∧ (∀ pa, (s.cr cr).block = none → la.dev = 0 → la.poolAt = some pa →
              let m := leNat (s.coh pa 8)
              (m < blocks → Completes s i k (put (takes (s.homeStore pa (leBytes 8 (m + 1))) (64 * m + 1) (64 * m + 64))
                { r.x with fresh := some (64 * m + 1, b.1) }))
              ∧ (blocks ≤ m → s.handled k 0x18 = true →
                Leaves s i k ((s.setCr cr fun x => { x with draw := none }).trap k ⟨0x18, 0, none, none⟩)))
          ∧ ((s.cr cr).block = none → la.dev ≠ 0 → blocks ≠ 0 → (s.cr cr).draw = none →
              ∃ t, exec i s = .next t ∧ Same t (s.askBlock k la)))
    let mint := !(s.th k).fmode.getLsbD 5
    let cond := Fp.decode Fp.f32 (fget .f32 ((s.rd k).src .f32 b))
    (s.aff k a = none → bad (.afmul h d a b) ∧ bad (.afsqr h d a) ∧ bad (.afrec h d a) ∧ bad (.afcond h d a b kk rad))
    ∧ (s.aff k b = none → bad (.afmul h d a b))
    ∧ (Q.ofVal (Fp.decode Fp.f64 (s.f64Of k a)) = none ∨ Q.ofVal (Fp.decode Fp.f64 (s.f64Of k b)) = none → bad (.afini h d a b sym))
    ∧ (∀ x y, s.aff k a = some x → s.aff k b = some y → each (.afmul h d a b) (affMul mint x y))
    ∧ (∀ x, s.aff k a = some x → each (.afsqr h d a) (affSqr mint x))
    ∧ (∀ x r, s.aff k a = some x → affRec mint x = some r → each (.afrec h d a) r)
    ∧ (∀ x, s.aff k a = some x → affRec mint x = none → s.handled k 0x08 = true → Ready s (.afrec h d a) h k c →
        Leaves s (.afrec h d a) k (s.trap k ⟨0x08, BitVec.ofNat 64 x.cBits, none, none⟩))
    ∧ (∀ x, s.aff k a = some x → each (.afcond h d a b kk rad) (affCond (rad == 0 && mint) kk.toNat cond x))
    ∧ (∀ cv w, Q.ofVal (Fp.decode Fp.f64 (s.f64Of k a)) = some cv → Q.ofVal (Fp.decode Fp.f64 (s.f64Of k b)) = some w →
        each (.afini h d a b sym) (affIni sym.toNat (s.f64Of k a) cv w))

/-- 10 R268 to R270: the terms AFCOND keeps, the bounds AFBND writes (a lower bound that is exactly zero is −0, 03 R90), the symbol
AFSYM hands out, or 0x18 where the pool is used up. -/
def Obligations.AffineBounds : Prop :=
  ∀ (s : State) (k : Nat) (c : Convoy) (h : Head) (d a : Spec),
    let cr := crewOf k
    let la := s.laTh k
    let blocks := la.rcd.sympool / 64
    let takes (u : State) (n last : Nat) : State :=
      u.setCr cr fun x => { x with block := if n < last then some (n + 1, last) else none, draw := none }
    (Ready s (.afbnd h d a) h k c → s.hasRoom k ((List.range 4).map (d.vIndex + ·)) = true →
      ∃ lo hi : DWord, Completes s (.afbnd h d a) k (s.setTh k fun t =>
          t.puts d.vIndex [lo.setWidth 32, (lo >>> 32).setWidth 32, hi.setWidth 32, (hi >>> 32).setWidth 32])
        ∧ (match s.aff k a with
          | none => lo = 0xFFF0000000000000 ∧ hi = 0x7FF0000000000000
          | some x => let below := x.c.sub x.width; let above := x.c.add x.width
            lo.toNat = (if below.val = 0 then 2 ^ 63
              else (Fp.roundTo Fp.f64 .rd false ⟨.num (decide (below.num < 0)) below.num.natAbs below.den, 0⟩).1)
            ∧ hi.toNat = (Fp.roundTo Fp.f64 .ru false ⟨.num (decide (above.num < 0)) above.num.natAbs above.den, 0⟩).1))
    ∧ (∀ n last, Ready s (.afsym h d) h k c → s.hasRoom k (destRegs d 1) = true → (s.cr cr).block = some (n, last) →
        Completes s (.afsym h d) k (State.dest (takes s n last) k d 1 (BitVec.ofNat 64 n)))
    ∧ (∀ pa, Ready s (.afsym h d) h k c → (s.cr cr).block = none → la.dev = 0 → la.poolAt = some pa →
        let m := leNat (s.coh pa 8)
        (m < blocks → s.hasRoom k (destRegs d 1) = true → Completes s (.afsym h d) k
          (State.dest (takes (s.homeStore pa (leBytes 8 (m + 1))) (64 * m + 1) (64 * m + 64)) k d 1 (BitVec.ofNat 64 (64 * m + 1))))
        ∧ (blocks ≤ m → s.handled k 0x18 = true → Leaves s (.afsym h d) k
          ((s.setCr cr fun x => { x with draw := none }).trap k ⟨0x18, 0, none, none⟩)))
    ∧ (∀ (x : Aff) (kk : Nat) (t : Fp.Val), x.ok →
        let r := affCond true kk t x
        let kept (q : Nat × Q) : Prop := q ∈ r.x.q
        (∀ q, kept q → q ∈ x.q) ∧ r.x.q.length ≤ kk ∧ r.x.c = x.c ∧ r.x.cBits = some x.cBits
          ∧ (∀ q, kept q → (∀ n m e, t = .fin n m e → ratOf n (Fp.frac m e).1 (Fp.frac m e).2 ≤ ratAbs q.2.val))
          ∧ (∀ p q, kept p → q ∈ x.q → ¬kept q → ratAbs q.2.val < ratAbs p.2.val ∨ (ratAbs q.2.val = ratAbs p.2.val ∧ p.1 < q.1))
          ∧ (∀ q, q ∈ x.q → ¬kept q → r.x.q.length = kk ∨ t = .inf false
              ∨ ∃ n m e, t = .fin n m e ∧ ratAbs q.2.val < ratOf n (Fp.frac m e).1 (Fp.frac m e).2)
          ∧ r.e.val = magSum ((x.q.filter fun q => !(r.x.q.any fun y => y.1 == q.1)).map fun q => q.2.val))

/-! ### Memory, 04 R104 to R112, 05 R128, 10 R271, 11 R275 to R282 -/

/-- 06 R162, 11 R275 to R282, 10 R271, 05 R123: LD, ST, ATOM, AFLD and AFST check their whole access, then issue it: it is pending
from then on, with its address, width, bytes and destination registers, that of AFLD and AFST as four quarters, and its
completion flag has gone up; no byte of memory has changed, but that an atomic zeroes what it meets of a fresh frame (04 R104); PREF
writes nothing and raises nothing. A misaligned address raises 0x12, any other refusal of the access its own cause. When an access is checked and a remote
one answered are the model's readings (log entries 28, 34). -/
def Obligations.MemoryAccesses : Prop :=
  ∀ (s : State) (k : Nat) (c : Convoy) (h : Head) (d a b : Spec) (m : MemF) (s' : State),
    let addr (indexed : Bool) : Nat :=
      let ofs : Int := m.ofs.toInt + (if indexed then (s.r32 k b).toInt * 2 ^ m.scale.toNat else 0)
      if m.space = .g then (((s.r64 k a).toNat + ofs) % (2 ^ 64 : Int)).toNat else (((s.r32 k a).toNat + ofs) % (2 ^ 32 : Int)).toNat
    let op (indexed : Bool) (kind : OpKind) (size : Nat) (w : Where) : Op :=
      { th := k, crew := crewOf k, core := s.coreTh k, kind := kind, loc := w, va := BitVec.ofNat 64 (addr indexed), size := size
        space := m.space, rtype := m.rtype, ty := h.ty, cyc := s.cycle }
    let acq := if ordOf h.md = 1 then some m.scope else none
    -- a store into the thread's frame makes its bytes the thread's own (04 R104)
    let framed (indexed store : Bool) (n : Nat) (t : Thread) : Thread :=
      if store = true ∧ m.space = .l then t.wroteFrame (addr indexed) n else t
    let each (i : Instr) (indexed : Bool) (need : Need) (o : Where → Op) (pre : State → Where → State) : Prop := Ready s i h k c →
      (ordOf h.md = 2 → s.releasing k m.scope = false) → s.remoteBusy k m.space (addr indexed) need = false →
        (∀ w, s.place k m.space (addr indexed) need.size need = (.at_ w, s') → (∀ dev p, w ≠ .remote dev p) →
          (need.r = true → w.poisoned s need.size = false) → (∀ l j, w.line = some l → s.leaseHolder l = some j → j = k) →
          Completes s i k (State.setTh { pre { s with cores := s'.cores } w with ops := Tab.put s.seq (o w) s.ops, seq := s.seq + 1 } k
            fun t => framed indexed ((o w).kind == .store) need.size (t.cfUp (o w).flag)))
        ∧ (addr indexed % need.size ≠ 0 → s.handled k 0x12 = true →
            Leaves s i k (s.trap k ⟨0x12, BitVec.ofNat 64 (addr indexed), none, none⟩))
        ∧ (∀ cz tva tf, s.place k m.space (addr indexed) need.size need = (.fault cz tva tf, s') → s.handled k cz = true →
            Leaves s i k (s'.trap k ⟨cz, tva, tf, none⟩))
        ∧ (∀ w, s.place k m.space (addr indexed) need.size need = (.at_ w, s') → need.r = true → w.poisoned s need.size = true →
            s.handled k 0x30 = true → Leaves s i k (s'.trap k ⟨0x30, BitVec.ofNat 64 (addr indexed), none, none⟩))
    -- 64 bytes: four accesses of 16, checked as a whole, which perform in any order (05 R123)
    let quarters (i : Instr) (need : Need) (flag : Option Nat) (o : Nat → Where → Op) : Prop := Ready s i h k c →
      (ordOf h.md = 2 → s.releasing k m.scope = false) → s.remoteBusy k m.space (addr true) need = false →
      s.remoteAcq k h m (addr true) need = false →
        (∀ w ws, s.quarters k m.space (addr true) need = (.at_ w, ws, s') → (∀ q ∈ ws, ∀ dev p, q ≠ .remote dev p) →
          (need.r = true → ∀ q ∈ ws, q.poisoned s 16 = false) → (∀ q ∈ ws, ∀ l j, q.line = some l → s.leaseHolder l = some j → j = k) →
          ws.length = 4 ∧ Completes s i k (State.setTh { s with
            cores := s'.cores
            ops := (List.range 4).foldl (fun l n => Tab.put (s.seq + n) (o n (ws.getD n (.mem 0))) l) s.ops
            seq := s.seq + 4 } k fun t => framed true need.w 64 (t.cfUp flag)))
        ∧ (addr true % 64 ≠ 0 → s.handled k 0x12 = true →
            Leaves s i k (s.trap k ⟨0x12, BitVec.ofNat 64 (addr true), none, none⟩))
        ∧ (∀ cz tva tf ws, s.quarters k m.space (addr true) need = (.fault cz tva tf, ws, s') → s.handled k cz = true →
            Leaves s i k (s'.trap k ⟨cz, tva, tf, none⟩))
        ∧ (∀ w ws, s.quarters k m.space (addr true) need = (.at_ w, ws, s') → need.r = true → (∃ q ∈ ws, q.poisoned s 16 = true) →
            s.handled k 0x30 = true → Leaves s i k (s'.trap k ⟨0x30, BitVec.ofNat 64 (addr true), none, none⟩))
    let n := h.ty.bytes * cntOf h.md
    let stored : List Byte := match d with
      | .v i => (List.range (cntOf h.md)).flatMap fun j => leBytes h.ty.bytes (s.regRead k (.v (i + BitVec.ofNat 8 (j * h.ty.rw))) h.ty.rw).toNat
      | _ => leBytes h.ty.bytes ((s.rd k).src h.ty d).toNat
    let atom (i : Instr) (fn : Nat) : Prop :=
      let e := if h.ty.rw = 2 then 8 else 4
      let ret := decide (d ≠ .imm 0)
      let bytes : List Byte :=
        if fn = 9 then leBytes e (s.regRead k b h.ty.rw).toNat ++ leBytes e (s.regRead k (.v (BitVec.ofNat 8 (b.vIndex + h.ty.rw))) h.ty.rw).toNat
        else leBytes e (match h.ty with
          | .f16 | .bf16 => (s.rd k).packed h.ty b
          | _ => (s.rd k).src h.ty b).toNat
      -- an atomic finds zero in the bytes of the frame that nothing has written yet
      each i false { r := true, w := true, rtype := m.rtype, whole := true, size := e } (fun w =>
        { op false (.atom fn ret) e w with data := bytes, dst := if ret then some d.vIndex else none, acq := acq
                                           flag := if ret then s.flagNow h else none
                                           pend := if ret then rangeFrom d.vIndex h.ty.rw else [] })
        (fun u w => u.zeroNow k m (addr false) e w)
    each (.ld h d a b m) true { r := true, rtype := m.rtype, size := n } (fun w =>
      { op true .load n w with dst := some d.vIndex, flag := s.flagNow h, acq := acq, pend := rangeFrom d.vIndex (cntOf h.md * h.ty.rw)
                               zero := s.frameZeros k m (addr true) n }) (fun u _ => u)
    ∧ each (.st h d a b m) true { w := true, rtype := m.rtype, size := n } (fun w =>
        { op true .store n w with data := stored, frame := frameAt m (addr true) }) (fun u _ => u)
    ∧ quarters (.afld h d a b m) { r := true, rtype := m.rtype, size := 64 } (s.flagNow h) (fun n w =>
        { op true .load 16 w with ty := .b32, dst := some (d.vIndex + 4 * n), flag := s.flagNow h, acq := acq
                                  group := (s.flagNow h).map fun _ => s.seq
                                  pend := rangeFrom d.vIndex 16, affine := some (d.vIndex / 16)
                                  zero := ((s.frameZeros k m (addr true) 64).filter fun i =>
                                    decide (16 * n ≤ i) && decide (i < 16 * n + 16)).map (· - 16 * n) })
    ∧ quarters (.afst h d a b m) { w := true, rtype := m.rtype, size := 64 } none (fun n w =>
        { op true .store 16 w with data := (rangeFrom (d.vIndex + 4 * n) 4).flatMap (fun g => leBytes 4 ((s.th k).vget g).toNat)
                                   frame := (frameAt m (addr true)).map (· + 16 * n) })
    ∧ (atom (.atomAdd h d a b m) 0 ∧ atom (.atomMin h d a b m) 1 ∧ atom (.atomMax h d a b m) 2 ∧ atom (.atomAnd h d a b m) 3
      ∧ atom (.atomOr h d a b m) 4 ∧ atom (.atomXor h d a b m) 5 ∧ atom (.atomExch h d a b m) 6 ∧ atom (.atomInc h d a b m) 7
      ∧ atom (.atomDec h d a b m) 8 ∧ atom (.atomCas h d a b m) 9 ∧ atom (.atomFadd h d a b m) 10 ∧ atom (.atomFmin h d a b m) 11
      ∧ atom (.atomFmax h d a b m) 12)
    ∧ (Ready s (.pref h a b m) h k c →
        let found := s.place k .g (addr true) 1 { r := true, rtype := m.rtype, size := 1 }
        (∀ cz tva tf, found = (.fault cz tva tf, s') → Completes s (.pref h a b m) k s')
        ∧ ((∀ cz tva tf, found.1 ≠ .fault cz tva tf) → ∃ cs, Completes s (.pref h a b m) k { s with cores := cs }
          ∧ ∀ n, (Tab.getD n {} cs).owned = (s.co n).owned))

/-- 11 R281: the new value of each ATOM function, for values that fit the type. 01 R32, 04 R111, R112, 05 R128, 11 R277, R280: a
pending access that nothing holds back, to a line that no L1 holds exclusive, is performed: a store's bytes, an atomic's new
value, are what memory reads from then on, and no other byte has changed; a load's or an atomic's result stands in its registers,
and its flag has gone down. When a pending access reads memory is the model's reading (log entry 34). -/
def Obligations.Performing : Prop :=
  (∀ (t : VType) (old b sw : Nat),
    let w := t.bits
    let num (x : Nat) : Int := intOf t (BitVec.ofNat 64 x)
    let is (fn v : Nat) : Prop := atomNew fn t old b sw = v
    (t ∈ ([.i32, .n32, .i64, .n64] : List VType) → old < 2 ^ w → b < 2 ^ w → sw < 2 ^ w →
      is 0 ((old + b) % 2 ^ w) ∧ (is 1 (if num old ≤ num b then old else b)) ∧ is 2 (if num b ≤ num old then old else b)
      ∧ is 3 (old &&& b) ∧ is 4 (old ||| b) ∧ is 5 (old ^^^ b) ∧ is 6 b ∧ is 7 (if b ≤ old then 0 else old + 1)
      ∧ is 8 (if old = 0 ∨ b < old then b else old - 1) ∧ is 9 (if old = b then sw else old))
    ∧ (t = .f32 ∨ t = .f64 → is 10 (Fp.roundTo t.fmt .rn false (Fp.add false (Fp.decode t.fmt old) (Fp.decode t.fmt b))).1
      ∧ is 11 (Fp.minMax t.fmt false false old b).1 ∧ is 12 (Fp.minMax t.fmt true false old b).1)
    ∧ (t = .f16 ∨ t = .bf16 → old < 2 ^ 32 → b < 2 ^ 32 →
      let half (x y : Nat) := (Fp.roundTo t.fmt .rn false (Fp.add false (Fp.decode t.fmt x) (Fp.decode t.fmt y))).1
      is 10 (half (old % 65536) (b % 65536) + 65536 * half (old / 65536) (b / 65536))))
  ∧ (∀ (s : State) (id : Nat) (o : Op) (pa : Nat), Tab.find id s.ops = some o → o.loc = .mem pa → o.held = none → o.acq = none →
    o.isKnock = false → o.group = none → o.early = none → o.notBefore = none → s.enabled id o = true → (∀ j, s.leaseHolder (lineOf pa) = some j → j = o.th) →
    pa % 128 + o.size ≤ 128 → (s.cores.map (·.1)).Pairwise (· < ·) → (∀ x ∈ s.cores, Tab.find (lineOf pa) x.2.owned = none) →
    let after (t : State) (bs : List Byte) : Prop :=
      (∀ x, t.cohByte x = if pa ≤ x ∧ x < pa + bs.length then bs.getD (x - pa) 0 else s.cohByte x) ∧ t.ops = Tab.drop id s.ops
    let quiet : Prop := s.leaseUntil (lineOf pa) = none
    let old := s.coh pa o.size
    -- the bytes of a fresh frame read zero (04 R104)
    let seen : List Byte := (List.range o.size).map fun i => if o.zero.contains i then 0 else old.getD i 0
    let home := o.rtype ≠ .own
    let done (i : Instr) (bs : List Byte) : Prop := ∃ t, exec i s = .next t ∧ after t bs ∧ ∀ j, t.th j = s.th j
    let result (ws : List Word) (d : Nat) (t : State) : Prop :=
      (t.th o.th).regs = (((s.th o.th).puts d ws).cfDown o.flag s.cycle).regs ∧ (t.th o.th).flow = (s.th o.th).flow ∧ ∀ j, j ≠ o.th → t.th j = s.th j
    -- stores, and atomics that return nothing
    (o.kind = .store → o.data.length = o.size → quiet →
        (home → done (.homeStoreMerge id) o.data)
        ∧ (¬home → (s.ops.filter fun (_, p) => p.ownsLine o.core (lineOf pa)) = [(id, o)] →
            done (.exclusiveOwnershipGrant o.core (lineOf pa)) o.data))
    ∧ (∀ fn, o.kind = .atom fn false → quiet → home →
        done (.homeStoreMerge id) (leBytes o.size (atomNew fn o.ty (leNat old) (leNat (o.data.take o.size)) (leNat (o.data.drop o.size)))))
    -- atomics that return the old value
    ∧ (∀ fn d, o.kind = .atom fn true → o.dst = some d → o.affine = none → o.zero = [] → o.size = 4 ∨ o.size = 8 → quiet →
        s.hasRoom o.th ((List.range (o.size / 4)).map (d + ·)) = true → s.unreservedRows →
        ∃ t, exec (.longLatencyComplete id) s = .next t
          ∧ after t (leBytes o.size (atomNew fn o.ty (leNat old) (leNat (o.data.take o.size)) (leNat (o.data.drop o.size))))
          ∧ result (if o.size = 8 then [BitVec.ofNat 32 (leNat old), BitVec.ofNat 32 (leNat old / 2 ^ 32)] else [BitVec.ofNat 32 (leNat old)]) d t)
    -- loads
    ∧ (∀ d, o.kind = .load → o.dst = some d → o.affine = none → o.size = o.ty.bytes * (o.size / o.ty.bytes) →
        (∀ x ∈ s.ops, x.2.kind = .store → overlaps x.2.loc x.2.size (.mem (lineOf pa)) 128 = false) →
        ((s.co o.core).copies.all fun c => c.line != lineOf pa) = true →
        s.hasRoom o.th ((List.range (o.size / o.ty.bytes * o.ty.rw)).map (d + ·)) = true → s.unreservedRows →
        ∃ t, exec (.longLatencyComplete id) s = .next t ∧ (∀ x, t.cohByte x = s.cohByte x) ∧ t.ops = Tab.drop id s.ops
          ∧ result ((List.range (o.size / o.ty.bytes)).flatMap fun j =>
              let v := intPut o.ty (leNat ((seen.drop (o.ty.bytes * j)).take o.ty.bytes))
              if o.ty.rw = 2 then [v.setWidth 32, (v >>> 32).setWidth 32] else [v.setWidth 32]) d t))

/-- 11 R283, R285, R286, 05 R131, R132: what LEASE and LEND do, by the table of R283; a lease granted takes the line exclusive
with its bytes shadowed and changes no byte; a LEND after the end of a timer finds its leases broken; a break restores each leased
line from its shadow and leaves every other byte. What
breaks a lease is the model's reading (log entry 30). -/
def Obligations.Leases : Prop :=
  ∀ (s : State) (k : Nat) (c : Convoy) (h : Head) (d a b : Spec) (m : MemF), s.L1Ok →
    let addr := (((s.r64 k a).toNat + m.ofs.toInt) % (2 ^ 64 : Int)).toNat
    let line := addr / 128 * 128
    let core := s.coreTh k
    let age := h.md.getLsbD 0
    let tm := (s.r32 k b).toNat
    let timer := if tm < 16 then 16 else if 1024 < tm then 1024 else tm
    let old := (s.th k).leases
    let stamp (t : Thread) : Thread := if age then t else { t with stamp := s.ns }
    -- its completion flag, up when it issues and down when its predicate is written
    let flag := s.flagNow h
    let up (t : Thread) : Thread := if t.agesLease then t else t.cfUp flag
    let flagged (t : Thread) : Thread := (up t).cfDown flag s.cycle
    let i : Instr := .lease h d a b m
    (∀ s', Ready s i h k c → m.space = .g → s.merging k m.scope = false → s.lineBusy k line = false →
      (∀ va, s.place k .g addr 1 leaseNeed = (.at_ (.mem va), s') → lineOf va = line →
        let z : State := { s with cores := s'.cores }
        let to_ (v : Bool) : Prop := Completes s i k (State.pred (z.setTh k fun t => flagged (stamp t)) k d v)
        let held := old.any fun x => x.line == line
        let other := s.leasedByOther k line || (s.setTh k stamp).leaseQueued k line
        (held = true → to_ true)
        ∧ (held = false → 2 ≤ old.length → (s'.co core).probes = [] →
            Completes s i k (State.pred (State.setTh (z.breakLeases k) k fun t => flagged (stamp t)) k d false))
        ∧ (held = false → old.length < 2 → 8 ≤ s.shadowsUsed core → to_ false)
        ∧ (held = false → old.length < 2 → s.shadowsUsed core < 8 → other = true →
            (age = false → to_ false)
            -- a waiting LEASE takes an entry of the holding core's probe queue
            ∧ (age = true → Leaves s i k (State.setTh (State.knock (z.setTh k up) k line) k fun t =>
                { t with status := .waiting, wait := .leaseAge line timer m.scope, stalled := false })))
        ∧ (held = false → old.length < 2 → s.shadowsUsed core < 8 → other = false → ∃ u, Completes s i k u
            ∧ (∀ x, u.cohByte x = s.cohByte x) ∧ (∃ o, u.ownerOf line = some (core, o))
            ∧ ∀ j, u.th j = if j = k then (State.th (State.pred (s.setTh k fun t =>
                flagged { stamp t with leases := old ++ [⟨line, s.coh line 128, s.cycle + timer, m.scope, s.seq, s.poison.filter fun a => lineOf a == line⟩] }) k d true) k) else s.th j))
      ∧ (∀ cz tva tf, s.place k .g addr 1 leaseNeed = (.fault cz tva tf, s') → s.handled k cz = true →
          Leaves s i k (State.trap (s'.setTh k flagged) k ⟨cz, tva, tf, none⟩))
      ∧ (∀ cz tva tf, s.place k .g addr 1 leaseNeed = (.fault cz tva tf, s') → 2 ≤ old.length →
          Completes s i k (State.pred (State.setTh (s'.breakLeases k) k fun t => flagged (stamp t)) k d false)))
    ∧ (Ready s (.lend h d) h k c → s.lendWait k = false → (s.co core).probes = [] → (∀ l ∈ old, s.cycle < l.ends) →
        ∃ cs, (∀ n, Tab.getD n {} cs = s.co n) ∧ Completes s (.lend h d) k (State.pred ({ s with cores := cs }.setTh k fun t =>
          { t with leases := [], broken := false }) k d (!old.isEmpty && !(s.th k).broken)))
    ∧ (Ready s (.lend h d) h k c → s.lendWait k = false → (∃ l ∈ old, l.ends ≤ s.cycle) →
        Completes s (.lend h d) k (State.pred (State.setTh (s.breakLeases k) k fun t => { t with broken := false }) k d false))
    ∧ (old ≠ [] → (Tab.find k s.threads).isSome → s.ops = [] → (s.co core).probes = [] →
        (∀ l ∈ old, l.line % 128 = 0 ∧ l.shadow.length = 128) → (old.map (·.line)).Nodup →
        let u := s.breakLeases k
        u.th k = { s.th k with leases := [], broken := true } ∧ (∀ j, j ≠ k → u.th j = s.th j)
        ∧ ∀ x, u.cohByte x = match old.find? fun l => l.line == lineOf x with
          | some l => l.shadow.getD (x % 128) 0
          | none => s.cohByte x)

/-- 11 R287 to R291, 05 R125, R127, 04 R109: the fences wait for what they order and drop the .si copies of their core at plain
scope or wider; ROINV drops its .ro copies; CWB, CINV and CINV.DISCARD act on the lines of their range in the core's own L1: no
byte that an agent can read changes but those of dirty lines wholly inside a discarded range; CRESIZE sets the lent ways,
writes back and drops lines of ways newly lent and the scratch of ways returned, with what was poisoned of it. The
readings of the discards and of a fence's waits are the model's (log entry 30). -/
def Obligations.FencesAndCaches : Prop :=
  ∀ (s : State) (k : Nat) (c : Convoy) (h : Head) (a b : Spec) (sc : Scope),
    let core := s.coreTh k
    let wide := sc ≠ .crew ∧ sc ≠ .valley
    -- the copies of the issuing core that satisfy p are gone; every other L1, and all memory, is as it was
    let drops (i : Instr) (p : Copy → Bool) : Prop := ∃ cs, Completes s i k { s with cores := cs }
      ∧ ∀ n, Tab.getD n {} cs = if n = core then { s.co n with copies := (s.co n).copies.filter fun x => !p x } else s.co n
    let si (x : Copy) : Bool := x.kind == .si
    let fence (i : Instr) (waits : Bool) (acq : Bool) : Prop := Ready s i h k c →
      (waits = true → Waits s i)
      ∧ (waits = false → (acq = true → wide → drops i si) ∧ (acq = false ∨ ¬wide → Completes s i k s))
    let base := (s.r64 k a).toNat
    let len := (s.r32 k b).toNat
    let ps := s.pieces k base len
    let hit (l : Nat) : Bool := ps.any fun p => p.dev.isNone && decide (p.pa < l + 128) && decide (l < p.pa + p.len)
    let whole (l : Nat) : Bool := ps.any fun p => p.dev.isNone && decide (p.pa ≤ l) && decide (l + 128 ≤ p.pa + p.len)
    let cache (i : Instr) (stay discard : Bool) : Prop := Ready s i h k c → s.L1Ok → s.cacheWait k base len = false →
      (s.th k).leases = [] → (discard = true → (ps.all fun p => p.writable) = true) →
      ∃ mem cs, let u : State := { s with mem := mem, cores := cs }
        Completes s i k u ∧ (∀ n, n ≠ core → u.co n = s.co n)
        ∧ (∀ l, Tab.find l (u.co core).owned = if hit l then (if stay then (Tab.find l (s.co core).owned).map fun _ => [] else none)
            else Tab.find l (s.co core).owned)
        ∧ (u.co core).copies = (s.co core).copies.filter (fun x => stay || !(ps.any fun p => p.dev == x.dev
            && decide (p.pa < x.line + 128) && decide (x.line < p.pa + p.len)))
        ∧ ∀ x, u.cohByte x = if discard = true ∧ hit (lineOf x) = true ∧ whole (lineOf x) = true
              ∧ (Tab.find (lineOf x) (s.co core).owned).isSome = true
            then readByte s.mem x else s.cohByte x
    let w := (s.r32 k a).toNat
    let cr := crewOf k
    fence (.fenceAcq h sc) (!(s.loading k).isEmpty || s.merging k sc) true
    ∧ fence (.fenceRel h sc) (s.releasing k sc) false
    ∧ fence (.fenceAr h sc) (s.releasing k sc || s.merging k sc) true
    ∧ fence (.fenceSc h sc) (s.releasing k sc || s.merging k sc || s.crewWrites k sc) true
    ∧ (Ready s (.roinv h) h k c → (s.opsOf k fun o => o.kind == .load && o.rtype == .ro) = [] → drops (.roinv h) fun x => x.kind.isRo)
    ∧ cache (.cwb h a b) true false ∧ cache (.cinv h a b) false false ∧ cache (.cinvDiscard h a b) false true
    ∧ (∀ p, Ready s (.cinvDiscard h a b) h k c → s.cacheWait k base len = false → (ps.find? fun x => !x.writable) = some p →
        s.handled k 0x11 = true → Leaves s (.cinvDiscard h a b) k
          (s.trap k ⟨0x11, BitVec.ofNat 64 p.va, some (BitVec.ofNat 64 p.va), none⟩))
    ∧ (Ready s (.cresize h a) h k c →
        -- what was poisoned of a returned way's scratch is gone with it
        let past (y : Where) : Prop := ∃ o, y = .crewScratch cr o ∧ 2 ^ 19 + 2 ^ 17 * w ≤ o
        ∃ bad : List Where, (∀ y, y ∈ bad ↔ y ∈ s.scrPoison ∧ ¬past y) ∧
        (let resized (x : Crew) : Crew :=
            { x with ways := w, resizing := x.resizing.filter (· != k), scratch := x.scratch.filter fun y => decide (y.1 < 2 ^ 19 + 2 ^ 17 * w) }
         (s.laTh k).rcd.excl = true → w ≤ 10 → s.resizeWait k = false →
            (w ≤ (s.cr cr).ways → Completes s (.cresize h a) k (State.setCr { s with scrPoison := bad } cr resized))
            -- of ways newly lent the lines are written back and gone from the L1
            ∧ ((s.cr cr).ways < w → s.L1Ok → (∀ j, s.coreTh j = core → (s.th j).leases = []) → ∃ mem cs drawn,
                let u : State := { s with mem := mem, cores := cs, free := s.free + drawn, scrPoison := bad }
                Completes s (.cresize h a) k (u.setCr cr resized) ∧ (∀ n, n ≠ core → u.co n = s.co n)
                  ∧ (∀ x, u.cohByte x = s.cohByte x)
                  ∧ ∀ l, Tab.find l (u.co core).owned = none ∨ Tab.find l (u.co core).owned = Tab.find l (s.co core).owned))
        ∧ ((s.laTh k).rcd.excl = false → s.handled k 0x03 = true → Leaves s (.cresize h a) k (s.trap k ⟨0x03, highBits c.word, none, none⟩))
        ∧ ((s.laTh k).rcd.excl = true → 10 < w → s.handled k 0x01 = true →
            Leaves s (.cresize h a) k (s.trap k ⟨0x01, BitVec.ofNat 64 w, none, none⟩)))

/-- 11 R292 to R295: barrier registers and memory barriers. -/
def Obligations.Barriers : Prop :=
  ∀ (s : State) (k : Nat) (c : Convoy) (h : Head) (d b : Spec) (n : BitVec 8) (a : Spec) (m : MemF),
    let cr := crewOf k
    let no := n.toNat - 0x30
    let bar := Tab.getD no {} (s.cr cr).bar
    let setBar (x : Bar) : State := s.setCr cr fun y => { y with bar := Tab.put no x y.bar }
    let v := (s.r32 k b).toNat
    let passed (w phase tok : Nat) : Prop := let q := (phase + 2 ^ w - tok % 2 ^ w) % 2 ^ w; 1 ≤ q ∧ q ≤ 2 ^ (w - 1) - 1
    let bn : Spec := .sp n
    let free (pa : Nat) : Prop := (∀ x ∈ s.ops, overlaps x.2.loc x.2.size (.mem pa) 16 = false) ∧ ∀ x ∈ s.engOwned, x.1 ≠ lineOf pa
    let truth (q : Prop) (i : Instr) : Prop := ∃ r : Bool, (r = true ↔ q) ∧ Completes s i k (s.pred k d r)
    let addr := (((s.r64 k a).toNat + m.ofs.toInt) % (2 ^ 64 : Int)).toNat
    (Ready s (.bninit h bn b) h k c →
      (1 ≤ v → v ≤ 65535 → Completes s (.bninit h bn b) k (setBar { bar with expect := v, arr := 0 }))
      ∧ (v < 1 ∨ 65535 < v → s.handled k 0x01 = true → Leaves s (.bninit h bn b) k (s.trap k ⟨0x01, BitVec.ofNat 64 v, none, none⟩)))
    ∧ (Ready s (.bnarr h d bn) h k c → s.releasing k .crew = false → s.hasRoom k (destRegs d 1) = true →
        Completes s (.bnarr h d bn) k (State.dest (setBar (if bar.expect ≤ bar.arr + 1 then
          { bar with arr := 0, phase := (bar.phase + 1) % 65536 } else { bar with arr := bar.arr + 1 })) k d 1 (BitVec.ofNat 64 bar.phase)))
    ∧ (Ready s (.bnarr h d bn) h k c → s.releasing k .crew = true → Waits s (.bnarr h d bn))
    ∧ (Ready s (.bnwait h bn b) h k c → (s.th k).wait = .none →
        (passed 16 bar.phase v → Completes s (.bnwait h bn b) k s)
        ∧ (¬passed 16 bar.phase v → Leaves s (.bnwait h bn b) k
            (s.setTh k fun t => { t with status := .waiting, wait := .barrier no v, stalled := false })))
    ∧ (Ready s (.bntest h d bn b) h k c →
        (h.md.getLsbD 0 = false → truth (passed 16 bar.phase v) (.bntest h d bn b))
        ∧ (h.md.getLsbD 0 = true → truth (bar.phase % 2 ≠ v % 2) (.bntest h d bn b)))
    ∧ (∀ pa, Ready s (.mbarr h d a b m) h k c → m.space = .g → (s.place k .g addr 16 mbarrNeed).1 = .at_ (.mem pa) → s.L1Ok →
        pa % 16 = 0 → s.releasing k m.scope = false → free pa → s.leaseHolder (lineOf pa) = none →
        s.leaseUntil (lineOf pa) = none → s.poisoned pa 16 = false → s.hasRoom k (destRegs d 1) = true →
        let word (o : Nat) : Nat := leNat (s.coh (pa + o) 4)
        let arr := word 4 + v
        let new : List Byte :=
          if word 0 = 0 then
            if 0 < v then leBytes 4 0 ++ leBytes 4 0 ++ leBytes 4 ((word 8 + 1) % 2 ^ 32) ++ leBytes 4 (word 12)
            else s.coh pa 16
          else leBytes 4 (word 0) ++ leBytes 4 (arr % word 0) ++ leBytes 4 ((word 8 + arr / word 0) % 2 ^ 32) ++ leBytes 4 (word 12)
        ∃ u, Completes s (.mbarr h d a b m) k u ∧ u.ops = s.ops ∧ (∀ j, u.th j = (s.dest k d 1 (BitVec.ofNat 64 (word 8))).th j)
          ∧ ∀ x, u.cohByte x = if pa ≤ x ∧ x < pa + 16 then new.getD (x - pa) 0 else s.cohByte x)
    ∧ (∀ pa, Ready s (.mbwait h a b m) h k c → m.space = .g → (s.place k .g addr 16 mbwaitNeed).1 = .at_ (.mem pa) → s.L1Ok →
        pa % 16 = 0 → (s.th k).wait = .none → s.merging k m.scope = false → free pa → s.leaseHolder (lineOf pa) = none →
        s.leaseUntil (lineOf pa) = none → s.poisoned pa 16 = false → (s.cr cr).subs = [] → (Tab.find cr s.crews).isSome →
        let phase := leNat (s.coh (pa + 8) 4)
        (passed 32 phase v → ∃ cs, Completes s (.mbwait h a b m) k { s with cores := cs }
          ∧ ∀ n, (Tab.getD n {} cs).owned = (s.co n).owned)
        ∧ (¬passed 32 phase v → ∃ u, Leaves s (.mbwait h a b m) k u
          ∧ (∀ j, u.th j = if j = k then { s.th k with status := .waiting, wait := .mbar pa none v, stalled := false } else s.th j)
          ∧ leNat (u.coh (pa + 12) 4) = (leNat (s.coh (pa + 12) 4) + 1) % 2 ^ 32 ∧ (u.cr cr).subs = [pa]
          ∧ ∀ x, x < pa + 12 ∨ pa + 16 ≤ x → u.cohByte x = s.cohByte x))
    ∧ (addr % 16 ≠ 0 → m.space = .g → s.handled k 0x12 = true →
        (Ready s (.mbarr h d a b m) h k c → s.releasing k m.scope = false →
          Leaves s (.mbarr h d a b m) k (s.trap k ⟨0x12, BitVec.ofNat 64 addr, none, none⟩))
        ∧ (Ready s (.mbwait h a b m) h k c → s.merging k m.scope = false →
          Leaves s (.mbwait h a b m) k (s.trap k ⟨0x12, BitVec.ofNat 64 addr, none, none⟩)))

/-! ### Engines, queues and messages, 12 R306, R307, R317, R320 to R328 -/

/-- 12 R306, R307: what CPGO does to the channel, by its state and its head, and what CPSTAT reads. A denial of the engine's
access table raises 0x11 (log entry 15). 12 R317, R320, R321: posting a card, by MXPOST or by the last signature of a
convergence register: a card of ST 0, 3, 4 or 5 enters the table, another does not; the causes of a card that cannot be posted;
MXSTAT. -/
def Obligations.EngineWords : Prop :=
  (∀ (s : State) (k : Nat) (c : Convoy) (h : Head) (d b : Spec) (n : BitVec 8),
    let cr := crewOf k
    let ch := n.toNat - 0x50
    let x := Tab.getD ch {} (s.cr cr).ch
    let head := (s.r64 k b).toNat
    let start : Chan := { x with st := 1, rng := (s.th k).rng, rngAt := none, halt := false }
    let after : Chan :=
      if x.st = 1 then (if head = 0 then { x with halt := true } else { x with kick := true })
      else if x.st = 2 then (if head = 0 then { x with st := 4 } else start)
      else if x.st = 3 then (if head = 0 then { x with st := 4 } else { x with st := 1, halt := false })
      else if head = 0 then x
      else if head % 64 = 0 then { start with cur := BitVec.ofNat 64 head, done := 0, kick := false }
      else { x with st := 3, code := 6, cur := BitVec.ofNat 64 head, fault := BitVec.ofNat 64 head }
    let go : Instr := .cpgo h (.sp n) b
    let stat (sel : BitVec 8) : Instr := .cpstat h d (.sp n) (.imm sel)
    (Ready s go h k c → s.releasing k .valley = true → Waits s go)
    ∧ (Ready s go h k c → s.releasing k .valley = false → s.engineAdmits k = true →
        Completes s go k (s.setCr cr fun y => { y with ch := Tab.put ch after y.ch }))
    ∧ (Ready s go h k c → s.releasing k .valley = false → s.engineAdmits k = false → s.handled k 0x11 = true →
        Leaves s go k ((s.denied (s.plainTh k) (some (s.ctxTh k))).trap k ⟨0x11, BitVec.ofNat 64 head, some (BitVec.ofNat 64 head), none⟩))
    ∧ (∀ sel, Ready s (stat sel) h k c → s.engineReads k = false → s.handled k 0x11 = true →
        Leaves s (stat sel) k ((s.denied (s.plainTh k) (some (s.ctxTh k))).trap k ⟨0x11, 0, some 0, none⟩))
    ∧ (Ready s (stat 0) h k c → s.engineReads k = true → s.hasRoom k (destRegs d 1) = true →
        Completes s (stat 0) k (s.dest k d 1 (BitVec.ofNat 64 (x.st * 2 ^ 28 + x.code * 2 ^ 24 + x.done % 65536))))
    ∧ (Ready s (stat 1) h k c → s.engineReads k = true → s.hasRoom k (destRegs d 2) = true →
        Completes s (stat 1) k (s.dest k d 2 (if x.st = 0 then 0 else x.cur)))
    ∧ (Ready s (stat 2) h k c → s.engineReads k = true → s.hasRoom k (destRegs d 2) = true → Completes s (stat 2) k (s.dest k d 2 x.fault)))
  ∧ (∀ (s s' : State) (k : Nat) (c : Convoy) (h : Head) (d a b : Spec) (n : BitVec 8) (pa : Nat),
    let cr := crewOf k
    let no := n.toNat - 0x40
    let v := Tab.getD no {} (s.cr cr).cv
    let setV (u : State) (y : Conv) : State := u.setCr cr fun z => { z with cv := Tab.put no y z.cv }
    let count := (s.r32 k a).toNat
    let cl := clusterOfCore (s.coreTh k)
    let bytes := s.coh pa 256
    let st := leNat ((bytes.drop 0xB4).take 4) % 16
    -- the post of the card at an address by an instruction that then signs `after`
    let post (i : Instr) (card : DWord) (after : State → State) : Prop := Ready s i h k c → s.releasing k .valley = false →
      (card.toNat % 64 ≠ 0 → s.handled k 0x12 = true → Leaves s i k (s.trap k ⟨0x12, card, none, none⟩))
      ∧ (∀ cz tva tf ws, card.toNat % 64 = 0 → s.cardPlaces k card.toNat { r := true, w := true, rtype := .own } 4 = ((.fault cz tva tf, ws), s') →
          s.handled k cz = true → Leaves s i k (s'.trap k ⟨cz, card, tf, none⟩))
      ∧ (∀ p, card.toNat % 64 = 0 → s.cardPlaces k card.toNat { r := true, w := true, rtype := .own } 4
            = ((.at_ p, [.mem pa, .mem (pa + 64), .mem (pa + 128), .mem (pa + 192)]), s') →
          (s'.engineAdmits k = false → s.handled k 0x11 = true →
            Leaves s i k ((s'.denied (s.plainTh k) (some (s.ctxTh k))).trap k ⟨0x11, card, some card, none⟩))
          ∧ (s'.engineAdmits k = true → s.poisoned pa 256 = false → s.ops = [] → s.engOwned = [] →
            (∀ line, s.leasedByOther k line = false) →
            let z : State := { s with cores := s'.cores }
            let open_ := st = 0 ∨ st = 3 ∨ st = 4 ∨ st = 5
            (¬open_ → Completes s i k ((after z).pred k d false))
            ∧ (open_ → s.mxRoom cl (s.ctxTh k) = true → Completes s i k ((after (z.enterJob cl cr card bytes)).pred k d true))
            ∧ (open_ → s.mxRoom cl (s.ctxTh k) = false →
                Leaves s i k (z.setTh k fun t => { t with status := .waiting, wait := .post, stalled := false }))))
    post (.mxpost h d a) (s.r64 k a) id
    ∧ (v.init = true → v.awaited ≤ 1 → post (.mxsign h d (.sp n)) v.card fun u => setV u { v with awaited := v.count })
    ∧ (Ready s (.mxsign h d (.sp n)) h k c → s.releasing k .valley = false →
        (v.init = true → 1 < v.awaited → Completes s (.mxsign h d (.sp n)) k (State.pred (setV s { v with awaited := v.awaited - 1 }) k d false))
        ∧ (v.init = false → s.handled k 0x01 = true → Leaves s (.mxsign h d (.sp n)) k (s.trap k ⟨0x01, 0, none, none⟩)))
    ∧ (Ready s (.cvinit h (.sp n) a b) h k c →
        (1 ≤ count → count ≤ 65535 → Completes s (.cvinit h (.sp n) a b) k (setV s ⟨count, count, s.r64 k b, true⟩))
        ∧ (count < 1 ∨ 65535 < count → s.handled k 0x01 = true →
            Leaves s (.cvinit h (.sp n) a b) k (s.trap k ⟨0x01, BitVec.ofNat 64 count, none, none⟩)))
    ∧ (∀ p, Ready s (.mxstat h d a) h k c → s.mxstatBlock k a = false → s.place k .g (((s.r64 k a).toNat + 0xB4) % 2 ^ 64) 4 mxstatNeed = (.at_ (.mem p), s') →
        s.poisoned p 4 = false → s.hasRoom k (destRegs d 1) = true →
        (∀ y ∈ s.ops, y.2.th = k ∨ y.2.crew = cr → overlaps y.2.loc y.2.size (.mem p) 4 = false) →
        ∃ cs, (∀ m, (Tab.getD m {} cs).owned = (s.co m).owned)
          ∧ Completes s (.mxstat h d a) k (State.dest { s with cores := cs } k d 1 (BitVec.ofNat 64 (leNat (s.coh p 4)))))
    -- what entering the table does: ST 3 and 5 go on where PROG stands, with the sticky flags; other cards begin anew
    ∧ (∀ card, s.cardCheck (s.cr cr).launch bytes = none → (∀ y ∈ s.threads, y.2.leases = []) →
        let u := s.enterJob cl cr card bytes
        let word (o : Nat) := leNat ((bytes.drop o).take 4)
        let again := st = 3 ∨ st = 5
        ∃ j : MxJob, (u.cl cl).table = (s.cl cl).table ++ [j] ∧ j.card = card ∧ j.crew = cr ∧ j.ctx = (s.cr cr).ctx ∧ j.bytes = bytes ∧ j.st = 1
          ∧ j.idx = (if again then [word 0xA0, word 0xA4, word 0xA8, word 0xAC, word 0xB0] else [0, 0, 0, 0, 0])
          ∧ j.fl = (if again then BitVec.ofNat 5 (word 0xB4 / 2 ^ 16) else 0) ∧ (j.sat = true ↔ again ∧ (word 0xB4).testBit 21 = true)
          ∧ ∀ m, u.th m = s.th m))

/-- 12 R322, R323, 17 R371, R372: EQPOST appends its record at the tail of a granted queue, or waits while the ring is full. 12
R325, R328, 20 R410: MSEND, WAITQ and QWAVE. A message to the sender's own device joins its handler queue. -/
def Obligations.PostsAndMessages : Prop :=
  (∀ (s : State) (k : Nat) (c : Convoy) (h : Head) (a b e : Spec),
    let i : Instr := .eqpost h a b e
    let w := (s.r32 k a).toNat
    let q := w % 1024
    -- the descriptor's address, ring base, size, tail and head
    let desc := (s.reg (0x500 + q / 64)).toNat / 2 ^ 11 % 2 ^ 45 * 2 ^ 11 + 32 * (q % 64)
    let num (o n : Nat) := s.memNat (desc + o) n
    let used := (num 0x10 8 + 2 ^ 64 - num 0x18 8) % 2 ^ 64
    let slot := num 0 8 + 16 * (num 0x10 8 % num 8 4)
    let bytes := leBytes 4 (s.r32 k b).toNat ++ [4, 0] ++ leBytes 2 (s.laTh k).rcd.jobid ++ leBytes 8 (s.r64 k e).toNat
    Ready s i h k c → s.releasing k .device = false →
      (s.eqGrants k q = false → s.handled k 0x11 = true →
        Leaves s i k ((s.denied (q / 64) (some (s.ctxTh k))).trap k ⟨0x11, BitVec.ofNat 64 w, some (BitVec.ofNat 64 w), none⟩))
      ∧ (s.eqGrants k q = true → num 0x0E 1 % 2 = 1 → 0 < num 8 4 → num 8 4 ≤ used →
        Leaves s i k (s.setTh k fun t => { t with status := .waiting, wait := .ring q, stalled := false }))
      ∧ (s.eqGrants k q = true → num 0x0E 1 % 2 = 1 → used < num 8 4 → s.ringBusy q = false → s.L1Ok → (∀ x, slot ≤ x → x < slot + 16 → x < desc ∨ desc + 32 ≤ x) →
        ∃ u, Completes s i k u ∧ (∀ j, u.th j = s.th j) ∧ ∀ x, u.cohByte x =
          if slot ≤ x ∧ x < slot + 16 then bytes.getD (x - slot) 0
          else if desc + 0x10 ≤ x ∧ x < desc + 0x18 then (leBytes 8 (num 0x10 8 + 1)).getD (x - (desc + 0x10)) 0
          else s.cohByte x))
  ∧ (∀ (s : State) (k : Nat) (c : Convoy) (h : Head) (d a b : Spec) (n : BitVec 8),
    let l := (s.crewTh k).launch
    let la := s.la l
    let dev := (s.r32 k b).toNat
    let die := dieOfCore (s.coreTh k)
    let i : Instr := .msend h a b n
    let payload := (List.range 16).flatMap fun j => leBytes 4 ((s.th k).vget (a.vIndex + j)).toNat
    let known := n.toNat < la.rcd.msgn ∧ la.msgs.getD n.toNat 0 ≠ 0
    let wave := (s.jobCtr l).wave
    let acquired (cs : List (Nat × Core)) : Prop := ∀ m, Tab.getD m {} cs =
      if m = s.coreTh k then { s.co m with copies := (s.co m).copies.filter fun y => !(y.kind == .si) } else s.co m
    (Ready s i h k c → s.releasing k .domain = false →
      (¬known → s.handled k 0x11 = true → Leaves s i k (s.trap k ⟨0x11, BitVec.ofNat 64 n.toNat, none, none⟩))
      ∧ (known → la.rcd.devs ≤ dev → s.handled k 0x11 = true → Leaves s i k (s.trap k ⟨0x11, BitVec.ofNat 64 dev, none, none⟩))
      ∧ (known → dev < la.rcd.devs → Completes s i k (s.sendMsg l die dev n.toNat payload)))
    ∧ ((Tab.find l s.launches).isSome → s.sent = [] → la.dev = dev → s.takesMsg l = true → (s.jobOf l).valid = true →
        let u := s.sendMsg l die dev n.toNat payload
        let at_ (v : State) := Tab.getD die {} (v.jobCtr l).dies
        (u.la l).hq = la.hq ++ [⟨dev, n.toNat, payload⟩] ∧ u.sent = [] ∧ at_ u = { at_ s with i := ((at_ s).i + 1) % 2 ^ 48 }
        ∧ u.outbox = s.outbox ∧ ∀ j, u.th j = s.th j)
    ∧ (Ready s (.waitq h d) h k c → (s.crewTh k).handler = true → s.handled k 0x01 = true →
        Leaves s (.waitq h d) k (s.trap k ⟨0x01, 0, none, none⟩))
    ∧ (Ready s (.waitq h d) h k c → (s.crewTh k).handler = false → s.merging k .domain = false →
        (∀ w0 q, (s.th k).wait = .quiet w0 → (s.jobCtr l).quiet = some q → w0 < q → s.hasRoom k (destRegs d 2) = true →
          ∃ cs, acquired cs ∧ Completes s (.waitq h d) k (State.dest { s with cores := cs } k d 2 (BitVec.ofNat 64 q)))
        ∧ ((s.th k).wait = .none → (∀ q, (s.jobCtr l).quiet = some q → q ≤ wave) →
          Leaves s (.waitq h d) k (s.setTh k fun t => { t with status := .waiting, wait := .quiet wave, stalled := false })))
    ∧ (Ready s (.qwave h d) h k c → s.hasRoom k (destRegs d 2) = true → Completes s (.qwave h d) k (s.dest k d 2 (BitVec.ofNat 64 wave))))

/-! ### System words, 16 R335 to R354 -/

/-- 16 R335 to R337, R344, R355: SRD and SWR, and which bits of each thread and context register a write leaves to be read; a device
register that the access table denies raises 0x11, whose tva is the model's reading (log entry 15). Which writes of special registers are kept follows log entry 33. -/
def Obligations.SystemRegisters : Prop :=
  ∀ (s : State) (k : Nat) (c : Convoy) (h : Head) (d a : Spec) (sr : BitVec 12) (v : DWord),
    let t := s.th k
    let x := s.cx (s.ctxTh k)
    let reads (n : Nat) (w : DWord) : Prop := s.sysRead k n = some w
    -- what register m reads after v is written to n
    let after (n m : Nat) (w : DWord) : Prop := (s.sysWrite k n v).sysRead k m = some w
    -- a device register that the access table of the die's register block denies to the core
    let num : DWord := BitVec.ofNat 64 sr.toNat
    let denied (write : Bool) : Prop := (s.sysRead k sr.toNat).isSome ∧ s.sysAdmits k sr.toNat write = false ∧ s.handled k 0x11 = true
    let refused : State := (s.denied (s.plainTh k / 4 * 4) (some (s.ctxTh k))).trap k ⟨0x11, num, some num, none⟩
    (Ready s (.srd h d sr) h k c →
      (∀ w, s.sysRead k sr.toNat = some w → s.sysAdmits k sr.toNat false = true → s.hasRoom k (destRegs d h.ty.rw) = true → Completes s (.srd h d sr) k (s.dest k d h.ty.rw w))
      ∧ (denied false → Leaves s (.srd h d sr) k refused)
      ∧ (s.sysRead k sr.toNat = none → s.handled k 0x01 = true → Leaves s (.srd h d sr) k (s.trap k ⟨0x01, sr.setWidth 64, none, none⟩)))
    ∧ (Ready s (.swr h a sr) h k c →
      ((s.sysRead k sr.toNat).isSome → s.sysAdmits k sr.toNat true = true → Completes s (.swr h a sr) k (s.sysWrite k sr.toNat (s.regRead k a h.ty.rw)))
      ∧ (denied true → Leaves s (.swr h a sr) k refused)
      ∧ (s.sysRead k sr.toNat = none → s.handled k 0x01 = true → Leaves s (.swr h a sr) k (s.trap k ⟨0x01, sr.setWidth 64, none, none⟩)))
    ∧ (∀ n w, n < 0x400 → s.sysAdmits k n w = true)
    ∧ reads 0 (BitVec.ofNat 64 t.tlvl) ∧ reads 1 t.tslc ∧ (∀ n, n < 4 → reads (4 + n) (Tab.getD n 0 t.sscr))
    ∧ reads 0x100 (BitVec.ofNat 64 (s.ctxTh k % 65536)) ∧ reads 0x101 (BitVec.ofNat 64 (x.sys.toNat + 2 * x.excl.toNat))
    ∧ reads 0x102 x.route ∧ reads 0x103 x.tvec2 ∧ reads 0x104 x.croot ∧ reads 0x105 (Tab.getD (s.coreTh k) 0 x.csave)
    ∧ ((Tab.find k s.threads).isSome → (Tab.find (s.ctxTh k) s.ctxs).isSome →
      after 1 1 (v &&& 0x00FFFFFFFFFFFFFF) ∧ (∀ n, n < 4 → after (4 + n) (4 + n) v) ∧ after 0x102 0x102 (v &&& 0x000000010337011E)
      ∧ after 0x106 0x106 (v &&& 0x00FFFFFFFFFF0000) ∧ after 0x103 0x103 v ∧ after 0x104 0x104 (v &&& 0x000FFFFFFFFFE001) ∧ after 0x105 0x105 (v &&& 0xFFFFFFFFFFFFF000)
      ∧ (∀ e, e < 64 → after (0x200 + 3 * e) (0x200 + 3 * e) (v &&& 0x00FFFFFFFFFFFFC0)
        ∧ after (0x201 + 3 * e) (0x201 + 3 * e) (v &&& 0x00FFFFFFFFFFFFC0)
        ∧ after (0x202 + 3 * e) (0x202 + 3 * e) (v &&& 0x80FFFFFF))
      -- a read-only register ignores the write, and a write changes no other register of the thread and its context
      ∧ (∀ n, n ∈ [0, 2, 0x100, 0x101] → (s.sysWrite k n v).sysRead k n = s.sysRead k n)
      ∧ (∀ n m, n < 0x400 → m < 0x400 → n ≠ m → (s.sysWrite k n v).sysRead k m = s.sysRead k m))

/-- 16 R345 to R347, R353, R354, 22 R440, R441: TLBINV and ICINV drop what they name from every core; RCPFLUSH is refused until the
context is parked, then no register of it is eligible and D counts those left mixed; STEST is refused, passes or fails, which of
the last two a free value says (log entries 7, 42); SETPERF.sys gives the old value and sets the new one; the three events of
self-test hold the next cluster in service, see it empty and end its hold. -/
def Obligations.MaintenanceWords : Prop :=
  ∀ (s : State) (k : Nat) (c : Convoy) (h : Head) (d a b : Spec) (kind : BitVec 2) (g test : BitVec 8),
    let at_ := (s.r64 k a).toNat
    let x := (s.r32 k b).toNat % 2 ^ 16
    let gone (e : Tlb) : Prop := kind = 2 ∨ (e.ctx = x ∧ (kind = 1 → e.va = at_ / 2 ^ e.bits * 2 ^ e.bits))
    let room := s.hasRoom k (destRegs d 1) = true
    let parked := ∀ j ∈ s.resident x none, s.atRest j = true
    let mixed (t : State) : Nat := ((t.ctxRows x).map fun r => (t.rw r).regs.countP fun y => y.2.form == .mixed).sum
    let cl := clusterOfCore (s.coreTh k)
    let free := Config.freeDWord s.free
    let l2 := test = 5 ∨ (test = 0 ∧ free.toNat % 256 = 5)
    let code (v : Nat) : DWord := BitVec.ofNat 64 (v + test.toNat * 256)
    let tlb : Instr := .tlbinv h a b kind
    let flush (e : Spec) : Instr := .rcpflush h e b
    let stest : Instr := .stest h d test
    (Ready s tlb h k c →
      (s.releasing k .device = true ∨ s.translating (fun y => kind == 2 || y == x) = true → Waits s tlb)
      ∧ (s.releasing k .device = false → s.translating (fun y => kind == 2 || y == x) = false →
        ∃ cs, Completes s tlb k { s with cores := cs } ∧ ∀ n, ∃ l w, Tab.getD n {} cs = { s.co n with tlb := l, walks := w }
          ∧ (∀ e, e ∈ l ↔ e ∈ (s.co n).tlb ∧ ¬gone e)
          -- of the table entries kept, those of the context
          ∧ ∀ e, e ∈ w ↔ e ∈ (s.co n).walks ∧ ¬(kind = 2 ∨ e.1 = x)))
    ∧ (Ready s (.icinv h) h k c → s.releasing k .device = false → ∃ t cs, exec (.icinv h) s = .next t
        ∧ Went { s with cores := cs } t k (endHint (.icinv h)) ∧ (∀ n, Tab.getD n {} cs = { s.co n with icache := [] })
        ∧ ∀ p, (t.pt p).captured = [])
    ∧ (Ready s (flush d) h k c → ¬parked → room → Completes s (flush d) k (s.dest k d 1 0xFFFFFFFF))
    ∧ (Ready s (flush (.v g)) h k c → parked → s.ctxTh k ≠ x →
        ((s.rreg (rowKey k) g.toNat).any fun y => y.form == .value) = true →
        ∃ t, exec (flush (.v g)) s = .next t ∧ (t.th k).vget g.toNat = BitVec.ofNat 32 (mixed t)
          ∧ (t.th k).pc = ((s.th k).complete s.cycle (endHint (flush d))).pc
          ∧ ∀ j ∈ s.resident x none, (t.th j).elig = [] ∧ (t.th j).slice = none)
    ∧ (Ready s stest h k c → room → s.L1Ok →
      (s.testAllowed k = false → ∃ u, Completes s stest k (State.dest u k d 1 (code 2)) ∧ u.mem = s.mem ∧ u.cores = s.cores ∧ u.caps = s.caps
        ∧ ∀ j, u.th j = s.th j)
      ∧ (s.testAllowed k = true → free.getLsbD 16 = false → ∃ u, Completes s stest k (State.dest u k d 1 (code 0))
        ∧ (∀ y, u.cohByte y = s.cohByte y) ∧ u.free = s.free + 1 ∧ u.caps = s.caps ∧ u.banks = s.banks ∧ ∀ j, u.th j = s.th j)
      ∧ (s.testAllowed k = true → free.getLsbD 16 = true → ¬l2 → ∃ u,
        Completes s stest k (State.dest u k d 1 (code (free.toNat % 65536 * 65536 + 1)))
        ∧ (∀ y, u.cohByte y = s.cohByte y) ∧ u.caps.clusin.getLsbD cl = false ∧ ∀ j, u.th j = s.th j))
    ∧ (Ready s (.setperfSysCap h d a b) h k c → room →
      (Tab.find x s.ctxs = none → Completes s (.setperfSysCap h d a b) k (s.dest k d 1 0xFFFFFFFF))
      ∧ (∀ y, Tab.find x s.ctxs = some y → Completes s (.setperfSysCap h d a b) k (State.dest
          (s.setCx x fun z => { z with cap := min (s.r32 k a).toNat 3 }) k d 1 (BitVec.ofNat 64 y.cap))))
    ∧ (Ready s (.setperfSysPermits h d a b) h k c → room →
      (Tab.find x s.ctxs = none → Completes s (.setperfSysPermits h d a b) k (s.dest k d 1 0xFFFFFFFF))
      ∧ (∀ y, Tab.find x s.ctxs = some y → Completes s (.setperfSysPermits h d a b) k (State.dest
          (s.setCx x fun z => { z with permits := min (s.r32 k a).toNat 64 }) k d 1 (BitVec.ofNat 64 y.permits))))
    -- the next cluster in service, in rotation, is held once INT ms have passed; else nothing happens
    ∧ (let every := field (s.reg 0x720) 23 0 * 1000000
      let held := (s.reg 0x721).getLsbD 31
      let n := field (s.reg 0x721) 27 20
      let past : Bool := match (s.cl n).emptied with | some t => decide (t + 1000000 ≤ s.ns) | none => decide (s.testFrom + 10 * every ≤ s.ns)
      (∃ t, exec .selftestHold s = .next t
        ∧ ((s.reg 0x720).getLsbD 31 = false ∨ held = true ∨ s.ns < s.testFrom + every → t = s)
        ∧ ∀ m, (s.reg 0x720).getLsbD 31 = true → held = false → s.testFrom + every ≤ s.ns → s.nextInService s.testNext = some m → m < 192 →
          (t.reg 0x721).getLsbD 31 = true ∧ field (t.reg 0x721) 27 20 = m ∧ field (t.reg 0x721) 3 0 = field (s.reg 0x721) 3 0
          ∧ (t.cl m).hold = some s.ns ∧ (t.cl m).emptied = none ∧ t.testNext = (m + 1) % 192 ∧ t.testFrom = s.ns)
      -- it holds no context: its plain's control core is interrupted, once
      ∧ exec .selftestClusterReady s = .next (if held && (s.cl n).emptied.isNone && (s.clusterCrews n).isEmpty then
          (s.setCl n fun y => { y with emptied := some s.ns }).raiseIrq (n / 12) else s)
      -- 1 ms after it emptied, or 10 × INT ms if it does not, the hold ends
      ∧ (∃ t, exec .selftestHoldTimeout s = .next t ∧ (held = false ∨ past = false → t = s)
        ∧ (held = true → past = true → (t.reg 0x721).getLsbD 31 = false ∧ field (t.reg 0x721) 3 0 = field (s.reg 0x721) 3 0
          ∧ field (t.reg 0x721) 27 20 = n ∧ (t.cl n).hold = none)))

/-- 16 R348 to R352: PARK, PARK.rel, HALT, CTXSAVE and CTXLOAD of another context; of its own the first three raise 0x01. The save
area's layout and the checks of a load are the model's (log entries 10, 39). -/
def Obligations.ContextWords : Prop :=
  ∀ (s : State) (k : Nat) (c : Convoy) (h : Head) (d a b : Spec), (s.crews.map (·.1)).Nodup → (s.ops.map (·.1)).Nodup →
    let core := s.coreTh k
    let x := (s.r32 k b).toNat % 2 ^ 16
    let own := s.ctxTh k = x
    let crews := s.ctxCrews x (some core)
    let here (j : Nat) : Bool := (s.resident x (some core)).contains j
    let park : Instr := .park h b
    let rel : Instr := .parkRel h b
    let halt : Instr := .halt h b
    let asked := s.askPark x core
    let noJob := ((s.cl (clusterOfCore core)).table.all fun j => !(crews.contains j.crew && j.open_)) = true
    let sx := (s.r32 k a).toNat % 2 ^ 16
    let area := (s.r64 k b).toNat
    let save : Instr := .ctxsave h d a b
    let load : Instr := .ctxload h d a b
    let room := s.hasRoom k (destRegs d 1) = true
    let saved (j : Nat) : Prop := ∃ y ∈ s.crews, y.1 = crewOf j ∧ y.2.ctx = sx ∧ y.2.core = core ∧ y.2.started = true ∧ y.2.ended = false
    let hd := s.coh area 256
    let kept := Tab.find (leNat (s.coh (area + at64 hd 0x20 8 + 88) 8)) s.images
    let sound : Bool := s.coreMay core area 256 false && areaOk hd sx && s.descClean area hd && s.eligClean area hd
    (own → s.handled k 0x01 = true → ∀ i ∈ [park, rel, halt], Ready s i h k c →
      Leaves s i k (s.trap k ⟨0x01, BitVec.ofNat 64 x, none, none⟩))
    -- PARK asks at once, and completes when what it asks for has come about
    ∧ (Ready s park h k c → ¬own → noJob →
      (asked.isParked x core = true → Completes s park k asked) ∧ (asked.isParked x core = false → exec park s = .next asked))
    ∧ (noJob → (∀ j, asked.th j = if here j then { s.th j with preempt := !(s.th j).parked } else s.th j)
      ∧ ∀ y ∈ crews, (Tab.find y s.crews).isSome → (asked.cr y).parked = true)
    ∧ (Ready s rel h k c → ¬own → (∀ y ∈ s.crews, y.2.stopped = []) → Completes s rel k (s.unpark x core)
      ∧ (∀ j, (s.unpark x core).th j = if here j then { s.th j with parked := false, preempt := false, since := s.cycle } else s.th j)
      ∧ ∀ y ∈ crews, ((s.unpark x core).cr y).parked = false)
    -- HALT asks for the same, and ends the threads once all have been taken
    ∧ (Ready s halt h k c → ¬own → (∃ j ∈ s.resident x (some core), (s.th j).parked = false) → exec halt s = .next (s.askHalt x core))
    ∧ (∀ j, (s.askHalt x core).th j = if here j then { s.th j with preempt := !(s.th j).parked } else s.th j)
    ∧ (Ready s halt h k c → ¬own → (∀ j ∈ s.resident x (some core), (s.th j).parked = true) →
      (∀ y ∈ s.threads, y.2.leases = []) →
      let u := (s.askHalt x core).haltCtx x (some core)
      Completes s halt k u ∧ (∀ j, crews.contains (crewOf j) = true → Tab.find j u.threads = none)
      ∧ (∀ j, crews.contains (crewOf j) = false → u.th j = (s.askHalt x core).th j) ∧ (∀ y ∈ crews, Tab.find y u.crews = none)
      -- its loads are discarded; a write that has to wait goes on by itself
      ∧ (∀ y ∈ u.ops, y.2.crew ∈ crews → y.2.kind ≠ .load))
    ∧ (Ready s save h k c → room →
      (s.resident sx (some core) = [] → Completes s save k (s.dest k d 1 2))
      ∧ ((∃ j ∈ s.resident sx (some core), s.atRest j = false) → Completes s save k (s.dest k d 1 1))
      ∧ (s.resident sx (some core) ≠ [] → (∀ j ∈ s.resident sx (some core), s.atRest j = true) → s.ctxTh k ≠ sx →
        s.saveWait sx core area (h.md.getLsbD 0) = false → s.coreMay core area 256 true = true → s.L1Ok → ∃ u, Completes s save k (State.dest u k d 1 0) ∧ leNat (u.coh area 4) = 0x53585443
          ∧ leNat (u.coh (area + 8) 4) = sx ∧ (∀ j, saved j → Tab.find j u.threads = none) ∧ ∀ j, ¬saved j → u.th j = s.th j))
    ∧ (Ready s load h k c → room → s.linesHeld 0 (spanLines [(.mem area, 256)]) = false →
      (sound = false ∨ kept = none ∨ (∃ im, kept = some im ∧ im.ctx ≠ sx) → Completes s load k (s.dest k d 1 1))
      ∧ (∀ im, sound = true → kept = some im → im.ctx = sx → (im.crews.any fun y => s.unstartedBeside (clusterOfCore core) y.2.launch) = true →
        Completes s load k (s.dest k d 1 2))
      ∧ (∀ im, sound = true → kept = some im → im.ctx = sx → (∀ y ∈ im.crews, s.unstartedBeside (clusterOfCore core) y.2.launch = false) →
        (Tab.find (crewOf k) s.crews).isSome → (Tab.find (rowKey k) s.rows).isSome →
        (∀ r ∈ im.rows, im.crews.any (fun y => y.1 == r.1 / 128) = true) → (∀ t ∈ im.threads, im.crews.any (fun y => y.1 == crewOf t.1) = true) →
        -- the core has no copy, no cached code and no captured stretch from before
        let bare := s.freshCore core
        (bare.loadImage im core area hd = none → Completes s load k (s.dest k d 1 2))
        ∧ (∀ u, bare.loadImage im core area hd = some u → Completes s load k (State.dest u k d 1 0)
          ∧ (∀ t ∈ im.threads, (u.th t.1).parked = true) ∧ ((Tab.find im.ctx s.ctxs).isSome → Tab.getD core 0 (u.cx im.ctx).csave = BitVec.ofNat 64 area))))

/-! ### Events of threads and leases, 01 R22 to R28, 05 R143, 11 R283 to R286 -/


/-! ### Events of threads and of the memory system -/

/-- 01 R22, R23, R28, 02 R65, R66: CONVOY_ARBITRATION, THREAD_STARVED, PREEMPTION_TAKE_EFFECT, REGENERATION_COMPLETE. A free slot
is given to threads that stand at one address, one to a lane, the one of each lane that has been ready longest; the address of a
starved thread first, then the highest PRI. A pre-emption parks its thread at a boundary, between two repeats or in its wait. A
regeneration writes the slice's values in the lanes that wait for them and leaves flags, predicates, the rng and memory.
Regeneration follows the readings of log entry 29. -/
def Obligations.ThreadEvents : Prop :=
  ∀ s : State,
    let pri (k : Nat) : Nat := match s.headerAt k (s.th k).hdr with | some w => (hdrPri w).toNat | none => 0
    -- a thread that yielded stands back, unless it is starved
    let back (k : Nat) : Prop := (s.th k).yielded = true ∧ s.isStarved k = false
    (∀ p,
      let comp := s.competitors p
      let ks := s.chosen p
      (∀ c ∈ s.convoys, c.part = p → c.lane ≠ none) → (s.pt p).rgu = none → (s.co (p / 4)).dead = false → ks ≠ [] →
      (∀ k ∈ ks, (s.th k).pc = (s.th k).hdr) → (∀ j ∈ comp, ∀ k ∈ comp, s.standAt j = s.standAt k → pri j = pri k) →
      (ks.map laneOf).Nodup
      ∧ (∀ k ∈ ks, s.partTh k = p ∧ s.canIssue k = true ∧ ∀ j ∈ ks, s.standAt j = s.standAt k)
      ∧ (∀ k ∈ ks, ∀ j ∈ comp, s.standAt j = s.standAt k → ∃ m ∈ ks, laneOf m = laneOf j ∧ (back m → back j)
          ∧ ((back m ↔ back j) → s.readyFrom m < s.readyFrom j ∨ (s.readyFrom m = s.readyFrom j ∧ tidOf m ≤ tidOf j)))
      ∧ ((∃ j ∈ comp, s.isStarved j = true) → ∃ j ∈ comp, s.isStarved j = true
          ∧ (∀ m ∈ comp, s.isStarved m = true → s.readyFrom j ≤ s.readyFrom m) ∧ ∀ k ∈ ks, s.standAt k = s.standAt j)
      ∧ ((∀ j ∈ comp, s.isStarved j = false) → ∀ k ∈ ks, ∀ j ∈ comp, pri j ≤ pri k)
      ∧ ∃ t, exec (.convoyArbitration p) s = .next t ∧ (∀ k ∈ ks, (t.th k).status = .running)
          ∧ (∃ c ∈ t.convoys, c.part = p ∧ c.lane = none ∧ c.mem = byTid ks ∧ ∀ k ∈ ks, c.pc = (s.th k).pc ∧ c.hdr = (s.th k).hdr)
          ∧ t.world = s.world ∧ ∀ j, (t.th j).regs = (s.th j).regs ∧ (t.th j).flow = (s.th j).flow)
    ∧ (∀ k, s.canIssue k = true → (s.th k).status = .ready → exec (.threadStarved k) s = .next
        (if s.readyFrom k + 4096 ≤ s.cycle then s.setTh k fun t => { t with starved := true } else s))
    ∧ (∀ k,
      let t := s.th k
      let between : Prop := ∃ r, t.rep = some r ∧ 0 < r.idx
      -- inside a repetition, its remote access out, it is at none
      let here : Prop := t.status = .waiting ∨ t.status = .phase ∨ (t.status = .ready ∧ (t.pc = t.hdr ∨ between))
        ∨ (t.status = .running ∧ (∀ x ∈ s.ops, x.2.th = k → x.2.held = none)
          ∧ (between ∨ (∃ c ∈ s.convoys, k ∈ c.mem ∧ c.hdr = t.pc) ∨ s.inWaitf k = true ∨ s.inProbe k = true))
      let u := s.breakLeases k
      (t.preempt = true → (∀ x ∈ s.ops, x.2.th ≠ k) → here → ∃ v, exec (.preemptionTakeEffect k) s = .next v
        ∧ v.th k = { u.th k with parked := true, preempt := false, status := if t.status = .running then .ready else t.status }
        ∧ v.outside k = true ∧ (∀ j, j ≠ k → v.th j = u.th j) ∧ v.world = u.world)
      ∧ (¬here → exec (.preemptionTakeEffect k) s = .next s))
    ∧ (∀ (p r g : Nat) (x : RowReg) (ws : Nat → List IWord) (v : Nat → Word),
      let lanes := (List.range 32).filter fun l => x.lmask.getLsbD l
      (s.pt p).rgu = some (r, g) → s.rreg r g = some x → x.faults = [] → lanes ≠ [] →
      (x.form = .mixed ∨ (x.form = .recipe ∧ (s.rw r).entries < s.floorLeft r ∧ (s.laTh (laneKey r 0)).rcd.vcap = 0)) →
      (∀ l ∈ lanes, s.live (laneKey r l) = true ∧ s.sliceWords (laneKey r l) x.saddr x.len = (.ok (ws l), s)
        ∧ s.runSlice (laneKey r l) g x.saddr (ws l) { s.th (laneKey r l) with v := Tab.put g 0 (s.th (laneKey r l)).v, rep := none } = (.val (v l), s)
        ∧ (∀ w ∈ ws l, ∃ i, decodeWord w = .ok i ∧ (sliceValue i).isSome = true)
        ∧ ∀ q ∈ (s.th (laneKey r l)).pinsOf g, q ≠ g ∧ ∃ y, s.rreg r q = some y ∧ y.form = .value) →
      ∃ t, exec (.regenerationComplete p) s = .next t ∧ (t.pt p).rgu = none ∧ t.world = s.world
        ∧ (∃ y, t.rreg r g = some y ∧ y.form = .value ∧ y.lmask = 0)
        ∧ ∀ j, t.th j = if j ∈ lanes.map (laneKey r) then { s.th j with v := Tab.put g (v (laneOf j)) (s.th j).v } else s.th j)

/-- 05 R143, 11 R283, R286, 20 R404, R419: DELAYED_WRITE_PERFORM, LEASE_TIMER_EXPIRY, LEASE_AGE_GRANT, REMOTE_LEASE_EXPIRY,
PTPERR_EXCEEDED, HOST_ACKNOWLEDGE. Events that the opcode table does not name follow log entries 26 and 30; how many cycles a
home counts for a lease is the model's reading (log entry 61). -/
def Obligations.LeaseEvents : Prop :=
  ∀ s : State,
    (∀ (id : Nat) (o : Op) (pa : Nat), Tab.find id s.ops = some o → o.loc = .mem pa → o.held = none → o.acq = none → o.isKnock = false →
      o.kind = .store → o.rtype ≠ .own → o.data.length = o.size →
      (∀ j, s.leaseHolder (lineOf pa) = some j → j = o.th) → pa % 128 + o.size ≤ 128 → (s.cores.map (·.1)).Pairwise (· < ·) →
      (∀ x ∈ s.cores, Tab.find (lineOf pa) x.2.owned = none) →
      -- put off while a remote read lease runs, to its end and 40 ns more; by the home's own cycles where its clock is not good
      let freed (r : ReadLease) : Nat := if s.ptpErr.toNat ≤ 20 then r.ends + 40 else s.ns + (r.lastCycle - s.cycle + 3) / 4
      (∀ e, o.notBefore = none → s.enabled id o = true →
        (∃ r ∈ s.readLeases, r.line = lineOf pa ∧ s.ns < freed r ∧ e = freed r) →
        (∀ r ∈ s.readLeases, r.line = lineOf pa → s.ns < freed r → freed r ≤ e) →
        exec (.homeStoreMerge id) s = .next (s.setOp id fun o => { o with notBefore := some e }))
      ∧ (∀ e, o.notBefore = some e → s.ns < e → exec (.delayedWritePerform id) s = .next s)
      ∧ (∀ e, o.notBefore = some e → s.enabled id o = true → s.leaseUntil (lineOf pa) = none →
        ∃ t, exec (.delayedWritePerform id) s = .next t ∧ t.ops = Tab.drop id s.ops ∧ (∀ j, t.th j = s.th j)
          ∧ ∀ x, t.cohByte x = if pa ≤ x ∧ x < pa + o.size then o.data.getD (x - pa) 0 else s.cohByte x))
    ∧ (∀ k, ((∃ l ∈ (s.th k).leases, l.ends ≤ s.cycle) → exec (.leaseTimerExpiry k) s = .next (s.breakLeases k))
      ∧ ((∀ l ∈ (s.th k).leases, s.cycle < l.ends) → exec (.leaseTimerExpiry k) s = .next s))
    ∧ (∀ (k line timer : Nat) (sc : Scope), (s.th k).wait = .leaseAge line timer sc → (s.th k).status = .waiting → line % 128 = 0 →
      s.L1Ok →
      (s.leasedByOther k line = true ∨ s.leaseQueued k line = true ∨ (s.th k).parked = true → exec (.leaseAgeGrant k) s = .next s)
      ∧ ((s.th k).parked = false → s.leasedByOther k line = false → s.leaseQueued k line = false → s.lineBusy k line = false →
        s.shadowsUsed (s.coreTh k) < 8 → ∃ t, exec (.leaseAgeGrant k) s = .next t
          ∧ t.th k = { s.th k with leases := (s.th k).leases ++ [⟨line, s.coh line 128, s.cycle + timer, sc, s.seq, s.poison.filter fun a => lineOf a == line⟩], status := .ready, since := s.cycle }
          ∧ (∀ j, j ≠ k → t.th j = s.th j) ∧ (∀ x, t.cohByte x = s.cohByte x) ∧ ∃ o, t.ownerOf line = some (s.coreTh k, o)))
    ∧ (∀ core line, ∃ t, exec (.remoteLeaseExpiry core line) s = .next t
      ∧ (∀ c, c ∈ (t.co core).copies ↔ c ∈ (s.co core).copies ∧ ¬(c.line = line ∧ ∃ e, c.kind = .leased e ∧ e ≤ s.ns))
      ∧ (∀ n, n ≠ core → t.co n = s.co n) ∧ (∀ n, (t.co n).owned = (s.co n).owned) ∧ t.mem = s.mem ∧ ∀ j, t.th j = s.th j)
    ∧ (∀ err : Word, (err.toNat ≤ 20 → exec (.ptperrExceeded err) s = .next { s with ptpErr := err })
      ∧ (20 < err.toNat → ∃ t, exec (.ptperrExceeded err) s = .next t ∧ t.ptpErr = err
        ∧ (∀ n c, c ∈ (t.co n).copies ↔ c ∈ (s.co n).copies ∧ ∀ e, c.kind ≠ .leased e)
        ∧ t.banks = (s.logMc { bank := 9, sev := 1, type := 0x32, skind := 5, sidx := 0 }).banks ∧ t.mem = s.mem ∧ ∀ j, t.th j = s.th j))
    ∧ (∀ (id : Nat) (o : Op) (pa : Nat), Tab.find id s.ops = some o → o.loc = .host pa → o.held = none → o.acq = none → o.early = none →
      o.isKnock = false → o.group = none → s.enabled id o = true →
      (o.kind = .store → o.data.length = o.size → ∃ t, exec (.hostAcknowledge id) s = .next t ∧ t.ops = Tab.drop id s.ops
        ∧ (∀ j, t.th j = s.th j)
        ∧ ∀ x, readByte t.mem x = if 2 ^ 51 + pa ≤ x ∧ x < 2 ^ 51 + pa + o.size then o.data.getD (x - (2 ^ 51 + pa)) 0 else readByte s.mem x)
      ∧ (∀ d, o.kind = .load → o.dst = some d → o.affine = none → o.zero = [] → o.ty.bytes = 4 → o.size = 4 →
        (∀ x ∈ s.ops, x.2.kind = .store → overlaps x.2.loc x.2.size o.loc o.size = false) →
        s.hasRoom o.th [d] = true → s.unreservedRows → ∃ t, exec (.hostAcknowledge id) s = .next t ∧ t.mem = s.mem ∧ t.ops = Tab.drop id s.ops
          ∧ (t.th o.th).regs = (((s.th o.th).puts d [BitVec.ofNat 32 (leNat ((List.range 4).map fun n => readByte s.mem (2 ^ 51 + pa + n)))]).cfDown o.flag s.cycle).regs
          ∧ (t.th o.th).flow = (s.th o.th).flow ∧ ∀ j, j ≠ o.th → t.th j = s.th j))

/-! ### Events of the host and of registers, 16 R335, 18, 20 R417 to R420, 22 R445 -/

/-- 05 R138, R139, R148, 18 R389, 20 R416, R417, 22 R434, R438: the host's and the control cores' accesses act at the home
slices as the access table of the target admits; a denial is counted and moves nothing; a dead L1 loses what only it held; the
link switch of AUTO; what the base die's scrub of memory finds. Which targets check an access and what a dead L1 loses are the
model's readings (log entries 15, 40). -/
def Obligations.HostEvents : Prop :=
  ∀ s : State, s.L1Ok →
    let stack (addr : Nat) : Nat := addr / 2 ^ 36
    let inside (addr n : Nat) : Prop := 0 < n ∧ s.paOk addr = true ∧ s.paOk (addr + n - 1) = true
    let lines (addr n : Nat) : List Nat := spanLines [(.mem addr, n)]
    let free (addr n : Nat) : Prop := s.linesHeld 0 (lines addr n) = false
    -- accesses of one master are made in its order: none of it waits already
    let first (m : Nat) : Prop := ∀ x ∈ s.posted, x.master ≠ m
    -- what a denial comes to: an access fault of a control core, Unsupported Request of the host
    let refused (m : Nat) : Reply := if m < 0x4A0 then .accessFault else .unsupported
    let write (i : Instr) (master addr : Nat) (bs : List Byte) : Prop :=
      let ok := s.admits (stack addr) master (addr % 2 ^ 36) bs.length true
      inside addr bs.length →
      (ok = true → first master → free addr bs.length → (∀ l ∈ lines addr bs.length, s.leaseUntil l = none) →
        ∃ t, exec i s = .next t ∧ (∀ j, t.th j = s.th j) ∧ t.reply = .done
          ∧ ∀ x, t.cohByte x = if addr ≤ x ∧ x < addr + bs.length then bs.getD (x - addr) 0 else s.cohByte x)
      ∧ (ok = false → first master → exec i s = .next { s.denied (stack addr) none with reply := refused master })
      ∧ (¬first master ∨ (ok = true ∧ (¬free addr bs.length ∨ ∃ l ∈ lines addr bs.length, s.leaseUntil l ≠ none)) →
        ∃ t, exec i s = .next t ∧ t.posted = s.posted ++ [⟨master, addr, bs, 0, none⟩] ∧ t.reply = .done)
    let read (i : Instr) (master addr n : Nat) : Prop :=
      let ok := s.admits (stack addr) master (addr % 2 ^ 36) n false
      inside addr n →
      (ok = true → first master → free addr n → exec i s = .next { s with report := if s.poisoned addr n then [] else s.coh addr n, reply := .done })
      ∧ (ok = false → first master → exec i s = .next { s.denied (stack addr) none with report := [], reply := refused master })
      ∧ (¬first master ∨ (ok = true ∧ ¬free addr n) → ∃ t, exec i s = .next t ∧ t.posted = s.posted ++ [⟨master, addr, [], n, none⟩] ∧ t.report = [] ∧ t.reply = .done)
    (∀ fn addr bs, fn < 16 → (addr < 2 ^ 51 → write (.hostWrite fn addr bs) (0x4A0 + fn) addr bs)
      ∧ (2 ^ 51 ≤ addr → ∃ m, exec (.hostWrite fn addr bs) s = .next { s with mem := m, reply := .done }
          ∧ ∀ x, readByte m x = if addr ≤ x ∧ x < addr + bs.length then bs.getD (x - addr) 0 else readByte s.mem x))
    ∧ (∀ fn addr n, fn < 16 → (addr < 2 ^ 51 → read (.hostRead fn addr n) (0x4A0 + fn) addr n)
      ∧ (2 ^ 51 ≤ addr → addr < 2 ^ 56 → exec (.hostRead fn addr n) s = .next { s with report := (List.range n).map fun j => readByte s.mem (addr + j), reply := .done }))
    -- the capability list, in the configuration space of function 0
    ∧ (∀ o n, exec (.hostRead 0 (2 ^ 56 + o) n) s = .next { s with report := (s.capBytes.drop o).take n, reply := .done })
    ∧ (∀ m addr n bs, 0x480 ≤ m → m ≤ 0x4AF →
      read (.controlCoreAccess m (.load addr n)) m addr n ∧ write (.controlCoreAccess m (.store addr bs)) m addr bs)
    ∧ (∀ m i v, 0x480 ≤ m → m ≤ 0x4AF →
      let die := if m < 0x4A0 then m % 16 / 4 else if (s.reg 0x630).getLsbD 0 then 2 else 0
      let ok (write : Bool) : Bool := s.admits (32 + die) m (8 * i) 8 write
      let rd : Instr := .controlCoreAccess m (.regRead i)
      let wr : Instr := .controlCoreAccess m (.regWrite i v)
      (first m →
        (ok false = true → exec rd s = .next { s with report := match s.devRead m i with | some x => leBytes 8 x.toNat | none => [], reply := .done })
        ∧ (ok false = false → exec rd s = .next { s.denied (4 * die) none with report := [], reply := refused m })
        ∧ (ok true = true → devAssigned i = true → exec wr s = .next { s.devWrite m (decide (m < 0x490)) i v with reply := .done })
        ∧ (ok true = false → exec wr s = .next { s.denied (4 * die) none with reply := refused m }))
      -- a register is reached behind the master's accesses that wait
      ∧ (¬first m → exec rd s = .next { s with posted := s.posted ++ [⟨m, 0, [], 8, some i⟩], report := [], reply := .done }
        ∧ exec wr s = .next { s with posted := s.posted ++ [⟨m, 0, leBytes 8 v.toNat, 0, some i⟩], reply := .done }))
    -- what is in flight on the link that is left is aborted
    ∧ (let host (x : Posted) : Bool := decide (0x4A0 ≤ x.master) && decide (x.master ≤ 0x4AF)
      let left : State := if s.posted.any host then { s with posted := s.posted.filter fun x => !host x, reply := .aborted } else s
      exec .hostLinkSwitch s = .next (if (s.reg 0x630).getLsbD 31 then
        (left.setReg 0x630 (s.reg 0x630 ^^^ 1)).logMc { bank := 10, sev := 1, type := 0x40, skind := 5, sidx := 0 } else s))
    ∧ (∀ a, ∃ t, exec (.agentDeclaredDead a) s = .next t ∧ Tab.getD (agentKey a) 0 t.gens = Tab.getD (agentKey a) 0 s.gens + 1
      ∧ ∀ k, k ≠ agentKey a → Tab.getD k 0 t.gens = Tab.getD k 0 s.gens)
    ∧ (∀ c, (s.ops.map (·.1)).Nodup → (∀ y ∈ s.threads, s.coreTh y.1 = c → y.2.leases = []) → ∃ t, exec (.agentDeclaredDead (.l1 c)) s = .next t ∧ t.mem = s.mem ∧ (t.co c).owned = [] ∧ (t.co c).copies = [] ∧ (t.co c).dead = true
      ∧ (∀ n, n ≠ c → t.co n = s.co n)
      ∧ (∀ x, t.cohByte x = match s.ownerOf (lineOf x) with
          | some (n, _) => if n = c then readByte s.mem x else s.cohByte x
          | none => s.cohByte x)
      ∧ (∀ y, y ∈ t.ops ↔ y ∈ s.ops ∧ ¬(y.2.core = c ∧ y.2.kind ≠ .load ∧ y.2.th < 2 ^ 60)))
    -- a scrub corrects a single-bit error, and poisons the sector of a double-bit one, but under a line that an L1 owns; each is
    -- logged in bank 5, with a context that is a free value
    ∧ (∀ addr bad, s.paOk addr = true → ∃ t ctx, exec (.hbmScrub addr bad) s = .next t ∧ t.mem = s.mem
      ∧ (∀ x n, t.poisoned x n = (s.poisoned x n || (bad && (s.ownerOf (lineOf addr)).isNone && decide (sectorOf addr < x + n)
          && decide (x < sectorOf addr + 32))))
      ∧ t.banks = (s.logMc { bank := 5, sev := if bad then 2 else 1, type := if bad then 0x11 else 0x15, skind := 2, sidx := addr / 2 ^ 36
                             ctx := ctx, addr := some (BitVec.ofNat 64 addr) }).banks)

/-- 17 R357, R364, 18 R386, R388 to R392, 20 R399, R414, R417, 22 R423, R424, R436, R440, R444, R445: what a write of each device
register leaves. What the rules leave open of a register is the model's (log entries 5, 19, 37). -/
def Obligations.RegisterEvents : Prop :=
  ∀ s : State,
    -- the control core of the caller's plain writes, in the register block of its die
    let m := 0x480 + s.caller % 16
    let die := s.caller % 16 / 4
    let first : Prop := ∀ x ∈ s.posted, x.master ≠ m
    let did (u : State) : State := { u with reply := .done }
    let wr (i : Nat) (v : DWord) (u : State) : Prop := exec (.registerWrite i v) s = .next (did u)
    let word (i : Nat) (v : DWord) (x : Nat) : Prop := wr i v (s.setReg i (BitVec.ofNat 64 x))
    let clamp (lo hi n : Nat) : Nat := max lo (min hi n)
    (∀ i v, (first → s.admits (32 + die) m (8 * i) 8 true = false →
        exec (.registerWrite i v) s = .next { s.denied (4 * die) none with reply := .accessFault })
      ∧ (¬first → wr i v { s with posted := s.posted ++ [⟨m, 0, leBytes 8 v.toNat, 0, some i⟩] }))
    ∧ (first → (∀ i, s.admits (32 + die) m (8 * i) 8 true = true) →
    (∀ i v, devAssigned i = false → wr i v s)
    ∧ (∀ q v, q < 64 → (∃ x, wr (0x400 + 4 * q) v (s.setReg (0x400 + 4 * q) x)
          ∧ (∀ n, n < 64 → (n < 16 ∨ 19 < n) → x.getLsbD n =
              if n = 29 then (s.reg (0x400 + 4 * q)).getLsbD 29 && !v.getLsbD 29
              else (decide (n < 16) || n == 31 || n == 30 || n == 28 || n == 27 || n == 26) && v.getLsbD n)
          ∧ field x 19 16 = min 8 (field v 19 16))
      ∧ wr (0x401 + 4 * q) v (s.setReg (0x401 + 4 * q) (v &&& 0x00FFFFFFFFFFF000)) ∧ word (0x402 + 4 * q) v (v.toNat % 2 ^ 32)
      ∧ wr (0x403 + 4 * q) v s)
    ∧ (∀ v, (let l := v.toNat % 2 ^ 17; word 0x603 v (if 1 ≤ l ∧ l ≤ 99 then 100 else l)) ∧ word 0x604 v (clamp 10 1000000 (v.toNat % 2 ^ 32))
      ∧ word 0x607 v (clamp 2 1000 (v.toNat % 2 ^ 32)) ∧ word 0x608 v (clamp 1 1000000 (v.toNat % 2 ^ 32))
      ∧ word 0x718 v (clamp 16 28 (v.toNat % 32)) ∧ wr 0x522 v (s.setReg 0x522 v) ∧ wr 0x601 v s ∧ wr 0x721 v s)
    ∧ (∀ d v, d < 4 → ∃ u, wr (0x710 + d) v u ∧ (u.dom d).bmax = min 48 (field v 23 16) ∧ (u.dom d).dperm = min 64 (field v 6 0)
      ∧ (∀ e, e ≠ d → u.dom e = s.dom e) ∧ u.regs = s.regs)
    ∧ (∀ q v, q < 64 → exec (.qtailWrite q v) s = .next (did (s.setReg (0x402 + 4 * q) (v.setWidth 64)))
      -- STOP cleared, the other fields as they are
      ∧ (let old := s.reg (0x400 + 4 * q)
        ∃ x, exec (.stopClear q) s = .next (did (s.setReg (0x400 + 4 * q) x))
        ∧ (∀ n, n < 16 ∨ n ∈ [26, 27, 28, 30, 31] → x.getLsbD n = old.getLsbD n) ∧ x.getLsbD 29 = false ∧ field x 19 16 = min 8 (field old 19 16)))
    ∧ (∀ k v, k < 52 → ∃ t, exec (.atbaseWrite k v) s = .next t ∧ t.reg (0x540 + k) = v &&& 0x800FFFFFFFFFF000
      ∧ (∀ j m o n w, j ≠ k → t.admits j m o n w = s.admits j m o n w)
      ∧ (v.getLsbD 63 = false → ∀ m o n w, t.admits k m o n w = decide (0x480 ≤ m ∧ m ≤ 0x48F))
      ∧ (v.getLsbD 63 = true →
        let tab := s.coh (field v 51 12 * 2 ^ 12) 5376
        ∀ m o n w, m ≤ 0x4B0 → (t.admits k m o n w = true ↔ ∃ r, r < 16 ∧ 2 ^ 63 ≤ at64 tab (16 * r) 8
          ∧ 4096 * (at64 tab (16 * r) 8 / 2 ^ 12 % 2 ^ 40) ≤ o ∧ o + n ≤ 4096 * (at64 tab (16 * r + 8) 8 / 2 ^ 12 % 2 ^ 40 + 1)
          ∧ (if w then at64 tab (0x100 + 4 * m) 4 / 4 ^ r % 4 = 3 else at64 tab (0x100 + 4 * m) 4 / 4 ^ r % 2 = 1))))
    ∧ (∀ q (v : Word), q < 16 → v.setWidth 64 &&& 0x8000FFFF ≠ s.reg (0x580 + q) → ∃ t, exec (.ptenWrite q v) s = .next t
      ∧ t.reg (0x580 + q) = (if s.plainBusy q then s.reg (0x580 + q) else v.setWidth 64 &&& 0x8000FFFF)
      ∧ Tab.find (0x580 + q) t.held = (if s.plainBusy q then some (v.setWidth 64 &&& 0x8000FFFF) else none))
    ∧ (∀ q v, Tab.find (0x580 + q) s.held = some v → ∃ t, exec (.ptenApply q) s = .next t
      ∧ t.reg (0x580 + q) = (if s.plainBusy q then s.reg (0x580 + q) else v)
      ∧ Tab.find (0x580 + q) t.held = (if s.plainBusy q then some v else none))
    ∧ (∀ k (v : Word), k < 12 → ∃ t, exec (.supmapWrite k v) s = .next t ∧ ∀ j, j < 16 →
      t.supplyOf (16 * k + j) = if s.clusterCrews (16 * k + j) = [] then v.toNat / 4 ^ j % 4 else s.supplyOf (16 * k + j))
    ∧ (∀ n v, Tab.find (0x700 + n / 16) s.held = some v → ∃ t, exec (.supmapApply n) s = .next t
      ∧ t.supplyOf n = (if s.clusterCrews n = [] then v.toNat / 4 ^ (n % 16) % 4 else s.supplyOf n)
      ∧ ∀ m, m ≠ n → t.supplyOf m = s.supplyOf m)
    ∧ (∀ v : Word, let n := v.toNat % 8
      ∃ t, exec (.mextgo v) s = .next t ∧ (∀ m, m ≠ n ∨ n < 3 → t.measure m = s.measure m)
        ∧ (3 ≤ n → t.measure n = sha256 (s.measure n ++ (List.range 4).flatMap fun j => leBytes 8 (s.reg (0x920 + j)).toNat)))
    ∧ (∀ v : DWord, v.getLsbD 0 = true → exec (.attreq v) s =
        .next (did (if (s.reg 0x928).getLsbD 0 then s else s.setReg 0x928 (v &&& 0x00FFFFFFFFFFC001))))
    ∧ (s.L1Ok → (∀ n, n < 8 → (s.measure n).length = 32) → (s.reg 0x928).getLsbD 0 = true → ∃ t, exec .attestationReportDone s = .next t ∧ (t.reg 0x928).getLsbD 0 = false
      ∧ (let a := field (s.reg 0x928) 55 14 * 2 ^ 14
        t.coh a 4 = leBytes 4 0x54535441 ∧ t.coh (a + 0x10) 8 = leBytes 8 s.caps.feat.toNat ∧ t.coh (a + 0x20) 32 = s.coh (a + 0x20) 32
        ∧ t.coh (a + 0x40) 256 = (List.range 8).flatMap s.measure ∧ ∀ x, x < a ∨ a + 2 ^ 14 ≤ x → t.cohByte x = s.cohByte x))
    ∧ (∀ i v, i < 16 → ∃ t, exec (.mcstatClear i v) s = .next t
      ∧ (∀ n, n < 64 → (Tab.getD i {} t.banks).stat.getLsbD n = ((Tab.getD i {} s.banks).stat.getLsbD n && !(decide (62 ≤ n) && v.getLsbD n)))
      ∧ ∀ j, j ≠ i → Tab.getD j {} t.banks = Tab.getD j {} s.banks)
    -- ENGRES, where the engines of the plain admit the master
    ∧ (∀ v : Word, v.getLsbD 31 = true →
      let cl := v.toNat / 2 ^ 20 % 2 ^ 8
      let ctx := v.toNat % 2 ^ 16
      let i : Instr := if v.getLsbD 30 then .engresJobPost v else .engresChannelResume v
      (s.admits (36 + cl / 12) m 0 8 true = false → exec i s = .next (did (s.denied (cl / 12) none)))
      ∧ (s.admits (36 + cl / 12) m 0 8 true = true →
        (v.getLsbD 30 = false → (s.crews.map (·.1)).Nodup → ∃ t, exec i s = .next t ∧
          ∀ c ch, (Tab.find c s.crews).isSome →
          t.chan c ch = if ch = v.toNat / 2 ^ 28 % 4 ∧ (s.cr c).ctx = ctx ∧ clusterOfCore (s.cr c).core = cl
              ∧ (s.chan c ch).st = 3 then { s.chan c ch with st := 1, halt := false } else s.chan c ch)
        ∧ (∀ (crew : Nat) (b : List Byte) (ws : List (Where × Nat)) (x u : State), v.getLsbD 30 = true →
          let card := s.reg 0x522
          let e : Eng := { owner := jobOwner cl s.seq, crew := crew, ctx := ctx, launch := (s.cr crew).launch, master := 0x3C0 + cl, plain := plainOfCluster cl }
          Tab.find card.toNat (s.cx ctx).posters = some crew → (Tab.find crew s.crews).isSome →
          -- R and W on the card
          engUpdate e card.toNat 256 s = (.ok ws, x) → engRead e .g .own card.toNat 256 x = (.ok b, u) →
          (at64 b 0xB4 4 % 16 ≠ 5 → exec i s = .next (did u))
          ∧ (at64 b 0xB4 4 % 16 = 5 → u.mxRoom cl ctx = true → exec i s = .next (did (u.enterJob cl crew card b)))
          ∧ (at64 b 0xB4 4 % 16 = 5 → u.mxRoom cl ctx = false →
              exec i s = .next (did { s with reposts := s.reposts ++ [(v.setWidth 64, card)] })))))
    ∧ (∀ j, j < 4096 →
      let old := Tab.getD j {} s.jobs
      let new := s.jobEntry j
      ((∀ d ∈ old.dmap, d ∈ new.dmap) → exec (.fjsync j) s = .next (did { s with jobs := Tab.put j new s.jobs }))
      ∧ (old.valid = true → new.valid = true → old.epoch ≠ new.epoch → (∃ d ∈ old.dmap, d ∉ new.dmap) →
        (∀ l, s.jobWaiters l = []) → ∃ t, exec (.fjsync j) s = .next t ∧ (Tab.getD j {} t.jobs).ctr.broken = true
          ∧ (Tab.getD j {} t.jobs).epoch = new.epoch ∧ (∀ f ∈ t.outbox, f.job.toNat = j → f.epoch.toNat = new.epoch)
          ∧ ∀ m ∈ t.sent, m.job = j → m.dst ∈ old.dmap → m.dst ∈ new.dmap))
    -- a change of the active link aborts what is in flight on the one that is left
    ∧ (∀ v : Word, let left : State := if v.getLsbD 0 = (s.reg 0x630).getLsbD 0 then s
          else { s with posted := s.posted.filter fun x => !(decide (0x4A0 ≤ x.master) && decide (x.master ≤ 0x4AF)) }
        exec (.hostselWrite v) s = .next (did (left.setReg 0x630 (v.setWidth 64 &&& 0x80000001)))))

/-! ### Events of queues, launches and slices, 17 R358 to R372 -/

/-- 01 R44, R45, 17 R358, R359, R363, R372: an entry that comes into its queue's window is read, given a context, checked, and
waits or is rejected; a waiting record goes into its ring when there is room, and a launch's STATUS follows it; a message's
handler starts with the payload in its registers. Which master reads a launch's record, and where a pool counter stands, are the
model's readings (log entries 14, 18, 37). -/
def Obligations.QueueEvents : Prop :=
  ∀ s : State, s.L1Ok →
    let ended (u t : State) (l st code : Nat) : Prop :=
      if (u.la l).rcd.evq.getLsbD 31 then (t.la l).ending = true ∧ (t.la l).final = st ∧ ∃ r ∈ t.records, r.launch = some l
        ∧ r.bytes = recordBytes (u.la l).rcd.evtag.toNat 1 code (u.la l).rcd.jobid (u.la l).lrec
      else (t.la l).status = st ∧ t.coh (u.entryAddr (u.la l).q (u.la l).n + 8) 2 = leBytes 2 st
    -- what the device writes it writes at once: nobody holds the line
    let quiet (v : State) : Prop := (∀ l, v.homeFree l = true) ∧ ∀ x ∈ v.ops, x.2.th ≠ deviceKey
    (∀ q n, s.inWindow q n = false → exec (.launchWindowEntry q n) s = .next s)
    ∧ (∀ q n, s.inWindow q n = true → s.launchAt q n = none → Tab.find s.seq s.launches = none → quiet s →
      let a := s.entryAddr q n
      let id := s.seq
      let x := (s.makeLaunch q n).2
      let lrec := leNat (s.coh a 8)
      let u := (x.setLa id fun y => { y with lrec := BitVec.ofNat 64 lrec, dev := leNat (s.coh (a + 0xA) 2) % 2 ^ 12 }).homeStore (a + 0xC) (leBytes 4 (x.la id).ctx)
      let e := u.launchEng id
      ∃ t, exec (.launchWindowEntry q n) s = .next t ∧ (t.la id).q = q ∧ (t.la id).n = n
        ∧ (lrec % 256 ≠ 0 → (t.la id).status = 3 ∧ t.coh (a + 0xC) 4 = leBytes 4 (t.la id).ctx)
        ∧ (lrec % 256 = 0 → ∀ code va y, readLaunch e lrec u = (.fault code va, y) → y.launches = u.launches → (t.la id).status = 3)
        ∧ (lrec % 256 = 0 → ∀ b y, readLaunch e lrec u = (.ok b, y) → y.L1Ok → quiet y → y.launches = u.launches → y.regs = u.regs →
          let r := Rcd.ofBytes b
          let z := y.setLa id fun g => { g with rcd := r }
          (y.malformedRcd r b = true ∨ r.devs ≤ (u.la id).dev → ended z t id 3 4)
          ∧ (∀ kb fs mt w, y.malformedRcd r b = false → (u.la id).dev < r.devs → readTables e r z = (.ok (kb, fs, mt), w) → w.L1Ok → quiet w →
            w.launches = z.launches → w.regs = z.regs →
            let slots := (List.range 8).map fun i => Fp.Slot.ofBytes ((fs.drop (32 * i)).take 32)
            let bad := (List.range 8).any fun i => r.fsmask.testBit i && (slots.getD i (Fp.Slot.ofBytes [])).malformed
            (bad = true → ended w t id 3 4)
            ∧ (bad = false → w.resolve r.entry = none → ended w t id 7 4)
            ∧ (∀ pc, bad = false → w.resolve r.entry = some pc → (w.jobEntry r.jobid).valid = false →
              (r.devs > 1 ∨ w.placeable id = false → ended w t id 4 4)
              -- a pool counter is a page of plain 0 that nobody has
              ∧ (r.devs = 1 → w.placeable id = true → 64 ≤ r.sympool → w.newFrames 0 1 = none → ended w t id 4 4)
              ∧ (∀ f v, r.devs = 1 → w.placeable id = true → 64 ≤ r.sympool → w.newFrames 0 1 = some (f, v) →
                  (t.la id).status = 0 ∧ (t.la id).poolAt = some (65536 * f))
              ∧ (r.devs = 1 → w.placeable id = true → r.sympool < 64 → (t.la id).status = 0 ∧ (t.la id).entered = true ∧ (t.la id).ending = false
                ∧ (t.la id).entry = pc ∧ (t.la id).rcd = r ∧ (t.la id).slots = slots ∧ (t.la id).target = r.dmax
                -- bits 63:56 of a handler's entry are ignored
                ∧ (t.la id).msgs = (List.range r.msgn).map (fun i => BitVec.ofNat 64 (at64 mt (8 * i) 8 % 2 ^ 56))
                ∧ (t.la id).kbank = (List.range 256).map fun i => BitVec.ofNat 32 (at64 kb (4 * i) 4))))))
    ∧ (∀ n r, s.records[n]? = some r → (∀ x ∈ s.records.take n, x.launch ≠ r.launch ∨ x.owner ≠ r.owner) →
      let d := s.eqDesc r.queue
      let f (o w : Nat) : Nat := leNat (s.coh (d + o) w)
      let at_ := f 0 8 + 16 * (f 0x10 8 % f 8 4)
      (s.eqValid r.queue = true → s.eqRoom r.queue = false → exec (.eventRecordAppend n) s = .next s)
      ∧ (s.eqValid r.queue = true → s.eqRoom r.queue = true → s.ringBusy r.queue = false → r.bytes.length = 16 → (at_ + 16 ≤ d ∨ d + 32 ≤ at_) → f 0x10 8 + 1 < 2 ^ 64 →
        r.launch = none → ∃ t, exec (.eventRecordAppend n) s = .next t ∧ t.coh at_ 16 = r.bytes ∧ leNat (t.coh (d + 0x10) 8) = f 0x10 8 + 1
          ∧ (∀ x, (x < at_ ∨ at_ + 16 ≤ x) → (x < d + 0x10 ∨ d + 0x18 ≤ x) → t.cohByte x = s.cohByte x)
          ∧ t.records = s.records.eraseIdx n ∧ r.queue / 64 % 16 ∈ t.irqs)
      ∧ (∀ l, s.eqValid r.queue = true → s.eqRoom r.queue = true → s.ringBusy r.queue = false → r.launch = some l → (Tab.find l s.launches).isSome →
        ∃ t, exec (.eventRecordAppend n) s = .next t ∧ (t.la l).status = (s.la l).final ∧ (t.la l).ending = false)
      ∧ (s.eqValid r.queue = false → r.launch = none → ∃ t, exec (.eventRecordAppend n) s = .next t ∧ t.records = s.records.eraseIdx n
        ∧ t.mem = s.mem ∧ t.banks = (s.logMc { bank := 12, sev := 1, type := 0x42, skind := 2, sidx := r.queue / 64 % 16 }).banks))
    ∧ (∀ l c m rest slot more, (s.la l).hcrewId = some c → (s.la l).hq = m :: rest → s.freeSlots l = slot :: more → (s.cr c).parked = false →
      (s.cr c).launch = l → let k := 4096 * c + slot
      s.hasRoom k (List.range (min 18 (s.la l).rcd.regs)) = true →
      ∃ t, exec (.handlerStart l) s = .next t ∧ (t.la l).hq = rest ∧ (t.th k).status = .ready
        ∧ (t.th k).pc = (s.cx (s.la l).ctx).forward ((s.la l).msgs.getD m.handler 0 &&& 0x00FFFFFFFFFFFFFF)
        ∧ ∀ j, j < (s.la l).rcd.regs → (t.th k).vget j = if j < 16 then BitVec.ofNat 32 (at64 m.payload (4 * j) 4)
            else if j = 16 then BitVec.ofNat 32 (m.srcDev % 4096) else if j = 17 then BitVec.ofNat 32 m.handler else 0)

/-- 01 R40 to R43, 05 R144, 17 R361, R365, R366, R369: aging, the hold of a candidate, binding a valley, starting its crews,
phases, the end of a launch, and slices saved and restored. Readings of the launch rules are the model's (log entry 37), the
choice of a new context's id is free (log entry 23). -/
def Obligations.LaunchEvents : Prop :=
  ∀ s : State,
    let asked (ctx n : Nat) : State := (s.sliceCores ctx n).foldl (fun u c => u.askPark ctx c) s
    let begun (t : State) (c core : Nat) (place : List Nat) (l : Nat) : Prop :=
      (t.cr c).started = true ∧ (t.cr c).core = core ∧ (t.cr c).place = place ∧ (t.cr c).launch = l
      ∧ ∀ i, i < (s.la l).rcd.threads → let x := t.th (4096 * c + i)
        x.pc = (s.la l).entry ∧ x.status = .ready ∧ x.v = [] ∧ x.p = 0 ∧ x.loops = [] ∧ x.tlvl = 0
    (∀ l t, (s.la l).readyAt = some t → exec (.launchPriorityAging l) s =
      .next (s.setLa l fun x => { x with eff := min 7 (x.base + (s.ns - t) / 250000) }))
    ∧ (∀ l t, (s.la l).candSince = some t →
      (t + 200000 ≤ s.ns → s.isCandidate (.launch l) = true → (∀ q, q < 16 → s.tryBind l q = none) →
        exec (.candidateHold l) s = .next (s.setLa l fun x => { x with hold := true }))
      ∧ (s.ns < t + 200000 → exec (.candidateHold l) s = .next s))
    -- after every step: the base priority by the record and the queue as it now stands
    ∧ (∀ l, (Tab.find l s.launches).isSome → (s.tidyLaunches.la l).base = min (s.la l).rcd.prio (s.qPri (s.la l).q))
    -- binding
    ∧ (∀ l q key v n core place, s.launchReady l = true → (Tab.find l s.launches).isSome → (s.la l).dies ≠ [] → (s.la l).rcd.msgn = 0 →
      s.tenantHas (s.qTenant (s.la l).q) q = true → (s.la l).openPlain q = some (key, v) → s.coreFor n l = some (core, place) → 12 * q ≤ n → n < 12 * q + 12 →
      s.clusterOpen n (s.la l).ctx = true → s.unstartedOn n = false → 0 < (s.la l).rcd.crews →
      (∀ m, 12 * q ≤ m → m < n → s.clusterOpen m (s.la l).ctx = false ∨ s.unstartedOn m = true ∨ s.coreFor m l = none) →
      (∀ c ∈ s.cands q, c = .launch l ∨ s.before c (.launch l) = false) →
      ∃ t, exec (.valleyBind l q) s = .next t ∧ (t.la l).status = 1 ∧ Tab.find (key * 16 + v) (t.la l).bound = some n
        ∧ (∀ i, i < (s.la l).rcd.crews → (Tab.find (s.seq + i) t.crews).isSome ∧ (t.cr (s.seq + i)).launch = l ∧ (t.cr (s.seq + i)).crew = i
          ∧ (t.cr (s.seq + i)).valley = v ∧ (t.cr (s.seq + i)).plain = key % 4 ∧ (t.cr (s.seq + i)).die = key / 4
          ∧ (0 < i → (t.cr (s.seq + i)).started = false))
        ∧ begun t s.seq core place l)
    ∧ (∀ l q, s.tenantHas (s.qTenant (s.la l).q) q = false → (s.la l).dies ≠ [] → exec (.valleyBind l q) s = .next s)
    ∧ (∀ l q m, s.before (.launch m) (.launch l) = true → m ≠ l → (Tab.find m s.launches).isSome → s.mayUse m q = true → (s.la m).hold = true →
      exec (.valleyBind l q) s = .next s)
    ∧ (∀ l q u, s.tryBind l q = some u → (s.la l).dies = [] → (Tab.find l s.launches).isSome →
      let av := (List.range 4).filter (s.dieAvailable l)
      let n := min av.length (min (s.la l).rcd.dmax (s.la l).target)
      (s.la l).rcd.dmin ≤ n ∧ (u.la l).dies = av.take n)
    -- the other crews
    ∧ (∀ c, (Tab.find c s.crews).isSome → (s.cr c).started = false → (s.cr c).handler = false → (s.la (s.cr c).launch).cancelled = false →
      (∀ core place, s.startCore c = some (core, place) → ∃ t, exec (.crewStart c) s = .next t ∧ begun t c core place (s.cr c).launch)
      ∧ (s.startCore c = none → exec (.crewStart c) s = .next s)
      ∧ ∀ x, s.startCore c = some x → ∃ i, i < 4 ∧ x.1 = 4 * clusterOfCore (s.cr c).core + i ∧ s.room x.1 (s.cr c).launch false = some x.2
        ∧ ∀ m ∈ s.valleyCrews c, (s.cr m).started = true → (s.cr m).core ≠ x.1)
    -- phases
    ∧ (∀ l, s.allArrived l = false ∨ s.leavingBusy l = true ∨ (s.allExited l = true ∧ (s.la l).rcd.devs ≤ 1) → exec (.phaseBoundary l) s = .next s)
    ∧ (∀ l, s.allArrived l = true → s.leavingBusy l = false → (s.la l).rcd.devs ≤ 1 → s.allExited l = false → s.resize l = s →
      ∃ t, exec (.phaseBoundary l) s = .next t ∧ (t.la l).phase = (s.la l).phase + 1 ∧ t.mem = s.mem
        ∧ (∀ c ∈ s.launchCrews l, ∀ x ∈ (t.co c.2.core).copies, x.kind ≠ .si)
        ∧ ∀ k, t.th k = if (s.launchCrews l).any (fun c => c.1 == crewOf k) = true ∧ (s.th k).status = .phase then
            { s.th k with status := .ready, since := s.cycle, starved := false } else s.th k)
    ∧ (∀ l, (Tab.find l s.launches).isSome →
      let x := s.la l
      let most := max x.rcd.dmin (min x.rcd.dmax x.target)
      let av := (List.range 4).filter fun d => !x.dies.contains d && s.dieAvailable l d
      ((s.resize l).la l).dies = if most < x.dies.length then x.dies.take most else x.dies ++ av.take (most - x.dies.length))
    -- the end
    ∧ (∀ l, s.launchOver l = false → exec (.launchComplete l) s = .next s)
    ∧ (∀ l, s.launchOver l = true → (s.la l).rcd.devs ≤ 1 → ∃ t, exec (.launchComplete l) s = .next t
      ∧ (∀ c ∈ s.crews, c.2.launch = l → Tab.find c.1 t.crews = none ∧ ∀ x ∈ (t.co c.2.core).copies, x.kind.isRo = false)
      ∧ (if (s.la l).rcd.evq.getLsbD 31 then (t.la l).ending = true ∧ (t.la l).final = 2 ∧ (t.la l).status = 1 else (t.la l).status = 2))
    -- slices
    ∧ (∀ l n, (s.la l).leaving.contains n = false → s.toPreempt l n = false → exec (.slicePreempt l n) s = .next s)
    ∧ (∀ l n, let ctx := (s.la l).ctx
      let cores := s.sliceCores ctx n
      s.toPreempt l n = true → (∃ c ∈ cores, (asked ctx n).isParked ctx c = false) → ∃ t, exec (.slicePreempt l n) s = .next t
        ∧ (t.la l).leaving.contains n = true ∧ ∀ k, t.th k = (asked ctx n).th k)
    ∧ (∀ l n, let ctx := (s.la l).ctx
      let cores := s.sliceCores ctx n
      ((s.cl n).hold.isSome → (s.la l).leaving.contains n = true → ∃ t, exec (.slicePreempt l n) s = .next t
        ∧ (t.la l).leaving.contains n = false ∧ t.slices = s.slices)
      ∧ ((s.cl n).hold = none → (s.la l).leaving.contains n = true → cores ≠ [] → (∀ o ∈ s.ops, ∀ c ∈ cores, ∀ y ∈ s.savedCrews ctx c, o.2.crew ≠ y.1) →
      (∀ c ∈ cores, (asked ctx n).isParked ctx c = true) → (asked ctx n).ops = s.ops → ∃ t id, exec (.slicePreempt l n) s = .next t
        ∧ Tab.find id t.slices = some { ctx := ctx, launch := l, plain := plainOfCluster n, cluster := n, cores := cores, readyAt := s.ns }
        ∧ (t.la l).leaving.contains n = false))
    ∧ (∀ id n, s.tryRestore id n = none → exec (.sliceRestore id n) s = .next s)
    ∧ (∀ id n x u, Tab.find id s.slices = some x → plainOfCluster n = x.plain → s.clusterOpen n x.ctx = true → s.unstartedBeside n x.launch = false →
      s.tenantHas (s.qTenant (s.la x.launch).q) x.plain = true → (s.la x.launch).cancelled = false →
      -- where crews of its valleys have started on its cluster since, on that one
      (n = x.cluster ∨ ∀ y ∈ s.crews, y.2.launch = x.launch → y.2.started = true → y.2.handler = false → clusterOfCore y.2.core ≠ x.cluster) →
      (∀ c ∈ s.cands x.plain, s.before c (.slice id) = false) →
      s.loadCores x.ctx n x.cores ((List.range 4).map fun i => 4 * n + i) = some u →
      (Tab.find x.launch u.launches).isSome → (∀ y ∈ u.crews, y.2.stopped = []) → ∃ t, exec (.sliceRestore id n) s = .next t ∧ Tab.find id t.slices = none
        ∧ (t.la x.launch).bound = (u.la x.launch).bound.map fun y => (y.1, if y.2 = x.cluster then n else y.2))

/-! ### Events of the engines, 12 R300 to R319 -/

/-- 05 R135, 12 R302, R304, R306, 22 R430 to R432: a channel reads its record at a record boundary, its 16-byte pieces are copied
one by one, the record's word and the channel's next record follow; reservations are granted in order, as far as 32 units go. What
the engine rules leave open is the model's (log entry 36). -/
def Obligations.CopyEvents : Prop :=
  ∀ (s : State) (c ch : Nat),
    let x := s.chan c ch
    let e := s.chanEng c ch
    let cl := clusterOfCore (s.cr c).core
    let idle : Prop := (Tab.find c s.crews).isSome ∧ x.st = 1 ∧ x.plan = none ∧ (s.cr c).parked = false ∧ s.recordWaits e.owner = false
    let rd : Instr := .copyRecordRead c ch
    let becomes (t : State) (y : Chan) : Prop := t.chan c ch = y
    (x.st ≠ 1 ∨ x.plan ≠ none → exec rd s = .next s)
    ∧ (idle → x.halt = true → ∃ t, exec rd s = .next t ∧ becomes t { x with st := 4, halt := false, flight := none } ∧ t.mem = s.mem)
    ∧ (idle → x.halt = false → x.flight = none →
      (∀ code a u, engRead e .g .own x.cur.toNat 64 s = (.fault code a, u) → u.crews = s.crews → ∃ t, exec rd s = .next t
        ∧ becomes t { x with st := 3, code := code, fault := BitVec.ofNat 64 x.cur.toNat, flight := none, plan := none })
      ∧ ∀ rec u, engRead e .g .own x.cur.toNat 64 s = (.ok rec, u) → u.crews = s.crews →
        ((recCtrl rec).testBit 31 = false → ∃ t, exec rd s = .next t ∧ becomes t (if x.kick then { x with kick := false } else { x with st := 2 }))
        ∧ (∀ ps v, (recCtrl rec).testBit 31 = true → (u.dropEngReads e.owner).recPlace c ch x.cur.toNat = (.ok ps, v) → v.crews = s.crews →
          let w := v.setChan c ch fun y => { y with flight := some rec, rng := y.rngAt.getD y.rng, rngAt := some (y.rngAt.getD y.rng) }
          (∀ p z, w.copyPlan c ch rec = (.ok p, z) → ∃ t, exec rd s = .next t ∧ becomes t (w.chan c ch)
            ∧ ∃ q ∈ (t.cl cl).waiting ++ (t.cl cl).held, q.who = 5 ∧ q.job = e.owner)))
    -- a piece
    ∧ (∀ k p y a d, x.plan = some p → p.pieces[k]? = some y → y.src = some (.mem a) → y.dst = .mem d → y.n ≤ 16 → (s.poisoned a y.n) = false →
      s.linesHeld e.owner (spanLines [(.mem a, y.n)]) = false → s.putWaits (.mem d) = false →
      (∀ o ∈ s.ops, o.2.crew = c → overlaps o.2.loc o.2.size (.mem a) y.n = false) →
      (∀ o ∈ s.ops, o.2.th = engKey e.owner → overlaps o.2.loc o.2.size (.mem d) y.n = false) →
      s.L1Ok → (Tab.find c s.crews).isSome → ∃ t, s.perform (.piece c ch k) = .next t
        ∧ (∀ z, t.cohByte z = if d ≤ z ∧ z < d + y.n then s.cohByte (a + (z - d)) else s.cohByte z)
        ∧ becomes t { x with plan := some { p with pieces := p.pieces.eraseIdx k } })
    -- the end of a record
    ∧ (∀ p rec pa, x.plan = some p → x.flight = some rec → p.at_ = .mem pa →
      (p.pieces ≠ [] → exec (.copyRecordComplete c ch) s = .next s)
      ∧ (s.engReleasing e.owner (bits (recCtrl rec) 6 4) = true → exec (.copyRecordComplete c ch) s = .next s)
      -- its word waits for remote read leases to end
      ∧ (p.pieces = [] → s.engIdle e.owner = true → s.engReleasing e.owner (bits (recCtrl rec) 6 4) = false → p.closing = false →
        s.linesHeld e.owner (spanLines [(p.at_, 64)]) = false → s.leaseHolder (lineOf (pa + 8)) = none → s.leaseUntil (lineOf (pa + 8)) ≠ none →
        (Tab.find c s.crews).isSome → ∃ t, exec (.copyRecordComplete c ch) s = .next t ∧ becomes t { x with plan := some { p with closing := true } }
          ∧ t.mem = s.mem)
      ∧ (p.pieces = [] → s.engIdle e.owner = true → s.engReleasing e.owner (bits (recCtrl rec) 6 4) = false → p.closing = false →
        s.linesHeld e.owner (spanLines [(p.at_, 64)]) = false → s.putWaits (.mem (pa + 8)) = false → (recCtrl rec).testBit 31 = true →
        rec.length = 64 → s.L1Ok → (Tab.find c s.crews).isSome → ∃ t, exec (.copyRecordComplete c ch) s = .next t
          ∧ t.coh (pa + 8) 8 = leBytes 4 (recCtrl rec - 2 ^ 31) ++ leBytes 2 (at64 rec 12 2) ++ leBytes 2 (2 ^ 8 + p.fl.toNat)
          ∧ (∀ z, z < pa + 8 ∨ pa + 16 ≤ z → t.cohByte z = s.cohByte z)
          ∧ (∃ y, becomes t y ∧ y.code = 1 ∧ y.done = (x.done + 1) % 2 ^ 16 ∧ y.cur.toNat = at64 rec 0 8 ∧ y.flight = none ∧ y.plan = none
            ∧ y.st = if at64 rec 0 8 = 0 then 0 else 1)
          ∧ (∀ q ∈ (t.cl cl).held, ¬(q.who = 5 ∧ q.job = e.owner))
          ∧ (t.cr c).bar = if (recCtrl rec).testBit 11 then ((s.arriveBar c (bits (recCtrl rec) 10 7)).cr c).bar else (s.cr c).bar))

/-- 03 R98 to R101, 12 R312, R315, R316, R318, 22 R430, R431: the passes of the matrix engine, their order, what one does to its
accumulator tile, the end of a job; and the grant of current reservations. Readings of the card rules are the model's (log entry
38), the words of an FP64 tile are free values where they are read in another format (log entry 16). -/
def Obligations.MatrixEvents : Prop :=
  ∀ (s : State) (n : Nat),
    let tab := (s.cl n).table
    let aged (since : Nat) : Bool := decide (since + 8192 ≤ s.cycle)
    let old (j : MxJob) : Bool := j.aged || aged j.since
    (tab.map (·.seq)).Nodup →
    -- the arithmetic
    (∀ (imode : Bool) (acc : Nat) (row : List (Int × Int)) (ba bb : Nat → Nat),
      let val (v : Int) : Fp.Val := .fin (decide (v < 0)) v.natAbs 0
      let a : MxRow := (List.range row.length).map fun k => (val (row.getD k (0, 0)).1, ba k)
      let b : MxRow := (List.range row.length).map fun k => (val (row.getD k (0, 0)).2, bb k)
      (imode = false → (mxDot .i32 imode acc a b).v = (BitVec.ofInt 32 ((BitVec.ofNat 32 acc).toInt + (row.map fun p => p.1 * p.2).sum)).toNat))
    ∧ (∀ (cls : MxClass) (acc : Nat) (a b : List Fp.Val) (i j : Nat), cls ≠ .i32 → a.length = b.length → 0 < a.length →
      a.length ≤ (if cls = .f64 then 1 else 32) → (∀ p ∈ a.zip b, p.1.num?.isSome = true ∧ p.2.num?.isSome = true) →
      let f := if cls = .f64 then Fp.f64 else Fp.f32
      ∃ sum : Fp.Val, sum.num? = some (((a.zip b).map fun p => p.1.num?.getD 0 * p.2.num?.getD 0).sum)
        ∧ (mxDot cls false acc (a.map (·, i)) (b.map (·, j))).v = (Fp.roundTo f .rn false (Fp.add false (Fp.decode f acc) sum)).1)
    ∧ (∀ (imode : Bool) (acc : Nat) (a a' b b' : MxRow) (x y : Fp.Val × Nat) (z w : Fp.Val × Nat), a.length = b.length →
      (x.2 ≠ z.2 ∨ y.2 ≠ w.2) →
      (mxDot .f32 imode acc (a ++ [x] ++ z :: a') (b ++ [y] ++ w :: b')).v
        = (mxDot .f32 imode (mxDot .f32 imode acc (a ++ [x]) (b ++ [y])).v (z :: a') (w :: b')).v)
    -- the order of passes
    ∧ (∀ (cd : Card) (idx : List Nat), idx.length = 5 → (∀ i, i < 5 → idx.getD i 0 < (cd.level i).count) →
      let at_ (l : List Nat) : Nat := (((l.getD 0 0 * (cd.level 1).count + l.getD 1 0) * (cd.level 2).count + l.getD 2 0) * (cd.level 3).count
        + l.getD 3 0) * (cd.level 4).count + l.getD 4 0
      at_ (stepIdx cd idx) = at_ idx + 1)
    ∧ ((∀ j ∈ tab, j.running = false ∧ j.chosen = false) → (∃ j ∈ tab, s.mxReady n j = true) →
      (∀ j ∈ tab, s.mxReady n j = true → ∃ o u, s.runPass n j = (.ok o, u)) → ∃ t, exec (.matrixPassGrant n) s = .next t
        ∧ ∃ j ∈ tab, s.mxReady n j = true
          ∧ (∃ y ∈ (t.cl n).table, y.seq = j.seq ∧ y.chosen = true ∧ y.st = 2 ∧ y.since = s.cycle ∧ y.aged = false)
          ∧ (∃ q ∈ (t.cl n).waiting ++ (t.cl n).held, q.who = 4 ∧ q.job = j.seq)
          ∧ ∀ i ∈ tab, s.mxReady n i = true → (old i = true → old j = true ∧ j.since ≤ i.since)
            ∧ (old j = false → i.c.pri < j.c.pri ∨ (i.c.pri = j.c.pri ∧ j.seq ≤ i.seq)))
    ∧ ((∃ j ∈ tab, j.running = true ∨ j.chosen = true) → exec (.matrixPassGrant n) s = .next s)
    ∧ (∀ i j, tab[i]? = some j → exec (.matrixEntryAged n i) s = .next
        (if aged j.since ∧ j.open_ = true then s.setJob n j.seq fun y => { y with aged := true } else s))
    -- a pass
    ∧ (∀ j x acc a b s0 s1 s2, tab.find? (fun j => j.running) = some j → s.mxSlots j.launch j.c = some x →
      let cls := mxClass x.a.fmt
      let tile := j.c.dtile + j.lin
      let e := jobEng n j
      cls ≠ .f64 → j.c.asrc ≠ 3 → (j.i 4 ≠ 0 ∨ j.c.acc = 1) →
      -- no write-out, and no BIAS to read
      (j.lastPass = false ∨ (j.c.wout = false ∧ j.c.epi.testBit 1 = false)) → readTile n tile cls s = (.ok acc, s0) →
      operandRows e (mxSpace j.c.asrc) x.a (wrapAt (mxSpace j.c.asrc) ((j.c.abase : Int) + j.sum 5 MxLevel.a)) s0 = (.ok a, s1) →
      operandRows e (mxSpace j.c.bsrc) x.b (wrapAt (mxSpace j.c.bsrc) ((j.c.bbase : Int) + j.sum 5 MxLevel.b)) s1 = (.ok b, s2) →
      s2.clusters = s.clusters → acc.length = 128 → a.length = 128 → b.length = 128 → (∀ r ∈ acc, r.length = 128) →
      ∃ t rows, exec (.matrixPassComplete n) s = .next t ∧ Tab.find (tile % 64) (t.cl n).tiles = some (.words rows)
        ∧ (∀ i q, i < 128 → q < 128 → (rows.getD i []).getD q 0 =
            BitVec.ofNat 32 (mxDot cls j.c.imode ((acc.getD i []).getD q 0) (a.getD i []) (b.getD q [])).v)
        ∧ (∃ y ∈ (t.cl n).table, y.seq = j.seq ∧ y.running = false ∧ y.idx = stepIdx j.c j.idx)
        ∧ ∀ q, q ≠ tile % 64 → Tab.find q (t.cl n).tiles = Tab.find q (s.cl n).tiles)
    -- the end of a job
    ∧ (∀ i j, tab[i]? = some j → (j.left = true ∨ j.running = true ∨ j.open_ = false) → exec (.matrixJobComplete n i) s = .next s)
    ∧ (∀ i j pa, tab[i]? = some j → j.open_ = true → j.left = false → j.running = false →
      let e := jobEng n j
      s.engIdle e.owner = true → s.engReleasing e.owner (bits j.c.cmpl 24 22) = false → j.closing = false → j.c.cmpl.testBit 26 = false → j.c.cmpl.testBit 25 = false → s.recordWaits e.owner = false →
      engUpdate e ((j.card.toNat + 0xB4) % 2 ^ 64) 4 s = (.ok [(.mem pa, 4)], s) → s.linesHeld e.owner (spanLines [(.mem pa, 4)]) = false →
      s.putWaits (.mem pa) = false →
      s.L1Ok → ∃ t, exec (.matrixJobComplete n i) s = .next t
        ∧ t.coh pa 4 = leBytes 4 ((if j.sat then 2 ^ 21 else 0) + j.fl.toNat * 2 ^ 16 + 0x104) ∧ (∀ y ∈ (t.cl n).table, y.seq ≠ j.seq)
        ∧ (t.cr j.crew).bar = (if j.c.cmpl.testBit 31 then ((s.arriveBar j.crew (bits j.c.cmpl 30 27)).cr j.crew).bar else (s.cr j.crew).bar)
        ∧ ∀ z, z < pa ∨ pa + 4 ≤ z → t.cohByte z = s.cohByte z)
    -- reservations
    ∧ (∀ i r, (s.cl n).waiting[i]? = some r → aged r.since = true → ∃ t, exec (.reservationAged n i) s = .next t
      ∧ (t.cl n).waiting = (s.cl n).waiting.map (fun y => if y = r then { y with aged := true } else y) ∧ (t.cl n).held = (s.cl n).held)
    ∧ (let ready := ((s.cl n).waiting.filter (s.resvReady n)).map (Resv.asOf s.cycle)
      let fits (r : Resv) : Prop := (s.cl n).units + costAt (s.cl n).clk r.cost ≤ 32
      ((∀ r ∈ ready, ¬fits r) → exec (.reservationGrant n) s = .next s)
      ∧ ∀ r, (s.cl n).nextGrant (s.cl n).waiting.length ready = some r → r ∈ ready ∧ fits r
        ∧ (∀ y ∈ ready, y.before r = true → ¬fits y ∧ y.aged = false)
        ∧ (r.who < 4 → ∃ t, exec (.reservationGrant n) s = .next t ∧ (t.cl n).held = (s.cl n).held ++ [r]
          ∧ (t.cl n).waiting = (s.cl n).waiting.filter (!r.same ·) ∧ (t.cl n).units ≤ 32)
        ∧ (∀ j o u, r.who = 4 → tab.find? (fun j => j.seq == r.job) = some j →
          let z := s.setCl n fun x => { x with waiting := x.waiting.filter (!r.same ·), held := x.held ++ [r] }
          z.runPass n j = (.ok o, u) → u.clusters = z.clusters →
          ∃ t, exec (.reservationGrant n) s = .next t ∧ ∃ y ∈ (t.cl n).table, y.seq = r.job ∧ y.running = true ∧ y.chosen = false))

/-! ### Events of the fabric, 20 R396 to R415 -/

/-- 05 R138, R143, R148, 20 R402 to R404: a peer's request is performed at the home, refused, discarded as stale, or waits;
answers and refusals reach the operation they are for; a request without an answer ends by its timeout. The layout of the flits
and the thread that stands at its access are the model's (log entries 13, 28). -/
def Obligations.FabricRequests : Prop :=
  ∀ (s : State) (f : Flit), s.L1Ok → s.hears f = true →
    let job := s.flitJob f
    let known : Prop := job.valid = true ∧ job.killed = false ∧ f.src.toNat ∈ job.dmap
    let reply (g : Flit) (kind : Nat) (time : Nat) (bs : List Byte) : Prop :=
      g.kind.toNat = kind ∧ g.dst = f.src ∧ g.src.toNat = s.myDev ∧ g.job = f.job ∧ g.epoch = f.epoch ∧ g.seq = f.seq ∧ g.addr = f.addr
      ∧ g.time.toNat = time ∧ g.data ++ g.payload = bs
    let refusedAs (u : State) (i : Instr) : Prop :=
      ∃ g, exec i s = .next { u with free := u.free + 1, outbox := u.outbox ++ [g] } ∧ reply g 5 0 []
    let refused := refusedAs s
    let pa := f.addr.toNat
    let n := f.size.toNat
    -- a place that is not there, or one that the access table of its plain denies to peers, which is counted
    let absent : Prop := n = 0 ∨ s.paOk pa = false ∨ s.paOk (pa + n - 1) = false
    let turnedAway (i : Instr) (write : Bool) : Prop :=
      (absent → refused i) ∧ (¬absent → s.admits (pa / 2 ^ 36) 0x4B0 (pa % 2 ^ 36) n write = false → refusedAs (s.denied (pa / 2 ^ 36) none) i)
    let waits (i : Instr) (k : BitVec 8) : Prop :=
      let wakers := s.wakers ++ [{ f with kind := k }]
      ∃ t, exec i s = .next t ∧ t.wakers = wakers ∧ t.outbox = s.outbox ∧ (s.leaseHolder (lineOf pa) = none → t = { s with wakers := wakers })
    let free := s.lineTaken (lineOf pa) = false ∧ s.poisoned pa n = false
    (∀ i ∈ ([.flitRead f, .flitWrite f, .flitAtomic f] : List Instr),
      (job.valid = false → refused i)
      ∧ (job.valid = true → f.epoch.toNat ≠ job.epoch → exec i s = .next (s.staleDrop 5 0))
      ∧ (job.valid = true → f.epoch.toNat = job.epoch → ¬known → refused i))
    ∧ (known → f.epoch.toNat = job.epoch →
      turnedAway (.flitRead f) false ∧ turnedAway (.flitWrite f) true ∧ turnedAway (.flitAtomic f) (f.fn.toNat % 256 != 0x21)
      -- a read, and its lease
      ∧ (s.peerMay f n false = true → s.lineTaken (lineOf pa) = true → s.poisoned pa n = false → waits (.flitRead f) 1)
      ∧ (s.peerMay f n false = true → free → s.writeWaits (lineOf pa) s.wakers = true → waits (.flitRead f) 1)
      ∧ (s.peerMay f n false = true → free → s.writeWaits (lineOf pa) s.wakers = false → ∃ t g, exec (.flitRead f) s = .next t
        ∧ t.outbox = s.outbox ++ [g] ∧ t.mem = s.mem ∧ (∀ x, t.cohByte x = s.cohByte x)
        ∧ (let len := (s.reg 0x603).toNat % 2 ^ 17
          let leased : Prop := f.fn.toNat % 8 ≤ 2 ∧ f.fn.getLsbD 15 = true ∧ s.ptpErr.toNat ≤ 20 ∧ len ≠ 0
          (leased → s.ns + len < 2 ^ 64 → reply g 4 (s.ns + len) (s.coh pa n) ∧ t.readLeases = s.readLeases ++ [⟨lineOf pa, f.src.toNat, s.ns + len, s.cycle + 4 * (len + 40)⟩])
          ∧ (¬leased → reply g 4 0 (s.coh pa n) ∧ t.readLeases = s.readLeases)))
      -- a write, and what delays it
      ∧ (s.peerMay f n true = true → s.lineTaken (lineOf pa) = true ∨ (s.leaseUntil (lineOf pa)).isSome = true → waits (.flitWrite f) 2)
      ∧ (s.peerMay f n true = true → s.lineTaken (lineOf pa) = false → s.leaseUntil (lineOf pa) = none → n ≤ (f.data ++ f.payload).length →
        ∃ t g, exec (.flitWrite f) s = .next t ∧ t.outbox = s.outbox ++ [g] ∧ reply g 4 0 []
          ∧ ∀ x, t.cohByte x = if pa ≤ x ∧ x < pa + n then (f.data ++ f.payload).getD (x - pa) 0 else s.cohByte x)
      -- an atomic
      ∧ (∀ ty, s.peerMay f n true = true → free → s.leaseUntil (lineOf pa) = none → f.fn.toNat % 256 < 13 → VType.ofCode (BitVec.ofNat 4 (f.fn.toNat / 256)) = some ty →
        let old := s.coh pa n
        let b := (f.data ++ f.payload).take 64
        let new := leBytes n (atomNew (f.fn.toNat % 256) ty (leNat old) (leNat (b.take n)) (leNat (b.drop n)))
        ∃ t g, exec (.flitAtomic f) s = .next t ∧ t.outbox = s.outbox ++ [g] ∧ reply g 4 0 old
          ∧ ∀ x, t.cohByte x = if pa ≤ x ∧ x < pa + n then new.getD (x - pa) 0 else s.cohByte x))
    -- answers
    ∧ (∀ id o, s.answered f = some (id, o) → f.epoch.toNat = job.epoch → s.lateAnswer f = false →
      (o.kind = .load → o.dst.isSome = true → o.rtype ≠ .ro → f.time = 0 → o.held = none → exec (.flitResponse f) s = .next
        (State.setOp { s with remote := s.remote.filter fun r => r.op != id } id fun o => { o with early := some ((f.data ++ f.payload).take o.size) }))
      ∧ (o.kind = .load → o.dst.isSome = true → o.rtype ≠ .ro → f.time ≠ 0 → s.ptpErr.toNat ≤ 20 → s.ns < f.time.toNat → ∃ t,
        exec (.flitResponse f) s = .next t ∧ (∃ x ∈ (t.co o.core).copies, x.kind = .leased f.time.toNat ∧ x.line = lineOf o.loc.addr))
      ∧ (o.kind = .store → o.held = none → exec (.flitResponse f) s = .next (s.dropOp id))
      ∧ (f.addr.toNat < 2 ^ 52 → o.held = some .sent → s.live o.th = true → exec (.flitRefusal f) s = .next
        (State.setOp { s with remote := s.remote.filter fun r => r.op != id } id fun o => { o with held := some (.failed 0x11) })))
    ∧ (f.epoch.toNat ≠ job.epoch ∨ s.lateAnswer f = true → exec (.flitResponse f) s = .next (s.staleDrop 5 0))
    ∧ (∀ r o, s.remote.find? (fun r => r.op == f.seq.toNat) = some r → Tab.find f.seq.toNat s.ops = some o →
      let due := r.at_ + (s.reg 0x608).toNat % 2 ^ 32 * 1000
      (s.ns < due → exec (.remoteTimeout f.seq.toNat) s = .next s)
      ∧ (due ≤ s.ns → o.held = some .sent → s.live o.th = true → ∃ t, exec (.remoteTimeout f.seq.toNat) s = .next t
        ∧ (∃ p, Tab.find f.seq.toNat t.ops = some p ∧ p.held = some (.failed 0x30)) ∧ (∀ x ∈ t.remote, x.op ≠ f.seq.toNat)
        ∧ t.banks = (s.logMc { bank := 9, sev := 2, type := 0x33, skind := 5, sidx := 0, ctx := some (s.cr o.crew).ctx, addr := some o.va }).banks))

/-- 12 R326, R327, 20 R406 to R409, R412, R413, R422: messages are accepted once and in order, acknowledged, kept by a busy reply,
sent again, abandoned past their deadline and repaired; what each of these counts. The layout of the flits is the model's (log
entry 13). -/
def Obligations.MessageEvents : Prop :=
  ∀ (s : State) (f : Flit), s.hears f = true → s.admitFlit f = .ok → f.job.toNat < 4096 →
    let j := f.job.toNat
    let src := f.src.toNat
    let d := flitDie f
    let x := s.stream j src d
    let behind := (x.expect + 2 ^ 32 - f.seq.toNat) % 2 ^ 32
    let reply (g : Flit) (kind : Nat) : Prop := g.kind.toNat = kind ∧ g.dst = f.src ∧ g.job = f.job ∧ g.seq = f.seq ∧ g.addr = msgAddr d
    let only (t : State) (kind : Nat) : Prop := ∃ g, t = { s with outbox := s.outbox ++ [g] } ∧ reply g kind
    let mine (m : Sent) (die : Nat) : Bool := m.job == j && m.dst == src && m.die == die
    let cnt (t : State) (die : Nat) : Count := Tab.getD die {} (Tab.getD j {} t.jobs).ctr.dies
    let own := s.myDev = src
    let had := 0 < behind ∧ behind < 2 ^ 31
    -- a message its stream has had, whatever became of its handlers
    (had → ∃ t, exec (.flitMessage f) s = .next t ∧ only t 7)
    ∧ (∀ l, ¬had → s.handlerLaunch j = some l →
      (2 ^ 31 ≤ behind → exec (.flitMessage f) s = .next s)
      ∧ (behind = 0 → f.time.toNat < s.ns → exec (.flitMessage f) s = .next s)
      ∧ (behind = 0 → s.ns ≤ f.time.toNat → s.takesMsg l = false → ∃ t, exec (.flitMessage f) s = .next t ∧ only t 8)
      ∧ (behind = 0 → s.ns ≤ f.time.toNat → s.takesMsg l = true → (Tab.find l s.launches).isSome → ∃ t g m, exec (.flitMessage f) s = .next t
        ∧ t.outbox = s.outbox ++ [g] ∧ reply g 7 ∧ (t.stream j src d).expect = (f.seq.toNat + 1) % 2 ^ 32
        ∧ (t.la l).hq = (s.la l).hq ++ [m] ∧ m.handler = f.fn.toNat % 256 ∧ m.payload = f.payload
        ∧ (s.flitJob f).dmap[m.srcDev]? = some src))
    ∧ (¬had → s.handlerLaunch j = none →
      (s.handlerComing j = true → ∃ t, exec (.flitMessage f) s = .next t ∧ only t 8)
      ∧ (s.handlerComing j = false → ∃ t g, exec (.flitMessage f) s = .next t ∧ t.outbox = s.outbox ++ [g] ∧ reply g 5
        ∧ (t.stream j src d).expect = (f.seq.toNat + 1) % 2 ^ 32 ∧ t.launches = s.launches))
    ∧ (∀ m, s.sent.find? (fun m => m.job == j && m.dst == src && m.die == d && m.seq == f.seq.toNat) = some m →
      (m.retry ≠ 0 → exec (.flitAcknowledge f) s = .next { s with sent := s.sent.filter (· != m) }
        ∧ exec (.flitBusy f) s = .next { s with sent := s.sent.map fun y => if y = m then { y with deadline := s.ns + s.msgLife } else y })
      ∧ (m.retry = 0 → exec (.flitAcknowledge f) s = .next s)
      ∧ (2 ^ 52 ≤ f.addr.toNat → (Tab.find j s.jobs).isSome → ∃ t, exec (.flitRefusal f) s = .next t ∧ t.sent = s.sent.filter (· != m)
        ∧ cnt t d = if m.retry = 0 then { cnt s d with u := (cnt s d).u - 1 } else { cnt s d with l := ((cnt s d).l + 1) % 2 ^ 48 }))
    -- sent again, abandoned, repaired: the streams of the four dies, each for itself
    ∧ (¬own → ∃ t, exec (.messageRetransmit j src) s = .next t
      ∧ (let due (m : Sent) (die : Nat) : Bool := mine m die && !(s.stream j src die).abandoned && m.retry != 0 && decide (m.retry ≤ s.ns)
        t.outbox = s.outbox ++ [0, 1, 2, 3].flatMap (fun die => (s.sent.filter fun m => due m die).map s.msgFlit)
        ∧ ∀ m, m ∈ t.sent ↔ ∃ y ∈ s.sent, m = if [0, 1, 2, 3].any (due y) then { y with retry := s.ns + 2000 } else y))
    ∧ (¬own → (∀ die, die < 4 → (s.stream j src die).abandoned = false) →
      (∀ m ∈ s.sent, ∀ die, mine m die = true → m.retry ≠ 0 → s.ns < m.deadline + 40) → exec (.streamAbandon j src) s = .next s)
    ∧ (∀ die, ¬own → die < 4 → (s.stream j src die).abandoned = false →
      (∃ m ∈ s.sent, mine m die = true ∧ m.retry ≠ 0 ∧ m.deadline + 40 ≤ s.ns) → (Tab.find j s.jobs).isSome →
      let n := (s.sent.filter fun m => mine m die && m.retry != 0).length
      ∃ t, exec (.streamAbandon j src) s = .next t ∧ (t.stream j src die).abandoned = true ∧ (t.stream j src die).repairing = some s.ns
        ∧ (cnt t die).u = (cnt s die).u + n ∧ (cnt t die).l = ((cnt s die).l + n) % 2 ^ 48
        ∧ (∀ m ∈ t.sent, mine m die = true → m.retry = 0))
    -- what an abandoned stream holds is lost at its own deadline
    ∧ (∀ die, ¬own → die < 4 → (s.stream j src die).abandoned = true → (Tab.find j s.jobs).isSome → (cnt s die).l < 2 ^ 48 →
      let n := (s.sent.filter fun m => mine m die && m.retry != 0 && decide (m.deadline ≤ s.ns)).length
      ∃ t, exec (.streamAbandon j src) s = .next t ∧ cnt t die = { cnt s die with l := ((cnt s die).l + n) % 2 ^ 48 }
        ∧ (t.stream j src die).abandoned = true ∧ (∀ m ∈ t.sent, mine m die = true → m.retry = 0 ∨ s.ns < m.deadline))
    ∧ (let due (die : Nat) : Bool := (s.stream j src die).abandoned && (s.stream j src die).repairing.any (fun t => decide (t ≤ s.ns))
      ((∀ die, die < 4 → due die = false) → exec (.repairSend j src) s = .next s)
      ∧ ∃ t gs, exec (.repairSend j src) s = .next t ∧ t.outbox = s.outbox ++ gs
        ∧ gs.map (fun g => (g.kind.toNat, g.dst, g.seq, g.addr)) = ([0, 1, 2, 3].filter due).map (fun die =>
            (9, BitVec.ofNat 16 src, BitVec.ofNat 32 (s.freshSeq j src die), msgAddr die))
        ∧ ∀ die, die < 4 → due die = true → (t.stream j src die).repairing = some (s.ns + 2000))
    ∧ (f.addr.getLsbD 2 = false → ∃ t g, exec (.flitRepair f) s = .next t ∧ t.outbox = s.outbox ++ [g] ∧ g.kind = 9 ∧ g.addr = msgAddr d ||| repairAnswer
      ∧ g.time = BitVec.ofNat 64 x.expect ∧ g.dst = f.src ∧ (t.stream j src d).expect = f.seq.toNat)
    ∧ (f.addr.getLsbD 2 = true → x.abandoned = true → (Tab.find j s.jobs).isSome →
      let un := s.sent.filter fun m => mine m d && m.retry == 0
      let below (m : Sent) : Bool := let d := (f.time.toNat + 2 ^ 32 - m.seq) % 2 ^ 32; decide (0 < d) && decide (d < 2 ^ 31)
      ∃ t, exec (.flitRepair f) s = .next t ∧ (t.stream j src d).abandoned = false
        ∧ (cnt t d).u = (cnt s d).u - un.length
        ∧ (cnt t d).i % 2 ^ 48 = ((cnt s d).i + (un.filter below).length) % 2 ^ 48
        ∧ (∀ m ∈ t.sent, mine m d = true → m.retry = s.ns + 2000))

/-- 20 R397, R410 to R412: waves sample and number, the quiet flit declares, phases of several devices arrive and go on, a kill
notice marks the job's entry, ports train anew. The layout of the flits and what training ends in are the model's (log entries 13,
45). -/
def Obligations.WavesAndPorts : Prop :=
  ∀ (s : State) (f : Flit) (n : Nat), s.hears f = true →
    let j := f.job.toNat % 4096
    let job := s.flitJob f
    let c := job.ctr
    let good : Prop := job.valid = true ∧ f.epoch.toNat = job.epoch
    let ctr (t : State) : JobCtr := (Tab.getD j {} t.jobs).ctr
    let key := s.keyCtr n
    (good → ∃ t g, exec (.flitWave f) s = .next t ∧ t.outbox = s.outbox ++ [g] ∧ g.kind = 0x0B ∧ g.dst = f.src
      ∧ g.data ++ g.payload = leBytes 8 c.i ++ leBytes 8 c.c ++ leBytes 8 c.l ++ leBytes 8 c.u
      ∧ ctr t = if f.seq.getLsbD 0 then { c with wave := f.addr.toNat } else c)
    ∧ exec (.flitWaveReply f) s = .next s
    ∧ (good → c.broken = false → ∃ t, exec (.flitQuiet f) s = .next t ∧ ctr t = { c with quiet := some (max (c.quiet.getD 0) f.addr.toNat) })
    ∧ (job.valid = true → f.epoch.toNat ≠ job.epoch → exec (.flitQuiet f) s = .next (s.staleDrop 5 0) ∧ exec (.flitWave f) s = .next (s.staleDrop 5 0))
    ∧ (good → c.broken = true → exec (.flitQuiet f) s = .next s)
    -- waves inside the device
    ∧ (∀ x, key = some x → x.prev = none →
      (s.ns < x.due → exec (.localWave n) s = .next s)
      ∧ (x.due ≤ s.ns → ∃ t y, exec (.localWave n) s = .next t ∧ t.keyCtr n = some y ∧ y.wave = x.wave + 1 ∧ y.quiet = x.quiet
        ∧ y.due = s.ns + (s.reg 0x607).toNat % 2 ^ 32 * 1000
        ∧ y.prev = if (x.c + x.l) % 2 ^ 48 = x.i % 2 ^ 48 ∧ x.u = 0 then some (x.i, x.c, x.l, x.u) else none))
    ∧ (∀ x p, key = some x → x.prev = some p → ∃ t y, exec (.localWave n) s = .next t ∧ t.keyCtr n = some y ∧ y.prev = none
      ∧ y.quiet = if p = (x.i, x.c, x.l, x.u) ∧ x.broken = false then some x.wave else x.quiet)
    ∧ (∀ x, key = some x → (x.prev = none ∨ s.ns + (s.reg 0x607).toNat % 2 ^ 32 * 1000 < x.due + 10000000 → exec (.waveTimeout n) s = .next s)
      ∧ (x.prev ≠ none → x.due + 10000000 ≤ s.ns + (s.reg 0x607).toNat % 2 ^ 32 * 1000 → ∃ t, exec (.waveTimeout n) s = .next t
        ∧ t.keyCtr n = some { x with prev := none, pass := 0 }))
    -- phases across devices, kills
    ∧ (∀ l i, s.admitFlit f = .ok → s.phaseLaunch f = some l → (Tab.find l s.launches).isSome → job.dmap.findIdx? (fun d => d == f.src.toNat) = some i →
      (s.la l).told = false → exec (.flitPhaseArrive f) s = .next (s.setLa l fun x =>
        { x with arrived := if x.arrived.contains i then x.arrived else x.arrived ++ [i]
                 goneDevs := if f.fn.toNat % 2 = 1 ∧ x.goneDevs.contains i = false then x.goneDevs ++ [i] else x.goneDevs }))
    -- of a launch not read here yet: kept
    ∧ (s.admitFlit f = .ok → s.phaseLaunch f = none → exec (.flitPhaseArrive f) s = .next { s with early := s.early ++ [f] })
    ∧ (∀ l, s.admitFlit f = .ok → s.phaseLaunch f = some l → (Tab.find l s.launches).isSome → (s.la l).gone = false → s.resize l = s →
      ∃ t, exec (.flitPhaseGo f) s = .next t ∧ (t.la l).phase = (s.la l).phase + 1
        ∧ ∀ k, (s.launchCrews l).any (fun c => c.1 == crewOf k) = true → (s.th k).status = .phase → (t.th k).status = .ready)
    -- every notice of a device of the job, the job killed already or not
    ∧ (good → f.src.toNat ∉ job.dmap → exec (.flitKillNotice f) s = .next s)
    ∧ (good → f.src.toNat ∈ job.dmap → s.L1Ok → ∃ t, exec (.flitKillNotice f) s = .next t ∧ (Tab.getD j {} t.jobs).killed = true
      ∧ (leNat (t.coh (s.jobAddr j) 1)).testBit 1 = true
      ∧ t.banks = (s.logMc { bank := 9, sev := 2, type := 0x34, skind := 5, sidx := 0, addr := some (BitVec.ofNat 64 (j * 2 ^ 16 + f.src.toNat)) }).banks)
    -- ports
    ∧ (n < 20 → s.caps.ports.getLsbD n = true →
      (∃ t, exec (.portRetrain n) s = .next t ∧ field (t.reg (0x610 + n)) 31 30 = 1 ∧ field (t.reg (0x610 + n)) 29 0 = 0
        ∧ t.banks = (s.logMc { bank := 9, sev := 1, type := 0x30, skind := 4, sidx := n }).banks)
      ∧ (∀ ok, field (s.reg (0x610 + n)) 31 30 = 1 → ∃ t, exec (.linkTrainingEnd n ok) s = .next t
        ∧ field (t.reg (0x610 + n)) 31 30 = if ok then 2 else 3)
      -- a flit that fails is replayed and logged; the eighth time the port trains anew
      ∧ (let t := s.linkError n true
        let fails := Tab.getD n 0 s.linkFails
        t.banks = (s.logMc { bank := 9, sev := 1, type := 0x30, skind := 4, sidx := n }).banks
        ∧ (fails < 7 → t.reg (0x610 + n) = s.reg (0x610 + n) ∧ Tab.find n t.linkFails = some (fails + 1))
        ∧ (7 ≤ fails → field (t.reg (0x610 + n)) 31 30 = 1)))

/-! ### Events of power, errors and reset, 22 -/

/-- 22 R425 to R429, R432, R435, R438, R446: what a 10 µs boundary charges, refills, grants and steps; a replay-rate excursion
and a hot die take their grants away; a die that trips, or a supply out of regulation, ends the device. Points that the power rules leave open are the model's (log entries 19, 27). -/
def Obligations.PowerEvents : Prop :=
  ∀ s : State,
    let all := List.range 192
    let charged (d : Nat) : Nat := ((s.clusters.filter fun (_, x) => x.charged).filter fun y => s.supplyOf y.1 == d).length
    let after (p idle n : Nat) : Nat × Nat := if 0 < n then (p - n, 0) else if idle = 3 then (min 64 (p + 1), 0) else (p, idle + 1)
    let hot (die : Nat) : Nat := Tab.getD die 0 s.hot
    (s.ns < (s.interval + 1) * 10000 → exec .powerIntervalEnd s = .next s)
    ∧ ((s.interval + 1) * 10000 ≤ s.ns → (s.clusters.map (·.1)).Nodup → ∃ t, exec .powerIntervalEnd s = .next t ∧ t.interval = s.interval + 1 ∧ t.mem = s.mem
        -- charges and refills
        ∧ (∀ d, d < 4 → ((t.dom d).dperm, (t.dom d).idle) = after (s.dom d).dperm (s.dom d).idle (charged d))
        ∧ (∀ c x, Tab.find c s.ctxs = some x → ∃ y, Tab.find c t.ctxs = some y
          ∧ (y.permits, y.idle) = after x.permits x.idle (if ∃ z ∈ s.clusters, z.2.charged = true ∧ c ∈ z.2.asked then 1 else 0))
        -- grants: none without a claim, none beyond BMAX, none without permits or from a domain that is not of one tenant
        ∧ (∀ n ∈ all, (t.cl n).granted = true → (t.cl n).claim = true ∧ 0 < (t.dom (s.supplyOf n)).dperm
          ∧ s.isoDomain (s.supplyOf n) = true ∧ hot (n / 48) = 0 ∧ (t.dom (s.supplyOf n)).excess = false)
        ∧ (∀ d, d < 4 → (t.granted d).length ≤ (s.dom d).bmax)
        ∧ (∀ n ∈ all, (t.cl n).claim = (t.clusterAsks n == some 3))
        -- the clock moves by one step at most, and up only for a claim that is granted, or back to nominal
        ∧ (∀ n ∈ all, (s.cl n).clk ∈ [60, 70, 80, 84, 88] → (t.cl n).clk = (s.cl n).clk
          ∨ ((s.cl n).clk, (t.cl n).clk) ∈ [(60, 70), (70, 80), (80, 84), (84, 88), (70, 60), (80, 70), (84, 80), (88, 84)])
        ∧ (∀ n ∈ all, (s.cl n).clk ≤ 80 → 80 < (t.cl n).clk → (t.cl n).granted = true)
        ∧ (∀ n ∈ all, (s.cl n).clk < (t.cl n).clk → (t.cl n).units ≤ 32)
        ∧ (∀ n ∈ all, hot (n / 48) = 2 → 60 ≤ (s.cl n).clk → (t.cl n).clk ≤ (s.cl n).clk)
        ∧ (∀ n ∈ all, (t.cl n).charged = ((t.cl n).granted && decide (80 < (t.cl n).clk))))
    ∧ (∀ core, let d := s.supplyOf (clusterOfCore core)
      ∃ t, exec (.replayRateExcursion core) s = .next t ∧ t.granted d = [] ∧ (t.dom d).excess = true
        ∧ t.banks = (s.logMc { bank := 13, sev := 1, type := 0x50, skind := 0, sidx := core }).banks)
    ∧ (∀ die temp, die < 4 → ∃ t, exec (.thermalStep die temp) s = .next t
      ∧ Tab.getD die 0 t.hot = (if 100 < temp then 2 else if temp < 95 then 0 else if 2 ≤ hot die then 3 else if 95 < temp then 1 else hot die)
      ∧ (95 < temp → ∀ n ∈ all, n / 48 = die → (t.cl n).granted = false)
      ∧ (95 < temp → hot die = 0 → t.banks = (s.logMc { bank := 13, sev := 1, type := 0x51, skind := 3, sidx := die }).banks))
    -- a trip and a supply out of regulation: the record, then the fatal error
    ∧ (∀ die, die < 4 → ∃ t, exec (.thermalTrip die) s = .next t ∧ t.fatal = true ∧ t.aer = true ∧ 0 ∈ t.msix
      ∧ t.banks = (s.logMc { bank := 13, sev := 3, type := 0x52, skind := 3, sidx := die }).banks
      ∧ ∀ l, (Tab.find l s.launches).isSome → (s.la l).status ≤ 1 → (t.la l).status = 5)
    ∧ (∀ d, ∃ t, exec (.supplyOutOfRegulation d) s = .next t ∧ t.fatal = true ∧ t.aer = true ∧ 0 ∈ t.msix
      ∧ t.banks = (s.logMc { bank := 13, sev := 3, type := 0x53, skind := 5, sidx := 0 }).banks
      ∧ ∀ l, (Tab.find l s.launches).isSome → (s.la l).status ≤ 1 → (t.la l).status = 5)

/-- 20 R412, 22 R434, R435, R437, R438, R440, R442, R443: machine checks; a fatal error, which ends every launch with STATUS 5,
kills every context, sends the kill notices, takes the ports down and signals the host; the holds of self-test; reset. What a
reset leaves of memory, and the events of errors, are the model's (log entries 5, 20, 26). -/
def Obligations.ErrorsAndReset : Prop :=
  ∀ s : State, (s.launches.map (·.1)).Nodup →
    let st (n : Nat) : DWord := (Tab.getD n {} s.banks).stat
    let me := (s.reg 0x600).toNat % 4096
    let fatal (t : State) (type : Nat) : Prop := t.fatal = true ∧ t.aer = true ∧ 0 ∈ t.msix
      ∧ (∀ c, (Tab.find c s.ctxs).isSome → (t.cx c).killed = true)
      ∧ (∀ y ∈ t.crews, Tab.find y.2.ctx s.ctxs = none)
      ∧ (∀ l x, Tab.find l s.launches = some x → (t.la l).status = if x.status ≤ 1 then 5 else x.status)
      -- notices leave as long as the fabric's identity is valid
      ∧ ((s.reg 0x600).getLsbD 31 = true → ∀ l x, Tab.find l s.launches = some x → x.status ≤ 1 → 1 < x.rcd.devs → ∀ d ∈ (Tab.getD x.rcd.jobid {} s.jobs).dmap, d ≠ me →
        ∃ f ∈ t.outbox, f.kind = 0x0F ∧ f.dst = BitVec.ofNat 16 d ∧ f.src = BitVec.ofNat 16 me ∧ f.job = BitVec.ofNat 16 x.rcd.jobid)
      ∧ (∀ n, n < 20 → s.caps.ports.getLsbD n = true → field (t.reg (0x610 + n)) 31 30 = 0) ∧ (let b := (Tab.getD 13 {} t.banks).stat
        (st 13).getLsbD 63 = false → b.getLsbD 63 = true ∧ field b 61 60 = 3 ∧ field b 55 48 = type)
    -- a bank
    (∀ e : McEvent, 1 ≤ e.sev → e.sev ≤ 3 → e.type < 256 → e.skind < 16 → e.sidx < 4096 → e.ctx.getD 0 < 2 ^ 16 →
      let b := Tab.getD e.bank {} s.banks
      let t := s.logMc e
      let c := Tab.getD e.bank {} t.banks
      let taken : Prop := b.stat.getLsbD 63 = false ∨ field b.stat 61 60 < e.sev
      c.stat.getLsbD 63 = true ∧ c.stat.getLsbD 62 = (if b.stat.getLsbD 63 = false then false else true)
      ∧ (taken → field c.stat 61 60 = e.sev ∧ field c.stat 55 48 = e.type ∧ c.addr = e.addr.getD 0 ∧ c.misc0 = e.misc0 ∧ c.misc1 = e.misc1)
      ∧ (¬taken → field c.stat 61 0 = field b.stat 61 0 ∧ c.addr = b.addr ∧ c.misc0 = b.misc0 ∧ c.misc1 = b.misc1)
      ∧ (b.cnt < 2 ^ 32 → c.cnt = if e.sev = 1 then min (2 ^ 32 - 1) (b.cnt + 1) else b.cnt)
      ∧ (taken → e.sev = 2 → e.plain ∈ t.irqs) ∧ (e.sev = 3 → ∀ p, p < 16 → p ∈ t.irqs))
    ∧ (∀ addr, s.paOk addr = true →
      -- bytes of a line that an L1 owns are not read from HBM
      (∃ t, exec (.hbmScrub addr true) s = .next t ∧ (s.ownerOf (lineOf addr) = none → t.poisoned (sectorOf addr) 32 = true)
        ∧ (s.ownerOf (lineOf addr) ≠ none → t.poison = s.poison) ∧ (∀ x n, s.poisoned x n = true → t.poisoned x n = true) ∧ t.mem = s.mem
        ∧ ∃ ctx, t.banks = (s.logMc { bank := 5, sev := 2, type := 0x11, skind := 2, sidx := addr / 2 ^ 36, ctx := ctx
                                      addr := some (BitVec.ofNat 64 addr) }).banks)
      ∧ (∃ t, exec (.hbmScrub addr false) s = .next t ∧ t.poison = s.poison ∧ t.mem = s.mem
        ∧ ∃ ctx, t.banks = (s.logMc { bank := 5, sev := 1, type := 0x15, skind := 2, sidx := addr / 2 ^ 36, ctx := ctx
                                      addr := some (BitVec.ofNat 64 addr) }).banks))
    ∧ (∀ die, die < 4 → ∃ t, exec (.thermalTrip die) s = .next t ∧ fatal t 0x52)
    ∧ (∀ d, ∃ t, exec (.supplyOutOfRegulation d) s = .next t ∧ fatal t 0x53)
    -- self-test
    ∧ (let every := field (s.reg 0x720) 23 0 * 1000000
      let held := (s.reg 0x721).getLsbD 31
      let n := field (s.reg 0x721) 27 20
      ((s.reg 0x720).getLsbD 31 = false ∨ held = true ∨ s.ns < s.testFrom + every → exec .selftestHold s = .next s)
      ∧ (∀ m, (s.reg 0x720).getLsbD 31 = true → held = false → s.testFrom + every ≤ s.ns → m < 192 → s.inService m = true → s.testNext < 192 →
        (∀ k, k < 192 → s.inService k = true → (m + 192 - s.testNext) % 192 ≤ (k + 192 - s.testNext) % 192) →
        ∃ t, exec .selftestHold s = .next t ∧ (t.reg 0x721).getLsbD 31 = true ∧ field (t.reg 0x721) 27 20 = m ∧ (t.cl m).hold = some s.ns
          ∧ t.testNext = (m + 1) % 192 ∧ t.testFrom = s.ns)
      ∧ (held = true → (s.cl n).emptied = none → s.clusterCrews n = [] → exec .selftestClusterReady s = .next
        ((s.setCl n fun x => { x with emptied := some s.ns }).raiseIrq (n / 12)))
      ∧ (held = true → s.clusterCrews n ≠ [] → exec .selftestClusterReady s = .next s)
      ∧ (held = true → (match (s.cl n).emptied with | some t => t + 1000000 ≤ s.ns | none => s.testFrom + 10 * every ≤ s.ns) →
        ∃ t, exec .selftestHoldTimeout s = .next t ∧ (t.reg 0x721).getLsbD 31 = false ∧ field (t.reg 0x721) 3 0 = field (s.reg 0x721) 3 0
          ∧ (t.cl n).hold = none)
      ∧ (held = true → (match (s.cl n).emptied with | some t => s.ns < t + 1000000 | none => s.ns < s.testFrom + 10 * every) →
        exec .selftestHoldTimeout s = .next s))
    -- reset
    ∧ (∀ caps, ∃ t, exec (.deviceReset caps) s = .next t ∧ t.caps = caps ∧ t.threads = [] ∧ t.crews = [] ∧ t.launches = [] ∧ t.ctxs = []
      ∧ t.ops = [] ∧ t.banks = [] ∧ t.regs = [] ∧ t.fatal = false ∧ (Caps.enough caps = false → t.recovery = true)
      ∧ (∀ a, readByte t.mem a = if 2 ^ 51 ≤ a then readByte s.mem a else 0)
      ∧ ∀ n, 3 ≤ n → t.measure n = List.replicate 32 0)

/-! ### System calls, 17 R373, R374 -/

/-- 17 R373, R374, 07 R190, R193: what each system call does and returns. Where the error of a case is not R374's own (a bad entry
count, a queue that is not open, a launch that has ended), the number is the model's choice among R373's (log entry 21); where the
resident OS places what it makes is free (log entry 22). -/
def Obligations.SystemCalls : Prop :=
  ∀ s : State, s.L1Ok →
    let ret (r : Int) : State := { s with result := r }
    let tenant : Option Nat := s.tenantOf s.caller
    let mine (q : Nat) : Prop := tenant = some (s.qTenant q)
    let newest (ctx id : Nat) (l : Launch) : Prop := s.launches.reverse.find? (fun x => x.2.ctx == ctx) = some (id, l)
    -- the launch ends with STATUS 6, its record first where it has a ring
    let ended (t : State) (id : Nat) (r : Rcd) : Prop :=
      if r.evq.getLsbD 31 then (t.la id).ending = true ∧ (t.la id).final = 6 ∧ ∃ r ∈ t.records, r.launch = some id
      else (t.la id).status = 6
    -- a call waits for the stores of its control core before it, and then does what it does
    (∀ code q r d ctx addr size, s.storesWait = true →
      ∀ x ∈ ([(.timeGet, .timeGet), (.launchStatus ctx, .launchStatus ctx), (.launchCancel ctx, .launchCancel ctx), (.syscallExit code, .exit code), (.launchSubmit q r d, .launchSubmit q r d), (.launchResize ctx d, .launchResize ctx d),
        (.imageLoad addr size, .imageLoad addr size), (.imageUnload q, .imageUnload q), (.funcRef q addr, .funcRef q addr),
        (.memAlloc size d, .memAlloc size d), (.memFree addr, .memFree addr), (.queueOpen q d, .queueOpen q d), (.queueClose q, .queueClose q),
        (.queueRestart q, .queueRestart q), (.evqOpen q d, .evqOpen q d), (.evqRead q addr size d, .evqRead q addr size d)] : List (Instr × SysCall)),
      exec x.1 s = .next { s with waiting := s.waiting ++ [.fenced x.2] })
    ∧ (s.waiting = [.fenced .timeGet] → (s.storesWait = true → s.serveCalls = s)
      ∧ (s.storesWait = false → s.serveCalls = { s with result := s.ns, waiting := [] }))
    ∧ (s.storesWait = false →
    exec .timeGet s = .next (ret s.ns)
    ∧ (∀ code, ∃ t, exec (.syscallExit code) s = .next t ∧ t.result = code ∧ t.calls = [] ∧ t.waiting = []
      ∧ ∀ id ∈ s.calls, (Tab.find id s.launches).isSome → (s.la id).status = 1 → (s.la id).ending = false → (t.la id).cancelled = true)
    -- a cancelled launch: its threads are taken at the points where HALT acts, and the last of them ends it
    ∧ (∀ id, (Tab.find id s.launches).isSome → (s.la id).cancelled = true → (s.la id).ending = false → (s.la id).status = 1 →
      let ctx := (s.la id).ctx
      let v := ((((s.ctxCrews ctx none).map fun c => (s.cr c).core).eraseDups).foldl (fun u c => u.askHalt ctx c) s).takePreempts
      ((∃ k ∈ v.resident ctx none, (v.th k).parked = false) → s.cancelStep id = v)
      ∧ ((∀ k ∈ v.resident ctx none, (v.th k).parked = true) → ended (s.cancelStep id) id (s.la id).rcd
        ∧ (∀ c ∈ (s.cancelStep id).crews, c.2.ctx ≠ ctx)))
    -- images
    ∧ (∀ addr size,
      (s.osRead addr size = none → exec (.imageLoad addr size) s = .next (ret (-1)))
      ∧ ∀ b, s.osRead addr size = some b → let p := partsOfImage b
        (p.badHeader = true → exec (.imageLoad addr size) s = .next (ret (-17)))
        ∧ (p.badHeader = false → p.badMeasure = true → exec (.imageLoad addr size) s = .next (ret (-18)))
        ∧ (p.badHeader = false → p.badMeasure = false → s.lacks p = true → exec (.imageLoad addr size) s = .next (ret (-19)))
        ∧ (p.badHeader = false → p.badMeasure = false → s.lacks p = false → p.outOfBounds = true → exec (.imageLoad addr size) s = .next (ret (-20)))
        ∧ (p.badHeader = false → p.badMeasure = false → s.lacks p = false → p.outOfBounds = false → s.unresolved p = true →
          exec (.imageLoad addr size) s = .next (ret (-21)))
        ∧ (∀ hd u, s.loadImageBytes b = .ok hd u → exec (.imageLoad addr size) s = .next { u with result := hd }
          ∧ Tab.find hd s.containers = none ∧ (Tab.find hd u.containers).isSome ∧ u.threads = s.threads
          ∧ (∀ h, h ≠ hd → Tab.find h u.containers = Tab.find h s.containers)
          ∧ u.measure 3 = sha256 (sha256 (s.measure 3 ++ (p.man.drop 0x20).take 32) ++ (p.man.drop 0x40).take 32)))
    ∧ (∀ hd,
      (Tab.find hd s.containers = none → exec (.imageUnload hd) s = .next (ret (-4)))
      ∧ ∀ c, Tab.find hd s.containers = some c → let used := s.activeRecords.any fun r => field r.entry 63 48 == 0 && field r.entry 47 32 == hd
        (used = true → exec (.imageUnload hd) s = .next (ret (-5)))
        ∧ (used = false → ∃ t, exec (.imageUnload hd) s = .next t ∧ t.result = 0 ∧ Tab.find hd t.containers = none))
    ∧ (∀ hd name c n i, Tab.find hd s.containers = some c → s.osName name 4096 = some n → c.kernels.find? (fun x => x.1 == n) = some (n, i) →
      exec (.funcRef hd name) s = .next (ret (hd * 2 ^ 32 + i)))
    ∧ (∀ hd name, Tab.find hd s.containers = none → exec (.funcRef hd name) s = .next (ret (-4)))
    -- memory
    ∧ (∀ size aff rep, 0 < size → size < 2 ^ 56 → aff ≤ 16 → rep < 2 → let q := if aff = 0 then s.caller else aff - 1
      let plains := (List.range 16).filter fun p => (s.tenantOf p).isSome && s.tenantOf p == tenant
      let copies := if rep = 1 then (plains.filter (· != q)).take 3 else []
      (q ∉ plains → exec (.memAlloc size (aff + 256 * rep)) s = .next (ret (-3)))
      ∧ (q ∈ plains → s.alloc q (pagesFor size) 1 copies true false = none → exec (.memAlloc size (aff + 256 * rep)) s = .next (ret (-2)))
      ∧ ∀ va u, q ∈ plains → s.alloc q (pagesFor size) 1 copies true false = some (va, u) →
        exec (.memAlloc size (aff + 256 * rep)) s = .next { u with result := va } ∧ va % 65536 = 0 ∧ 0 < va ∧ va + pagesFor size * 65536 ≤ 2 ^ 56
        ∧ u.allocs = s.allocs ++ [(va / 65536, pagesFor size)] ∧ ∀ x ∈ s.allocs, va / 65536 + pagesFor size ≤ x.1 ∨ x.1 + x.2 ≤ va / 65536)
    ∧ (∀ size flags, (size = 0 ∨ 16 < flags % 32 ∨ 2 ^ 9 ≤ flags ∨ 0 < flags / 32 % 8) → exec (.memAlloc size flags) s = .next (ret (-1)))
    ∧ (∀ addr,
      ((∀ x ∈ s.allocs, x.1 * 65536 ≠ addr) → exec (.memFree addr) s = .next (ret (-4)))
      ∧ ∀ x, s.allocs.find? (fun (v, _) => v * 65536 == addr) = some x →
        let used := s.activeRecords.any fun r => r.ranges.any fun y => decide (y.base < addr + x.2 * 65536) && decide (addr < y.base + y.len)
        (used = true → exec (.memFree addr) s = .next (ret (-5)))
        ∧ (used = false → ∃ t, exec (.memFree addr) s = .next t ∧ t.result = 0 ∧ (∀ y ∈ t.allocs, y.1 * 65536 ≠ addr)
          ∧ ∀ c ∈ t.cores, ∀ e ∈ c.2.tlb, e.va + 2 ^ e.bits ≤ addr ∨ addr + x.2 * 65536 ≤ e.va))
    -- queues
    ∧ (∀ mode prio n q f u, tenant = some n → mode ≤ 1 → prio ≤ 7 → q < 64 → s.qEn q = false → (∀ m, m < q → s.qEn m = true) →
      s.newFrames s.caller 1 = some (f, u) → ∃ t, exec (.queueOpen mode prio) s = .next t ∧ t.result = q
        ∧ t.qEn q = true ∧ t.qRanged q = (mode == 1) ∧ t.qStop q = false ∧ t.qPri q = prio ∧ t.qTenant q = n ∧ t.qTail q = t.qHead q
        ∧ t.reg (0x401 + 4 * q) = BitVec.ofNat 64 (f * 65536) ∧ t.mem = s.mem
        ∧ ∀ m, m ≠ q → m < 64 → t.reg (0x400 + 4 * m) = s.reg (0x400 + 4 * m))
    ∧ (∀ mode prio, tenant.isSome → (1 < mode ∨ 7 < prio) → exec (.queueOpen mode prio) s = .next (ret (-1)))
    ∧ (∀ i q, (i = .queueClose q ∨ i = .queueRestart q ∨ ∃ r d, i = .launchSubmit q r d) → q < 64 →
      (s.qEn q = false → exec i s = .next (ret (-4))) ∧ (s.qEn q = true → ¬mine q → exec i s = .next (ret (-3))))
    ∧ (∀ q, q < 64 → s.qEn q = true → mine q →
      (s.qStop q = true → exec (.queueClose q) s = .next (ret (-5)))
      ∧ (s.qStop q = false → s.qHead q = s.qTail q → ∃ t, exec (.queueClose q) s = .next t ∧ t.result = 0 ∧ t.qEn q = false
        ∧ t.reg (0x400 + 4 * q) = s.reg (0x400 + 4 * q) &&& 0xFFFFFFFF7FFFFFFF ∧ ∀ i, i ≠ 0x400 + 4 * q → t.reg i = s.reg i)
      ∧ (s.qStop q = false → s.qHead q ≠ s.qTail q → exec (.queueClose q) s = .next { s with waiting := s.waiting ++ [.close q] })
      ∧ (∃ t, exec (.queueRestart q) s = .next t ∧ t.result = 0 ∧ t.qStop q = false
        ∧ t.reg (0x400 + 4 * q) = s.reg (0x400 + 4 * q) &&& 0xFFFFFFFFDFFFFFFF ∧ ∀ i, i ≠ 0x400 + 4 * q → t.reg i = s.reg i))
    -- a close that waits
    ∧ (∀ q, s.waiting = [.close q] → (s.qStop q = true → s.serveCalls = { s with result := -5, waiting := [] })
      ∧ (s.qStop q = false → s.qHead q ≠ s.qTail q → s.serveCalls = s)
      ∧ (s.qStop q = false → s.qHead q = s.qTail q → s.serveCalls.result = 0 ∧ s.serveCalls.qEn q = false ∧ s.serveCalls.waiting = []))
    -- launches
    ∧ (∀ q rcd dev, q < 64 → s.qEn q = true → mine q → rcd < 2 ^ 64 → dev < 2 ^ 12 →
      let n := s.qTail q
      let full := 2 ^ (field (s.reg (0x400 + 4 * q)) 19 16 + 4) ≤ (n + 2 ^ 32 - s.qHead q) % 2 ^ 32
      (full → exec (.launchSubmit q rcd dev) s = .next (ret (-5)))
      ∧ (¬full → Tab.find s.seq s.launches = none → ∃ t, exec (.launchSubmit q rcd dev) s = .next t ∧ t.result = (t.la s.seq).ctx
        ∧ t.coh (s.entryAddr q n) 16 = leBytes 8 rcd ++ leBytes 2 0 ++ leBytes 2 dev ++ leBytes 4 (t.la s.seq).ctx
        ∧ t.qTail q = (n + 1) % 2 ^ 32 ∧ (t.la s.seq).q = q ∧ (t.la s.seq).n = n ∧ (t.la s.seq).status = 0
        ∧ ∀ a, (a < s.entryAddr q n ∨ s.entryAddr q n + 16 ≤ a) → t.cohByte a = s.cohByte a))
    ∧ (∀ ctx, (∀ x ∈ s.launches, x.2.ctx ≠ ctx) → ∀ i, (i = .launchStatus ctx ∨ i = .launchCancel ctx ∨ ∃ d, i = .launchResize ctx d) →
      exec i s = .next (ret (-4)))
    ∧ (∀ ctx id l, newest ctx id l →
      (¬mine l.q → ∀ i, (i = .launchStatus ctx ∨ i = .launchCancel ctx ∨ ∃ d, i = .launchResize ctx d) → exec i s = .next (ret (-3)))
      ∧ (mine l.q → exec (.launchStatus ctx) s = .next (ret l.status))
      ∧ (mine l.q → ∀ d, 1 ≤ d → d ≤ 4 → exec (.launchResize ctx d) s = .next { s.setLa id (fun x => { x with target := d, resized := true }) with result := 0 })
      ∧ (mine l.q → ∀ d, (d = 0 ∨ 4 < d) → exec (.launchResize ctx d) s = .next (ret (-1)))
      ∧ (mine l.q → s.la id = l → l.status = 0 → l.ending = false → l.cancelled = false → ∃ t, exec (.launchCancel ctx) s = .next t ∧ t.result = 0
        ∧ ended t id (s.recordOf id l))
      -- of a running one nothing starts any more
      ∧ (mine l.q → s.la id = l → l.status = 1 → l.ending = false → l.cancelled = false → ∃ t, exec (.launchCancel ctx) s = .next t ∧ t.result = 0
        ∧ (t.la id).cancelled = true ∧ (t.la id).status = 1 ∧ (∀ c ∈ t.crews, c.2.launch = id → c.2.started = true) ∧ ∀ x ∈ t.slices, x.2.ctx ≠ ctx)
      ∧ (mine l.q → 2 ≤ l.status → exec (.launchCancel ctx) s = .next (ret (-4))))
    -- event queues
    ∧ (∀ plain k n e f u, tenant = some n → plain < 16 → s.tenantOf plain = some n → 4 ≤ k → k ≤ 16 → s.reg (0x500 + plain) ≠ 0 →
      s.newFrames plain (pagesFor (16 * 2 ^ k)) = some (f, u) → e < 64 → let w := plain * 64 + e
      s.shadowOf (lineOf (s.eqDesc w)) = none → s.memNat (s.eqDesc w + 0x0E) 1 % 2 = 0 → (∀ m, m < e → s.memNat (s.eqDesc (plain * 64 + m) + 0x0E) 1 % 2 = 1) →
      ∃ t, exec (.evqOpen plain (2 ^ k)) s = .next t ∧ t.result = w ∧ t.eqValid w = true
        ∧ t.coh (s.eqDesc w) 32 = leBytes 8 (f * 65536) ++ leBytes 4 (2 ^ k) ++ leBytes 2 n ++ [1, 0] ++ leBytes 16 0
        ∧ ∀ a, (a < s.eqDesc w ∨ s.eqDesc w + 32 ≤ a) → t.cohByte a = s.cohByte a)
    ∧ (∀ plain k n, tenant = some n → plain < 16 → s.tenantOf plain ≠ some n → 4 ≤ k → k ≤ 16 → exec (.evqOpen plain (2 ^ k)) s = .next (ret (-3)))
    ∧ (∀ w buf max timeout, w < 1024 → 0 < max →
      let d := s.eqDesc w
      let h := s.memNat (d + 0x18) 8
      let have_ := (s.memNat (d + 0x10) 8 + 2 ^ 64 - h) % 2 ^ 64
      (s.eqValid w = false → exec (.evqRead w buf max timeout) s = .next (ret (-4)))
      ∧ (s.eqValid w = true → tenant ≠ some (s.memNat (d + 0xC) 2) → exec (.evqRead w buf max timeout) s = .next (ret (-3)))
      ∧ (s.eqValid w = true → tenant = some (s.memNat (d + 0xC) 2) →
        (have_ = 0 → timeout = 0 → exec (.evqRead w buf max timeout) s = .next (ret 0))
        ∧ (have_ = 0 → 0 < timeout → exec (.evqRead w buf max timeout) s =
          .next { s with waiting := s.waiting ++ [.read w buf max (s.ns + 1000 * timeout)] })
        ∧ (∀ u, 0 < have_ → s.readRecords d buf h (min have_ max) = some u →
          exec (.evqRead w buf max timeout) s = .next { u.homeStore (d + 0x18) (leBytes 8 (h + min have_ max)) with result := (min have_ max : Nat) })
        ∧ ∀ u, 0 < have_ → max = 1 → s.osWrite buf (s.coh (s.memNat d 8 + 16 * (h % s.memNat (d + 8) 4)) 16) = some u →
          exec (.evqRead w buf max timeout) s = .next { u.homeStore (d + 0x18) (leBytes 8 (h + 1)) with result := 1 })))

/-! ### The whole machine -/

/-- 16 R335, 17 R372, 20 R399, R402, 22 R423, R424, R437, R440, R442, R443: what reset leaves: memory in canonical form with no
byte written; no thread, crew, launch or context; every bank and measurement zero; the registers that the spec gives another
reset value hold it. A reset of a machine that has run, whatever its state, leaves the same with the enabling the firmware sets;
below the minimums it stays in recovery mode. Values the spec gives no reset for, memory's among them, are the model's (log entries 2 to 6). -/
def Obligations.ResetState : Prop :=
  let s := State.reset
  s.MemOk ∧ s.L1Ok ∧ s.mem = [] ∧ s.threads = [] ∧ s.crews = [] ∧ s.launches = [] ∧ s.ctxs = [] ∧ s.ops = [] ∧ s.records = [] ∧ s.outbox = []
  ∧ s.cycle = 0 ∧ s.irqs = [] ∧ s.fatal = false
  ∧ (∀ n, (Tab.getD n {} s.banks).stat = 0 ∧ s.measure n = List.replicate 32 0)
  ∧ (∀ n, n < 192 → s.supplyOf n = n / 48 ∧ (s.cl n).granted = false ∧ (s.cl n).clk = 80)
  ∧ (∀ q, q < 16 → s.tenantOf q = none) ∧ (∀ q, q < 64 → s.qEn q = false)
  ∧ ((s.reg 0x510).toNat, (s.reg 0x603).toNat, (s.reg 0x604).toNat, (s.reg 0x607).toNat, (s.reg 0x608).toNat) = (1000, 1000, 1000, 10, 100)
  ∧ (s.reg 0x718).toNat = 20 ∧ (s.reg 0x720).getLsbD 31 = true ∧ field (s.reg 0x720) 23 0 = 1000 ∧ field (s.reg 0x721) 3 0 = 15
  ∧ ∀ (v : State) (caps : Caps), ∃ t, exec (.deviceReset caps) v = .next t ∧ t.caps = caps ∧ t.threads = [] ∧ t.crews = [] ∧ t.launches = []
    ∧ t.ctxs = [] ∧ t.ops = [] ∧ t.records = [] ∧ t.posted = [] ∧ t.outbox = [] ∧ t.banks = [] ∧ t.fatal = false
    ∧ (∀ i, t.reg i = s.reg i) ∧ (∀ n, 3 ≤ n → t.measure n = List.replicate 32 0) ∧ (Caps.enough caps = false → t.recovery = true)

/-- 04 R111, R112, R115: every step keeps memory in its canonical form, and keeps each line exclusive in one L1 at most, with
dirty bytes of that line only. -/
def Obligations.StepKeepsMemory : Prop :=
  ∀ s t : State, s.MemOk → s.L1Ok → step s = .next t → t.MemOk ∧ t.L1Ok

/-- 01 R18, 05 R131, 06 R156 to R159, 08 R210, 22 R435: a step whose turn is an issue slot fetches the word at the program counter of the
convoy there and runs the instruction it decodes to, its fields stepped in a repeat, with what settles by itself after it; a
word that cannot be fetched raises its cause with tva the block's address. The turns that are events run their event. A device
that a fatal error ended runs nothing until reset. Which turn comes next is the model's choice (log entry 1). -/
def Obligations.StepRunsDecoded : Prop :=
  ∀ (s : State) (rest : List Turn), s.fatal = false → s.recovery = false →
    let u : State := { s with agenda := rest }
    (∀ (p k : Nat) (c : Convoy), s.agenda = .issue p :: rest → s.convoys.find? (fun c => c.isOf p none) = some c → c.mem = [k] → (s.th k).pc = c.pc →
      let x : State := { u with convoys := c :: s.convoys.filter (· != c) }
      -- in a repeat its fields are stepped, outside one not at all
      (∀ w y i, c.pc ≠ c.hdr → x.fetch k c.code c.pc = (.word w, y) → (s.th k).idles = false →
        y.burstAgain c ((stepWord w (s.th k).steps).getD w) = false → decodeWord ((stepWord w (s.th k).steps).getD w) = .ok i →
        step s = settled (exec i (y.begin_ ((stepWord w (s.th k).steps).getD w))))
      ∧ (∀ w, (s.th k).rep = none → (stepWord w (s.th k).steps).getD w = w)
      ∧ (∀ w y i, c.pc = c.hdr → isSlotPC c.pc = true → x.fetch k c.code c.pc = (.word w, y) → isHeader w = true → decodeWord w = .ok i →
        step s = settled (exec i (y.begin_ w)))
      -- a failed check is logged once; a block in a leased line is waited for
      ∧ (∀ l y, (c.pc ≠ c.hdr ∨ isSlotPC c.pc = true) → x.fetch k c.code c.pc = (.busy l, y) → step s = .next (x.knock k l).settle)
      ∧ (∀ cz t y, (c.pc ≠ c.hdr ∨ isSlotPC c.pc = true) → x.fetch k c.code c.pc = (.fault cz t, y) →
        step s = .next (((y.noteFetch k c.pc cz).trap k ⟨cz, blockAddr c.pc, if t then some (blockAddr c.pc) else none, none⟩).finishIssue p none false).settle)
      ∧ (∀ pa y, x.codePlace k c.pc = (.at_ (.mem pa), y) → c.code = [] → Tab.find pa (y.co (s.coreTh k)).icache = none → y.poisoned pa 64 = false →
        (∀ j ∈ s.threads, ∀ l ∈ j.2.leases, l.line ≠ lineOf pa) →
        let b := y.coh pa 64
        (crc32c (b.take 60) = leNat (b.drop 60) → ∃ z, x.fetch k c.code c.pc
          = (.word (BitVec.ofNat 96 (leNat ((b.drop (12 * (c.pc.toNat % 64 / 12))).take 12))), z))
        ∧ (crc32c (b.take 60) ≠ leNat (b.drop 60) → ∃ z, x.fetch k c.code c.pc = (.fault 0x30 false, z))))
    ∧ (∀ i, s.agenda = .act i :: rest → encode i = none → step s = settled (exec i u))
    ∧ (∀ c n, s.agenda = .tick c n :: rest → step s = .next { u with cycle := s.cycle + c, ns := s.ns + n }.settle)
    ∧ (∀ v : State, (v.fatal = true ∨ v.recovery = true) →
      (v.agenda = [] → step v = .next v)
      ∧ (∀ t l, v.agenda = t :: l → answers t = false → step v = .next { v with agenda := l })
      ∧ (∀ t l, v.agenda = t :: l → answers t = true → step v = settled (State.perform { v with agenda := l } t)))
    -- what a stopped device answers: reset, configuration reads, and reads of its banks by the host
    ∧ (∀ i, answers (.act i) = true ↔ (∃ caps, i = .deviceReset caps) ∨ (∃ fn a n, i = .hostRead fn a n ∧ cfgBase ≤ a)
      ∨ ∃ m r, i = .controlCoreAccess m (.regRead r) ∧ 0x4A0 ≤ m ∧ m ≤ 0x4AF ∧ 0x800 ≤ r ∧ r ≤ 0x87F ∧ devAssigned r = true)

/-- 06 R149 to R154, R163: words written out field by field from the encoding tables decode to the instructions they stand for.
-/
def Obligations.DecodeWords : Prop :=
  let hd (neg : Bool) (p : BitVec 3) (ty : VType) (md : BitVec 4) (fin : Bool) (flg : BitVec 2) : Head := ⟨⟨neg, p⟩, ty, md, ⟨fin, flg, false, false, 0⟩⟩
  let always (ty : VType) (md : BitVec 4) : Head := hd false 7 ty md false 0
  decodeWord 0x010000400080000000000000#96 = .ok (.strh 1 0 0 1 0)
  ∧ decodeWord 0x10000700FFB00000000A3080#96 = .ok (.iadd (hd true 2 .i32 0 true 0) (.v 7) (.v 3) (.imm 0xFB))
  ∧ decodeWord 0x10800601C00000003E873100#96 = .ok (.iaddImm (always .i32 1) (.v 6) (.v 7) 1000)
  ∧ decodeWord 0x300C0A00803000000047C100#96 = .ok (.ffma (always .f32 1) (.v 10) (.v 2) (.v 3) (.v 4))
  ∧ decodeWord 0x080000000000000104370000#96 = .ok (.rpt (always .b32 0) 3 1 0 1)
  ∧ decodeWord 0x500C0400B01FFFFFFFF70100#96 = .ok (.lanexFlip (always .b32 1) (.v 4) (.v 2) (.imm 1) 0xFFFFFFFF)
  ∧ decodeWord 0x5F0470C0300040001C070000#96 = .ok (.afst (always .b32 0) (.v 0x70) (.imm 0) (.imm 0) ⟨.crew, .l, .own, 0, 448⟩)
  ∧ decodeWord 0x60000801009002000401C020#96 = .ok (.ld (hd false 1 .f32 0 false 1) (.v 8) (.v 4) (.v 9) ⟨.crew, .g, .own, 2, 64⟩)
  ∧ decodeWord 0x702406010086000001077400#96 = .ok (.atomCas (always .n32 4) (.v 6) (.v 4) (.v 8) ⟨.device, .g, .own, 0, 16⟩)
  ∧ decodeWord 0x900004000000000010278000#96 = .ok (.srd (always .n64 0) (.v 4) 0x102)
  ∧ decodeWord 0#96 = .error .illegalOp
  ∧ decodeWord 0x10000700FFB00001000A3080#96 = .error .reservedBits

/-- 06 R149 to R166: every well-formed instruction is read back from its word as it was written, and a word that decodes is the
word of the well-formed instruction it decodes to. -/
def Obligations.RoundTrip : Prop :=
  (∀ i w, i.wf = true → encode i = some w → decodeWord w = .ok i)
  ∧ ∀ w i, decodeWord w = .ok i → i.wf = true ∧ encode i = some w
end

