-- ==== Sys2Proof/Laws/Decode.lean ====
section
/-! SUPPORT. The parts of an instruction word: each part of the encoding read back as it was written. -/

namespace Sys2Proof

/-- The fields of the word of some fields. -/
theorem Fields.ofWord_toWord (f : Fields) : Fields.ofWord f.toWord = f := by
  obtain ⟨op, fn, d, a, b, x, g, ty, md, h⟩ := f
  unfold Fields.ofWord Fields.toWord
  simp only [Fields.mk.injEq]
  refine ⟨?_, ?_, ?_, ?_, ?_, ?_, ?_, ?_, ?_, ?_⟩ <;>
    simp (disch := omega) only [BitVec.extractLsb'_append_eq_of_add_le, BitVec.extractLsb'_append_eq_of_le, BitVec.extractLsb'_eq_self, Nat.sub_self, Nat.reduceSub]

theorem Spec.ofBits_bits (a : Spec) : Spec.ofBits a.bits = a := by
  cases a <;> simp [Spec.ofBits, Spec.bits] <;> decide +revert

theorem VType.ofCode_code (t : VType) : VType.ofCode t.code = some t := by cases t <;> decide

theorem Guard.ofBits_bits (g : Guard) : Guard.ofBits g.bits = g := by
  obtain ⟨n, p⟩ := g
  cases n <;> revert p <;> decide

theorem Hints.ofBits_bits (g : Hints) : Hints.ofBits g.bits = g := by
  obtain ⟨f, fl, r, y, l⟩ := g
  cases f <;> cases r <;> cases y <;> revert fl l <;> decide

theorem Scope.ofCode_code (c : Scope) : Scope.ofCode c.code = some c := by cases c <;> rfl

theorem MemF.ofWord_word (m : MemF) : MemF.ofWord m.word = some m := by
  obtain ⟨sc, sp, rt, scl, ofs⟩ := m
  unfold MemF.ofWord MemF.word
  simp (disch := omega) only [BitVec.extractLsb'_append_eq_of_add_le, BitVec.extractLsb'_append_eq_of_le, BitVec.extractLsb'_eq_self, Nat.sub_self, Nat.reduceSub]
  cases sc <;> cases sp <;> cases rt <;> rfl

/-- The head that the fields of an instruction hold. -/
theorem mkFields_head (op : BitVec 8) (fn : BitVec 6) (h : Head) (d a b : BitVec 10) (x : BitVec 32) :
    (mkFields op fn h d a b x).head h.ty = h := by
  obtain ⟨g, t, m, hh⟩ := h
  simp [mkFields, Fields.head, Guard.ofBits_bits, Hints.ofBits_bits]

/-- A word decodes to an instruction only if that is well formed and assembles to the word. -/
theorem decodeWord_sound {w : IWord} {i : Instr} (h : decodeWord w = .ok i) (hs : (Fields.ofWord w).op ≠ 0x01) :
    i.wf = true ∧ encode i = some w := by
  unfold decodeWord at h
  simp only [hs, if_false] at h
  split at h
  · cases h
  · split at h
    · cases h
    · split at h
      · cases h
      · split at h
        · split at h
          · rename_i hw he
            cases h
            exact ⟨hw, he⟩
          · cases h
        · cases h

end Sys2Proof
end

