-- ==== Sys2Proof/Laws/Tab.lean ====
section
/-! SUPPORT. Sparse tables: what is found after an entry is set, changed or dropped, in any order of keys. -/

namespace Sys2Proof

variable {α : Type}

@[simp] theorem Tab.find_nil (k : Nat) : Tab.find k ([] : List (Nat × α)) = none := rfl

theorem Tab.find_put (k j : Nat) (a : α) (t : List (Nat × α)) :
    Tab.find j (Tab.put k a t) = if j = k then some a else Tab.find j t := by
  induction t with
  | nil => simp [Tab.put, Tab.find]
  | cons p t ih =>
      obtain ⟨k', b⟩ := p
      simp only [Tab.put]
      split
      · by_cases h : j = k <;> simp [Tab.find, h]
      · split
        · subst k'
          by_cases h : j = k <;> simp [Tab.find, h]
        · rename_i hne
          simp only [Tab.find, ih]
          by_cases h : j = k
          · subst h; simp [hne]
          · simp [h]

@[simp] theorem Tab.find_put_self (k : Nat) (a : α) (t : List (Nat × α)) : Tab.find k (Tab.put k a t) = some a := by
  simp [Tab.find_put]

theorem Tab.find_drop (k j : Nat) (t : List (Nat × α)) :
    Tab.find j (Tab.drop k t) = if j = k then none else Tab.find j t := by
  induction t with
  | nil => simp [Tab.drop]
  | cons p t ih =>
      obtain ⟨k', b⟩ := p
      by_cases hk : k = k'
      · subst hk
        simp only [Tab.drop, if_true, ih, Tab.find]
        by_cases h : j = k <;> simp [h]
      · simp only [Tab.drop, hk, if_false, Tab.find, ih]
        by_cases h : j = k
        · subst h; simp [hk]
        · simp [h]

theorem Tab.find_modify (k j : Nat) (f : α → α) (t : List (Nat × α)) :
    Tab.find j (Tab.modify k f t) = if j = k then (Tab.find j t).map f else Tab.find j t := by
  induction t with
  | nil => simp [Tab.modify]
  | cons p t ih =>
      obtain ⟨k', b⟩ := p
      by_cases hk : k = k'
      · subst hk
        by_cases h : j = k <;> simp [Tab.modify, Tab.find, h]
      · simp only [Tab.modify, hk, if_false, Tab.find, ih]
        by_cases h : j = k
        · subst h; simp [hk]
        · simp [h]

theorem Tab.getD_put (k j : Nat) (a d : α) (t : List (Nat × α)) :
    Tab.getD j d (Tab.put k a t) = if j = k then a else Tab.getD j d t := by
  by_cases h : j = k <;> simp [Tab.getD, Tab.find_put, h]

theorem Tab.getD_modify (k j : Nat) (d : α) (f : α → α) (t : List (Nat × α)) :
    Tab.getD j d (Tab.modify k f t) = if j = k ∧ (Tab.find j t).isSome then f (Tab.getD j d t) else Tab.getD j d t := by
  simp only [Tab.getD, Tab.find_modify]
  by_cases h : j = k
  · cases hf : Tab.find j t <;> simp [h]
  · simp [h]

theorem Tab.mem_put {k : Nat} {a : α} {t : List (Nat × α)} {p : Nat × α} (h : p ∈ Tab.put k a t) : p = (k, a) ∨ p ∈ t := by
  induction t with
  | nil => simpa [Tab.put] using h
  | cons q t ih =>
      obtain ⟨k', b⟩ := q
      simp only [Tab.put] at h
      split at h
      · simpa using h
      · split at h
        · rcases List.mem_cons.1 h with h | h
          · exact .inl h
          · exact .inr (List.mem_cons_of_mem _ h)
        · rcases List.mem_cons.1 h with h | h
          · exact .inr (by simp [h])
          · rcases ih h with h | h
            · exact .inl h
            · exact .inr (List.mem_cons_of_mem _ h)

theorem Tab.mem_modify {k : Nat} {f : α → α} {t : List (Nat × α)} {p : Nat × α} (h : p ∈ Tab.modify k f t) :
    p ∈ t ∨ ∃ b, (k, b) ∈ t ∧ p = (k, f b) := by
  induction t with
  | nil => simp [Tab.modify] at h
  | cons q t ih =>
      obtain ⟨k', b⟩ := q
      simp only [Tab.modify] at h
      split at h
      · subst k'
        rcases List.mem_cons.1 h with h | h
        · exact .inr ⟨b, by simp, h⟩
        · exact .inl (List.mem_cons_of_mem _ h)
      · rcases List.mem_cons.1 h with h | h
        · exact .inl (by simp [h])
        · rcases ih h with h | ⟨c, hc, h⟩
          · exact .inl (List.mem_cons_of_mem _ h)
          · exact .inr ⟨c, List.mem_cons_of_mem _ hc, h⟩

theorem Tab.mem_of_find {k : Nat} {a : α} {t : List (Nat × α)} (h : Tab.find k t = some a) : (k, a) ∈ t := by
  induction t with
  | nil => simp at h
  | cons q t ih =>
      obtain ⟨k', b⟩ := q
      simp only [Tab.find] at h
      split at h
      · subst k'; simp_all
      · exact List.mem_cons_of_mem _ (ih h)

/-- Setting an entry leaves the entries of other keys as they are. -/
theorem Tab.filter_put_ne (k : Nat) (a : α) (t : List (Nat × α)) :
    (Tab.put k a t).filter (fun e => e.1 != k) = t.filter fun e => e.1 != k := by
  induction t with
  | nil => simp [Tab.put]
  | cons p t ih =>
      obtain ⟨k', b⟩ := p
      simp only [Tab.put]
      split
      · simp
      · split
        · subst k'; simp
        · simp only [List.filter_cons, ih]

/-- Changing an entry changes no key. -/
@[simp] theorem Tab.keys_modify (k : Nat) (f : α → α) (t : List (Nat × α)) : Tab.keys (Tab.modify k f t) = Tab.keys t := by
  induction t with
  | nil => rfl
  | cons p t ih =>
      obtain ⟨k', b⟩ := p
      simp only [Tab.modify]
      split <;> simp_all [Tab.keys]

theorem Tab.modify_modify (k : Nat) (f g : α → α) (t : List (Nat × α)) :
    Tab.modify k g (Tab.modify k f t) = Tab.modify k (fun x => g (f x)) t := by
  induction t with
  | nil => rfl
  | cons p t ih =>
      obtain ⟨a, b⟩ := p
      simp only [Tab.modify]
      split
      · simp [Tab.modify, *]
      · simp [Tab.modify, *]

@[simp] theorem Tab.modify_id (k : Nat) (t : List (Nat × α)) : Tab.modify k (fun x => x) t = t := by
  induction t with
  | nil => rfl
  | cons p t ih => obtain ⟨a, b⟩ := p; simp only [Tab.modify, ih]; split <;> simp [*]

end Sys2Proof
end

