-- ==== Sys2Proof/Laws/State.lean ====
section
/-! SUPPORT. What each update of a part of the state leaves as it is, field by field, and what it changes. -/

namespace Sys2Proof.Machine

@[simp] theorem State.setTh_mem (s : State) (k : Nat) (f : Thread → Thread) : (s.setTh k f).mem = s.mem := rfl
@[simp] theorem State.setTh_poison (s : State) (k : Nat) (f : Thread → Thread) : (s.setTh k f).poison = s.poison := rfl
@[simp] theorem State.setTh_scrPoison (s : State) (k : Nat) (f : Thread → Thread) : (s.setTh k f).scrPoison = s.scrPoison := rfl
@[simp] theorem State.setTh_posted (s : State) (k : Nat) (f : Thread → Thread) : (s.setTh k f).posted = s.posted := rfl
@[simp] theorem State.setTh_reply (s : State) (k : Nat) (f : Thread → Thread) : (s.setTh k f).reply = s.reply := rfl
@[simp] theorem State.setTh_early (s : State) (k : Nat) (f : Thread → Thread) : (s.setTh k f).early = s.early := rfl
@[simp] theorem State.setTh_reposts (s : State) (k : Nat) (f : Thread → Thread) : (s.setTh k f).reposts = s.reposts := rfl
@[simp] theorem State.setTh_linkFails (s : State) (k : Nat) (f : Thread → Thread) : (s.setTh k f).linkFails = s.linkFails := rfl
@[simp] theorem State.setTh_convoys (s : State) (k : Nat) (f : Thread → Thread) : (s.setTh k f).convoys = s.convoys := rfl
@[simp] theorem State.setTh_parts (s : State) (k : Nat) (f : Thread → Thread) : (s.setTh k f).parts = s.parts := rfl
@[simp] theorem State.setTh_rows (s : State) (k : Nat) (f : Thread → Thread) : (s.setTh k f).rows = s.rows := rfl
@[simp] theorem State.setTh_crews (s : State) (k : Nat) (f : Thread → Thread) : (s.setTh k f).crews = s.crews := rfl
@[simp] theorem State.setTh_launches (s : State) (k : Nat) (f : Thread → Thread) : (s.setTh k f).launches = s.launches := rfl
@[simp] theorem State.setTh_ctxs (s : State) (k : Nat) (f : Thread → Thread) : (s.setTh k f).ctxs = s.ctxs := rfl
@[simp] theorem State.setTh_cores (s : State) (k : Nat) (f : Thread → Thread) : (s.setTh k f).cores = s.cores := rfl
@[simp] theorem State.setTh_clusters (s : State) (k : Nat) (f : Thread → Thread) : (s.setTh k f).clusters = s.clusters := rfl
@[simp] theorem State.setTh_ops (s : State) (k : Nat) (f : Thread → Thread) : (s.setTh k f).ops = s.ops := rfl
@[simp] theorem State.setTh_regs (s : State) (k : Nat) (f : Thread → Thread) : (s.setTh k f).regs = s.regs := rfl
@[simp] theorem State.setTh_counters (s : State) (k : Nat) (f : Thread → Thread) : (s.setTh k f).counters = s.counters := rfl
@[simp] theorem State.setTh_cycle (s : State) (k : Nat) (f : Thread → Thread) : (s.setTh k f).cycle = s.cycle := rfl
@[simp] theorem State.setTh_ns (s : State) (k : Nat) (f : Thread → Thread) : (s.setTh k f).ns = s.ns := rfl
@[simp] theorem State.setTh_agenda (s : State) (k : Nat) (f : Thread → Thread) : (s.setTh k f).agenda = s.agenda := rfl

@[simp] theorem State.setCr_mem (s : State) (c : Nat) (f : Crew → Crew) : (s.setCr c f).mem = s.mem := rfl
@[simp] theorem State.setCr_poison (s : State) (c : Nat) (f : Crew → Crew) : (s.setCr c f).poison = s.poison := rfl
@[simp] theorem State.setCr_scrPoison (s : State) (c : Nat) (f : Crew → Crew) : (s.setCr c f).scrPoison = s.scrPoison := rfl
@[simp] theorem State.setCr_posted (s : State) (c : Nat) (f : Crew → Crew) : (s.setCr c f).posted = s.posted := rfl
@[simp] theorem State.setCr_reply (s : State) (c : Nat) (f : Crew → Crew) : (s.setCr c f).reply = s.reply := rfl
@[simp] theorem State.setCr_early (s : State) (c : Nat) (f : Crew → Crew) : (s.setCr c f).early = s.early := rfl
@[simp] theorem State.setCr_reposts (s : State) (c : Nat) (f : Crew → Crew) : (s.setCr c f).reposts = s.reposts := rfl
@[simp] theorem State.setCr_linkFails (s : State) (c : Nat) (f : Crew → Crew) : (s.setCr c f).linkFails = s.linkFails := rfl
@[simp] theorem State.setCr_threads (s : State) (c : Nat) (f : Crew → Crew) : (s.setCr c f).threads = s.threads := rfl
@[simp] theorem State.setCr_convoys (s : State) (c : Nat) (f : Crew → Crew) : (s.setCr c f).convoys = s.convoys := rfl
@[simp] theorem State.setCr_parts (s : State) (c : Nat) (f : Crew → Crew) : (s.setCr c f).parts = s.parts := rfl
@[simp] theorem State.setCr_rows (s : State) (c : Nat) (f : Crew → Crew) : (s.setCr c f).rows = s.rows := rfl
@[simp] theorem State.setCr_launches (s : State) (c : Nat) (f : Crew → Crew) : (s.setCr c f).launches = s.launches := rfl
@[simp] theorem State.setCr_ctxs (s : State) (c : Nat) (f : Crew → Crew) : (s.setCr c f).ctxs = s.ctxs := rfl
@[simp] theorem State.setCr_cores (s : State) (c : Nat) (f : Crew → Crew) : (s.setCr c f).cores = s.cores := rfl
@[simp] theorem State.setCr_clusters (s : State) (c : Nat) (f : Crew → Crew) : (s.setCr c f).clusters = s.clusters := rfl
@[simp] theorem State.setCr_ops (s : State) (c : Nat) (f : Crew → Crew) : (s.setCr c f).ops = s.ops := rfl
@[simp] theorem State.setCr_regs (s : State) (c : Nat) (f : Crew → Crew) : (s.setCr c f).regs = s.regs := rfl
@[simp] theorem State.setCr_counters (s : State) (c : Nat) (f : Crew → Crew) : (s.setCr c f).counters = s.counters := rfl
@[simp] theorem State.setCr_cycle (s : State) (c : Nat) (f : Crew → Crew) : (s.setCr c f).cycle = s.cycle := rfl
@[simp] theorem State.setCr_ns (s : State) (c : Nat) (f : Crew → Crew) : (s.setCr c f).ns = s.ns := rfl
@[simp] theorem State.setCr_agenda (s : State) (c : Nat) (f : Crew → Crew) : (s.setCr c f).agenda = s.agenda := rfl

@[simp] theorem State.setLa_mem (s : State) (l : Nat) (f : Launch → Launch) : (s.setLa l f).mem = s.mem := rfl
@[simp] theorem State.setLa_poison (s : State) (l : Nat) (f : Launch → Launch) : (s.setLa l f).poison = s.poison := rfl
@[simp] theorem State.setLa_scrPoison (s : State) (l : Nat) (f : Launch → Launch) : (s.setLa l f).scrPoison = s.scrPoison := rfl
@[simp] theorem State.setLa_posted (s : State) (l : Nat) (f : Launch → Launch) : (s.setLa l f).posted = s.posted := rfl
@[simp] theorem State.setLa_reply (s : State) (l : Nat) (f : Launch → Launch) : (s.setLa l f).reply = s.reply := rfl
@[simp] theorem State.setLa_early (s : State) (l : Nat) (f : Launch → Launch) : (s.setLa l f).early = s.early := rfl
@[simp] theorem State.setLa_reposts (s : State) (l : Nat) (f : Launch → Launch) : (s.setLa l f).reposts = s.reposts := rfl
@[simp] theorem State.setLa_linkFails (s : State) (l : Nat) (f : Launch → Launch) : (s.setLa l f).linkFails = s.linkFails := rfl
@[simp] theorem State.setLa_threads (s : State) (l : Nat) (f : Launch → Launch) : (s.setLa l f).threads = s.threads := rfl
@[simp] theorem State.setLa_convoys (s : State) (l : Nat) (f : Launch → Launch) : (s.setLa l f).convoys = s.convoys := rfl
@[simp] theorem State.setLa_parts (s : State) (l : Nat) (f : Launch → Launch) : (s.setLa l f).parts = s.parts := rfl
@[simp] theorem State.setLa_rows (s : State) (l : Nat) (f : Launch → Launch) : (s.setLa l f).rows = s.rows := rfl
@[simp] theorem State.setLa_crews (s : State) (l : Nat) (f : Launch → Launch) : (s.setLa l f).crews = s.crews := rfl
@[simp] theorem State.setLa_ctxs (s : State) (l : Nat) (f : Launch → Launch) : (s.setLa l f).ctxs = s.ctxs := rfl
@[simp] theorem State.setLa_cores (s : State) (l : Nat) (f : Launch → Launch) : (s.setLa l f).cores = s.cores := rfl
@[simp] theorem State.setLa_clusters (s : State) (l : Nat) (f : Launch → Launch) : (s.setLa l f).clusters = s.clusters := rfl
@[simp] theorem State.setLa_ops (s : State) (l : Nat) (f : Launch → Launch) : (s.setLa l f).ops = s.ops := rfl
@[simp] theorem State.setLa_regs (s : State) (l : Nat) (f : Launch → Launch) : (s.setLa l f).regs = s.regs := rfl
@[simp] theorem State.setLa_counters (s : State) (l : Nat) (f : Launch → Launch) : (s.setLa l f).counters = s.counters := rfl
@[simp] theorem State.setLa_cycle (s : State) (l : Nat) (f : Launch → Launch) : (s.setLa l f).cycle = s.cycle := rfl
@[simp] theorem State.setLa_ns (s : State) (l : Nat) (f : Launch → Launch) : (s.setLa l f).ns = s.ns := rfl
@[simp] theorem State.setLa_agenda (s : State) (l : Nat) (f : Launch → Launch) : (s.setLa l f).agenda = s.agenda := rfl

@[simp] theorem State.setCx_mem (s : State) (c : Nat) (f : Ctx → Ctx) : (s.setCx c f).mem = s.mem := rfl
@[simp] theorem State.setCx_poison (s : State) (c : Nat) (f : Ctx → Ctx) : (s.setCx c f).poison = s.poison := rfl
@[simp] theorem State.setCx_scrPoison (s : State) (c : Nat) (f : Ctx → Ctx) : (s.setCx c f).scrPoison = s.scrPoison := rfl
@[simp] theorem State.setCx_posted (s : State) (c : Nat) (f : Ctx → Ctx) : (s.setCx c f).posted = s.posted := rfl
@[simp] theorem State.setCx_reply (s : State) (c : Nat) (f : Ctx → Ctx) : (s.setCx c f).reply = s.reply := rfl
@[simp] theorem State.setCx_early (s : State) (c : Nat) (f : Ctx → Ctx) : (s.setCx c f).early = s.early := rfl
@[simp] theorem State.setCx_reposts (s : State) (c : Nat) (f : Ctx → Ctx) : (s.setCx c f).reposts = s.reposts := rfl
@[simp] theorem State.setCx_linkFails (s : State) (c : Nat) (f : Ctx → Ctx) : (s.setCx c f).linkFails = s.linkFails := rfl
@[simp] theorem State.setCx_threads (s : State) (c : Nat) (f : Ctx → Ctx) : (s.setCx c f).threads = s.threads := rfl
@[simp] theorem State.setCx_convoys (s : State) (c : Nat) (f : Ctx → Ctx) : (s.setCx c f).convoys = s.convoys := rfl
@[simp] theorem State.setCx_parts (s : State) (c : Nat) (f : Ctx → Ctx) : (s.setCx c f).parts = s.parts := rfl
@[simp] theorem State.setCx_rows (s : State) (c : Nat) (f : Ctx → Ctx) : (s.setCx c f).rows = s.rows := rfl
@[simp] theorem State.setCx_crews (s : State) (c : Nat) (f : Ctx → Ctx) : (s.setCx c f).crews = s.crews := rfl
@[simp] theorem State.setCx_launches (s : State) (c : Nat) (f : Ctx → Ctx) : (s.setCx c f).launches = s.launches := rfl
@[simp] theorem State.setCx_cores (s : State) (c : Nat) (f : Ctx → Ctx) : (s.setCx c f).cores = s.cores := rfl
@[simp] theorem State.setCx_clusters (s : State) (c : Nat) (f : Ctx → Ctx) : (s.setCx c f).clusters = s.clusters := rfl
@[simp] theorem State.setCx_ops (s : State) (c : Nat) (f : Ctx → Ctx) : (s.setCx c f).ops = s.ops := rfl
@[simp] theorem State.setCx_regs (s : State) (c : Nat) (f : Ctx → Ctx) : (s.setCx c f).regs = s.regs := rfl
@[simp] theorem State.setCx_counters (s : State) (c : Nat) (f : Ctx → Ctx) : (s.setCx c f).counters = s.counters := rfl
@[simp] theorem State.setCx_cycle (s : State) (c : Nat) (f : Ctx → Ctx) : (s.setCx c f).cycle = s.cycle := rfl
@[simp] theorem State.setCx_ns (s : State) (c : Nat) (f : Ctx → Ctx) : (s.setCx c f).ns = s.ns := rfl
@[simp] theorem State.setCx_agenda (s : State) (c : Nat) (f : Ctx → Ctx) : (s.setCx c f).agenda = s.agenda := rfl

@[simp] theorem State.setCo_mem (s : State) (c : Nat) (f : Core → Core) : (s.setCo c f).mem = s.mem := rfl
@[simp] theorem State.setCo_poison (s : State) (c : Nat) (f : Core → Core) : (s.setCo c f).poison = s.poison := rfl
@[simp] theorem State.setCo_scrPoison (s : State) (c : Nat) (f : Core → Core) : (s.setCo c f).scrPoison = s.scrPoison := rfl
@[simp] theorem State.setCo_posted (s : State) (c : Nat) (f : Core → Core) : (s.setCo c f).posted = s.posted := rfl
@[simp] theorem State.setCo_reply (s : State) (c : Nat) (f : Core → Core) : (s.setCo c f).reply = s.reply := rfl
@[simp] theorem State.setCo_early (s : State) (c : Nat) (f : Core → Core) : (s.setCo c f).early = s.early := rfl
@[simp] theorem State.setCo_reposts (s : State) (c : Nat) (f : Core → Core) : (s.setCo c f).reposts = s.reposts := rfl
@[simp] theorem State.setCo_linkFails (s : State) (c : Nat) (f : Core → Core) : (s.setCo c f).linkFails = s.linkFails := rfl
@[simp] theorem State.setCo_threads (s : State) (c : Nat) (f : Core → Core) : (s.setCo c f).threads = s.threads := rfl
@[simp] theorem State.setCo_convoys (s : State) (c : Nat) (f : Core → Core) : (s.setCo c f).convoys = s.convoys := rfl
@[simp] theorem State.setCo_parts (s : State) (c : Nat) (f : Core → Core) : (s.setCo c f).parts = s.parts := rfl
@[simp] theorem State.setCo_rows (s : State) (c : Nat) (f : Core → Core) : (s.setCo c f).rows = s.rows := rfl
@[simp] theorem State.setCo_crews (s : State) (c : Nat) (f : Core → Core) : (s.setCo c f).crews = s.crews := rfl
@[simp] theorem State.setCo_launches (s : State) (c : Nat) (f : Core → Core) : (s.setCo c f).launches = s.launches := rfl
@[simp] theorem State.setCo_ctxs (s : State) (c : Nat) (f : Core → Core) : (s.setCo c f).ctxs = s.ctxs := rfl
@[simp] theorem State.setCo_clusters (s : State) (c : Nat) (f : Core → Core) : (s.setCo c f).clusters = s.clusters := rfl
@[simp] theorem State.setCo_ops (s : State) (c : Nat) (f : Core → Core) : (s.setCo c f).ops = s.ops := rfl
@[simp] theorem State.setCo_regs (s : State) (c : Nat) (f : Core → Core) : (s.setCo c f).regs = s.regs := rfl
@[simp] theorem State.setCo_counters (s : State) (c : Nat) (f : Core → Core) : (s.setCo c f).counters = s.counters := rfl
@[simp] theorem State.setCo_cycle (s : State) (c : Nat) (f : Core → Core) : (s.setCo c f).cycle = s.cycle := rfl
@[simp] theorem State.setCo_ns (s : State) (c : Nat) (f : Core → Core) : (s.setCo c f).ns = s.ns := rfl
@[simp] theorem State.setCo_agenda (s : State) (c : Nat) (f : Core → Core) : (s.setCo c f).agenda = s.agenda := rfl

@[simp] theorem State.setCl_mem (s : State) (c : Nat) (f : Cluster → Cluster) : (s.setCl c f).mem = s.mem := rfl
@[simp] theorem State.setCl_poison (s : State) (c : Nat) (f : Cluster → Cluster) : (s.setCl c f).poison = s.poison := rfl
@[simp] theorem State.setCl_scrPoison (s : State) (c : Nat) (f : Cluster → Cluster) : (s.setCl c f).scrPoison = s.scrPoison := rfl
@[simp] theorem State.setCl_posted (s : State) (c : Nat) (f : Cluster → Cluster) : (s.setCl c f).posted = s.posted := rfl
@[simp] theorem State.setCl_reply (s : State) (c : Nat) (f : Cluster → Cluster) : (s.setCl c f).reply = s.reply := rfl
@[simp] theorem State.setCl_early (s : State) (c : Nat) (f : Cluster → Cluster) : (s.setCl c f).early = s.early := rfl
@[simp] theorem State.setCl_reposts (s : State) (c : Nat) (f : Cluster → Cluster) : (s.setCl c f).reposts = s.reposts := rfl
@[simp] theorem State.setCl_linkFails (s : State) (c : Nat) (f : Cluster → Cluster) : (s.setCl c f).linkFails = s.linkFails := rfl
@[simp] theorem State.setCl_threads (s : State) (c : Nat) (f : Cluster → Cluster) : (s.setCl c f).threads = s.threads := rfl
@[simp] theorem State.setCl_convoys (s : State) (c : Nat) (f : Cluster → Cluster) : (s.setCl c f).convoys = s.convoys := rfl
@[simp] theorem State.setCl_parts (s : State) (c : Nat) (f : Cluster → Cluster) : (s.setCl c f).parts = s.parts := rfl
@[simp] theorem State.setCl_rows (s : State) (c : Nat) (f : Cluster → Cluster) : (s.setCl c f).rows = s.rows := rfl
@[simp] theorem State.setCl_crews (s : State) (c : Nat) (f : Cluster → Cluster) : (s.setCl c f).crews = s.crews := rfl
@[simp] theorem State.setCl_launches (s : State) (c : Nat) (f : Cluster → Cluster) : (s.setCl c f).launches = s.launches := rfl
@[simp] theorem State.setCl_ctxs (s : State) (c : Nat) (f : Cluster → Cluster) : (s.setCl c f).ctxs = s.ctxs := rfl
@[simp] theorem State.setCl_cores (s : State) (c : Nat) (f : Cluster → Cluster) : (s.setCl c f).cores = s.cores := rfl
@[simp] theorem State.setCl_ops (s : State) (c : Nat) (f : Cluster → Cluster) : (s.setCl c f).ops = s.ops := rfl
@[simp] theorem State.setCl_regs (s : State) (c : Nat) (f : Cluster → Cluster) : (s.setCl c f).regs = s.regs := rfl
@[simp] theorem State.setCl_counters (s : State) (c : Nat) (f : Cluster → Cluster) : (s.setCl c f).counters = s.counters := rfl
@[simp] theorem State.setCl_cycle (s : State) (c : Nat) (f : Cluster → Cluster) : (s.setCl c f).cycle = s.cycle := rfl
@[simp] theorem State.setCl_ns (s : State) (c : Nat) (f : Cluster → Cluster) : (s.setCl c f).ns = s.ns := rfl
@[simp] theorem State.setCl_agenda (s : State) (c : Nat) (f : Cluster → Cluster) : (s.setCl c f).agenda = s.agenda := rfl

@[simp] theorem State.setPt_mem (s : State) (p : Nat) (f : Part → Part) : (s.setPt p f).mem = s.mem := rfl
@[simp] theorem State.setPt_poison (s : State) (p : Nat) (f : Part → Part) : (s.setPt p f).poison = s.poison := rfl
@[simp] theorem State.setPt_scrPoison (s : State) (p : Nat) (f : Part → Part) : (s.setPt p f).scrPoison = s.scrPoison := rfl
@[simp] theorem State.setPt_posted (s : State) (p : Nat) (f : Part → Part) : (s.setPt p f).posted = s.posted := rfl
@[simp] theorem State.setPt_reply (s : State) (p : Nat) (f : Part → Part) : (s.setPt p f).reply = s.reply := rfl
@[simp] theorem State.setPt_early (s : State) (p : Nat) (f : Part → Part) : (s.setPt p f).early = s.early := rfl
@[simp] theorem State.setPt_reposts (s : State) (p : Nat) (f : Part → Part) : (s.setPt p f).reposts = s.reposts := rfl
@[simp] theorem State.setPt_linkFails (s : State) (p : Nat) (f : Part → Part) : (s.setPt p f).linkFails = s.linkFails := rfl
@[simp] theorem State.setPt_threads (s : State) (p : Nat) (f : Part → Part) : (s.setPt p f).threads = s.threads := rfl
@[simp] theorem State.setPt_convoys (s : State) (p : Nat) (f : Part → Part) : (s.setPt p f).convoys = s.convoys := rfl
@[simp] theorem State.setPt_rows (s : State) (p : Nat) (f : Part → Part) : (s.setPt p f).rows = s.rows := rfl
@[simp] theorem State.setPt_crews (s : State) (p : Nat) (f : Part → Part) : (s.setPt p f).crews = s.crews := rfl
@[simp] theorem State.setPt_launches (s : State) (p : Nat) (f : Part → Part) : (s.setPt p f).launches = s.launches := rfl
@[simp] theorem State.setPt_ctxs (s : State) (p : Nat) (f : Part → Part) : (s.setPt p f).ctxs = s.ctxs := rfl
@[simp] theorem State.setPt_cores (s : State) (p : Nat) (f : Part → Part) : (s.setPt p f).cores = s.cores := rfl
@[simp] theorem State.setPt_clusters (s : State) (p : Nat) (f : Part → Part) : (s.setPt p f).clusters = s.clusters := rfl
@[simp] theorem State.setPt_ops (s : State) (p : Nat) (f : Part → Part) : (s.setPt p f).ops = s.ops := rfl
@[simp] theorem State.setPt_regs (s : State) (p : Nat) (f : Part → Part) : (s.setPt p f).regs = s.regs := rfl
@[simp] theorem State.setPt_counters (s : State) (p : Nat) (f : Part → Part) : (s.setPt p f).counters = s.counters := rfl
@[simp] theorem State.setPt_cycle (s : State) (p : Nat) (f : Part → Part) : (s.setPt p f).cycle = s.cycle := rfl
@[simp] theorem State.setPt_ns (s : State) (p : Nat) (f : Part → Part) : (s.setPt p f).ns = s.ns := rfl
@[simp] theorem State.setPt_agenda (s : State) (p : Nat) (f : Part → Part) : (s.setPt p f).agenda = s.agenda := rfl

@[simp] theorem State.setRw_mem (s : State) (r : Nat) (f : Row → Row) : (s.setRw r f).mem = s.mem := rfl
@[simp] theorem State.setRw_poison (s : State) (r : Nat) (f : Row → Row) : (s.setRw r f).poison = s.poison := rfl
@[simp] theorem State.setRw_scrPoison (s : State) (r : Nat) (f : Row → Row) : (s.setRw r f).scrPoison = s.scrPoison := rfl
@[simp] theorem State.setRw_posted (s : State) (r : Nat) (f : Row → Row) : (s.setRw r f).posted = s.posted := rfl
@[simp] theorem State.setRw_reply (s : State) (r : Nat) (f : Row → Row) : (s.setRw r f).reply = s.reply := rfl
@[simp] theorem State.setRw_early (s : State) (r : Nat) (f : Row → Row) : (s.setRw r f).early = s.early := rfl
@[simp] theorem State.setRw_reposts (s : State) (r : Nat) (f : Row → Row) : (s.setRw r f).reposts = s.reposts := rfl
@[simp] theorem State.setRw_linkFails (s : State) (r : Nat) (f : Row → Row) : (s.setRw r f).linkFails = s.linkFails := rfl
@[simp] theorem State.setRw_threads (s : State) (r : Nat) (f : Row → Row) : (s.setRw r f).threads = s.threads := rfl
@[simp] theorem State.setRw_convoys (s : State) (r : Nat) (f : Row → Row) : (s.setRw r f).convoys = s.convoys := rfl
@[simp] theorem State.setRw_parts (s : State) (r : Nat) (f : Row → Row) : (s.setRw r f).parts = s.parts := rfl
@[simp] theorem State.setRw_crews (s : State) (r : Nat) (f : Row → Row) : (s.setRw r f).crews = s.crews := rfl
@[simp] theorem State.setRw_launches (s : State) (r : Nat) (f : Row → Row) : (s.setRw r f).launches = s.launches := rfl
@[simp] theorem State.setRw_ctxs (s : State) (r : Nat) (f : Row → Row) : (s.setRw r f).ctxs = s.ctxs := rfl
@[simp] theorem State.setRw_cores (s : State) (r : Nat) (f : Row → Row) : (s.setRw r f).cores = s.cores := rfl
@[simp] theorem State.setRw_clusters (s : State) (r : Nat) (f : Row → Row) : (s.setRw r f).clusters = s.clusters := rfl
@[simp] theorem State.setRw_ops (s : State) (r : Nat) (f : Row → Row) : (s.setRw r f).ops = s.ops := rfl
@[simp] theorem State.setRw_regs (s : State) (r : Nat) (f : Row → Row) : (s.setRw r f).regs = s.regs := rfl
@[simp] theorem State.setRw_counters (s : State) (r : Nat) (f : Row → Row) : (s.setRw r f).counters = s.counters := rfl
@[simp] theorem State.setRw_cycle (s : State) (r : Nat) (f : Row → Row) : (s.setRw r f).cycle = s.cycle := rfl
@[simp] theorem State.setRw_ns (s : State) (r : Nat) (f : Row → Row) : (s.setRw r f).ns = s.ns := rfl
@[simp] theorem State.setRw_agenda (s : State) (r : Nat) (f : Row → Row) : (s.setRw r f).agenda = s.agenda := rfl

@[simp] theorem State.setReg_mem (s : State) (i : Nat) (v : DWord) : (s.setReg i v).mem = s.mem := rfl
@[simp] theorem State.setReg_poison (s : State) (i : Nat) (v : DWord) : (s.setReg i v).poison = s.poison := rfl
@[simp] theorem State.setReg_scrPoison (s : State) (i : Nat) (v : DWord) : (s.setReg i v).scrPoison = s.scrPoison := rfl
@[simp] theorem State.setReg_posted (s : State) (i : Nat) (v : DWord) : (s.setReg i v).posted = s.posted := rfl
@[simp] theorem State.setReg_reply (s : State) (i : Nat) (v : DWord) : (s.setReg i v).reply = s.reply := rfl
@[simp] theorem State.setReg_early (s : State) (i : Nat) (v : DWord) : (s.setReg i v).early = s.early := rfl
@[simp] theorem State.setReg_reposts (s : State) (i : Nat) (v : DWord) : (s.setReg i v).reposts = s.reposts := rfl
@[simp] theorem State.setReg_linkFails (s : State) (i : Nat) (v : DWord) : (s.setReg i v).linkFails = s.linkFails := rfl
@[simp] theorem State.setReg_threads (s : State) (i : Nat) (v : DWord) : (s.setReg i v).threads = s.threads := rfl
@[simp] theorem State.setReg_convoys (s : State) (i : Nat) (v : DWord) : (s.setReg i v).convoys = s.convoys := rfl
@[simp] theorem State.setReg_parts (s : State) (i : Nat) (v : DWord) : (s.setReg i v).parts = s.parts := rfl
@[simp] theorem State.setReg_rows (s : State) (i : Nat) (v : DWord) : (s.setReg i v).rows = s.rows := rfl
@[simp] theorem State.setReg_crews (s : State) (i : Nat) (v : DWord) : (s.setReg i v).crews = s.crews := rfl
@[simp] theorem State.setReg_launches (s : State) (i : Nat) (v : DWord) : (s.setReg i v).launches = s.launches := rfl
@[simp] theorem State.setReg_ctxs (s : State) (i : Nat) (v : DWord) : (s.setReg i v).ctxs = s.ctxs := rfl
@[simp] theorem State.setReg_cores (s : State) (i : Nat) (v : DWord) : (s.setReg i v).cores = s.cores := rfl
@[simp] theorem State.setReg_clusters (s : State) (i : Nat) (v : DWord) : (s.setReg i v).clusters = s.clusters := rfl
@[simp] theorem State.setReg_ops (s : State) (i : Nat) (v : DWord) : (s.setReg i v).ops = s.ops := rfl
@[simp] theorem State.setReg_counters (s : State) (i : Nat) (v : DWord) : (s.setReg i v).counters = s.counters := rfl
@[simp] theorem State.setReg_cycle (s : State) (i : Nat) (v : DWord) : (s.setReg i v).cycle = s.cycle := rfl
@[simp] theorem State.setReg_ns (s : State) (i : Nat) (v : DWord) : (s.setReg i v).ns = s.ns := rfl
@[simp] theorem State.setReg_agenda (s : State) (i : Nat) (v : DWord) : (s.setReg i v).agenda = s.agenda := rfl

@[simp] theorem State.count_mem (s : State) (c n : Nat) : (s.count c n).mem = s.mem := rfl
@[simp] theorem State.count_poison (s : State) (c n : Nat) : (s.count c n).poison = s.poison := rfl
@[simp] theorem State.count_scrPoison (s : State) (c n : Nat) : (s.count c n).scrPoison = s.scrPoison := rfl
@[simp] theorem State.count_posted (s : State) (c n : Nat) : (s.count c n).posted = s.posted := rfl
@[simp] theorem State.count_reply (s : State) (c n : Nat) : (s.count c n).reply = s.reply := rfl
@[simp] theorem State.count_early (s : State) (c n : Nat) : (s.count c n).early = s.early := rfl
@[simp] theorem State.count_reposts (s : State) (c n : Nat) : (s.count c n).reposts = s.reposts := rfl
@[simp] theorem State.count_linkFails (s : State) (c n : Nat) : (s.count c n).linkFails = s.linkFails := rfl
@[simp] theorem State.count_threads (s : State) (c n : Nat) : (s.count c n).threads = s.threads := rfl
@[simp] theorem State.count_convoys (s : State) (c n : Nat) : (s.count c n).convoys = s.convoys := rfl
@[simp] theorem State.count_parts (s : State) (c n : Nat) : (s.count c n).parts = s.parts := rfl
@[simp] theorem State.count_rows (s : State) (c n : Nat) : (s.count c n).rows = s.rows := rfl
@[simp] theorem State.count_crews (s : State) (c n : Nat) : (s.count c n).crews = s.crews := rfl
@[simp] theorem State.count_launches (s : State) (c n : Nat) : (s.count c n).launches = s.launches := rfl
@[simp] theorem State.count_ctxs (s : State) (c n : Nat) : (s.count c n).ctxs = s.ctxs := rfl
@[simp] theorem State.count_cores (s : State) (c n : Nat) : (s.count c n).cores = s.cores := rfl
@[simp] theorem State.count_clusters (s : State) (c n : Nat) : (s.count c n).clusters = s.clusters := rfl
@[simp] theorem State.count_ops (s : State) (c n : Nat) : (s.count c n).ops = s.ops := rfl
@[simp] theorem State.count_regs (s : State) (c n : Nat) : (s.count c n).regs = s.regs := rfl
@[simp] theorem State.count_cycle (s : State) (c n : Nat) : (s.count c n).cycle = s.cycle := rfl
@[simp] theorem State.count_ns (s : State) (c n : Nat) : (s.count c n).ns = s.ns := rfl
@[simp] theorem State.count_agenda (s : State) (c n : Nat) : (s.count c n).agenda = s.agenda := rfl

@[simp] theorem State.setFront_mem (s : State) (f : Convoy → Convoy) : (s.setFront f).mem = s.mem := rfl
@[simp] theorem State.setFront_poison (s : State) (f : Convoy → Convoy) : (s.setFront f).poison = s.poison := rfl
@[simp] theorem State.setFront_scrPoison (s : State) (f : Convoy → Convoy) : (s.setFront f).scrPoison = s.scrPoison := rfl
@[simp] theorem State.setFront_posted (s : State) (f : Convoy → Convoy) : (s.setFront f).posted = s.posted := rfl
@[simp] theorem State.setFront_reply (s : State) (f : Convoy → Convoy) : (s.setFront f).reply = s.reply := rfl
@[simp] theorem State.setFront_early (s : State) (f : Convoy → Convoy) : (s.setFront f).early = s.early := rfl
@[simp] theorem State.setFront_reposts (s : State) (f : Convoy → Convoy) : (s.setFront f).reposts = s.reposts := rfl
@[simp] theorem State.setFront_linkFails (s : State) (f : Convoy → Convoy) : (s.setFront f).linkFails = s.linkFails := rfl
@[simp] theorem State.setFront_threads (s : State) (f : Convoy → Convoy) : (s.setFront f).threads = s.threads := rfl
@[simp] theorem State.setFront_parts (s : State) (f : Convoy → Convoy) : (s.setFront f).parts = s.parts := rfl
@[simp] theorem State.setFront_rows (s : State) (f : Convoy → Convoy) : (s.setFront f).rows = s.rows := rfl
@[simp] theorem State.setFront_crews (s : State) (f : Convoy → Convoy) : (s.setFront f).crews = s.crews := rfl
@[simp] theorem State.setFront_launches (s : State) (f : Convoy → Convoy) : (s.setFront f).launches = s.launches := rfl
@[simp] theorem State.setFront_ctxs (s : State) (f : Convoy → Convoy) : (s.setFront f).ctxs = s.ctxs := rfl
@[simp] theorem State.setFront_cores (s : State) (f : Convoy → Convoy) : (s.setFront f).cores = s.cores := rfl
@[simp] theorem State.setFront_clusters (s : State) (f : Convoy → Convoy) : (s.setFront f).clusters = s.clusters := rfl
@[simp] theorem State.setFront_ops (s : State) (f : Convoy → Convoy) : (s.setFront f).ops = s.ops := rfl
@[simp] theorem State.setFront_regs (s : State) (f : Convoy → Convoy) : (s.setFront f).regs = s.regs := rfl
@[simp] theorem State.setFront_counters (s : State) (f : Convoy → Convoy) : (s.setFront f).counters = s.counters := rfl
@[simp] theorem State.setFront_cycle (s : State) (f : Convoy → Convoy) : (s.setFront f).cycle = s.cycle := rfl
@[simp] theorem State.setFront_ns (s : State) (f : Convoy → Convoy) : (s.setFront f).ns = s.ns := rfl
@[simp] theorem State.setFront_agenda (s : State) (f : Convoy → Convoy) : (s.setFront f).agenda = s.agenda := rfl

@[simp] theorem State.leaveConvoy_mem (s : State) (k : Nat) : (s.leaveConvoy k).mem = s.mem := rfl
@[simp] theorem State.leaveConvoy_poison (s : State) (k : Nat) : (s.leaveConvoy k).poison = s.poison := rfl
@[simp] theorem State.leaveConvoy_scrPoison (s : State) (k : Nat) : (s.leaveConvoy k).scrPoison = s.scrPoison := rfl
@[simp] theorem State.leaveConvoy_posted (s : State) (k : Nat) : (s.leaveConvoy k).posted = s.posted := rfl
@[simp] theorem State.leaveConvoy_reply (s : State) (k : Nat) : (s.leaveConvoy k).reply = s.reply := rfl
@[simp] theorem State.leaveConvoy_early (s : State) (k : Nat) : (s.leaveConvoy k).early = s.early := rfl
@[simp] theorem State.leaveConvoy_reposts (s : State) (k : Nat) : (s.leaveConvoy k).reposts = s.reposts := rfl
@[simp] theorem State.leaveConvoy_linkFails (s : State) (k : Nat) : (s.leaveConvoy k).linkFails = s.linkFails := rfl
@[simp] theorem State.leaveConvoy_threads (s : State) (k : Nat) : (s.leaveConvoy k).threads = s.threads := rfl
@[simp] theorem State.leaveConvoy_parts (s : State) (k : Nat) : (s.leaveConvoy k).parts = s.parts := rfl
@[simp] theorem State.leaveConvoy_rows (s : State) (k : Nat) : (s.leaveConvoy k).rows = s.rows := rfl
@[simp] theorem State.leaveConvoy_crews (s : State) (k : Nat) : (s.leaveConvoy k).crews = s.crews := rfl
@[simp] theorem State.leaveConvoy_launches (s : State) (k : Nat) : (s.leaveConvoy k).launches = s.launches := rfl
@[simp] theorem State.leaveConvoy_ctxs (s : State) (k : Nat) : (s.leaveConvoy k).ctxs = s.ctxs := rfl
@[simp] theorem State.leaveConvoy_cores (s : State) (k : Nat) : (s.leaveConvoy k).cores = s.cores := rfl
@[simp] theorem State.leaveConvoy_clusters (s : State) (k : Nat) : (s.leaveConvoy k).clusters = s.clusters := rfl
@[simp] theorem State.leaveConvoy_ops (s : State) (k : Nat) : (s.leaveConvoy k).ops = s.ops := rfl
@[simp] theorem State.leaveConvoy_regs (s : State) (k : Nat) : (s.leaveConvoy k).regs = s.regs := rfl
@[simp] theorem State.leaveConvoy_counters (s : State) (k : Nat) : (s.leaveConvoy k).counters = s.counters := rfl
@[simp] theorem State.leaveConvoy_cycle (s : State) (k : Nat) : (s.leaveConvoy k).cycle = s.cycle := rfl
@[simp] theorem State.leaveConvoy_ns (s : State) (k : Nat) : (s.leaveConvoy k).ns = s.ns := rfl
@[simp] theorem State.leaveConvoy_agenda (s : State) (k : Nat) : (s.leaveConvoy k).agenda = s.agenda := rfl

@[simp] theorem State.bump_mem (s : State) : (s.bump).mem = s.mem := rfl
@[simp] theorem State.bump_poison (s : State) : (s.bump).poison = s.poison := rfl
@[simp] theorem State.bump_scrPoison (s : State) : (s.bump).scrPoison = s.scrPoison := rfl
@[simp] theorem State.bump_posted (s : State) : (s.bump).posted = s.posted := rfl
@[simp] theorem State.bump_reply (s : State) : (s.bump).reply = s.reply := rfl
@[simp] theorem State.bump_early (s : State) : (s.bump).early = s.early := rfl
@[simp] theorem State.bump_reposts (s : State) : (s.bump).reposts = s.reposts := rfl
@[simp] theorem State.bump_linkFails (s : State) : (s.bump).linkFails = s.linkFails := rfl
@[simp] theorem State.bump_threads (s : State) : (s.bump).threads = s.threads := rfl
@[simp] theorem State.bump_convoys (s : State) : (s.bump).convoys = s.convoys := rfl
@[simp] theorem State.bump_parts (s : State) : (s.bump).parts = s.parts := rfl
@[simp] theorem State.bump_rows (s : State) : (s.bump).rows = s.rows := rfl
@[simp] theorem State.bump_crews (s : State) : (s.bump).crews = s.crews := rfl
@[simp] theorem State.bump_launches (s : State) : (s.bump).launches = s.launches := rfl
@[simp] theorem State.bump_ctxs (s : State) : (s.bump).ctxs = s.ctxs := rfl
@[simp] theorem State.bump_cores (s : State) : (s.bump).cores = s.cores := rfl
@[simp] theorem State.bump_clusters (s : State) : (s.bump).clusters = s.clusters := rfl
@[simp] theorem State.bump_ops (s : State) : (s.bump).ops = s.ops := rfl
@[simp] theorem State.bump_regs (s : State) : (s.bump).regs = s.regs := rfl
@[simp] theorem State.bump_counters (s : State) : (s.bump).counters = s.counters := rfl
@[simp] theorem State.bump_cycle (s : State) : (s.bump).cycle = s.cycle := rfl
@[simp] theorem State.bump_ns (s : State) : (s.bump).ns = s.ns := rfl
@[simp] theorem State.bump_agenda (s : State) : (s.bump).agenda = s.agenda := rfl

theorem State.th_setTh (s : State) (k j : Nat) (f : Thread → Thread) :
    (s.setTh k f).th j = if j = k ∧ (Tab.find j s.threads).isSome then f (s.th j) else s.th j := by
  simp [State.th, State.setTh, Tab.getD_modify]

theorem State.th_setTh_self {s : State} {k : Nat} (f : Thread → Thread) (h : (Tab.find k s.threads).isSome) :
    (s.setTh k f).th k = f (s.th k) := by simp [State.th_setTh, h]

theorem State.th_setTh_ne {s : State} {k j : Nat} (f : Thread → Thread) (h : j ≠ k) : (s.setTh k f).th j = s.th j := by
  simp [State.th_setTh, h]

@[simp] theorem State.find_setTh_isSome (s : State) (k j : Nat) (f : Thread → Thread) :
    (Tab.find j (s.setTh k f).threads).isSome = (Tab.find j s.threads).isSome := by
  simp only [State.setTh, Tab.find_modify]
  split <;> simp

theorem State.rw_setRw (s : State) (r q : Nat) (f : Row → Row) :
    (s.setRw r f).rw q = if q = r then f (s.rw r) else s.rw q := by
  simp [State.rw, State.setRw, Tab.getD_put]

theorem State.pt_setPt (s : State) (p q : Nat) (f : Part → Part) :
    (s.setPt p f).pt q = if q = p then f (s.pt p) else s.pt q := by
  simp [State.pt, State.setPt, Tab.getD_put]

theorem State.co_setCo (s : State) (c q : Nat) (f : Core → Core) :
    (s.setCo c f).co q = if q = c then f (s.co c) else s.co q := by
  simp [State.co, State.setCo, Tab.getD_put]

theorem State.cl_setCl (s : State) (c q : Nat) (f : Cluster → Cluster) :
    (s.setCl c f).cl q = if q = c then f (s.cl c) else s.cl q := by
  simp [State.cl, State.setCl, Tab.getD_put]

theorem State.reg_setReg (s : State) (i j : Nat) (v : DWord) : (s.setReg i v).reg j = if j = i then v else s.reg j := by
  by_cases h : j = i
  · subst h; simp [State.reg, State.setReg, Tab.getD_put]
  · simp [State.reg, State.setReg, Tab.getD_put, h]

theorem State.cr_setCr (s : State) (c q : Nat) (f : Crew → Crew) :
    (s.setCr c f).cr q = if q = c ∧ (Tab.find q s.crews).isSome then f (s.cr q) else s.cr q := by
  simp [State.cr, State.setCr, Tab.getD_modify]

theorem State.la_setLa (s : State) (l q : Nat) (f : Launch → Launch) :
    (s.setLa l f).la q = if q = l ∧ (Tab.find q s.launches).isSome then f (s.la q) else s.la q := by
  simp [State.la, State.setLa, Tab.getD_modify]

theorem State.cx_setCx (s : State) (c q : Nat) (f : Ctx → Ctx) :
    (s.setCx c f).cx q = if q = c ∧ (Tab.find q s.ctxs).isSome then f (s.cx q) else s.cx q := by
  simp [State.cx, State.setCx, Tab.getD_modify]

end Sys2Proof.Machine
end

