-- ==== Sys2Proof/Laws/Issue.lean ====
section
/-! SUPPORT. Issuing one word for one thread: what the issue logic leaves as it is, the state in which the effect is
applied, and the state in which the thread has moved on. -/

namespace Sys2Proof.Machine

/-! ### The pool's notes -/

/-- No row holds a reserve entry. -/
def State.unreserved (s : State) : Prop := ∀ p ∈ s.rows, ∀ q ∈ p.2.regs, q.2.reserve = false

theorem Ready.unreserved {s i h k c} (r : Ready s i h k c) : s.unreserved := by
  intro p hp q hq
  have := List.all_eq_true.1 r.reserve p hp
  simpa using List.all_eq_true.1 this q hq

theorem State.unreserved_rw {s : State} (hs : s.unreserved) (r : Nat) : ∀ q ∈ (s.rw r).regs, q.2.reserve = false := by
  intro q hq
  unfold State.rw Tab.getD at hq
  cases hf : Tab.find r s.rows with
  | none => simp [hf] at hq
  | some x => exact hs _ (Tab.mem_of_find hf) q (by simpa [hf] using hq)

theorem State.unreserved_setRw {s : State} (hs : s.unreserved) (r : Nat) (f : Row → Row)
    (hf : ∀ q ∈ (f (s.rw r)).regs, q.2.reserve = false) : (s.setRw r f).unreserved := by
  intro p hp q hq
  rcases Tab.mem_put hp with h | h
  · subst h; exact hf q hq
  · exact hs p h q hq

theorem State.settleReserve_of_unreserved {s : State} (hs : s.unreserved) (p : Nat) : s.settleReserve p = s := by
  have : ((s.partRows p).flatMap fun (r, x) => (x.regs.filter fun (_, y) => y.reserve).map fun (g, _) => (r, g)) = [] := by
    simp only [List.flatMap_eq_nil_iff, List.map_eq_nil_iff, List.filter_eq_nil_iff]
    intro x hx q hq
    simp [hs x ((List.mem_filter.1 hx).1) q hq]
  simp only [State.settleReserve, this, List.foldl_nil]

/-- A state with other counters, parts and rows. -/
def State.noted (s : State) (C : List (Nat × Nat)) (P : List (Nat × Part)) (R : List (Nat × Row)) : State :=
  { s with counters := C, parts := P, rows := R }

/-- A row-register marked used. -/
def RowReg.at_ (n : Nat) (x : RowReg) : RowReg := { x with used := n }

/-- A row in which some registers have been marked used. -/
inductive Row.Marked : Row → Row → Prop
  | refl (x : Row) : Row.Marked x x
  | step {x y : Row} (g n : Nat) (h : Row.Marked x y) : Row.Marked x { y with regs := Tab.modify g (RowReg.at_ n) y.regs }

theorem Row.Marked.entries {x y : Row} (h : Row.Marked x y) : y.entries = x.entries := by
  induction h with
  | refl => rfl
  | @step y g n h ih =>
      rw [← ih]
      simp only [Row.entries]
      generalize y.regs = l
      induction l with
      | nil => rfl
      | cons p t iht =>
          obtain ⟨a, b⟩ := p
          simp only [Tab.modify]
          split
          · simp only [List.filter_cons]
            have : ((b.at_ n).entry && !(b.at_ n).reserve) = (b.entry && !b.reserve) := rfl
            simp only [this]; split <;> simp
          · simp only [List.filter_cons]; split <;> simp [iht]

/-- The registers of a marked row are those of the row, up to their times of last use. -/
theorem Row.Marked.find {x y : Row} (h : Row.Marked x y) (g : Nat) :
    (Tab.find g y.regs).map (RowReg.at_ 0) = (Tab.find g x.regs).map (RowReg.at_ 0) := by
  induction h with
  | refl => rfl
  | @step y a n h ih =>
      rw [← ih]
      simp only [Tab.find_modify]
      split
      · cases Tab.find g y.regs <;> rfl
      · rfl

theorem Row.Marked.of_find {α : Type} {x y : Row} (h : Row.Marked x y) (g : Nat) (f : RowReg → α)
    (hf : ∀ z n, f (RowReg.at_ n z) = f z) : (Tab.find g y.regs).map f = (Tab.find g x.regs).map f := by
  have := congrArg (Option.map f) (h.find g)
  simpa [Option.map_map, Function.comp_def, hf] using this

theorem Row.Marked.unreserved {x y : Row} (h : Row.Marked x y) (hx : ∀ q ∈ x.regs, q.2.reserve = false) :
    ∀ q ∈ y.regs, q.2.reserve = false := by
  induction h with
  | refl => exact hx
  | @step y a n h ih =>
      intro q hq
      rcases Tab.mem_modify hq with h | ⟨b, hb, h⟩
      · exact ih q h
      · subst h; exact ih (a, b) hb

/-- A state in which some registers of the row `r` have been marked used, and no other row touched. -/
structure Marks (s t : State) (r : Nat) : Prop where
  row : Row.Marked (s.rw r) (t.rw r)
  beside : (t.rows.filter fun e => e.1 != r) = s.rows.filter fun e => e.1 != r

/-- What noting a use leaves: only rows are touched, and only the times of last use. -/
theorem State.touch_noted (s : State) (k : Nat) (i : Instr)
    (hl : ((s.vReads k i).all fun g => match s.rreg (rowKey k) g with
      | some x => x.form != .spilled
      | none => true) = true) (hu : s.unreserved) :
    ∃ R, s.touch k i = { s with rows := R } ∧ Marks s { s with rows := R } (rowKey k)
      ∧ State.unreserved { s with rows := R } := by
  unfold State.touch
  generalize hg : s.vReads k i = gs at hl
  clear hg
  -- the state so far, with the same forms
  suffices H : ∀ (gs : List Nat) (u : State) (R : List (Nat × Row)), u = { s with rows := R } →
      Marks s u (rowKey k) → u.unreserved →
      (gs.all fun g => match s.rreg (rowKey k) g with
        | some x => x.form != .spilled
        | none => true) = true →
      ∃ R', gs.foldl (fun s g =>
        let s := s.reload (rowKey k) g
        s.setRw (rowKey k) fun x => { x with regs := Tab.modify g (fun y => { y with used := s.cycle }) x.regs }) u
          = { s with rows := R' } ∧ Marks s { s with rows := R' } (rowKey k)
          ∧ State.unreserved { s with rows := R' } by
    exact H gs s s.rows rfl ⟨.refl _, rfl⟩ hu hl
  intro gs
  induction gs with
  | nil => intro u R hu hm hr _; exact ⟨R, by simpa using hu, by rw [← hu]; exact hm, by rw [← hu]; exact hr⟩
  | cons g t ih =>
      intro u R hu hm hr ha
      simp only [List.all_cons, Bool.and_eq_true] at ha
      have hform : (u.rreg (rowKey k) g).map (·.form) = (s.rreg (rowKey k) g).map (·.form) := hm.row.of_find g _ fun _ _ => rfl
      have hre : u.reload (rowKey k) g = u := by
        unfold State.reload
        cases hx : u.rreg (rowKey k) g with
        | none => rfl
        | some x =>
            have : x.form ≠ .spilled := by
              cases hy : s.rreg (rowKey k) g with
              | none => simp [hx, hy] at hform
              | some y =>
                  simp only [hx, hy, Option.map_some, Option.some.injEq] at hform
                  rw [hform]; simpa [hy] using ha.1
            simp [this]
      simp only [List.foldl_cons, hre]
      refine ih _ (u.setRw (rowKey k) fun x => { x with regs := Tab.modify g (fun y => { y with used := u.cycle }) x.regs }).rows
        ?_ ?_ ?_ ha.2
      · subst hu; rfl
      · refine ⟨?_, ?_⟩
        · rw [State.rw_setRw]; simp only [if_true]; exact .step g u.cycle hm.row
        · exact (Tab.filter_put_ne _ _ _).trans hm.beside
      · refine State.unreserved_setRw hr _ _ ?_
        exact (Row.Marked.step g u.cycle (.refl _)).unreserved (State.unreserved_rw hr _)

/-- The state as a word begins for a thread is the state with other notes; the thread's row holds the same registers. -/
theorem Ready.begun {s i h k c} (r : Ready s i h k c) :
    ∃ C P R, s.begun c k i = s.noted C P R ∧ Marks s (s.noted C P R) (rowKey k)
      ∧ (s.noted C P R).unreserved := by
  obtain ⟨R, h1, h2, h3⟩ := State.touch_noted ((s.count (c.part / 4) 4).keep c.part [k] i) k i r.loaded r.unreserved
  exact ⟨_, _, R, h1, ⟨h2.row, h2.beside⟩, h3⟩

theorem Ready.begun_faults {s i h k c} (r : Ready s i h k c) : (s.begun c k i).regenFault k i = none := by
  obtain ⟨C, P, R, hn, hm, -⟩ := r.begun
  rw [hn]
  have := r.faults
  simp only [State.regenFault, List.findSome?_eq_none_iff] at this ⊢
  intro g hg
  have h1 := this g hg
  have h2 : ((s.noted C P R).rreg (rowKey k) g).map (·.faults) = (s.rreg (rowKey k) g).map (·.faults) :=
    hm.row.of_find g _ fun _ _ => rfl
  cases hx : (s.noted C P R).rreg (rowKey k) g with
  | none => rfl
  | some x =>
      cases hy : s.rreg (rowKey k) g with
      | none => simp [hx, hy] at h2
      | some y =>
          simp only [hx, hy, Option.map_some, Option.some.injEq] at h2
          simp only [hy, Option.map_eq_none_iff] at h1
          simp only [Option.map_eq_none_iff, h2, h1]

theorem Marks.readsBad {s : State} {C P R} {k : Nat} (hm : Marks s (s.noted C P R) (rowKey k)) (i : Instr) :
    (s.noted C P R).readsBad k i = s.readsBad k i := by
  have hv : (s.noted C P R).vReads k i = s.vReads k i := rfl
  unfold State.readsBad
  rw [hv]
  congr 1
  funext g
  have h : ((s.noted C P R).rreg (rowKey k) g).map (·.bad) = (s.rreg (rowKey k) g).map (·.bad) := hm.row.of_find g _ fun _ _ => rfl
  cases hx : (s.noted C P R).rreg (rowKey k) g <;> cases hy : s.rreg (rowKey k) g <;> simp_all

theorem Ready.begun_sound {s i h k c} (r : Ready s i h k c) : (s.begun c k i).readsBad k i = false := by
  obtain ⟨C, P, R, hn, hm, -⟩ := r.begun
  rw [hn, hm.readsBad]; exact r.sound

theorem Ready.present {s i h k c} (r : Ready s i h k c) : (Tab.find k s.threads).isSome := by
  have := r.live
  unfold State.live State.th Tab.getD at this
  cases hf : Tab.find k s.threads with
  | none => simp [hf] at this
  | some _ => rfl

theorem Ready.actors {s i h k c} (r : Ready s i h k c) : s.actors = [k] := by
  have hi : (s.th k).idles = false := by
    have := r.guard
    unfold State.guard at this
    simp only [Bool.and_eq_true, Bool.not_eq_true'] at this
    exact this.1
  simp [State.actors, r.front, r.alone, r.here, hi]

/-- A word that is ready issues, and acts on the state as it began. -/
theorem Ready.issueEach {s i h k c} (r : Ready s i h k c) (block : State → Nat → Bool) (hb : block s k = false)
    (eff : State → Nat → Eff) :
    s.issueEach i block eff =
      (State.applyEff k h.h.fin (eff (s.begun c k i) k)).finishIssue c.part c.lane h.h.yld := by
  have hfree : s.holdsBack c i h block k = false := by
    have := r.free
    simp only [State.holdsBack, r.unheld, noBlock, r.guard, Bool.true_and, Bool.or_eq_false_iff] at this ⊢
    exact ⟨this.1, this.2.1, hb⟩
  obtain ⟨C, P, R, hn, -, -⟩ := r.begun
  have hlive : (s.begun c k i).live k = true := by rw [hn]; exact r.live
  have hfront : (s.begun c k i).front = some c := by rw [hn]; exact r.front
  have hguard : (s.begun c k i).guard k h.g = true := by rw [hn]; exact r.guard
  have hlegal : (s.begun c k i).wordFault c i h k = none := by rw [hn]; exact r.legal
  unfold State.issueEach State.issueWith
  simp only [r.front, r.head, r.actors, List.isEmpty_cons, Bool.false_eq_true, if_false, List.filter_cons, r.legal,
    Option.isNone_none, if_true, List.filter_nil, hfree, r.rgu, Option.isSome_none, List.isEmpty_nil, Bool.not_true,
    r.guard, List.findSome?_cons, r.values, Option.map_none, List.findSome?_nil, List.any_cons, r.unheld, List.any_nil,
    Bool.or_self, List.foldl_cons, List.foldl_nil, List.filterMap_cons, List.filterMap_nil]
  rw [show ((s.count (c.part / 4) 4).keep c.part [k] i).touch k i = s.begun c k i from rfl]
  simp [hlegal, r.begun_faults, r.begun_sound, hlive, hfront, r.alone, hguard]

/-! ### The end of an issue -/

@[simp] theorem Thread.regs_arrive (t : Thread) (src : DWord) (y : Bool) (n : Nat) : (t.arrive src y n).regs = t.regs := rfl
@[simp] theorem Thread.flow_arrive (t : Thread) (src : DWord) (y : Bool) (n : Nat) : (t.arrive src y n).flow = t.flow := rfl

/-- What ends an issue of a convoy of one thread touches its place in the program and the issue logic, no more. -/
theorem State.finishIssue_alone {u : State} (hu : u.unreserved) {c : Convoy} {k : Nat} (hf : u.front = some c)
    (ha : c.mem = [k]) (y : Bool) :
    ((u.finishIssue c.part c.lane y).th k).regs = (u.th k).regs ∧ (∀ j, j ≠ k → (u.finishIssue c.part c.lane y).th j = u.th j)
      ∧ (u.finishIssue c.part c.lane y).world = u.world ∧ ((u.finishIssue c.part c.lane y).th k).flow = (u.th k).flow := by
  have hs : ∀ f, (u.setPt c.part f).settleReserve c.part = u.setPt c.part f :=
    fun f => State.settleReserve_of_unreserved (s := u.setPt c.part f) hu c.part
  have key : ∀ (w : State) (g : Thread → Thread), (∀ t, (g t).regs = t.regs) → (∀ t, (g t).flow = t.flow) →
      (∀ j, w.th j = u.th j) → w.world = u.world →
      ((w.setTh k g).th k).regs = (u.th k).regs ∧ (∀ j, j ≠ k → (w.setTh k g).th j = u.th j)
        ∧ (w.setTh k g).world = u.world ∧ ((w.setTh k g).th k).flow = (u.th k).flow := by
    intro w g h1 h2 h3 h4
    refine ⟨?_, fun j hj => by rw [State.th_setTh_ne _ hj, h3], h4, ?_⟩
    · rw [State.th_setTh]; split
      · rw [h1, h3]
      · rw [h3]
    · rw [State.th_setTh]; split
      · rw [h2, h3]
      · rw [h3]
  unfold State.finishIssue
  simp only [hs]
  rw [show (u.setPt c.part fun p => { p with busy := [], ending := [] }).front = some c from hf]
  simp only [Convoy.isOf, beq_self_eq_true, Bool.and_self, Bool.not_true, Bool.false_eq_true, if_false, ha, List.any_cons, List.any_nil,
    Bool.or_false, List.foldl_cons, List.foldl_nil]
  split
  · exact ⟨rfl, fun _ _ => rfl, rfl, rfl⟩
  · split
    · split
      · exact key (u.setPt c.part fun p => { p with busy := [], ending := [] }) _ (fun _ => rfl) (fun _ => rfl) (fun _ => rfl) rfl
      · exact key (u.setPt c.part fun p => { p with busy := [], ending := [] }) _ (fun _ => rfl) (fun _ => rfl) (fun _ => rfl) rfl
    · exact ⟨rfl, fun _ _ => rfl, rfl, rfl⟩

/-! ### Moving on -/

theorem Thread.regs_pass (t : Thread) (lvl : Nat) (pc : DWord) (fin : Bool) : (t.pass lvl pc fin).1.regs = t.regs := by
  unfold Thread.pass
  dsimp only
  split
  · split <;> rfl
  · rfl

theorem Thread.regs_sliceStep (t : Thread) (now : Nat) : (t.sliceStep now).regs = t.regs := by
  unfold Thread.sliceStep
  split
  · rfl
  · split <;> rfl

/-- Completing an instruction writes no register of the thread. -/
@[simp] theorem Thread.regs_complete (t : Thread) (now : Nat) (fin : Bool) : (t.complete now fin).regs = t.regs := by
  have h (t : Thread) (p : DWord) : ({ t with pc := p } : Thread).regs = t.regs := rfl
  unfold Thread.complete
  dsimp only
  split
  · split
    · rfl
    · rw [h, Thread.regs_pass]; rfl
  · split
    · show (({ t with stalled := false, wait := .none } : Thread).sliceStep now).regs = _
      rw [Thread.regs_sliceStep]; rfl
    · rw [h, Thread.regs_pass, Thread.regs_sliceStep]; rfl

theorem Thread.sliceStep_flow (t : Thread) (now : Nat) : (t.sliceStep now).flow = t.flow := by
  unfold Thread.sliceStep
  split
  · rfl
  · split <;> rfl

theorem Thread.flow_pass {t u : Thread} (h : t.flow = u.flow) (lvl : Nat) (pc : DWord) (fin : Bool) :
    ((t.pass lvl pc fin).1.flow, (t.pass lvl pc fin).2) = ((u.pass lvl pc fin).1.flow, (u.pass lvl pc fin).2) := by
  have hl : t.loops = u.loops := congrArg Flow.loops h
  have hs : t.skips = u.skips := congrArg Flow.skips h
  have hp : t.pc = u.pc := congrArg Flow.pc h
  have hr : t.rep = u.rep := congrArg Flow.rep h
  unfold Thread.pass
  simp only [hl, hs]
  split
  · split <;> simp [Thread.flow, hp, hr]
  · simp [Thread.flow, hp, hr]

/-- Where a thread goes depends on its place in the program, its level and the transfer it makes. -/
theorem Thread.flow_complete {t u : Thread} (h : t.flow = u.flow) (hj : t.jump = u.jump) (hl : t.tlvl = u.tlvl) (n m : Nat)
    (fin : Bool) : (t.complete n fin).flow = (u.complete m fin).flow := by
  have ho : t.loops = u.loops := congrArg Flow.loops h
  have hs : t.skips = u.skips := congrArg Flow.skips h
  have hp : t.pc = u.pc := congrArg Flow.pc h
  have hr : t.rep = u.rep := congrArg Flow.rep h
  have key (p : Thread × DWord) : ({ p.1 with pc := p.2 } : Thread).flow = ⟨p.2, p.1.flow.loops, p.1.flow.skips, p.1.flow.rep⟩ := rfl
  have pass {x y : Thread} (hxy : x.flow = y.flow) (lvl : Nat) (pc : DWord) :
      ({ (x.pass lvl pc fin).1 with pc := (x.pass lvl pc fin).2 } : Thread).flow
        = ({ (y.pass lvl pc fin).1 with pc := (y.pass lvl pc fin).2 } : Thread).flow := by
    have := Thread.flow_pass hxy lvl pc fin
    simp only [Prod.mk.injEq] at this
    rw [key, key, this.1, this.2]
  have put {x y : Thread} (hxy : x.flow = y.flow) (a : DWord) (sk : List Skip) :
      ({ x with pc := a, skips := sk } : Thread).flow = ({ y with pc := a, skips := sk } : Thread).flow := by
    have h4 := congrArg Flow.loops hxy
    have h5 := congrArg Flow.rep hxy
    simp only [Thread.flow, Flow.mk.injEq, true_and] at h4 h5 ⊢
    exact ⟨h4, h5⟩
  unfold Thread.complete
  dsimp only
  rw [hr, hj]
  cases hur : u.rep with
  | some r =>
      dsimp only
      split
      · simp [Thread.flow, ho, hs, hp]
      · rw [hl, hp]; exact pass (by simp [Thread.flow, ho, hs]) _ _
  | none =>
      dsimp only
      cases u.jump with
      | some a =>
          dsimp only
          rw [hs, hl]
          refine put ?_ _ _
          rw [Thread.sliceStep_flow, Thread.sliceStep_flow]
          simp [Thread.flow, ho, hp]
      | none =>
          rw [hl, hp]
          refine pass ?_ _ _
          rw [Thread.sliceStep_flow, Thread.sliceStep_flow]; simp [Thread.flow, ho, hs]

/-- A word that completes for its thread in a state that keeps the convoy and the pool. -/
theorem State.went_done {u : State} {c : Convoy} {k : Nat} (hu : u.unreserved) (hf : u.front = some c) (ha : c.mem = [k])
    (hp : (Tab.find k u.threads).isSome) (fin y : Bool) :
    Went u ((State.applyEff k fin (.done u)).finishIssue c.part c.lane y) k fin := by
  obtain ⟨h1, h2, h3, h4⟩ := State.finishIssue_alone (u := u.setTh k fun t => t.complete u.cycle fin) hu hf ha y
  refine ⟨?_, ?_, ?_, ?_⟩
  · refine h1.trans ?_
    rw [State.th_setTh_self _ hp, Thread.regs_complete]
  · refine h4.trans ?_
    rw [State.th_setTh_self _ hp]
  · intro j hj
    exact (h2 j hj).trans (State.th_setTh_ne _ hj)
  · exact h3

/-! ### States that agree for a thread -/

/-- Two states that agree up to the notes of the issue logic and the parts of the thread `k` that only they concern. -/
structure Like (w u : State) (k : Nat) : Prop where
  regs : (w.th k).regs = (u.th k).regs
  flow : (w.th k).flow = (u.th k).flow
  jump : (w.th k).jump = (u.th k).jump
  others : ∀ j, j ≠ k → w.th j = u.th j
  world : w.world = u.world

theorem Like.refl (u : State) (k : Nat) : Like u u k := ⟨rfl, rfl, rfl, fun _ _ => rfl, rfl⟩

theorem Like.trans {a b c : State} {k : Nat} (h : Like a b k) (g : Like b c k) : Like a c k :=
  ⟨h.regs.trans g.regs, h.flow.trans g.flow, h.jump.trans g.jump, fun j hj => (h.others j hj).trans (g.others j hj),
   h.world.trans g.world⟩

theorem Like.noted (s : State) (C P R) (k : Nat) : Like (s.noted C P R) s k := ⟨rfl, rfl, rfl, fun _ _ => rfl, rfl⟩

theorem Went.of_like {w u t : State} {k : Nat} {fin : Bool} (h : Went w t k fin) (l : Like w u k) : Went u t k fin :=
  ⟨h.regs.trans l.regs,
   h.flow.trans (Thread.flow_complete l.flow l.jump (by have := congrArg Thread.tlvl l.regs; exact this) _ _ _),
   fun j hj => (h.others j hj).trans (l.others j hj), h.world.trans l.world⟩

theorem Ready.fin {s i h k c} (r : Ready s i h k c) : endHint i = h.h.fin := by simp [endHint, r.head]

/-- What a meaning leaves for the end of its issue: the convoy in front, the thread in its table, no reserve entry. -/
structure Kept (w : State) (k : Nat) (c : Convoy) : Prop where
  front : w.front = some c
  present : (Tab.find k w.threads).isSome
  unreserved : w.unreserved

/-- A word that is ready, and whose effect is done in a state like `u`, completes with `u`. -/
theorem Ready.does {s i h k c} (r : Ready s i h k c) {block : State → Nat → Bool} {eff : State → Nat → Eff}
    (he : exec i s = .next (s.issueEach i block eff)) (hb : block s k = false) (u : State)
    (hd : ∀ C P R, Kept (s.noted C P R) k c → Marks s (s.noted C P R) (rowKey k) →
      ∃ w, eff (s.noted C P R) k = .done w ∧ Like w u k ∧ Kept w k c) : Completes s i k u := by
  obtain ⟨C, P, R, hn, hm, hu⟩ := r.begun
  obtain ⟨w, h1, h2, h3⟩ := hd C P R ⟨r.front, r.present, hu⟩ hm
  refine ⟨_, he, ?_⟩
  rw [r.issueEach block hb, hn, h1, r.fin]
  exact (State.went_done h3.unreserved h3.front r.alone h3.present _ _).of_like h2

end Sys2Proof.Machine
end

