-- ==== Sys2Proof/Laws/Memory.lean ====
section
/-! SUPPORT. Memory: what a byte reads as after a write, and that every operation over memory keeps its canonical
form. -/

namespace Sys2Proof.Machine

/-! ### The canonical form -/

/-- The form, told of the list as a whole. -/
theorem Memory.wf_iff (m : List Host.Cell) :
    Memory.wf m = true ↔ m.Pairwise (fun x y => x.1 < y.1) ∧ ∀ x ∈ m, x.2 ≠ unwrittenByte := by
  induction m with
  | nil => simp [Memory.wf]
  | cons x t ih =>
      obtain ⟨a, b⟩ := x
      cases t with
      | nil => simp [Memory.wf]
      | cons y t =>
          obtain ⟨a', b'⟩ := y
          simp only [Memory.wf, Bool.and_eq_true, ih, bne_iff_ne, ne_eq, decide_eq_true_eq, List.pairwise_cons, List.mem_cons]
          constructor
          · rintro ⟨⟨hb, ha⟩, ⟨h1, h2⟩, h3⟩
            refine ⟨⟨?_, h1, h2⟩, ?_⟩
            · rintro z (rfl | hz)
              · exact ha
              · exact Nat.lt_trans ha (h1 z hz)
            · rintro z (rfl | hz)
              · exact hb
              · exact h3 z hz
          · rintro ⟨⟨h0, h1, h2⟩, h3⟩
            exact ⟨⟨h3 _ (.inl rfl), h0 _ (.inl rfl)⟩, ⟨h1, h2⟩, fun z hz => h3 z (.inr hz)⟩

theorem Memory.wf_nil : Memory.wf [] = true := rfl

/-- Part of a canonical memory is canonical. -/
theorem Memory.wf_filter {m : List Host.Cell} (p : Host.Cell → Bool) (h : Memory.wf m = true) : Memory.wf (m.filter p) = true := by
  rw [Memory.wf_iff] at h ⊢
  exact ⟨h.1.filter _, fun x hx => h.2 x (List.mem_filter.1 hx).1⟩

theorem pairwise_put (a : Nat) (b : Byte) (m : List Host.Cell) (h : m.Pairwise fun x y => x.1 < y.1) :
    (Tab.put a b m).Pairwise fun x y => x.1 < y.1 := by
  induction m with
  | nil => simp [Tab.put]
  | cons x t ih =>
      obtain ⟨a', b'⟩ := x
      rw [List.pairwise_cons] at h
      simp only [Tab.put]
      split
      · rename_i hlt
        refine List.pairwise_cons.2 ⟨fun z hz => ?_, List.pairwise_cons.2 h⟩
        rcases List.mem_cons.1 hz with rfl | hz
        · exact hlt
        · exact Nat.lt_trans hlt (h.1 z hz)
      · split
        · rename_i _ he
          subst he
          exact List.pairwise_cons.2 h
        · rename_i hn he
          refine List.pairwise_cons.2 ⟨fun z hz => ?_, ih h.2⟩
          rcases Tab.mem_put hz with rfl | hz
          · simp only at hn he ⊢; omega
          · exact h.1 z hz

theorem drop_sublist (a : Nat) (m : List Host.Cell) : (Tab.drop a m).Sublist m := by
  induction m with
  | nil => exact .slnil
  | cons x t ih =>
      obtain ⟨a', b'⟩ := x
      simp only [Tab.drop]
      split
      · exact ih.cons _
      · exact ih.cons_cons _

theorem writeByte_wf {m : List Host.Cell} (a : Nat) (b : Byte) (h : Memory.wf m = true) : Memory.wf (writeByte m a b) = true := by
  rw [Memory.wf_iff] at h ⊢
  unfold writeByte
  split
  · exact ⟨h.1.sublist (drop_sublist a m), fun x hx => h.2 x ((drop_sublist a m).subset hx)⟩
  · rename_i hb
    refine ⟨pairwise_put a b m h.1, fun x hx => ?_⟩
    rcases Tab.mem_put hx with rfl | hx
    · exact hb
    · exact h.2 x hx

theorem writeBytes_wf {m : List Host.Cell} (a : Nat) (bs : List Byte) (h : Memory.wf m = true) : Memory.wf (writeBytes m a bs) = true := by
  induction bs generalizing m a with
  | nil => exact h
  | cons b t ih => exact ih _ (writeByte_wf a b h)

theorem mergeDirty_wf {m : List Host.Cell} (line : Nat) (d : List (Nat × Byte)) (h : Memory.wf m = true) :
    Memory.wf (mergeDirty m line d) = true := by
  unfold mergeDirty
  induction d generalizing m with
  | nil => exact h
  | cons x t ih => exact ih (writeByte_wf _ _ h)

/-! ### Reading after writing -/

/-- A write lands at its address and nowhere else. -/
theorem readByte_writeByte (m : List Host.Cell) (a x : Nat) (b : Byte) :
    readByte (writeByte m a b) x = if x = a then b else readByte m x := by
  unfold readByte writeByte
  split
  · rename_i hb
    rw [Tab.getD, Tab.find_drop]
    split
    · simp [hb]
    · rfl
  · rw [Tab.getD_put]

theorem readByte_writeBytes (m : List Host.Cell) (a x : Nat) (bs : List Byte) :
    readByte (writeBytes m a bs) x = if a ≤ x ∧ x < a + bs.length then bs.getD (x - a) 0 else readByte m x := by
  induction bs generalizing m a with
  | nil =>
      simp only [writeBytes, List.length_nil, Nat.add_zero]
      rw [if_neg (by omega)]
  | cons b t ih =>
      simp only [writeBytes, List.length_cons]
      rw [ih, readByte_writeByte]
      by_cases h : x = a
      · subst h
        rw [if_neg (by omega), if_pos rfl, if_pos (by omega)]
        simp
      · by_cases h1 : a + 1 ≤ x ∧ x < a + 1 + t.length
        · rw [if_pos h1, if_pos (by omega)]
          obtain ⟨n, hn⟩ : ∃ n, x - a = n + 1 := ⟨x - a - 1, by omega⟩
          rw [hn, show x - (a + 1) = n by omega]
          simp
        · rw [if_neg h1, if_neg h, if_neg (by omega)]

/-! ### The operations of the machine that change memory -/

/-- The machine after reset has its memory in canonical form. -/
theorem reset_memOk : State.reset.MemOk := rfl

theorem recall_memOk {s : State} (line : Nat) (h : s.MemOk) : (s.recall line).MemOk := by
  unfold State.recall
  split
  · exact mergeDirty_wf _ _ h
  · exact h

theorem recallOthers_memOk {s : State} (core line : Nat) (h : s.MemOk) : (s.recallOthers core line).MemOk := by
  unfold State.recallOthers
  split
  · split
    · exact h
    · exact recall_memOk _ h
  · exact h

theorem homeWrite_memOk {s : State} (pa : Nat) (bs : List Byte) (h : s.MemOk) : (s.homeWrite pa bs).MemOk :=
  writeBytes_wf _ _ (recall_memOk _ h)

theorem homeWriteAll_memOk {s : State} (pa : Nat) (l : List (Nat × Byte)) (h : s.MemOk) : (s.homeWriteAll pa l).MemOk := by
  induction l generalizing s with
  | nil => exact h
  | cons x t ih => exact ih (homeWrite_memOk _ _ h)

theorem homeStore_memOk {s : State} (pa : Nat) (bs : List Byte) (h : s.MemOk) : (s.homeStore pa bs).MemOk :=
  homeWriteAll_memOk (s := s) pa (numbered bs) h

theorem ownByte_memOk {s : State} (core pa : Nat) (b : Byte) (h : s.MemOk) : (s.ownByte core pa b).MemOk :=
  recallOthers_memOk (s := s) core (lineOf pa) h

theorem ownBytes_memOk {s : State} (core pa : Nat) (l : List (Nat × Byte)) (h : s.MemOk) : (s.ownBytes core pa l).MemOk := by
  induction l generalizing s with
  | nil => exact h
  | cons x t ih => exact ih (ownByte_memOk _ _ _ h)

theorem ownWrite_memOk {s : State} (core pa : Nat) (bs : List Byte) (h : s.MemOk) : (s.ownWrite core pa bs).MemOk :=
  ownBytes_memOk (s := s) core pa (numbered bs) h

theorem cleanLine_memOk {s : State} (core line : Nat) (h : s.MemOk) : (s.cleanLine core line).MemOk := by
  unfold State.cleanLine
  split
  · exact mergeDirty_wf _ _ h
  · exact h

theorem afterReset_memOk {s : State} (caps : Caps) (h : s.MemOk) : (s.afterReset caps).MemOk := Memory.wf_filter _ h

theorem placeWord_memOk {s : State} (w : IWord) (h : s.MemOk) : (s.placeWord w).MemOk := by
  have fold : ∀ (l : List (Nat × Nat)) (m : List Host.Cell), Memory.wf m = true →
      Memory.wf (l.foldl (fun m x => writeBytes m x.1 (leBytes 8 x.2)) m) = true := by
    intro l
    induction l with
    | nil => exact fun _ hm => hm
    | cons x t ih => exact fun _ hm => ih _ (writeBytes_wf _ _ hm)
  unfold State.MemOk State.placeWord
  dsimp only
  exact fold _ _ (writeBytes_wf _ _ h)

/-- What leaves memory as it was keeps its form: a fold of it does. -/
theorem foldl_memOk {α : Type} (f : State → α → State) (hf : ∀ s a, s.MemOk → (f s a).MemOk) (l : List α) {s : State} (h : s.MemOk) :
    (l.foldl f s).MemOk := by
  induction l generalizing s with
  | nil => exact h
  | cons a t ih => exact ih (hf s a h)

end Sys2Proof.Machine
end

