-- ==== Sys2Proof/Laws/Regs.lean ====
section
/-! SUPPORT. Writing registers where the row holds entries for them: no other register, thread or part of the device
is touched. -/

namespace Sys2Proof.Machine

theorem crewOf_rowKey (k : Nat) : rowKey k / 128 = crewOf k := by
  simp [rowKey, crewOf, Nat.div_div_eq_div_mul]

/-- Forms that leave room in a row for some registers: held as values, or entries of the floor left. -/
def Row.roomIn (x : Row) (floor : Nat) (free : Bool) (gs : List Nat) : Prop :=
  (∀ g ∈ gs, ∃ y, Tab.find g x.regs = some y ∧ y.form = .value) ∨
    ((∀ g ∈ gs, ∀ y, Tab.find g x.regs = some y → y.form = .value) ∧ x.entries + gs.length ≤ floor ∧ free = true)

/-- What a row has left of its floor depends on the other rows alone. -/
theorem State.floorLeft_congr {s t : State} {r : Nat} (hr : (t.rows.filter fun e => e.1 != r) = s.rows.filter fun e => e.1 != r)
    (hc : t.crews = s.crews) (hl : t.launches = s.launches) : t.floorLeft r = s.floorLeft r := by
  have h1 (x : Nat) : t.cr x = s.cr x := by simp only [State.cr, hc]
  have h2 (x : Nat) : t.la x = s.la x := by simp only [State.la, hl]
  have h3 (x : Nat) : t.partRow x = s.partRow x := by simp only [State.partRow, h1]
  simp only [State.floorLeft, State.floorRow, State.heldBeside, hr, h1, h2, h3]

theorem State.floorLeft_setRw (s : State) (r : Nat) (f : Row → Row) : (s.setRw r f).floorLeft r = s.floorLeft r :=
  State.floorLeft_congr (Tab.filter_put_ne _ _ _) rfl rfl

theorem State.hasRoom_iff (s : State) (k : Nat) (gs : List Nat) :
    s.hasRoom k gs = true ↔ (s.rw (rowKey k)).roomIn (s.floorLeft (rowKey k)) ((s.laTh k).rcd.vcap == 0) gs := by
  unfold State.hasRoom Row.roomIn State.rreg
  simp only [Bool.or_eq_true, Bool.and_eq_true, List.all_eq_true, decide_eq_true_eq, and_assoc]
  constructor
  · rintro (h | ⟨h, h2⟩)
    · refine .inl fun g hg => ?_
      have := h g hg
      cases hf : Tab.find g (s.rw (rowKey k)).regs with
      | none => simp [hf] at this
      | some y => exact ⟨y, rfl, by simpa [hf] using this⟩
    · refine .inr ⟨fun g hg y hy => ?_, h2⟩
      have := h g hg
      simpa [hy] using this
  · rintro (h | ⟨h, h2⟩)
    · refine .inl fun g hg => ?_
      obtain ⟨y, hy, hv⟩ := h g hg
      simp [hy, hv]
    · refine .inr ⟨fun g hg => ?_, h2⟩
      cases hf : Tab.find g (s.rw (rowKey k)).regs with
      | none => rfl
      | some y => simpa [hf] using h g hg y hf

theorem Row.Marked.roomIn {x y : Row} (h : Row.Marked x y) {fl : Nat} {b : Bool} {gs : List Nat} (hr : x.roomIn fl b gs) :
    y.roomIn fl b gs := by
  have hf (g : Nat) : (Tab.find g y.regs).map (·.form) = (Tab.find g x.regs).map (·.form) := h.of_find g _ fun _ _ => rfl
  rcases hr with hr | ⟨h1, h2, h3⟩
  · refine .inl fun g hg => ?_
    obtain ⟨z, hz, hv⟩ := hr g hg
    have := hf g
    cases hy : Tab.find g y.regs with
    | none => simp [hy, hz] at this
    | some w => exact ⟨w, rfl, by simpa [hy, hz, hv] using this⟩
  · refine .inr ⟨fun g hg z hz => ?_, by rw [h.entries]; exact h2, h3⟩
    have := hf g
    cases hy : Tab.find g x.regs with
    | none => simp [hy, hz] at this
    | some w => simp only [hy, hz, Option.map_some, Option.some.injEq] at this; rw [this]; exact h1 g hg w hy

/-- A register opened in a row. -/
def Row.opened (x : Row) (g lane now : Nat) : Row :=
  match Tab.find g x.regs with
  | none => { x with regs := Tab.put g { form := .value, used := now } x.regs }
  | some _ => { x with regs := Tab.modify g (fun z =>
      let m := if z.form = .value then 0 else z.lmask &&& ~~~(1#32 <<< lane)
      { z with form := if m = 0 then .value else .mixed, lmask := m, used := now, faults := z.faults.filter fun (l, _) => l != lane,
               bad := z.bad &&& ~~~(1#32 <<< lane) }) x.regs }

theorem Row.entries_put {x : Row} {g : Nat} (hg : Tab.find g x.regs = none) (n : Nat) :
    Row.entries { x with regs := Tab.put g { form := .value, used := n } x.regs } = x.entries + 1 := by
  simp only [Row.entries]
  generalize x.regs = l at hg
  induction l with
  | nil => rfl
  | cons p t ih =>
      obtain ⟨a, b⟩ := p
      simp only [Tab.find] at hg
      split at hg
      · simp at hg
      · rename_i hne
        simp only [Tab.put]
        split
        · simp only [List.filter_cons]
          rw [if_pos (by rfl)]
          simp
        · simp only [List.filter_cons]
          split
          · simp only [List.length_cons, ih hg]
          · exact ih hg

theorem Row.entries_modify {x : Row} {g : Nat} {f : RowReg → RowReg}
    (hf : ∀ y, Tab.find g x.regs = some y → ((f y).entry && !(f y).reserve) = (y.entry && !y.reserve)) :
    Row.entries { x with regs := Tab.modify g f x.regs } = x.entries := by
  simp only [Row.entries]
  generalize x.regs = l at hf
  induction l with
  | nil => rfl
  | cons p t ih =>
      obtain ⟨a, b⟩ := p
      simp only [Tab.modify]
      split
      · subst a
        have := hf b (by simp [Tab.find])
        simp only [List.filter_cons, this]
        split <;> simp
      · rename_i hne
        have := ih (by intro y hy; exact hf y (by simpa [Tab.find, hne] using hy))
        simp only [List.filter_cons]
        split <;> simp [this]

/-- A row with room for a register keeps room for the others once that one is opened. -/
theorem Row.roomIn_opened {x : Row} {fl : Nat} {b : Bool} {g : Nat} {gs : List Nat} (h : x.roomIn fl b (g :: gs)) (lane now : Nat) :
    (x.opened g lane now).roomIn fl b gs := by
  -- what is found after the opening
  have hfind (j : Nat) (y : RowReg) (hy : Tab.find j (x.opened g lane now).regs = some y)
      (hv : ∀ z, Tab.find j x.regs = some z → z.form = .value) : y.form = .value := by
    unfold Row.opened at hy
    cases hg : Tab.find g x.regs with
    | none =>
        simp only [hg, Tab.find_put] at hy
        split at hy
        · simp at hy; subst hy; rfl
        · exact hv y hy
    | some w =>
        simp only [hg, Tab.find_modify] at hy
        split at hy
        · rename_i hj
          cases hz : Tab.find j x.regs with
          | none => simp [hz] at hy
          | some z =>
              simp only [hz, Option.map_some, Option.some.injEq] at hy
              have := hv z hz
              subst hy
              simp [this]
        · exact hv y hy
  rcases h with h | ⟨h1, h2, h3⟩
  · refine .inl fun j hj => ?_
    obtain ⟨y, hy, hv⟩ := h j (List.mem_cons_of_mem _ hj)
    obtain ⟨w, hw, -⟩ := h g (by simp)
    have : ∃ z, Tab.find j (x.opened g lane now).regs = some z := by
      unfold Row.opened
      simp only [hw, Tab.find_modify]
      split <;> simp [hy]
    obtain ⟨z, hz⟩ := this
    exact ⟨z, hz, hfind j z hz fun w hw => by rw [hy] at hw; cases hw; exact hv⟩
  · refine .inr ⟨fun j hj y hy => hfind j y hy (h1 j (List.mem_cons_of_mem _ hj)), ?_, h3⟩
    have : (x.opened g lane now).entries ≤ x.entries + 1 := by
      unfold Row.opened
      cases hg : Tab.find g x.regs with
      | none => simp only; exact Nat.le_of_eq (Row.entries_put hg _)
      | some w =>
          simp only
          rw [Row.entries_modify]
          · exact Nat.le_succ _
          · intro y hy
            have := h1 g (by simp) y hy
            simp [RowReg.entry, this]
    simp only [List.length_cons] at h2
    omega

theorem Row.unreserved_opened {x : Row} (h : ∀ q ∈ x.regs, q.2.reserve = false) (g lane now : Nat) :
    ∀ q ∈ (x.opened g lane now).regs, q.2.reserve = false := by
  intro q hq
  unfold Row.opened at hq
  split at hq
  · rcases Tab.mem_put hq with h' | h'
    · subst h'; rfl
    · exact h q h'
  · rcases Tab.mem_modify hq with h' | ⟨b, hb, h'⟩
    · exact h q h'
    · subst h'; exact h (g, b) hb

/-- Where the row has room, opening a register touches the row alone. -/
theorem State.openReg_eq {s : State} {k g : Nat} {gs : List Nat} (h : s.hasRoom k (g :: gs) = true) :
    s.openReg k g = s.setRw (rowKey k) fun x => x.opened g (laneOf k) s.cycle := by
  rw [State.hasRoom_iff] at h
  unfold State.openReg
  dsimp only
  cases hg : s.rreg (rowKey k) g with
  | none =>
      rcases h with h | ⟨h1, h2, h3⟩
      · obtain ⟨y, hy, -⟩ := h g (by simp)
        rw [State.rreg] at hg; rw [hg] at hy; cases hy
      · have hlt : (s.rw (rowKey k)).entries < s.floorLeft (rowKey k) := by
          simp only [List.length_cons] at h2; omega
        have hcap : s.capOk (s.partRow (rowKey k)) (s.cr (rowKey k / 128)).launch = true := by
          unfold State.capOk
          rw [crewOf_rowKey]
          have : ((s.la (s.cr (crewOf k)).launch).rcd.vcap == 0) = true := h3
          simp [this]
        have ht : s.takeEntry (rowKey k) = (false, s) := by
          unfold State.takeEntry State.findEntry
          simp [hlt, hcap]
        simp only [ht]
        unfold State.setRw
        congr 2
        rw [State.rreg] at hg
        simp only [Row.opened, hg]
  | some x =>
      have hv : x.form = .value := by
        rw [State.rreg] at hg
        rcases h with h | ⟨h1, -, -⟩
        · obtain ⟨y, hy, hv⟩ := h g (by simp); rw [hg] at hy; cases hy; exact hv
        · exact h1 g (by simp) x hg
      have hr : s.reload (rowKey k) g = s := by unfold State.reload; simp [hg, hv]
      simp only [hv, reduceCtorEq, if_false, hr, Bool.or_false]
      unfold State.setRw
      congr 2
      rw [State.rreg] at hg
      simp only [Row.opened, hg]

/-- A register written where the row has room. -/
theorem State.writeV_room {s : State} (hs : s.unreserved) {k g : Nat} {gs : List Nat} (h : s.hasRoom k (g :: gs) = true) (v : Word) :
    ∃ R, s.writeV k g v = ({ s with rows := R } : State).setTh k (fun t =>
        { t.endElig g with v := Tab.put g v t.v, dropped := t.dropped.filter (· != g) })
      ∧ State.unreserved { s with rows := R } ∧ State.hasRoom { s with rows := R } k gs = true := by
  refine ⟨(s.setRw (rowKey k) fun x => x.opened g (laneOf k) s.cycle).rows, ?_, ?_, ?_⟩
  · unfold State.writeV
    rw [State.openReg_eq h]; rfl
  · exact State.unreserved_setRw hs (rowKey k) (fun x => x.opened g (laneOf k) s.cycle)
      (Row.unreserved_opened (State.unreserved_rw hs _) _ _ _)
  · rw [State.hasRoom_iff] at h ⊢
    have hr : (State.rw (s.setRw (rowKey k) fun x => x.opened g (laneOf k) s.cycle) (rowKey k))
        = (s.rw (rowKey k)).opened g (laneOf k) s.cycle := by simp [State.rw_setRw]
    have := Row.roomIn_opened h (laneOf k) s.cycle
    rw [← hr, ← State.floorLeft_setRw s (rowKey k) fun x => x.opened g (laneOf k) s.cycle] at this
    exact this

/-- The registers of a thread in which one or two registers were written. -/
theorem Thread.regs_put (t : Thread) (g : Nat) (v : Word) (d : List Nat) :
    ({ t.endElig g with v := Tab.put g v t.v, dropped := d } : Thread).regs = ({ t with v := Tab.put g v t.v } : Thread).regs := rfl

theorem Thread.spWrite_flow (t : Thread) (i : Nat) (v : DWord) :
    (t.spWrite i v).flow = t.flow ∧ (t.spWrite i v).jump = t.jump := by
  unfold Thread.spWrite
  split <;> try exact ⟨rfl, rfl⟩
  split
  · unfold Thread.setPred; split <;> exact ⟨rfl, rfl⟩
  · exact ⟨rfl, rfl⟩

/-- RegWrite where the row has room for the destination. -/
theorem State.regWrite_like {u : State} {k : Nat} {c : Convoy} (hh : Kept u k c) {d : Spec} {w : Nat}
    (hr : u.hasRoom k (destRegs d w) = true) (v : DWord) :
    Like (u.regWrite k d w v) (u.dest k d w v) k ∧ Kept (u.regWrite k d w v) k c := by
  obtain ⟨hc, hp, hu⟩ := hh
  unfold State.regWrite State.dest
  cases d with
  | v i =>
      simp only [destRegs] at hr
      by_cases hw : w = 1
      · simp only [hw, if_true] at hr ⊢
        obtain ⟨R, h1, h2, -⟩ := State.writeV_room hu hr (v.setWidth 32)
        rw [h1]
        have hp' : (Tab.find k ({ u with rows := R } : State).threads).isSome := hp
        refine ⟨⟨?_, ?_, ?_, fun j hj => ?_, rfl⟩, ⟨hc, by simpa using hp, h2⟩⟩
        · rw [State.th_setTh_self _ hp', State.th_setTh_self _ hp, show ({ u with rows := R } : State).th k = u.th k from rfl]
          simp only [Thread.dest, if_true]; rfl
        · rw [State.th_setTh_self _ hp', State.th_setTh_self _ hp]; rfl
        · rw [State.th_setTh_self _ hp', State.th_setTh_self _ hp]; rfl
        · rw [State.th_setTh_ne _ hj, State.th_setTh_ne _ hj]; rfl
      · simp only [hw, if_false] at hr ⊢
        obtain ⟨R, h1, h2, h3⟩ := State.writeV_room hu hr (v.setWidth 32)
        rw [h1]
        generalize hu1 : (({ u with rows := R } : State).setTh k fun t =>
          { t.endElig i.toNat with v := Tab.put i.toNat (v.setWidth 32) t.v, dropped := t.dropped.filter (· != i.toNat) }) = u1
        have hu1r : u1.unreserved := by subst hu1; exact h2
        have h3' : u1.hasRoom k [i.toNat + 1] = true := by subst hu1; exact h3
        obtain ⟨R', h1', h2', -⟩ := State.writeV_room hu1r h3' ((v >>> 32).setWidth 32)
        rw [h1']
        have hp' : (Tab.find k ({ u with rows := R } : State).threads).isSome := hp
        have hp1 : (Tab.find k ({ u1 with rows := R' } : State).threads).isSome := by
          subst hu1; simpa using hp
        have ht : u1.th k = { (u.th k).endElig i.toNat with
            v := Tab.put i.toNat (v.setWidth 32) (u.th k).v, dropped := (u.th k).dropped.filter (· != i.toNat) } := by
          subst hu1; rw [State.th_setTh_self _ hp']; rfl
        have ht' : ({ u1 with rows := R' } : State).th k = u1.th k := rfl
        refine ⟨⟨?_, ?_, ?_, fun j hj => ?_, ?_⟩, ⟨?_, by simpa using hp1, h2'⟩⟩
        · rw [State.th_setTh_self _ hp1, ht', ht, State.th_setTh_self _ hp]; simp only [Thread.dest, hw, if_false]; rfl
        · rw [State.th_setTh_self _ hp1, ht', ht, State.th_setTh_self _ hp]; simp only [Thread.dest, hw, if_false]; rfl
        · rw [State.th_setTh_self _ hp1, ht', ht, State.th_setTh_self _ hp]; simp only [Thread.dest, hw, if_false]; rfl
        · rw [State.th_setTh_ne _ hj, State.th_setTh_ne _ hj]
          show u1.th j = u.th j
          subst hu1; rw [State.th_setTh_ne _ hj]; rfl
        · subst hu1; rfl
        · subst hu1; exact hc
  | sp i => exact ⟨Like.refl _ _, ⟨hc, by simpa using hp, hu⟩⟩
  | k i =>
      refine ⟨⟨?_, ?_, ?_, fun j hj => (State.th_setTh_ne _ hj).symm, rfl⟩, ⟨hc, hp, hu⟩⟩ <;>
        rw [State.th_setTh_self _ hp] <;> rfl
  | imm i =>
      refine ⟨⟨?_, ?_, ?_, fun j hj => (State.th_setTh_ne _ hj).symm, rfl⟩, ⟨hc, hp, hu⟩⟩ <;>
        rw [State.th_setTh_self _ hp] <;> rfl

end Sys2Proof.Machine
end

