-- ==== Sys2Proof/Laws/Value.lean ====
section
/-! SUPPORT. Instructions that compute one value of their operands: they complete, and write it. -/

namespace Sys2Proof.Machine

@[simp] theorem State.noted_th (s : State) (C P R) (k : Nat) : (s.noted C P R).th k = s.th k := rfl
@[simp] theorem State.noted_rd (s : State) (C P R) (k : Nat) : (s.noted C P R).rd k = s.rd k := rfl
@[simp] theorem State.noted_world (s : State) (C P R) : (s.noted C P R).world = s.world := rfl
@[simp] theorem State.noted_front (s : State) (C P R) : (s.noted C P R).front = s.front := rfl

theorem State.noted_room {s : State} {C P R} {k : Nat} {gs : List Nat} (h : s.hasRoom k gs = true)
    (m : Marks s (s.noted C P R) (rowKey k)) : (s.noted C P R).hasRoom k gs = true := by
  rw [State.hasRoom_iff] at h ⊢
  rw [State.floorLeft_congr m.beside rfl rfl]
  exact m.row.roomIn h

theorem State.setTh_unreserved {s : State} (h : s.unreserved) (k : Nat) (f : Thread → Thread) : (s.setTh k f).unreserved := h

theorem State.setTh_present {s : State} {k : Nat} (h : (Tab.find k s.threads).isSome) (f : Thread → Thread) :
    (Tab.find k (s.setTh k f).threads).isSome := by simpa using h

/-- Writing a value function's result. -/
theorem State.writeOut_like {u : State} {k : Nat} {c : Convoy} (hh : Kept u k c) {d : Spec} {w : Nat}
    (hr : u.hasRoom k (destRegs d w) = true) (o : Out) :
    Like (u.writeOut k d w o) (u.outcome k d w o) k ∧ Kept (u.writeOut k d w o) k c := by
  have hp := hh.present
  -- the thread with its rng and flags
  obtain ⟨g, hg, hv⟩ : ∃ g : Thread → Thread, ((match o.rng with
      | some r => u.setTh k fun t => { t with rng := r }
      | none => u).setFlags k o.fl) = u.setTh k g
      ∧ (∀ t, g t = ({ t with rng := o.rng.getD t.rng, fflg := t.fflg ||| o.fl } : Thread)) := by
    cases hr : o.rng with
    | none =>
        by_cases hf : o.fl = 0
        · refine ⟨fun t => t, ?_, ?_⟩
          · simp only [State.setFlags, hf, if_true, State.setTh, Tab.modify_id]
          · intro t; simp [hf]
        · exact ⟨_, by simp only [State.setFlags, hf, if_false]; rfl, fun t => rfl⟩
    | some r =>
        by_cases hf : o.fl = 0
        · refine ⟨fun t => { t with rng := r }, by simp only [State.setFlags, hf, if_true], ?_⟩
          intro t; simp [hf]
        · exact ⟨_, by simp only [State.setFlags, hf, if_false, State.setTh, Tab.modify_modify]; rfl, fun t => rfl⟩
  have hw : u.writeOut k d w o = (u.setTh k g).regWrite k d w o.v := congrArg (fun x => State.regWrite x k d w o.v) hg
  have ho : u.outcome k d w o = (u.setTh k g).dest k d w o.v := by
    simp only [State.outcome, State.dest, State.setTh, Tab.modify_modify, hv]; rfl
  rw [hw, ho]
  exact State.regWrite_like (u := u.setTh k g) ⟨hh.front, State.setTh_present hp g, hh.unreserved⟩ hr o.v

/-- Changing one thread in a state with other notes. -/
theorem Like.setTh_noted (s : State) (C P R) (k : Nat) (f : Thread → Thread) :
    Like ((s.noted C P R).setTh k f) (s.setTh k f) k := ⟨rfl, rfl, rfl, fun _ _ => rfl, rfl⟩

/-- A value instruction of a ready thread completes with its value written, its flags set and its rng left. -/
theorem Ready.value {s i h k c} (r : Ready s i h k c) {d : Spec} {w : Nat} {f : Rd → Out}
    (he : exec i s = .next (s.issueValue i d w f)) (hr : s.hasRoom k (destRegs d w) = true) (hi : (f (s.rd k)).illegal = false)
    (ht : (f (s.rd k)).trap = none) : Completes s i k (s.outcome k d w (f (s.rd k))) := by
  refine r.does he rfl _ fun C P R hh hm => ?_
  obtain ⟨h1, h2⟩ := State.writeOut_like hh (State.noted_room hr hm) (f (s.rd k))
  exact ⟨_, by simp [State.valueEff, hi, ht], h1.trans (Like.setTh_noted _ _ _ _ _ _), h2⟩

/-- An instruction whose effect changes its thread alone. -/
theorem Ready.thread {s i h k c} (r : Ready s i h k c) {block : State → Nat → Bool} {eff : State → Nat → Eff} {f : Thread → Thread}
    (he : exec i s = .next (s.issueEach i block eff)) (hb : block s k = false)
    (hf : ∀ C P R, eff (s.noted C P R) k = .done ((s.noted C P R).setTh k f)) : Completes s i k (s.setTh k f) :=
  r.does he hb _ fun C P R hh _ => ⟨_, hf C P R, Like.setTh_noted _ _ _ _ _ _,
    ⟨hh.front, State.setTh_present hh.present f, hh.unreserved⟩⟩

/-- A word that is ready is well-formed, at its position, and allowed at the thread's privilege. -/
theorem Ready.wf {s i h k c} (r : Ready s i h k c) : i.wf = true := by
  have := r.legal
  unfold State.wordFault at this
  simp only [r.guard] at this
  split at this
  · cases this
  · split at this
    · simp at *
    · split at this
      · cases this
      · split at this
        · cases this
        · rename_i h4
          simp only [Bool.or_eq_true, Bool.not_eq_true', not_or, Bool.not_eq_false] at h4
          exact h4.1.1

/-- What a value instruction gives, from its value function on the operands of a well-formed word. -/
theorem Gives.of_value {i h d w} {f g : Rd → Out} (he : ∀ s, exec i s = .next (s.issueValue i d w f))
    (hs : i.wf = true → ∀ r, (f r).illegal = false ∧ (f r).trap = none ∧ f r = g r) : Gives i h d w g := by
  intro s k c r hr
  obtain ⟨h1, h2, h3⟩ := hs r.wf (s.rd k)
  rw [← h3]
  exact r.value (he s) hr h1 h2

end Sys2Proof.Machine
end

