-- ==== Sys2Proof/Laws/Trap.lean ====
section
/-! SUPPORT. Instructions that take their thread out of its convoy: the causes a word raises, and the ends of an issue
with nobody left in the convoy. -/

namespace Sys2Proof.Machine

theorem Same.refl (u : State) : Same u u := ⟨fun _ => rfl, rfl⟩
theorem Same.trans {a b c : State} (h : Same a b) (g : Same b c) : Same a c :=
  ⟨fun j => (h.threads j).trans (g.threads j), h.world.trans g.world⟩
theorem Same.symm {a b : State} (h : Same a b) : Same b a := ⟨fun j => (h.threads j).symm, h.world.symm⟩
theorem Same.noted (s : State) (C P R) : Same (s.noted C P R) s := ⟨fun _ => rfl, rfl⟩

/-- No convoy of a slot, and none with the thread. -/
def State.cleared (u : State) (k : Nat) (c : Convoy) : Prop :=
  ∀ d ∈ u.convoys, d.isOf c.part c.lane = false ∧ d.mem.contains k = false

theorem State.cleared.out {u : State} {k : Nat} {c : Convoy} (h : u.cleared k c) : u.outside k = true := by
  simp only [State.outside, List.all_eq_true, Bool.not_eq_true']
  exact fun d hd => (h d hd).2

/-- The only member of the front convoy leaves it: the slot is empty. -/
theorem State.leaveConvoy_cleared {u : State} {k : Nat} {c : Convoy} (hf : u.front = some c) (ha : c.mem = [k])
    (ho : ((u.convoys.drop 1).all fun d => !d.isOf c.part c.lane && !d.mem.contains k) = true) :
    (u.leaveConvoy k).cleared k c := by
  intro d hd
  unfold State.front at hf
  unfold State.leaveConvoy at hd
  cases hc : u.convoys with
  | nil => simp [hc] at hf
  | cons a l =>
      simp only [hc, List.head?_cons, Option.some.injEq] at hf
      subst hf
      simp only [hc, List.drop_succ_cons, List.drop_zero] at ho
      simp only [hc, List.map_cons, ha, List.filter_cons, bne_self_eq_false, Bool.false_eq_true, if_false, List.filter_nil,
        List.isEmpty_nil, Bool.not_true, List.mem_filter, List.mem_map] at hd
      obtain ⟨⟨e, he, rfl⟩, -⟩ := hd
      have := List.all_eq_true.1 ho e he
      simp only [Bool.and_eq_true, Bool.not_eq_true'] at this
      exact ⟨this.1, by simp⟩

/-- The end of an issue of a slot that is empty. -/
theorem State.finishIssue_cleared {u : State} (hu : u.unreserved) {c : Convoy} {k : Nat} (h : u.cleared k c) (y : Bool) :
    Same (u.finishIssue c.part c.lane y) u ∧ (u.finishIssue c.part c.lane y).cleared k c := by
  have hs : ∀ f, (u.setPt c.part f).settleReserve c.part = u.setPt c.part f :=
    fun f => State.settleReserve_of_unreserved (s := u.setPt c.part f) hu c.part
  unfold State.finishIssue
  simp only [hs]
  cases hf : (u.setPt c.part fun p => { p with busy := [], ending := [] }).front with
  | none => exact ⟨⟨fun _ => rfl, rfl⟩, h⟩
  | some d =>
      have : d.isOf c.part c.lane = false := (h d (List.mem_of_mem_head? hf)).1
      simp only [this, Bool.not_false, if_true]
      exact ⟨⟨fun _ => rfl, rfl⟩, h⟩

/-- A state that a word's effect on its only thread may leave behind when the thread has left. -/
structure Left (w : State) (k : Nat) (c : Convoy) : Prop where
  cleared : w.cleared k c
  unreserved : w.unreserved

theorem Left.setTh {w : State} {k : Nat} {c : Convoy} (h : Left w k c) (j : Nat) (f : Thread → Thread) : Left (w.setTh j f) k c :=
  ⟨h.cleared, h.unreserved⟩

theorem Stands.leave {s i h k c} (r : Stands s i h k c) (C P R) (hu : (s.noted C P R).unreserved) :
    Left ((s.noted C P R).leaveConvoy k) k c :=
  ⟨State.leaveConvoy_cleared (u := s.noted C P R) r.front r.alone r.only, hu⟩

theorem Ready.leave {s i h k c} (r : Ready s i h k c) (C P R) (hu : (s.noted C P R).unreserved) :
    Left ((s.noted C P R).leaveConvoy k) k c := r.toStands.leave C P R hu

/-! ### Traps -/

theorem State.breakLeases_none {u : State} {k : Nat} (h : (u.th k).leases = []) : u.breakLeases k = u := by
  simp [State.breakLeases, h]

/-- A trap with a handler, raised on a state with other notes. -/
theorem Stands.trap {s i h k c} (r : Stands s i h k c) {x : Raise} (hh : s.handled k x.cause = true) (C P R)
    (hu : (s.noted C P R).unreserved) :
    Same ((s.noted C P R).trap k x) (s.trap k x) ∧ Left ((s.noted C P R).trap k x) k c := by
  have hl := r.leave C P R hu
  simp only [State.handled, Bool.and_eq_true, bne_iff_ne, ne_eq, Bool.or_eq_true, List.isEmpty_iff] at hh
  obtain ⟨⟨h2, hv⟩, hle⟩ := hh
  have e1 : ((s.noted C P R).leaveConvoy k).breakLeases k = (s.noted C P R).leaveConvoy k := State.breakLeases_none hle
  have e2 : (s.leaveConvoy k).breakLeases k = s.leaveConvoy k := State.breakLeases_none hle
  have t1 : (s.noted C P R).toLevel1 k x.cause = s.toLevel1 k x.cause := rfl
  have l1 : (s.noted C P R).live k = s.live k := rfl
  unfold State.trap State.trapAt
  simp only [State.noted_th, h2, if_false, t1, l1, r.live, Bool.not_true, Bool.false_eq_true]
  split
  · unfold State.enter1
    simp only [e1, e2]
    exact ⟨⟨fun _ => rfl, rfl⟩, hl.setTh k _⟩
  · rename_i h1
    have hv : (s.cx (s.ctxTh k)).tvec2 ≠ 0 := by
      rcases hv with hv | hv
      · exact absurd hv h1
      · exact hv
    have hn : ((s.noted C P R).cx ((s.noted C P R).ctxTh k)).tvec2 ≠ 0 := hv
    unfold State.trap2
    simp only [hv, hn, if_false]
    unfold State.enter2
    simp only [e1, e2]
    exact ⟨⟨fun _ => rfl, rfl⟩, hl.setTh k _⟩

/-- A word that is ready, whose effect ends with its thread out of the convoy in a state like `u`. -/
theorem Ready.leaves {s i h k c} (r : Ready s i h k c) {block : State → Nat → Bool} {eff : State → Nat → Eff}
    (he : exec i s = .next (s.issueEach i block eff)) (hb : block s k = false) {u : State}
    (hd : ∀ C P R, (s.noted C P R).unreserved → Same (State.applyEff k h.h.fin (eff (s.noted C P R) k)) u
      ∧ Left (State.applyEff k h.h.fin (eff (s.noted C P R) k)) k c) : Leaves s i k u := by
  obtain ⟨C, P, R, hn, -, hu⟩ := r.begun
  obtain ⟨h1, h2⟩ := hd C P R hu
  refine ⟨_, he, ?_⟩
  rw [r.issueEach block hb, hn]
  obtain ⟨h3, h4⟩ := State.finishIssue_cleared h2.unreserved h2.cleared h.h.yld
  exact ⟨h3.trans h1, h4.out⟩

/-- An effect that is a cause with a handler. -/
theorem Ready.traps {s i h k c} (r : Ready s i h k c) {block : State → Nat → Bool} {eff : State → Nat → Eff} {x : Raise}
    (he : exec i s = .next (s.issueEach i block eff)) (hb : block s k = false) (hh : s.handled k x.cause = true)
    (hd : ∀ C P R, eff (s.noted C P R) k = .trap x (s.noted C P R)) : Leaves s i k (s.trap k x) :=
  r.leaves he hb fun C P R hu => by rw [hd]; exact r.toStands.trap hh C P R hu

/-- A cause of the word itself: its thread takes it, and nothing else is done. -/
theorem Stands.raises {s i h k c} (r : Stands s i h k c) {block : State → Nat → Bool} {run : Head → List Nat → State → State}
    {x : Raise} (he : exec i s = .next (s.issueWith i block run)) (hrun : ∀ u, run h [] u = u)
    (hf : s.wordFault c i h k = some x) (hh : s.handled k x.cause = true) : Leaves s i k (s.trap k x) := by
  refine ⟨_, he, ?_⟩
  have ha : s.actors = [k] := by
    simp [State.actors, r.front, r.alone, r.here]
    cases (s.th k).idles <;> simp
  have hu : s.unreserved := by
    intro p hp q hq
    have := List.all_eq_true.1 r.reserve p hp
    simpa using List.all_eq_true.1 this q hq
  have hw : ((s.count (c.part / 4) 4).keep c.part [k] i).wordFault c i h k = some x := hf
  obtain ⟨t1, t2⟩ := r.trap hh ((s.count (c.part / 4) 4).counters) (((s.count (c.part / 4) 4).keep c.part [k] i).parts) s.rows hu
  obtain ⟨h3, h4⟩ := State.finishIssue_cleared t2.unreserved t2.cleared h.h.yld
  unfold State.issueWith
  simp only [r.front, r.head, ha, List.isEmpty_cons, Bool.false_eq_true, if_false, List.filter_cons, hf, Option.isNone_some,
    List.filter_nil, List.isEmpty_nil, Bool.not_true, r.rgu, Option.isSome_none, List.findSome?_nil, List.any_nil,
    List.foldl_nil, List.filterMap_cons, hw, Option.map_some, List.filterMap_nil, List.foldl_cons, hrun]
  exact ⟨h3.trans t1, h4.out⟩

end Sys2Proof.Machine
end

