-- ==== Sys2Proof/Tests/Slice0.lean ====
section
/-! SUPPORT. Tests: for each statement with hypotheses a state and operands that meet them (`wit_…`), words
written out from the spec's encodings with the instructions they stand for, ill-formed terms that the checks
refuse, and results computed by hand from the rules (`test_…`). -/

namespace Sys2Proof.Tests
set_option Elab.async false
open Sys2Proof.Machine

/-- An instruction's word. -/
def wordOf (i : Instr) : IWord := (encode i).getD 0

/-- The head of a word always executed, of a type and MOD. -/
def hd (t : VType) (m : BitVec 4 := 0) : Head := ⟨⟨false, 7⟩, t, m, ⟨false, 0, false, false, 0⟩⟩

/-- One thread at a word, as `withFetchWord` leaves it, in the cycle that issues the word; its row has room for 64 entries. -/
def onWord (i : Instr) (e : State → State := id) : State :=
  let s := State.reset.placeWord (wordOf i)
  (e { s with launches := Tab.modify 0 (fun l => { l with rcd := { l.rcd with floor := 64 } }) s.launches
              ctxs := Tab.modify 0 (fun c => { c with tvec2 := 0x9000 }) s.ctxs }).begin_ (wordOf i)

/-- Whether the thread `k` alone stands at a word, checked; the convoy is the one in front. -/
def standsB (s : State) (i : Instr) (k : Nat) : Bool :=
  match i.head, s.front with
  | some _, some c =>
      c.mem == [k] && ((s.convoys.drop 1).all fun d => !d.isOf c.part c.lane && !d.mem.contains k) && ((s.th k).pc == c.pc)
      && (s.th k).jump.isNone && s.live k && (s.pt c.part).rgu.isNone && (s.rows.all fun (_, x) => x.regs.all fun (_, y) => !y.reserve)
  | _, _ => false

/-- What the check says. -/
theorem stands_of {s : State} {i : Instr} {k : Nat} (b : standsB s i k = true) : ∃ h c, Stands s i h k c ∧ i.head = some h ∧ s.front = some c := by
  unfold standsB at b
  split at b
  · rename_i h c hh hc
    simp only [Bool.and_eq_true, beq_iff_eq, Option.isNone_iff_eq_none] at b
    obtain ⟨⟨⟨⟨⟨⟨b1, b2⟩, b3⟩, b4⟩, b5⟩, b6⟩, b7⟩ := b
    exact ⟨h, c, ⟨hh, hc, b1, b2, b3, b4, b5, b6, b7⟩, hh, hc⟩
  · cases b

/-- Whether a word is ready for the thread `k`, checked. -/
def readyB (s : State) (i : Instr) (k : Nat) : Bool :=
  standsB s i k && match i.head, s.front with
  | some h, some c =>
      s.guard k h.g && (s.wordFault c i h k).isNone && !s.holdsBack c i h noBlock k && (s.heldOp k).isNone
      && (s.regenFor k i (s.coverOf i h [k] (rowKey k))).isNone && (s.regenFault k i).isNone
      && !s.readsBad k i && ((s.vReads k i).all fun g => match s.rreg (rowKey k) g with
        | some x => x.form != .spilled
        | none => true)
  | _, _ => false

/-- What the check says. -/
theorem ready_of {s : State} {i : Instr} {k : Nat} (b : readyB s i k = true) : ∃ h c, Ready s i h k c := by
  simp only [readyB, Bool.and_eq_true] at b
  obtain ⟨h, c, st, hh, hc⟩ := stands_of b.1
  have b := b.2
  rw [hh, hc] at b
  simp only [Bool.and_eq_true, Option.isNone_iff_eq_none, Bool.not_eq_true'] at b
  obtain ⟨⟨⟨⟨⟨⟨⟨b8, b9⟩, b10⟩, b11⟩, b12⟩, b13⟩, b15⟩, b14⟩ := b
  exact ⟨h, c, { st with guard := b8, legal := b9, free := b10, unheld := b11, values := b12, faults := b13, sound := b15, loaded := b14 }⟩

/-- Whether the word is ready for thread 0, its destination registers have room, and it runs on to a next state. -/
def runs (e : State → State) (i : Instr) : Bool :=
  let s := onWord i e
  readyB s i 0 && s.hasRoom 0 (s.vWrites 0 i) && (match exec i s with | .next _ => true | _ => false)

/-- The same in the plain state. -/
def ready (i : Instr) : Bool := runs id i

/-- Thread 0 changed. -/
def th0 (f : Thread → Thread) (s : State) : State := s.setTh 0 f

/-- General registers of thread 0 set, held as values. -/
def regs (l : List (Nat × Word)) (s : State) : State :=
  (s.setTh 0 fun t => { t with v := l.foldl (fun v x => Tab.put x.1 x.2 v) t.v }).setRw 0 fun r =>
    { r with regs := l.foldl (fun v x => Tab.put x.1 { form := .value } v) r.regs }

/-- What thread 0 is after the word. -/
def after (i : Instr) (e : State → State) : Thread :=
  match exec i (onWord i e) with
  | .next t => t.th 0
  | _ => { pc := 0, hdr := 0, src := 0 }

/-! ### Words that compute a value: each is ready and runs (IntegerArithmetic to SlotConversions) -/

def d5 : Spec := .v 6
def a2 : Spec := .v 2
def b3 : Spec := .v 10
def c4 : Spec := .v 12

theorem ready_integer : ([.iadd (hd .i32) d5 a2 (.imm 0xFF), .iaddImm (hd .i64 1) d5 a2 7, .isub (hd .n32) d5 a2 b3, .isubImm (hd .i32) d5 a2 1,
    .ineg (hd .i32) d5 a2, .iabs (hd .i64 1) d5 a2, .imad (hd .i32) d5 a2 b3 c4, .imul (hd .n64) d5 a2 b3, .imulImm (hd .i32) d5 a2 3,
    .imulhi (hd .i32) d5 a2 b3, .imulhiImm (hd .n32) d5 a2 5, .imin (hd .i32) d5 a2 b3, .iminImm (hd .i32) d5 a2 0, .imax (hd .n32) d5 a2 b3,
    .imaxImm (hd .i32) d5 a2 0, .imadw (hd .i32) d5 a2 b3 c4, .isad (hd .n32) d5 a2 b3 c4, .idp4 (hd .i8) d5 a2 b3 c4,
    .idp2 (hd .n16) d5 a2 b3 c4, .lea (hd .b32) d5 a2 b3 31, .leaw (hd .n32) d5 a2 b3 4] : List Instr).all ready = true := by decide +kernel

theorem ready_logic : ([.and (hd .b32) d5 a2 b3, .andImm (hd .b32) d5 a2 1, .or (hd .n64) d5 a2 b3, .orImm (hd .b32) d5 a2 1, .xor (hd .b32) d5 a2 b3,
    .xorImm (hd .b32) d5 a2 1, .andn (hd .b32) d5 a2 b3, .andnImm (hd .b32) d5 a2 1, .not (hd .b32) d5 a2, .bool3 (hd .b32) d5 a2 b3 c4 0xCA,
    .shl (hd .b32) d5 a2 b3, .shlImm (hd .n64) d5 a2 64, .shr (hd .b32) d5 a2 b3, .shrImm (hd .b32) d5 a2 32, .sar (hd .i32) d5 a2 b3,
    .sarImm (hd .i64) d5 a2 1, .rot (hd .b32) d5 a2 b3, .rotImm (hd .b32) d5 a2 33, .xshr (hd .b32) d5 a2 b3 c4] : List Instr).all ready = true := by
  decide +kernel

theorem ready_fields : ([.bfx (hd .i32) d5 a2 31 1, .bfi (hd .b32) d5 a2 b3 0 32, .brev (hd .n64) d5 a2, .popc (hd .b32) d5 a2, .clz (hd .b32) d5 a2,
    .ctz (hd .n64) d5 a2, .bpick (hd .b32) d5 a2 b3 0x1A2C0] : List Instr).all ready = true := by decide +kernel

/-- Division: a divisor that is not zero, and a zero divisor with DZT 0; both choices of `runs`. -/
theorem ready_division : ([.idiv (hd .i32) d5 a2 b3, .idivImm (hd .i64) d5 a2 0, .irem (hd .n32) d5 a2 b3, .iremImm (hd .i32) d5 a2 7] : List Instr).all
    ready = true := by decide +kernel

theorem ready_compares : ([.icmp (hd .i32) (.sp 1) a2 b3 2 1, .icmpv (hd .n64) d5 a2 b3 5 0, .fcmp (hd .f32) (.sp 0) a2 b3 13 3,
    .fcmpv (hd .f64) d5 a2 b3 0 0] : List Instr).all ready = true := by decide +kernel

theorem ready_moves : ([.pbool3 (hd .b32) (.sp 1) (.sp 0) (.sp 7) (.sp 2) 0x96, .pmovGet (hd .b32) d5, .pmovSet (hd .b32) a2 0x7F, .sel (hd .n64) d5 a2 b3 1 1,
    .mov (hd .b32) d5 (.sp 0x20), .movi (hd .b32) d5 0xFFFFFFFF, .movw (hd .i32) d5 a2] : List Instr).all ready = true := by decide +kernel

theorem ready_float : ([.fadd (hd .f32) d5 a2 b3, .faddImm (hd .f64 4) d5 a2 0x3F800000, .fsub (hd .f16) d5 a2 b3, .fsubImm (hd .f32 3) d5 a2 0,
    .fmul (hd .f32) d5 a2 b3, .fmulImm (hd .f32) d5 a2 0, .ffma (hd .f64 1) d5 a2 b3 c4, .fdiv (hd .f32) d5 a2 b3, .fsqrt (hd .f32) d5 a2,
    .fscale (hd .f32) d5 a2 b3, .hadd2 (hd .f16) d5 a2 b3, .hadd2Imm (hd .bf16) d5 a2 0, .hmul2 (hd .f16) d5 a2 b3, .hmul2Imm (hd .f16) d5 a2 0,
    .hfma2 (hd .f16) d5 a2 b3 c4, .hmin2 (hd .f16) d5 a2 b3, .hmin2Imm (hd .f16) d5 a2 0, .hmax2 (hd .bf16) d5 a2 b3,
    .hmax2Imm (hd .f16) d5 a2 0] : List Instr).all ready = true := by decide +kernel

theorem ready_signs : ([.fmin (hd .f32) d5 a2 b3, .fminImm (hd .f32) d5 a2 0, .fmax (hd .f64 1) d5 a2 b3, .fmaxImm (hd .f32) d5 a2 0, .fabs (hd .f32) d5 a2,
    .fneg (hd .f64) d5 a2, .fcpys (hd .f64) d5 a2 b3, .fclass (hd .f32) d5 a2 0, .fclass (hd .f32) (.sp 1) a2 1] : List Instr).all ready = true := by
  decide +kernel

theorem ready_functions : ([.frnd (hd .f32 1) d5 a2, .ffrac (hd .f32) d5 a2, .fgetexp (hd .f32) d5 a2, .frcp (hd .f32) d5 a2, .frsq (hd .f32) d5 a2,
    .fexp2 (hd .f32) d5 a2, .flog2 (hd .f32) d5 a2, .fsin (hd .f32) d5 a2, .fcos (hd .f32) d5 a2, .ftanh (hd .f32) d5 a2,
    .cvtw (hd .i32) d5 a2 (.imm 12), .cvtw (hd .f32) d5 a2 (.imm 3)] : List Instr).all ready = true := by decide +kernel

/-- A format slot, put in slot 1 of the launch. -/
def slot1 (f : Fp.Slot) (s : State) : State :=
  s.setLa 0 fun l => { l with slots := [f, f], rcd := { l.rcd with fsmask := 2 } }

/-- E4M3 unscaled, and E2M1V. -/
def e4m3 : Fp.Slot := ⟨6, 0, false, 0, 0, 0, 0, 0, 0, 0, 0, 0⟩
def e2m1v : Fp.Slot := ⟨22, 0, false, 0, 3, 1, 0, 0, 0, 0, 0, 0⟩

theorem ready_slots :
    (runs (slot1 e4m3) (.cvtnPk (hd .slot 1) (.v 20) (.v 8) (.v 0)) && runs (slot1 e4m3) (.cvtnUnpk (hd .slot 9) (.v 8) (.v 20) (.v 0))
      && runs (slot1 e2m1v) (.vblkx (hd .slot 1) (.v 30) (.v 12) (.v 13) 7)) = true := by decide +kernel

/-- 09 R242: v8 to v11 hold 1.0, −2.5, 448.0 and 500.0. -/
theorem test_cvtn : (fun t : Thread => t.vget 20 = 0x7F7EC238 ∧ t.fflg = Fp.OF ||| Fp.NX) (after (.cvtnPk (hd .slot 1) (.v 20) (.v 8) (.v 0))
    fun s => regs [(8, 0x3F800000), (9, 0xC0200000), (10, 0x43E00000), (11, 0x43FA0000)] (slot1 e4m3 s)) := by decide +kernel

/-- 09 R243: code 4 of the row of R87. -/
theorem test_vblkx : (after (.vblkx (hd .slot 1) (.v 30) (.v 12) (.v 13) 4) fun s => regs [(12, 0x706827D4), (13, 0x7E64)] (slot1 e2m1v s)).vget 30
    = 0x41C00000 := by decide +kernel

/-- 09 R225: a sum wraps, and clamps under .sat. 09 R227: −7 ÷ 2 truncates. 09 R228: a shift by the width gives 0. -/
theorem test_integers :
    (fun e => (after (.iadd (hd .i32) d5 a2 (.imm 1)) e).vget 6 = 0x80000000 ∧ (after (.iadd (hd .i32 1) d5 a2 (.imm 1)) e).vget 6 = 0x7FFFFFFF)
      (regs [(2, 0x7FFFFFFF)])
    ∧ (fun e => (after (.idivImm (hd .i32) d5 a2 2) e).vget 6 = 0xFFFFFFFD ∧ (after (.iremImm (hd .i32) d5 a2 2) e).vget 6 = 0xFFFFFFFF
      ∧ (after (.shlImm (hd .b32) d5 a2 32) e).vget 6 = 0 ∧ (after (.sarImm (hd .i32) d5 a2 32) e).vget 6 = 0xFFFFFFFF
      ∧ (after (.bfx (hd .i32) d5 a2 0 3) e).vget 6 = 1 ∧ (after (.clz (hd .b32) d5 a2) e).vget 6 = 0) (regs [(2, 0xFFFFFFF9)]) := by
  decide +kernel

/-- A 64-bit destination takes two registers, low word first (02 R48); source and destination may be the same. -/
theorem test_pairs : (fun t : Thread => t.vget 2 = 0 ∧ t.vget 3 = 2) (after (.iaddImm (hd .i64) a2 a2 1) (regs [(2, 0xFFFFFFFF), (3, 1)])) := by
  decide +kernel

/-- 03 R90 to R93: 1 + 2⁻²⁴ ties to even and sets NX; ∞ − ∞ is the canonical NaN with NV; in RD a zero sum is −0. -/
theorem test_floats :
    (fun t : Thread => t.vget 6 = 0x3F800000 ∧ t.fflg = Fp.NX) (after (.faddImm (hd .f32) d5 a2 0x33800000) (regs [(2, 0x3F800000)]))
    ∧ (fun t : Thread => t.vget 6 = 0x7FC00000 ∧ t.fflg = Fp.NV) (after (.fsubImm (hd .f32) d5 a2 0x7F800000) (regs [(2, 0x7F800000)]))
    ∧ (after (.fsubImm (hd .f32 3) d5 a2 0x3F800000) (regs [(2, 0x3F800000)])).vget 6 = 0x80000000 := by decide +kernel

/-- 09 R241: 2.5 to an integer is 2 in RN; 3 × 10⁹ clamps to the greatest i32 with NV. -/
theorem test_cvtw :
    (fun t : Thread => t.vget 6 = 2 ∧ t.fflg = Fp.NX) (after (.cvtw (hd .i32) d5 a2 (.imm 12)) (regs [(2, 0x40200000)]))
    ∧ (fun t : Thread => t.vget 6 = 0x7FFFFFFF ∧ t.fflg = Fp.NV) (after (.cvtw (hd .i32) d5 a2 (.imm 12)) (regs [(2, 0x4F32D05E)])) := by
  decide +kernel

/-! ### Control words (TransfersAndLoops to RaisedCausesAndReturns) -/

/-- A head that ends its stretch. -/
def he (t : VType := .b32) (m : BitVec 4 := 0) : Head := ⟨⟨false, 7⟩, t, m, ⟨true, 0, false, false, 0⟩⟩

/-- An open loop level at the current trap level. -/
def inLoop (n : Word) : State → State := th0 fun t => { t with loops := [⟨n, t.hdr, 0x7000, t.tlvl⟩] }

/-- Whether a word is ready, a cause has its handler, and the word leaves its convoy. -/
def traps (e : State → State) (i : Instr) (cause : BitVec 8) : Bool :=
  let s := onWord i e
  readyB s i 0 && s.handled 0 cause && (match exec i s with | .next t => t.outside 0 && (t.th 0).tca2 == cause.setWidth 32 && (t.th 0).tlvl == 2 | _ => false)

theorem ready_transfers : ([.bra (he) 4, .brx he a2, .ret he a2, .call he d5 (-1), .callx he d5 a2] : List Instr).all ready = true
    ∧ runs (inLoop 1) (.lbrk he) = true ∧ traps id (.lbrk he) 0x01 = true := by decide +kernel

theorem ready_loops : (([.loop he a2 8, .loopx he (.imm 1) 8, .loopx he (.imm 0) 8, .loop he (.imm 0) 5] : List Instr).all fun i => runs id i) = true
    ∧ ([.loop he a2 1, .loopx he (.imm 0) 0xFFFFFFFF] : List Instr).all (fun i => traps id i 0x04) = true
    ∧ traps (th0 fun t => { t with skips := [⟨0x7000, 0⟩] }) (.loop he a2 8) 0x04 = true
    ∧ traps (th0 fun t => { t with loops := List.replicate 4 ⟨1, t.hdr, 0x7000, 0⟩ }) (.loop he a2 8) 0x01 = true := by decide +kernel

theorem ready_modes : ([.nop (hd .b32), .waitf (hd .b32) 0xFFF, .setmode (hd .b32) 4 7, .setperf (hd .b32) a2, .getclk (hd .b32) d5 (.imm 0),
    .getclk (hd .b32) d5 (.imm 1), .exit he, .yield he, .phase he] : List Instr).all ready = true
    ∧ traps (th0 fun t => { t with tlvl := 1 }) (.phase he) 0x01 = true := by decide +kernel

/-- 08 R218: a value of a rounding field above 4 leaves the old field. 08 R200: LOOPX with a zero count goes on at the exit. -/
theorem test_modes : (after (.setmode (hd .b32) 0x3B 0x3F) id).fmode = 0x3B ∧ (after (.setmode (hd .b32) 0x3F 0x3F) id).fmode = 0x38
    ∧ (after (.loopx he (.imm 0) 8) id).pc = 0x10070 ∧ (after (.loopx he (.imm 3) 8) id).loops.map (·.lc) = [3] := by decide +kernel

/-- MovingOn: a jump, a repetition, a loop's end above and at its last pass, a skip taken. -/
theorem wit_moving : let t : Thread := { pc := 0x100C, hdr := 0x1000, src := 0x1000 };
    (Thread.complete { t with jump := some 0x2000 } 0 true).pc = 0x2000
    ∧ (Thread.complete { t with rep := some ⟨0, 2, 1, 0, 0⟩ } 0 false).rep = some ⟨1, 2, 1, 0, 0⟩
    ∧ (Thread.complete { t with rep := some ⟨1, 2, 1, 0, 0⟩ } 0 false).rep = none
    ∧ (Thread.complete { t with loops := [⟨2, 0x1000, 0x100C, 0⟩] } 0 true).flow = ⟨0x1000, [⟨1, 0x1000, 0x100C, 0⟩], [], none⟩
    ∧ (Thread.complete { t with loops := [⟨1, 0x1000, 0x100C, 0⟩] } 0 true).flow = ⟨0x1018, [], [], none⟩
    ∧ (Thread.complete { t with skips := [⟨0x4000, 0⟩] } 0 true).flow = ⟨0x4000, [], [], none⟩ := by decide +kernel

/-! ### Repeats, causes of words, traps and returns -/

/-- The word that stands behind the tested one. -/
def next (i : Instr) (n : Instr) (s : State) : State :=
  { s with mem := writeBytes s.mem placeAt (blockOf [placeHeader (wordOf i), wordOf i, wordOf n]) }

def rpt3 : Instr := .rpt (hd .b32) 3 1 0 1

theorem wit_repeats :
    traps id (.rpt he 3 1 0 1) 0x04 = true                                       -- nothing follows
    ∧ traps (next rpt3 (.nop he)) rpt3 0x01 = true                                -- a barred word
    ∧ runs (next rpt3 (.iadd (he .i32) (.v 20) a2 b3)) rpt3 = true
    ∧ (after rpt3 (next rpt3 (.iadd (he .i32) (.v 20) a2 b3))).rep = some ⟨0, 4, 1, 0, 1⟩
    ∧ traps (next rpt3 (.iadd (he .i32) (.v 252) a2 b3)) rpt3 0x01 = true         -- its fourth repetition leaves the registers
    ∧ stepWord (wordOf (.iadd (he .i32) (.v 20) a2 b3)) (3, 0, 3) = some (wordOf (.iadd (he .i32) (.v 23) a2 (.v 13)))
    ∧ stepWord (wordOf (.iadd (he .i32) (.v 255) a2 b3)) (1, 0, 0) = none := by decide +kernel

/-- A guard that is false: predicate 0 of a fresh thread. -/
def hf : Head := ⟨⟨false, 0⟩, .i32, 0, ⟨false, 0, false, false, 0⟩⟩

/-- The tested word's place in its stretch moved off the last. -/
def longer (s : State) : State := { s with convoys := s.convoys.map fun c => { c with len := 3 } }

/-- Whether thread 0 stands at the word, and the word ends in the cause. -/
def causes (e : State → State) (i : Instr) (cause : BitVec 8) : Bool :=
  let s := onWord i e
  standsB s i 0 && s.handled 0 cause && (match exec i s with | .next t => t.outside 0 && (t.th 0).tca2 == cause.setWidth 32 | _ => false)

theorem wit_causes :
    (let s := onWord (.iadd hf d5 a2 b3);
      standsB s (.iadd hf d5 a2 b3) 0 && !s.guard 0 hf.g && !s.guardPending 0 hf && ((after (.iadd hf d5 a2 b3) id).vget 6 == 0)) = true
    ∧ causes longer (.nop he) 0x04 = true                                         -- END not at the last place
    ∧ causes longer (.bra (hd .b32) 4) 0x04 = true                                -- a transfer before the last place
    ∧ causes id (.iadd (hd .f32) d5 a2 b3) 0x01 = true                            -- a type the row does not accept
    ∧ causes (fun s => s.setCx 0 fun c => { c with sys := false }) (.srd (hd .n64) d5 0x102) 0x03 = true := by decide +kernel

theorem wit_headers :
    (let s := onWord (.strh 5 0x10 0x1B 24 7);
      match s.front, exec (.strh 5 0x10 0x1B 24 7) s with
      | some c, .next t => c.pc == c.hdr && c.mem != [] && t.front.any fun d => d.len == 24 && d.wait == 5 && d.pc == nextPC c.hdr
      | _, _ => false) = true
    ∧ (match exec (.strh 0 0x1C 0 1 0) (onWord (.strh 0 0x1C 0 1 0)) with | .next t => (t.th 0).tca2 == 4 | _ => false) = true
    ∧ (match exec (.strh 0 0 0 1 0) (onWord (.nop (hd .b32))) with | .next t => (t.th 0).tca2 == 4 && t.outside 0 | _ => false) = true := by
  decide +kernel

/-- Where a cause goes (TrapEntry): to level 1 through TRAP1, to level 2, and to a kill. -/
theorem wit_traps :
    let s := onWord (.trap (hd .b32) 7);
    let s1 := s.setLa 0 fun l => { l with rcd := { l.rcd with trap1 := 0x8000 } };
    let s0 := s.setCx 0 fun c => { c with tvec2 := 0 };
    (s1.cx 0).route.getLsbD 0x20 = true ∧ (((s1.trap 0 ⟨0x20, 7, none, none⟩).th 0).tlvl, ((s1.trap 0 ⟨0x20, 7, none, none⟩).th 0).pc) = (1, 0x8000)
    ∧ (((s.trap 0 ⟨0x20, 7, none, none⟩).th 0).tlvl, ((s.trap 0 ⟨0x20, 7, none, none⟩).th 0).pc) = (2, 0x9000)
    ∧ (((s.trap 0 ⟨0x20, 7, none, none⟩).th 0).tpc2, ((s.trap 0 ⟨0x20, 7, none, none⟩).th 0).tva2) = (0x1000C, 7)
    ∧ ((s0.trap 0 ⟨0x20, 7, none, none⟩).cx 0).killed = true
    ∧ traps id (.trap (hd .b32) 0xFFFF) 0x20 = true
    ∧ ([.idiv (hd .i32) d5 a2 b3, .irem (hd .n64) d5 a2 b3, .idivImm (hd .i32) d5 a2 0, .iremImm (hd .i32) d5 a2 0] : List Instr).all
        (fun i => traps (th0 fun t => { t with fmode := 0x10 }) i 0x08) = true := by decide +kernel

/-- TRET and TRETS at their levels, and at another: the saved address is the tested header's, with HOFS 0. -/
theorem wit_returns :
    (let s := onWord (.tret he) (th0 fun t => { t with tlvl := 1, tpc1 := 0x10000 }); readyB s (.tret he) 0 = true
      ∧ (match exec (.tret he) s with | .next t => (t.th 0).pc == 0x10000 && (t.th 0).tlvl == 0 && t.outside 0 | _ => false) = true)
    ∧ (let s := onWord (.trets he) (th0 fun t => { t with tlvl := 2, tst2 := 0x20, tpc2 := 0x10000 }); readyB s (.trets he) 0 = true
      ∧ (match exec (.trets he) s with | .next t => (t.th 0).pc == 0x10000 && (t.th 0).tlvl == 1 && t.outside 0 | _ => false) = true)
    ∧ traps id (.tret he) 0x01 = true ∧ traps (th0 fun t => { t with tlvl := 1 }) (.trets he) 0x01 = true := by decide +kernel

/-! ### Cross-lane words -/

/-- Threads 0 to n − 1 of a row at the word, in one convoy. -/
def onRow (n : Nat) (i : Instr) (e : State → State := id) : State :=
  let s := onWord i
  e { s with threads := (List.range n).map fun k => (k, s.th 0), convoys := s.convoys.map fun c => { c with mem := List.range n } }

/-- Whether the members of the convoy meet at the word, checked. -/
def meetB (s : State) (i : Instr) (mask : Word) (r : Nat) : Bool :=
  match i.head, s.front with
  | some h, some c =>
      c.mem != [] && decide c.mem.Nodup && (c.mem.all fun k => rowKey k == r && mask.getLsbD (laneOf k))
      && ((List.range 32).all fun l => !mask.getLsbD l || !s.live (laneKey r l) || c.mem.contains (laneKey r l))
      && ((s.rowThreads r).all fun k => (s.th k).meeting.isNone)
      && ((s.convoys.drop 1).all fun d => !d.isOf c.part c.lane && d.mem.all fun k => !c.mem.contains k)
      && (c.mem.all fun k => (s.th k).pc == c.pc && (s.th k).jump.isNone && (s.th k).rep.isNone && (s.th k).wait == .none && s.live k && (s.wordFault c i h k).isNone
        && !s.holdsBack c i h noBlock k && (s.heldOp k).isNone)
      && (c.mem.all fun k => !s.guard k h.g || ((s.regenFor k i (s.coverOf i h c.mem r)).isNone && (s.regenFault k i).isNone
        && !s.readsBad k i && ((s.vReads k i).all fun g => match s.rreg r g with
          | some x => x.form != .spilled
          | none => true)))
      && (s.pt c.part).rgu.isNone && (s.rows.all fun (_, x) => x.regs.all fun (_, y) => !y.reserve)
  | _, _ => false

/-- What the check says. -/
theorem meeting_of {s : State} {i : Instr} {mask : Word} {r : Nat} (b : meetB s i mask r = true) : ∃ h c, Meeting s i h mask r c := by
  unfold meetB at b
  split at b
  · rename_i h c hh hc
    simp only [Bool.and_eq_true, beq_iff_eq, bne_iff_ne, ne_eq, Option.isNone_iff_eq_none, decide_eq_true_eq, List.all_eq_true,
      Bool.or_eq_true, Bool.not_eq_eq_eq_not, Bool.not_true, List.contains_iff_mem] at b
    obtain ⟨⟨⟨⟨⟨⟨⟨⟨⟨b1, b2⟩, b3⟩, b4⟩, b5⟩, b6⟩, b7⟩, b8⟩, b9⟩, b10⟩ := b
    refine ⟨h, c, { head := hh, front := hc, some_ := b1, nodup := b2, row := b3, whole := ?_, alone := b5, only := ?_, each := ?_, values := ?_, rgu := b9, reserve := ?_ }⟩
    · intro l hl m lv
      rcases b4 l (List.mem_range.2 hl) with (x | x) | x
      · exact absurd m (by simp [x])
      · exact absurd lv (by simp [x])
      · exact x
    · simp only [List.all_eq_true, Bool.and_eq_true, Bool.not_eq_true']
      intro d hd
      obtain ⟨p, q⟩ := b6 d hd
      exact ⟨p, fun k hk => by simpa using q k hk⟩
    · intro k hk
      obtain ⟨⟨⟨⟨⟨⟨⟨c1, c2⟩, c3⟩, c8⟩, c4⟩, c5⟩, c6⟩, c7⟩ := b7 k hk
      exact ⟨c1, c2, c3, c8, c4, c5, c6, c7⟩
    · intro k hk hg
      rcases b8 k hk with x | x
      · exact absurd hg (by simp [x])
      · exact ⟨x.1.1.1, x.1.1.2, x.1.2, by rw [List.all_eq_true]; exact x.2⟩
    · simp only [List.all_eq_true]
      intro x hx y hy
      simpa using b10 x hx y hy
  · cases b

/-- Whether the word meets on two threads, their destinations have room, and it runs. -/
def meets (i : Instr) (e : State → State := id) : Bool :=
  let s := onRow 2 i e
  meetB s i 3 0 && ([0, 1].all fun k => s.hasRoom k (s.vWrites k i)) && (match exec i s with | .next _ => true | _ => false)

theorem meets_exchanges : ([.lanexPick (hd .b32 1) d5 a2 (.imm 1) 3, .lanexBack (hd .b32) d5 a2 b3 3, .lanexFwd (hd .b32) d5 a2 b3 3, .lanexFlip (hd .n64) d5 a2 b3 3,
    .lanexRot (hd .b32) d5 a2 b3 3, .pollAll (hd .b32) (.sp 1) a2 3, .pollAny (hd .b32) d5 a2 3, .pollSame (hd .b32) (.sp 2) a2 3,
    .pollMask (hd .b32) d5 a2 3, .pollCount (hd .b32) d5 a2 3, .peersGroup (hd .b32 1) d5 a2 3, .peersWhole (hd .n64) d5 a2 3] : List Instr).all (fun i => meets i) = true := by
  decide +kernel

theorem meets_reductions : ([.mredAdd (hd .i32) d5 a2 b3 3, .mredMin (hd .n32) d5 a2 b3 3, .mredMax (hd .f32) d5 a2 b3 3, .mredAnd (hd .b32) d5 a2 b3 3,
    .mredOr (hd .b32) d5 a2 b3 3, .mredXor (hd .b32) d5 a2 b3 3, .scanAdd (hd .i32) d5 a2 3, .scanMin (hd .i64) d5 a2 3, .scanMax (hd .i32) d5 a2 3,
    .scanAnd (hd .b32) d5 a2 3, .scanOr (hd .b32) d5 a2 3, .scanXor (hd .b32 8) d5 a2 3, .redxAdd (hd .f32) d5 a2 3, .redxMin (hd .i32) d5 a2 3,
    .redxMax (hd .i32) d5 a2 3, .redxAnd (hd .b32) d5 a2 3, .redxOr (hd .b32) d5 a2 3, .redxXor (hd .b32) d5 a2 3,
    .hist (hd .n32) d5 a2 (.imm 1) 3, .hmrg (hd .n32) d5 (.v 20) (.imm 4) 3] : List Instr).all (fun i => meets i) = true := by decide +kernel

/-- Registers of lane l set. -/
def lane (l : Nat) (ls : List (Nat × Word)) (s : State) : State := s.setTh l fun t => { t with v := ls.foldl (fun v x => Tab.put x.1 x.2 v) t.v }

/-- 10 R256: MRED over lanes 0 to 7, lane 6 exited. -/
theorem test_mred :
    let i : Instr := .mredAdd (hd .n32 3) (.v 10) (.v 1) (.v 2) 0xFF;
    let s := onRow 8 i fun s => { lane 7 [(1, 3), (2, 7)] (lane 5 [(1, 9), (2, 6)] (lane 4 [(1, 3), (2, 5)] (lane 3 [(1, 5), (2, 4)] (lane 2 [(1, 5), (2, 3)]
      (lane 1 [(1, 3), (2, 2)] (lane 0 [(1, 5), (2, 1)] (s.setTh 6 fun t => { t with status := .exited }))))))) with
        convoys := s.convoys.map fun c => { c with mem := [0, 1, 2, 3, 4, 5, 7] } };
    (match exec i s with
      | .next t => [0, 1, 5, 2, 3, 4, 7, 6].map fun k => ((t.th k).vget 10, (t.th k).vget 11, (t.th k).p.getLsbD 3)
      | _ => []) = [(8, 0x23, true), (14, 0x23, true), (6, 0x23, true), (0, 0x23, false), (0, 0x23, false), (0, 0x23, false), (0, 0x23, false), (0, 0, false)] := by
  decide +kernel

/-- 10 R249, R254: FLIP exchanges neighbours; a SCAN.add of one lane's value alone is that value. -/
theorem test_lanes :
    (match exec (.lanexFlip (hd .b32 1) d5 a2 (.imm 1) 3) (onRow 2 (.lanexFlip (hd .b32 1) d5 a2 (.imm 1) 3) fun s => lane 0 [(2, 8)] (lane 1 [(2, 9)] s)) with
      | .next t => ((t.th 0).vget 6, (t.th 1).vget 6)
      | _ => (0, 0)) = (9, 8)
    ∧ (match exec (.scanAdd (hd .i32) d5 a2 3) (onRow 2 (.scanAdd (hd .i32) d5 a2 3) fun s => lane 0 [(2, 8)] (lane 1 [(2, 9)] s)) with
      | .next t => ((t.th 0).vget 6, (t.th 1).vget 6)
      | _ => (0, 0)) = (8, 17) := by decide +kernel

/-- Rendezvous: a mask without the thread's own lane; one that names a lane of the row that has not arrived. -/
theorem wit_rendezvous :
    (Instr.isCrossLane (.pollAny (hd .b32) d5 a2 2)) = true ∧ (encode (.pollAny (hd .b32) d5 a2 2)).map (·.extractLsb' 20 32) = some 2
    ∧ traps id (.pollAny (hd .b32) d5 a2 2) 0x19 = true
    ∧ (let i : Instr := .pollAny (hd .b32) d5 a2 3;
      let s := onWord i fun s => { s with threads := Tab.put 1 (s.th 0) s.threads };
      readyB s i 0 = true ∧ ((List.range 32).all fun m => !(3 : Word).getLsbD m || (s.th (laneKey 0 m)).status != .phase) = true
      ∧ (match exec i s with | .next t => (t.th 0).status == .waiting && t.outside 0 | _ => false) = true) := by decide +kernel

/-! ### Recipes and affine registers -/

def sl : Instr := .slice (hd .b32) (.v 6) 1

/-- Slices: one that is marked, and one that breaks rule 4 at its first word; the other recipe words. -/
theorem wit_slices :
    (let s := onWord sl (next sl (.iaddImm (he .i32) (.v 6) a2 5)); readyB s sl 0 = true ∧ s.wordAfter 0 (s.th 0).pc 1 = .word (wordOf (.iaddImm (he .i32) (.v 6) a2 5))
      ∧ (after sl (next sl (.iaddImm (he .i32) (.v 6) a2 5))).slice = some ⟨6, 0x10018, 1, [2], 1⟩)
    ∧ traps (next sl (.getclk he (.v 6) (.imm 0))) sl 0x02 = true
    ∧ (match exec sl (onWord sl (next sl (.nop he))) with | .next t => (t.th 0).tva2 == 0x13 | _ => false) = true     -- rule 3 at word 1
    ∧ runs id (.rcpmat (hd .b32) d5) = true ∧ runs (regs [(6, 9)]) (.rcpdrop (hd .b32) d5) = true ∧ runs (regs [(6, 9)]) (.rcpstat (hd .b32) (.v 20) d5) = true := by
  decide +kernel

/-- 02 R61, 10 R261: after its slice a register is eligible; RCPSTAT tells it. -/
theorem test_rcpstat :
    (after (.rcpstat (hd .b32 2) (.v 20) d5) fun s => th0 (fun t => { t with elig := [⟨6, 0x10018, 1, 1, [2], 0⟩] }) (regs [(6, 9)] s)).vget 20
      = 0x10119 := by decide +kernel

/-- The operands of 10 R272: a1 and a2. -/
def aff12 : State → State := regs [(17, 0x40000000), (20, 5), (21, 0x3F000000), (33, 0x40080000), (36, 5), (37, 0xBE800000), (38, 9), (39, 0x3F800000)]

def r16 (t : Thread) (g : Nat) : List Word := (List.range 16).map fun j => t.vget (g + j)

/-- The crew's next symbol is 65. -/
def block65 (s : State) : State := s.setCr 0 fun c => { c with block := some (65, 128) }

/-- 10 R272, minting and not. -/
theorem test_afmul :
    r16 (after (.afmul (hd .b32) (.v 48) (.v 16) (.v 32)) fun s => block65 (aff12 s)) 48
      = [0, 0x40180000, 0, 0, 5, 0x3F800000, 9, 0x40000000, 65, 0x3F200000, 0, 0, 0, 0, 0, 0]
    ∧ r16 (after (.afmul (hd .b32) (.v 48) (.v 16) (.v 32)) fun s => th0 (fun t => { t with fmode := 0x20 }) (aff12 s)) 48
      = [0, 0x40180000, 0, 0x3FE40000, 5, 0x3F800000, 9, 0x40000000, 0, 0, 0, 0, 0, 0, 0, 0] := by decide +kernel

/-- 10 R272: its bounds, 2.375 and 9.625. -/
theorem test_afbnd : (fun t : Thread => (List.range 4).map t.vget = [0, 0x40030000, 0, 0x40234000])
    (after (.afbnd (hd .b32) (.v 0) (.v 48)) (regs [(49, 0x40180000), (52, 5), (53, 0x3F800000), (54, 9), (55, 0x40000000), (56, 65), (57, 0x3F200000)])) := by
  decide +kernel

theorem ready_affine : ([.afadd (hd .b32) (.v 48) (.v 16) (.v 32), .afsub (hd .b32) (.v 48) (.v 16) (.v 32), .afscl (hd .b32) (.v 48) (.v 16) (.v 4),
    .afmul (hd .b32) (.v 48) (.v 16) (.v 32), .afsqr (hd .b32) (.v 48) (.v 16), .afrec (hd .b32) (.v 48) (.v 16), .afcond (hd .b32) (.v 48) (.v 16) (.v 4) 0 0,
    .afcond (hd .b32) (.v 48) (.v 16) (.v 4) 6 1, .afini (hd .b32) (.v 48) (.v 4) (.v 6) 9, .afbnd (hd .b32) (.v 0) (.v 16),
    .afsym (hd .b32) d5] : List Instr).all (runs fun s => block65 (aff12 s)) = true := by decide +kernel

/-- The clauses of AffineErrors: an operand that is no number, no error, an error with no symbol to take, a block of the launch, none left,
an operand that holds 0. -/
theorem wit_affine_errors :
    ((onWord (.afsqr (hd .b32) (.v 48) (.v 16)) (regs [(17, 0x7FF80000)])).aff 0 (.v 16)).isNone = true
    ∧ runs (regs [(17, 0x7FF80000)]) (.afsqr (hd .b32) (.v 48) (.v 16)) = true
    ∧ ((onWord (.afsqr (hd .b32) (.v 48) (.v 16)) id).aff 0 (.v 16)).isSome = true ∧ runs id (.afsqr (hd .b32) (.v 48) (.v 16)) = true
    ∧ runs (fun s => (aff12 s).setLa 0 fun l => { l with rcd := { l.rcd with sympool := 64 } }) (.afsqr (hd .b32) (.v 48) (.v 16)) = true
    ∧ traps aff12 (.afsqr (hd .b32) (.v 48) (.v 16)) 0x18 = true
    ∧ traps id (.afrec (hd .b32) (.v 48) (.v 16)) 0x08 = true
    ∧ traps id (.afsym (hd .b32) d5) 0x18 = true := by decide +kernel

/-- The hypotheses of AffineArithmetic and AffineEncloses on an operand: a1. -/
theorem wit_affine : (((onWord (.afsqr (hd .b32) (.v 48) (.v 16)) aff12).aff 0 (.v 16)).map fun a =>
    decide (0 < a.c.den) && decide (0 < a.r.den) && decide (0 ≤ a.r.num) && a.q.map (·.1) == [5] && (a.q.all fun t => decide (0 < t.2.den))
      && (affSqr true a).x.words.isSome && (affRec true a).isSome) = some true := by decide +kernel

/-! ### Memory words -/

/-- A global access of the owned type, and one to the crew scratch. -/
def mg (ofs : BitVec 20 := 0) : MemF := ⟨.crew, .g, .own, 0, ofs⟩
def ms (ofs : BitVec 20 := 0) : MemF := ⟨.crew, .s, .own, 0, ofs⟩

/-- v2, v3 hold the address of mapped memory. -/
def at200 : State → State := regs [(2, 0x10200), (3, 0), (4, 2), (5, 0), (8, 7), (9, 1), (10, 3)]

/-- The head of a word on flag A. -/
def hA (t : VType) (m : BitVec 4 := 0) : Head := ⟨⟨false, 7⟩, t, m, ⟨false, 1, false, false, 0⟩⟩

/-- Whether the word is ready and leaves one operation pending, or another number, memory as it was. -/
def issues (e : State → State) (i : Instr) (n : Nat := 1) : Bool :=
  let s := onWord i e
  readyB s i 0 && !s.remoteBusy 0 .g 0x10200 { r := true, size := 4 }
    && (match exec i s with | .next t => t.ops.length == n && t.mem == s.mem | _ => false)

theorem wit_accesses : ([.ld (hA .i32) (.v 6) (.v 2) (.imm 0) (mg), .ld (hA .n64 1) (.v 20) (.v 2) (.v 4) ⟨.crew, .g, .own, 3, 16⟩, .st (hd .i32) (.v 6) (.v 2) (.imm 0) (mg),
      .st (hd .i8) (.imm 5) (.v 2) (.imm 0) (mg 1), .ld (hA .b32) (.v 6) (.imm 0) (.imm 0) (ms 4), .atomAdd (hA .i32) (.v 6) (.v 2) (.v 8) (mg), .atomMin (hd .i32) (.imm 0) (.v 2) (.v 8) (mg),
      .atomMax (hd .n64) (.imm 0) (.v 2) (.v 8) (mg), .atomAnd (hd .n32) (.imm 0) (.v 2) (.v 8) (mg), .atomOr (hd .n32) (.imm 0) (.v 2) (.v 8) (mg),
      .atomXor (hd .n32) (.imm 0) (.v 2) (.v 8) (mg), .atomExch (hA .n64) (.v 6) (.v 2) (.v 8) (mg), .atomInc (hd .n32) (.imm 0) (.v 2) (.v 8) (mg),
      .atomDec (hd .n32) (.imm 0) (.v 2) (.v 8) (mg), .atomCas (hA .n32) (.v 6) (.v 2) (.v 8) (mg), .atomFadd (hd .f32) (.imm 0) (.v 2) (.v 8) (mg),
      .atomFmin (hd .f32) (.imm 0) (.v 2) (.v 8) (mg), .atomFmax (hd .f64) (.imm 0) (.v 2) (.v 8) (mg)] : List Instr).filter (fun i => !issues at200 i) = []
    -- quarter by quarter, 05 R123
    ∧ ([.afld (hA .b32) (.v 16) (.v 2) (.imm 0) (mg), .afst (hd .b32) (.v 16) (.v 2) (.imm 0) (mg 64)] : List Instr).all (fun i => issues at200 i 4) = true
    ∧ runs at200 (.pref (hd .b32) (.v 2) (.imm 0) (mg)) = true
    ∧ traps at200 (.ld (hA .i32) (.v 6) (.v 2) (.imm 0) (mg 2)) 0x12 = true
    ∧ traps id (.st (hd .i32) (.v 6) (.v 2) (.imm 0) (mg)) 0x10 = true
    ∧ traps (fun s => { at200 s with poison := [0x10200] }) (.ld (hA .i32) (.v 6) (.v 2) (.imm 0) (mg)) 0x30 = true := by decide +kernel

/-- The next state of an instruction or event. -/
def go (i : Instr) (s : State) : State :=
  match exec i s with
  | .next t => t
  | _ => { s with fatal := true }

/-- The state in which the word has issued. -/
def issued (i : Instr) (e : State → State) : State := go i (onWord i e)

/-- Whether operation `id` is pending in memory, held back by nothing, on a line that no L1 owns. -/
def freeB (s : State) (id : Nat) : Bool :=
  match Tab.find id s.ops with
  | some o => (match o.loc with
    | .mem pa => o.held.isNone && o.acq.isNone && o.early.isNone && o.notBefore.isNone && o.group.isNone && !o.isKnock && s.enabled id o && (s.leaseHolder (lineOf pa)).isNone
        && decide (pa % 128 + o.size ≤ 128) && (s.cores.all fun x => (Tab.find (lineOf pa) x.2.owned).isNone) && (s.leaseUntil (lineOf pa)).isNone
    | _ => false)
  | none => false

/-- Memory that holds 41 at 0x10200. -/
def mem41 (s : State) : State := { at200 s with mem := writeByte s.mem 0x10200 41 }

/-- The number of the operation a word left pending. -/
def opId (s : State) : Nat := match s.ops with | (n, _) :: _ => n | [] => 0

/-- Performing: a store of each kind, an atomic that returns nothing, one that returns, a load. -/
theorem wit_performing :
    (let s := issued (.st (hd .i32) (.v 8) (.v 2) (.imm 0) ⟨.crew, .g, .wt, 0, 0⟩) mem41; let id := opId s; let t := go (.homeStoreMerge id) s;
      freeB s id && leNat (t.coh 0x10200 4) == 7 && t.ops == []) = true
    ∧ (let s := issued (.st (hd .i32) (.v 8) (.v 2) (.imm 0) (mg)) mem41; let id := opId s; let t := go (.exclusiveOwnershipGrant 0 0x10200) s;
      freeB s id && leNat (t.coh 0x10200 4) == 7 && t.ops == [] && (Tab.find 0x10200 (t.co 0).owned).isSome) = true
    ∧ (let s := issued (.atomAdd (hd .i32) (.imm 0) (.v 2) (.v 8) ⟨.crew, .g, .wt, 0, 0⟩) mem41; let id := opId s; let t := go (.homeStoreMerge id) s;
      freeB s id && leNat (t.coh 0x10200 4) == 48 && t.ops == []) = true
    ∧ (let s := issued (.atomCas (hA .n32) (.v 6) (.v 2) (.v 8) (mg)) mem41; let id := opId s; let t := go (.longLatencyComplete id) s;
      freeB s id && leNat (t.coh 0x10200 4) == 41 && (t.th 0).vget 6 == 41 && t.ops == [] && Tab.getD 0 0 (s.th 0).cf == 1 && Tab.getD 0 0 (t.th 0).cf == 0) = true
    ∧ (let s := issued (.ld (hA .i8) (.v 6) (.v 2) (.imm 0) (mg)) mem41; let id := opId s; let t := go (.longLatencyComplete id) s;
      freeB s id && (t.th 0).vget 6 == 41 && t.ops == [] && s.hasRoom 0 [6]) = true := by decide +kernel

/-- 11 R281: the functions at values that tell their halves apart. -/
theorem test_atomics : [0, 1, 2, 3, 4, 5, 6, 7, 8, 9].map (fun fn => atomNew fn .i32 0xFFFFFFFF 1 9)
      = [0, 0xFFFFFFFF, 1, 1, 0xFFFFFFFF, 0xFFFFFFFE, 1, 0, 1, 0xFFFFFFFF]
    ∧ atomNew 2 .n32 0xFFFFFFFF 1 0 = 0xFFFFFFFF ∧ atomNew 9 .n32 1 1 9 = 9 ∧ atomNew 8 .n32 0 5 0 = 5 ∧ atomNew 10 .f16 0x3C004000 0x3C003C00 0 = 0x40004200 := by
  decide +kernel

/-! ### Leases, fences, barriers -/

def lw (age : BitVec 4 := 0) : Instr := .lease (hd .b32 age) (.sp 1) (.v 2) (.imm 64) ⟨.crew, .g, .own, 0, 0⟩

/-- Another thread's lease on the line, and this thread's own. -/
def others (s : State) : State := (at200 { s with threads := Tab.put 1 { s.th 0 with leases := [⟨0x10200, List.replicate 128 0, 99, .crew, 0, []⟩] } s.threads })
def mine (l : List Nat) (s : State) : State := th0 (fun t => { t with leases := l.map fun x => ⟨x, List.replicate 128 3, 99, .crew, 0, []⟩ }) (at200 s)

/-- Whether the lease word is ready, nothing of its line is in the way, and what it says in its predicate. -/
def leases (e : State → State) (age : BitVec 4) (v : Bool) : Bool :=
  let s := onWord (lw age) e
  readyB s (lw age) 0 && !s.merging 0 .crew && !s.lineBusy 0 0x10200 && ((go (lw age) s).th 0).p.getLsbD 1 == v

theorem wit_leases :
    leases at200 0 true = true ∧ ((go (lw) (onWord (lw) at200)).th 0).leases.map (·.line) = [0x10200]            -- granted
    ∧ leases (mine [0x10200]) 0 true = true                                                             -- held already
    ∧ leases (mine [0x10000, 0x10080]) 0 false = true                                                   -- a third
    ∧ leases others 0 false = true                                                                      -- another thread's
    ∧ (let s := onWord (lw 1) others; let t := go (lw 1) s; readyB s (lw 1) 0 && (t.th 0).status == .waiting && t.outside 0) = true
    ∧ (let i : Instr := .lend (hd .b32) (.sp 1); let s := onWord i (mine [0x10200]); let t := go i s;
      readyB s i 0 && !s.lendWait 0 && (t.th 0).leases == [] && (t.th 0).p.getLsbD 1) = true
    ∧ (let s := onWord (.nop (hd .b32)) (mine [0x10000]); let u := s.breakLeases 0;
      (u.th 0).broken && (u.th 0).leases == [] && u.cohByte 0x10005 == 3 && u.cohByte 0x10085 == s.cohByte 0x10085) = true
    ∧ traps id (lw) 0x10 = true := by decide +kernel

/-- A core with copies of every kind, and one dirty line, wholly or partly in the range. -/
def cached (s : State) : State := (regs [(2, 0x10200), (3, 0), (4, 256), (5, 0), (8, 10), (9, 0)] s).setCo 0 fun c =>
  { c with copies := [⟨.si, none, 0x10000, [1], 0⟩, ⟨.ro 0, none, 0x10080, [2], 0⟩], owned := [(0x10200, [(3, 9)]), (0x10300, [(0, 8)])] }

theorem wit_fences :
    ([.fenceAcq (hd .b32) .plain, .fenceAr (hd .b32) .device, .fenceSc (hd .b32) .domain] : List Instr).all (fun i => runs cached i
      && (((go i (onWord i cached)).co 0).copies.map (·.kind)) == [.ro 0]) = true
    ∧ (runs cached (.fenceRel (hd .b32) .crew) && runs cached (.fenceAcq (hd .b32) .valley)) = true
    ∧ (let i : Instr := .roinv (hd .b32); runs cached i && (((go i (onWord i cached)).co 0).copies.map (·.kind)) == [.si]) = true
    ∧ (let i : Instr := .cwb (hd .b32) (.v 2) (.v 4); let t := go i (onWord i cached); runs cached i
      && (t.co 0).owned == [(0x10200, []), (0x10300, [(0, 8)])] && readByte t.mem 0x10203 == 9) = true
    ∧ (let i : Instr := .cinv (hd .b32) (.v 2) (.v 4); let t := go i (onWord i cached); runs cached i
      && (t.co 0).owned == [(0x10300, [(0, 8)])] && readByte t.mem 0x10203 == 9) = true
    ∧ (let i : Instr := .cinvDiscard (hd .b32) (.v 2) (.v 4); let t := go i (onWord i cached); runs cached i
      && (t.co 0).owned == [(0x10300, [(0, 8)])] && t.cohByte 0x10203 == 0) = true
    ∧ (let i : Instr := .cresize (hd .b32) (.imm 0); runs cached i && !(onWord i cached).resizeWait 0 && ((onWord i cached).laTh 0).rcd.excl) = true
    ∧ (let i : Instr := .cresize (hd .b32) (.v 8); runs at200 i && !(onWord i at200).resizeWait 0 && ((go i (onWord i at200)).cr 0).ways == 7) = true
    ∧ traps cached (.cresize (hd .b32) (.v 4)) 0x01 = true
    ∧ traps (fun s => s.setLa 0 fun l => { l with rcd := { l.rcd with flags := 0 } }) (.cresize (hd .b32) (.imm 0)) 0x03 = true := by decide +kernel

/-- A release fence waits for a store of its thread that is not performed. -/
theorem wit_fence_waits :
    (let s := issued (.st (hd .i32) (.v 8) (.v 2) (.imm 0) ⟨.crew, .g, .wt, 0, 0⟩) mem41; s.releasing 0 .device) = true := by decide +kernel

def bn : Spec := .sp 0x30

/-- A barrier register that expects 2 and has 1; its phase 5. -/
def bar2 (s : State) : State := (at200 s).setCr 0 fun c => { c with bar := [(0, ⟨2, 1, 5⟩)] }

/-- A memory barrier at 0x10200 that expects 3, phase 4. -/
def mbar3 (s : State) : State := { bar2 s with mem := writeBytes s.mem 0x10200 (leBytes 4 3 ++ leBytes 4 1 ++ leBytes 4 4) }

theorem wit_barriers :
    (let i : Instr := .bninit (hd .b32) bn (.v 4); runs bar2 i && Tab.find 0 ((go i (onWord i bar2)).cr 0).bar == some ⟨2, 0, 5⟩) = true
    ∧ traps bar2 (.bninit (hd .b32) bn (.imm 0)) 0x01 = true
    ∧ (let i : Instr := .bnarr (hd .b32) (.v 6) bn; let t := go i (onWord i bar2); runs bar2 i && Tab.find 0 (t.cr 0).bar == some ⟨2, 0, 6⟩ && (t.th 0).vget 6 == 5) = true
    ∧ (let i : Instr := .bnwait (hd .b32) bn (.imm 4); runs bar2 i && !(go i (onWord i bar2)).outside 0) = true
    ∧ (let i : Instr := .bnwait (hd .b32) bn (.imm 5); readyB (onWord i bar2) i 0 && (go i (onWord i bar2)).outside 0) = true
    ∧ (let i : Instr := .bntest (hd .b32) (.sp 1) bn (.imm 4); runs bar2 i && ((go i (onWord i bar2)).th 0).p.getLsbD 1) = true
    ∧ (let i : Instr := .bntest (hd .b32 1) (.sp 1) bn (.imm 5); runs bar2 i && !((go i (onWord i bar2)).th 0).p.getLsbD 1) = true
    ∧ (let i : Instr := .mbarr (hA .b32) (.v 6) (.v 2) (.v 4) ⟨.device, .g, .own, 0, 0⟩; let s := onWord i mbar3; let t := go i s;
      readyB s i 0 && t.coh 0x10200 12 == leBytes 4 3 ++ leBytes 4 0 ++ leBytes 4 5) = true
    ∧ (let i : Instr := .mbwait (hd .b32) (.v 2) (.imm 3) ⟨.device, .g, .own, 0, 0⟩; runs mbar3 i && !(go i (onWord i mbar3)).outside 0) = true
    ∧ (let i : Instr := .mbwait (hd .b32) (.v 2) (.imm 4) ⟨.device, .g, .own, 0, 0⟩; let t := go i (onWord i mbar3);
      readyB (onWord i mbar3) i 0 && t.outside 0 && t.coh 0x1020C 4 == [1, 0, 0, 0]) = true
    ∧ traps mbar3 (.mbarr (hA .b32) (.v 6) (.v 2) (.v 4) ⟨.device, .g, .own, 0, 8⟩) 0x12 = true := by decide +kernel

/-! ### Engines and queues -/

/-- A channel in state st, and a head address in v2, v3. -/
def chan (st : Nat) (head : Word) (s : State) : State :=
  (regs [(2, head), (3, 0)] s).setCr 0 fun c => { c with ch := [(0, { st := st, done := 3, cur := 0x10080, code := 6, fault := 0x40 })] }

def cpgo : Instr := .cpgo (hd .b32) (.sp 0x50) (.v 2)
def chanAfter (st : Nat) (head : Word) : Chan := Tab.getD 0 {} ((go cpgo (onWord cpgo (chan st head))).cr 0).ch

theorem wit_channels :
    ([0, 1, 2, 3, 4].all fun st => runs (chan st 0x10100) cpgo && runs (chan st 0) cpgo) = true
    ∧ (chanAfter 1 0).halt = true ∧ (chanAfter 1 0x10100).kick = true ∧ [(chanAfter 2 0).st, (chanAfter 2 0x10100).st, (chanAfter 3 0).st,
        (chanAfter 3 0x10100).st, (chanAfter 0 0).st, (chanAfter 0 0x10100).st, (chanAfter 4 0x10100).st, (chanAfter 0 0x10101).st] = [4, 1, 4, 1, 0, 1, 1, 3]
    ∧ traps (fun s => { chan 0 0x10100 s with acc := [] }) cpgo 0x11 = true
    ∧ ([0, 1, 2].all fun (n : BitVec 8) => runs (chan 3 0) (.cpstat (hd .b32) (.v 6) (.sp 0x50) (.imm n))) = true
    ∧ (after (.cpstat (hd .b32) (.v 6) (.sp 0x50) (.imm 0)) (chan 3 0)).vget 6 = 0x36000003 := by decide +kernel

/-- A job card over INT8 slots whose word at 0xB4 holds st, at 0x10200. -/
def card (st : Nat) : List Byte :=
  leBytes 8 0x10000 ++ leBytes 8 0x10000 ++ leBytes 16 0 ++ (List.replicate 5 (leBytes 16 1)).flatten ++ leBytes 4 0x48000 ++ leBytes 64 0 ++ leBytes 4 st ++ leBytes 72 0

def int8 : Fp.Slot := ⟨12, 0, false, 0, 0, 0, 256, 0, 0, 0, 0, 0⟩

def withCard (st : Nat) (s : State) : State :=
  regs [(2, 0x10200), (3, 0), (8, 0), (9, 0)] (slot1 int8 { s with mem := writeBytes s.mem 0x10200 (card st) })

/-- A convergence register with n signatures awaited of 2. -/
def cv (n : Nat) (s : State) : State := (withCard 0 s).setCr 0 fun c => { c with cv := [(0, ⟨2, n, 0x10200, true⟩)] }

def mxpost : Instr := .mxpost (hd .b32) (.sp 1) (.v 2)
def mxsign : Instr := .mxsign (hd .b32) (.sp 1) (.sp 0x40)

theorem wit_cards :
    (card 0).length = 256 ∧ (onWord mxpost (withCard 0)).cardCheck 0 (card 0) = none
    ∧ (let s := onWord mxpost (withCard 0); let t := go mxpost s; readyB s mxpost 0 && (t.th 0).p.getLsbD 1 && (t.cl 0).table.length == 1 && s.ops == []) = true
    ∧ (let s := onWord mxpost (withCard 1); let t := go mxpost s; readyB s mxpost 0 && !(t.th 0).p.getLsbD 1 && (t.cl 0).table == []) = true
    ∧ (let s := onWord mxpost (withCard 5); ((go mxpost s).cl 0).table.map (·.idx)) = [[0, 0, 0, 0, 0]]
    ∧ traps (fun s => regs [(2, 0x10220), (3, 0)] s) mxpost 0x12 = true ∧ traps (regs [(2, 0x40000), (3, 0)]) mxpost 0x10 = true
    ∧ traps (fun s => { withCard 0 s with acc := [] }) mxpost 0x11 = true
    ∧ (let e := fun (s : State) => (withCard 0 s).setCl 0 fun c => { c with table := List.replicate 16 { card := 0, crew := 0, ctx := 0, launch := 0, bytes := card 0 } };
      let s := onWord mxpost e; readyB s mxpost 0 && !s.mxRoom 0 0 && (go mxpost s).outside 0) = true
    ∧ (let s := onWord mxsign (cv 2); readyB s mxsign 0 && ((go mxsign s).cr 0).cv == [(0, ⟨2, 1, 0x10200, true⟩)] && !((go mxsign s).th 0).p.getLsbD 1) = true
    ∧ (let s := onWord mxsign (cv 1); readyB s mxsign 0 && ((go mxsign s).cr 0).cv == [(0, ⟨2, 2, 0x10200, true⟩)] && ((go mxsign s).cl 0).table.length == 1) = true
    ∧ traps id mxsign 0x01 = true
    ∧ ([.cvinit (hd .b32) (.sp 0x40) (.imm 1) (.v 2), .mxstat (hd .b32) (.v 6) (.v 2)] : List Instr).all (runs (withCard 0)) = true
    ∧ traps (withCard 0) (.cvinit (hd .b32) (.sp 0x40) (.imm 0) (.v 2)) 0x01 = true
    ∧ (after (.mxstat (hd .b32) (.v 6) (.v 2)) (withCard 0x104)).vget 6 = 0x104 := by decide +kernel

/-- An event queue at 0x10800 of plain 0: ring at 0x10400 of n records, TAIL 9, HEAD 0. -/
def evq (n : Nat) (s : State) : State :=
  (regs [(2, 0), (4, 5), (6, 0x1234), (7, 0)] { s with mem := writeBytes s.mem 0x10800 (leBytes 8 0x10400 ++ leBytes 4 n ++ [0, 0, 1, 0] ++ leBytes 8 9 ++ leBytes 8 0) }).setReg 0x500 0x10800

def eqpost : Instr := .eqpost (hd .b32) (.v 2) (.v 4) (.v 6)

theorem wit_eqpost :
    (let s := onWord eqpost (evq 16); let t := go eqpost s; readyB s eqpost 0 && s.eqGrants 0 0 && t.coh (0x10400 + 144) 16 == leBytes 4 5 ++ [4, 0, 0, 0] ++ leBytes 8 0x1234
      && leNat (t.coh 0x10810 8) == 10 && !t.outside 0) = true
    ∧ (let s := onWord eqpost (evq 9); let t := go eqpost s; readyB s eqpost 0 && s.eqGrants 0 0 && t.outside 0 && t.mem == s.mem) = true
    ∧ traps (fun s => { evq 16 s with acc := [] }) eqpost 0x11 = true := by decide +kernel

/-- A launch with one message handler, alone on its device, and its job. -/
def msgs (s : State) : State :=
  { (regs [(4, 0), (6, 1)] s).setLa 0 fun l => { l with msgs := [0x8000], rcd := { l.rcd with msgn := 1, hcrew := 1, jobid := 5 }, hcrewId := some 1, hq := [] } with
    jobs := [(5, { valid := true, epoch := 1, dmap := [0], ctr := { wave := 4, quiet := some 3 } })]
    crews := Tab.put 1 { launch := 0, ctx := 0, core := 0, handler := true, started := true } s.crews }

def msend (dev : Spec) (n : BitVec 8 := 0) : Instr := .msend (hd .b32) (.v 16) dev n

theorem wit_messages :
    (let s := onWord (msend (.v 4)) msgs; let t := go (msend (.v 4)) s; readyB s (msend (.v 4)) 0 && s.takesMsg 0 && (s.jobOf 0).valid && s.sent == []
      && (t.la 0).hq.length == 1 && (t.jobCtr 0).i == 1 && t.sent == []) = true
    ∧ traps msgs (msend (.v 4) 1) 0x11 = true ∧ traps msgs (msend (.v 6)) 0x11 = true
    ∧ (let i : Instr := .qwave (hd .b32) (.v 6); runs msgs i && (after i msgs).vget 6 == 4) = true
    ∧ (let i : Instr := .waitq (hd .b32) (.v 6); readyB (onWord i msgs) i 0 && (go i (onWord i msgs)).outside 0 && ((go i (onWord i msgs)).th 0).wait == .quiet 4) = true
    ∧ (let i : Instr := .waitq (hd .b32) (.v 6); let e := fun s => th0 (fun t => { t with wait := .quiet 2 }) (msgs s); runs e i && (after i e).vget 6 == 3) = true
    ∧ traps (fun s => s.setCr 0 fun c => { c with handler := true }) (.waitq (hd .b32) (.v 6)) 0x01 = true := by decide +kernel

/-! ### System words -/

theorem wit_system_registers :
    (runs id (.srd (hd .n64) (.v 6) 0x102) && runs id (.swr (hd .n64) (.v 2) 0x102) && runs id (.swr (hd .n64) (.v 2) 0)) = true
    ∧ traps id (.srd (hd .n64) (.v 6) 0x0FF) 0x01 = true ∧ traps id (.swr (hd .n64) (.v 2) 0x0FF) 0x01 = true
    ∧ ((onWord (.nop (hd .b32))).sysWrite 0 0x102 (-1)).sysRead 0 0x102 = some 0x10337011E
    ∧ ((onWord (.nop (hd .b32))).sysWrite 0 0x202 (-1)).sysRead 0 0x202 = some 0x80FFFFFF
    ∧ ((onWord (.nop (hd .b32))).sysWrite 0 0x100 (-1)).sysRead 0 0x100 = some 0 := by decide +kernel

/-- Context 1: one thread of crew 1 on core 0, parked or not. -/
def ctx1 (parked : Bool) (s : State) : State :=
  { (regs [(2, 0x10000), (3, 0), (4, 1), (5, 0), (8, 1), (9, 0)] s) with
    crews := Tab.put 1 { launch := 0, ctx := 1, core := 0, started := true } s.crews
    threads := Tab.put 4096 { s.th 0 with pc := 0x10000, status := .ready, parked := parked, elig := [⟨6, 0x10018, 1, 1, [], 0⟩] } (regs [(2, 0x10000), (3, 0), (4, 1), (5, 0), (8, 1), (9, 0)] s).threads
    rows := Tab.put 128 { slot := 1, img := 0, regs := [(6, { form := .mixed })] } (regs [(2, 0x10000), (3, 0), (4, 1), (5, 0), (8, 1), (9, 0)] s).rows
    ctxs := Tab.put 1 { cap := 2 } s.ctxs }

/-- Two cached translations, of contexts 0 and 1. -/
def tlbs (s : State) : State := (ctx1 true s).setCo 0 fun c => { c with tlb := [⟨0, 0x10000, 16, 0x1001F⟩, ⟨1, 0x10000, 16, 0x1001F⟩], icache := [(0x10000, [])] }

theorem wit_maintenance :
    ([.tlbinv (hd .b32) (.imm 0) (.v 4) 0, .tlbinv (hd .b32) (.v 2) (.v 4) 1, .tlbinv (hd .b32) (.imm 0) (.imm 0) 2] : List Instr).map (fun i =>
        (runs tlbs i, ((go i (onWord i tlbs)).co 0).tlb.map (·.ctx))) = [(true, [0]), (true, [0]), (true, [])]
    ∧ (let i : Instr := .icinv (hd .b32); runs tlbs i && ((go i (onWord i tlbs)).co 0).icache == []) = true
    ∧ (let i : Instr := .rcpflush (hd .b32) (.v 6) (.v 4); readyB (onWord i (ctx1 false)) i 0 && (after i (ctx1 false)).vget 6 == 0xFFFFFFFF) = true
    ∧ (let i : Instr := .rcpflush (hd .b32) (.v 6) (.v 4); let t := go i (onWord i (ctx1 true)); readyB (onWord i (ctx1 true)) i 0
      && (onWord i (ctx1 true)).hasRoom 0 [6] && (t.th 4096).elig == [] && (t.th 0).vget 6 == 1) = true
    ∧ (let i : Instr := .stest (hd .b32) (.v 6) 3; runs (ctx1 true) i && !(onWord i (ctx1 true)).testAllowed 0 && (after i (ctx1 true)).vget 6 == 0x302 && (onWord i).testAllowed 0 && readyB (onWord i) i 0) = true
    ∧ (let i : Instr := .setperfSysCap (hd .b32) (.v 6) (.imm 1) (.v 4); runs (ctx1 true) i && (after i (ctx1 true)).vget 6 == 2) = true
    ∧ (let i : Instr := .setperfSysPermits (hd .b32) (.v 6) (.imm 100) (.v 4); runs (ctx1 true) i && ((go i (onWord i (ctx1 true))).cx 1).permits == 64) = true
    ∧ (let i : Instr := .setperfSysCap (hd .b32) (.v 6) (.imm 1) (.imm 9); runs (ctx1 true) i && (after i (ctx1 true)).vget 6 == 0xFFFFFFFF) = true := by
  decide +kernel

theorem wit_contexts :
    ([.park (hd .b32) (.imm 0), .parkRel (hd .b32 1) (.imm 0), .halt (hd .b32) (.imm 0)] : List Instr).all (fun i => traps (ctx1 false) i 0x01) = true
    ∧ (let i : Instr := .park (hd .b32) (.v 4); let t := go i (onWord i (ctx1 true)); runs (ctx1 true) i && (t.th 0).pc == 0x10018) = true
    ∧ (let i : Instr := .park (hd .b32) (.v 4); let t := go i (onWord i (ctx1 false)); readyB (onWord i (ctx1 false)) i 0 && (t.th 0).pc == 0x1000C && (t.th 4096).preempt) = true
    ∧ (let i : Instr := .parkRel (hd .b32 1) (.v 4); let t := go i (onWord i (ctx1 true)); runs (ctx1 true) i && !(t.th 4096).parked) = true
    ∧ (let i : Instr := .halt (hd .b32) (.v 4); let t := go i (onWord i (ctx1 true)); runs (ctx1 true) i && (Tab.find 4096 t.threads).isNone && (Tab.find 1 t.crews).isNone) = true
    ∧ (let i : Instr := .ctxsave (hd .b32) (.v 6) (.imm 9) (.v 2); runs (ctx1 true) i && (after i (ctx1 true)).vget 6 == 2) = true
    ∧ (let i : Instr := .ctxsave (hd .b32) (.v 6) (.v 8) (.v 2); runs (ctx1 false) i && (after i (ctx1 false)).vget 6 == 1) = true
    ∧ (let i : Instr := .ctxload (hd .b32) (.v 6) (.v 8) (.v 2); runs (ctx1 true) i && (after i (ctx1 true)).vget 6 == 1) = true := by decide +kernel

/-- A save area of context 1 at 0x10400: its header, and a thread record whose ticket is 7. -/
def area (s : State) : State :=
  let b := leBytes 4 0x53585443 ++ [1, 0, 0, 0] ++ leBytes 4 1 ++ leBytes 20 0 ++ leBytes 8 0x100
  let r := leBytes 8 0x10000 ++ leBytes 80 0 ++ leBytes 8 7
  let s := (ctx1 true s).setLa 0 fun l => { l with rcd := { l.rcd with flags := 0 } }
  { regs [(2, 0x10400), (3, 0)] s with
    mem := writeBytes (writeBytes s.mem 0x10400 b) 0x10500 r
    launches := Tab.put 1 { ctx := 1 } s.launches
    images := [(7, { ctx := 1, core := 0, crews := [(2, { launch := 1, ctx := 1, core := 0, started := true })], threads := [(8192, s.th 0)], rows := [], tiles := [] })] }

/-- CTXSAVE may begin; CTXLOAD restores the thread, parked. -/
theorem wit_save_load :
    (let i : Instr := .ctxsave (hd .b32) (.v 20) (.v 8) (.v 2); let s := onWord i (ctx1 true); readyB s i 0 && s.resident 1 (some 0) == [4096]
      && !s.saveWait 1 0 0x10000 false) = true
    ∧ (let j : Instr := .ctxload (hd .b32) (.v 20) (.v 8) (.v 2); let s := onWord j area; readyB s j 0 && areaOk (s.coh 0x10400 256) 1
      && !s.linesHeld 0 (spanLines [(.mem 0x10400, 256)]) && ((go j s).th 0).vget 20 == 0 && ((go j s).th 8192).pc == 0x10000 && ((go j s).th 8192).parked) = true := by
  decide +kernel

/-! ### Events: each shows a state that meets the hypotheses of its clause, and what the event leaves -/

/-- A device with one thread at a word, its registers as `at200` sets them. -/
def dev (e : State → State := id) : State := onWord (.nop (hd .b32)) fun s => e (at200 s)

/-- Threads 0 and 32 of lane 0, and 1 of lane 1, ready at the header; the convoys are gone. -/
def atHeader (e : State → State := id) : State :=
  let s := dev
  let t : Thread := { s.th 0 with pc := (s.th 0).hdr, status := .ready }
  e { s with convoys := [], threads := [(0, { t with since := 5 }), (1, t), (32, { t with since := 3 })] }

theorem wit_arbitration :
    ((atHeader).chosen 0 = [1, 32] ∨ (atHeader).chosen 0 = [32, 1]) ∧ ((atHeader).pt 0).rgu = none ∧ ((atHeader).co 0).dead = false
    ∧ ((go (.convoyArbitration 0) atHeader).th 32).status = .running ∧ ((go (.convoyArbitration 0) atHeader).th 0).status = .ready
    ∧ (let s := atHeader fun s => s.setTh 0 fun t => { t with starved := true, pc := 0x10018, hdr := 0x10018 };
      s.competitors 0 = [0, 1, 32] ∧ s.chosen 0 = [0]) := by decide +kernel

theorem wit_thread_events :
    (let s := { atHeader with cycle := 4101 }; s.canIssue 0 && ((go (.threadStarved 0) s).th 0).starved) = true
    ∧ (let s := { atHeader with cycle := 4100 }; s.canIssue 0 && !((go (.threadStarved 0) s).th 0).starved) = true
    ∧ (let s := atHeader fun s => s.setTh 0 fun t => { t with preempt := true }; (s.ops == []) && ((go (.preemptionTakeEffect 0) s).th 0).parked) = true
    ∧ (let s := dev fun s => s.setTh 0 fun t => { t with preempt := true }; ((s.th 0).status == .running) && (s.th 0).rep.isNone
      && !((go (.preemptionTakeEffect 0) s).th 0).parked) = true := by decide +kernel

/-- A register in recipe form whose slice is one MOVI, and the RGU at work on it. -/
def recipe (s : State) : State :=
  { s with mem := writeBytes s.mem 0x10200 (blockOf [wordOf (.movi (hd .b32) (.v 6) 77)])
           parts := [(0, { rgu := some (0, 6) })] }.setRw 0 fun r => { r with regs := Tab.put 6 { form := .recipe, lmask := 1, depth := 1, len := 1, saddr := 0x10200 } r.regs }

theorem wit_regeneration :
    (let s := dev recipe; (s.pt 0).rgu == some (0, 6) && decide ((s.rw 0).entries < s.floorLeft 0) && s.live 0
      && (match s.sliceWords 0 0x10200 1 with | (.ok ws, _) => ws == [wordOf (.movi (hd .b32) (.v 6) 77)] | _ => false)
      && (s.th 0).eligOf 6 == none && ((go (.regenerationComplete 0) s).th 0).vget 6 == 77
      && ((go (.regenerationComplete 0) s).rreg 0 6).any fun x => x.form == .value) = true := by decide +kernel

/-- Whether an operation may be performed. -/
def enabledB (s : State) (id : Nat) : Bool := (Tab.find id s.ops).any fun o => s.enabled id o

/-- A store of type .wt pending, with a read lease of device 9 on its line until 1000. -/
def leasedStore : State := { issued (.st (hd .i32) (.v 8) (.v 2) (.imm 0) ⟨.crew, .g, .wt, 0, 0⟩) mem41 with readLeases := [⟨0x10200, 9, 1000, 9999⟩], ns := 500, ptpErr := 10 }

theorem wit_delayed_writes :
    (let s := leasedStore; let id := opId s; let t := go (.homeStoreMerge id) s; let u := go (.delayedWritePerform id) { t with ns := 1039 };
      let v := go (.delayedWritePerform id) { t with ns := 1040 };
      enabledB s id
      && (Tab.find id t.ops).any (fun o => o.notBefore == some 1040) && u.ops == t.ops && v.ops == [] && leNat (v.coh 0x10200 4) == 7) = true := by decide +kernel

/-- A thread that waits with LEASE.age, and one whose lease has ended. -/
theorem wit_lease_events :
    (let s := dev fun s => { (mine [0x10000]) s with cycle := 99 }; ((go (.leaseTimerExpiry 0) s).th 0).broken) = true
    ∧ (let s := dev fun s => { (mine [0x10000]) s with cycle := 97 }; go (.leaseTimerExpiry 0) s == s) = true
    ∧ (let s := dev fun s => th0 (fun t => { t with status := .waiting, wait := .leaseAge 0x10200 16 .crew }) s;
      !s.leasedByOther 0 0x10200 && !s.leaseQueued 0 0x10200 && !s.lineBusy 0 0x10200 && ((go (.leaseAgeGrant 0) s).th 0).leases.map (·.line) == [0x10200]) = true
    ∧ (let s := dev fun s => th0 (fun t => { t with status := .waiting, wait := .leaseAge 0x10200 16 .crew }) (others s);
      s.leasedByOther 0 0x10200 && go (.leaseAgeGrant 0) s == s) = true
    ∧ (let s := { dev cached with ns := 50 }.setCo 0 fun c => { c with copies := [⟨.leased 50, some 3, 0x10200, [1], 0⟩, ⟨.leased 51, some 4, 0x10200, [1], 0⟩] };
      ((go (.remoteLeaseExpiry 0 0x10200) s).co 0).copies.map (·.dev) == [some 4]) = true
    ∧ ((go (.ptperrExceeded 20) dev).ptpErr == 20) = true
    ∧ (let t := go (.ptperrExceeded 21) ({ dev with ns := 50 }.setCo 0 fun c => { c with copies := [⟨.leased 50, some 3, 0x10200, [1], 0⟩, ⟨.si, none, 0x10200, [1], 0⟩] });
      (t.co 0).copies.map (·.kind) == [.si] && (t.co 0).copies.length == 1 && (Tab.getD 9 {} t.banks).stat.getLsbD 63) = true := by decide +kernel

/-- An operation to host memory. -/
def hostOp (k : OpKind) (d : Option Nat) : State :=
  { dev with ops := [(3, { th := 0, crew := 0, core := 0, kind := k, loc := .host 0x40, va := 0, size := 4, space := .g, rtype := .uc, ty := .b32, dst := d
                           data := if k = .store then [1, 2, 3, 4] else [], pend := d.toList })]
             mem := writeByte [] (2 ^ 51 + 0x41) 9 }

theorem wit_host_acknowledge :
    (let s := hostOp .store none; let t := go (.hostAcknowledge 3) s; enabledB s 3 && t.ops == [] && readByte t.mem (2 ^ 51 + 0x43) == 4) = true
    ∧ (let s := hostOp .load (some 6); let t := go (.hostAcknowledge 3) s; s.hasRoom 0 [6] && t.ops == [] && (t.th 0).vget 6 == 0x900 && t.mem == s.mem) = true := by
  decide +kernel

/-- Access tables that let every master of the list write and read everywhere, at targets 0, 32 and 36. -/
def open_ (ms : List Nat) (s : State) : State :=
  { s with acc := [0, 32, 36].map fun t => (t, { regions := [(0, 0, 2 ^ 24)], perms := ms.map fun m => (m, 3) }) }

def host : State := open_ [0x480, 0x4A0, 0x4A3] dev

theorem wit_host_events :
    (let s := host; let t := go (.hostWrite 3 0x10200 [1, 2]) s; s.paOk 0x10201 && s.admits 0 0x4A3 0x10200 2 true && !s.linesHeld 0 (spanLines [(.mem 0x10200, 2)]) && s.posted == [] && t.coh 0x10200 2 == [1, 2]) = true
    ∧ (let s := host; let t := go (.hostWrite 4 0x10200 [1, 2]) s; !s.admits 0 0x4A4 0x10200 2 true && t.mem == s.mem && (Tab.getD 11 {} t.banks).cnt == 1) = true
    ∧ (readByte (go (.hostWrite 4 (2 ^ 51) [1, 2]) host).mem (2 ^ 51 + 1) == 2) = true
    ∧ (let s := host; s.admits 0 0x4A3 0x10000 4 false && !s.linesHeld 0 (spanLines [(.mem 0x10000, 4)]) && (go (.hostRead 3 0x10000 4) s).report == s.coh 0x10000 4) = true
    ∧ ((go (.hostRead 4 0x10000 4) host).report == [] && (go (.hostRead 4 (2 ^ 51) 2) host).report == [0, 0]) = true
    ∧ ((go (.controlCoreAccess 0x480 (.store 0x10200 [5])) host).cohByte 0x10200 == 5 && (go (.controlCoreAccess 0x480 (.load 0x10000 1)) host).report.length == 1) = true
    ∧ ((go (.controlCoreAccess 0x480 (.regRead 0x604)) host).report == leBytes 8 1000 && ((go (.controlCoreAccess 0x480 (.regWrite 0x604 20)) host).reg 0x604 == 20)) = true
    ∧ (let t := go (.controlCoreAccess 0x481 (.regWrite 0x604 20)) host; t.reg 0x604 == 1000 && (Tab.getD 11 {} t.banks).cnt == 1) = true
    ∧ (((go .hostLinkSwitch (host.setReg 0x630 0x80000000)).reg 0x630 == 0x80000001) && (go .hostLinkSwitch (host.setReg 0x630 1)).reg 0x630 == 1) = true
    ∧ (let t := go (.agentDeclaredDead (.l1 0)) { dev cached with gens := [(0, 4)] }; (t.co 0).dead && (t.co 0).owned == [] && t.cohByte 0x10203 == 0
      && Tab.getD 0 0 t.gens == 5) = true := by decide +kernel

/-- The control core of plain 0 may write every register; so may the engines' masters reach what they need. -/
def regdev (e : State → State := id) : State := open_ [0, 0x480, 0x3C0] (dev e)

theorem wit_registers :
    ((go (.registerWrite 0x5FF 1) regdev).regs == regdev.regs) = true
    ∧ ((go (.registerWrite 0x400 0xFFFFFFFFFFFFFFFF) (regdev.setReg 0x400 0x20000000)).reg 0x400 == 0xDC08FFFF) = true
    ∧ ([0, 1, 99, 100, 0x1FFFF].map fun v => ((go (.registerWrite 0x603 v) regdev).reg 0x603).toNat) = [0, 100, 100, 100, 131071]
    ∧ ([0, 10, 0xFFFFFFFF].map fun v => ((go (.registerWrite 0x604 v) regdev).reg 0x604).toNat) = [10, 10, 1000000]
    ∧ ((go (.registerWrite 0x713 0x3F007F) regdev).dom 3 == { bmax := 48, dperm := 64 }) = true
    ∧ ((go (.qtailWrite 63 9) regdev).reg (0x402 + 252) == 9 && (go (.stopClear 0) (regdev.setReg 0x400 0x20000001)).reg 0x400 == 1) = true
    ∧ (let u := go (.atbaseWrite 0 0x10000) regdev; !u.admits 0 0 0 1 false && u.admits 0 0x480 0 1 false && u.reg 0x540 == 0x10000) = true
    ∧ (let t := go (.ptenWrite 1 0x80000007) regdev; t.reg 0x581 == 0x80000007 && (Tab.find 0x581 t.held).isNone) = true
    ∧ (let t := go (.ptenWrite 0 0x80000007) regdev; regdev.plainBusy 0 && t.reg 0x580 == 0 && Tab.find 0x580 t.held == some 0x80000007
      && (go (.ptenApply 0) { t with crews := [], ops := [], launches := [] }).reg 0x580 == 0x80000007) = true
    ∧ (let t := go (.supmapWrite 0 0x7) regdev; t.supplyOf 0 == 0 && t.supplyOf 1 == 1 && (go (.supmapApply 0) { t with crews := [] }).supplyOf 0 == 3) = true
    ∧ (let t := go (.attreq 0x40001) regdev; t.reg 0x928 == 0x40001 && (go (.attreq 0x80001) t).reg 0x928 == 0x40001) = true
    ∧ (let s := { regdev with banks := [(3, { stat := 0xC000000000000005 })] }; (Tab.getD 3 {} (go (.mcstatClear 3 0x8000000000000000) s).banks).stat == 0x4000000000000005) = true
    ∧ (let v : Word := 0x80000000; let s := regdev fun s => s.setCr 0 fun c => { c with ch := [(0, { st := 3, halt := true })] };
      v.getLsbD 31 && !v.getLsbD 30 && ((go (.engresChannelResume v) s).chan 0 0).st == 1) = true
    ∧ ((go (.hostselWrite 0xFFFFFFFF) regdev).reg 0x630 == 0x80000001) = true := by decide +kernel

/-- ENGRES of a job: its card's poster is crew 0. -/
def posted (st : Nat) (s : State) : State := ((withCard st s).setCx 0 fun c => { c with posters := [(0x10200, 0)] }).setReg 0x522 0x10200

theorem wit_engres :
    ([(5, 1), (1, 0)].all fun (st, n) => let s := regdev (posted st); Tab.find 0x10200 (s.cx 0).posters == some 0
      && ((go (.engresJobPost 0xC0000000) s).cl 0).table.length == n) = true
    ∧ (let s := (regdev (posted 5)).setCl 0 fun c => { c with table := List.replicate 16 { card := 0, crew := 0, ctx := 0, launch := 0, bytes := [] } };
      !s.mxRoom 0 0 && (go (.engresJobPost 0xC0000000) s).reposts == [(0xC0000000, 0x10200)]) = true := by decide +kernel

/-- MEXTGO extends measurement 4 of a device after reset by what SHA-256 gives; measurement 2 is not extended so. -/
theorem wit_mextgo : (go (.mextgo 2) dev).measure 2 = dev.measure 2 ∧ ((go (.mextgo 4) dev).measure 4).length = 32 := by decide +kernel

/-- A job whose map loses device 7 in a new epoch, by its entry at 0x20000 + 32 × 5. -/
def lost : State :=
  { State.reset with mem := writeBytes [] 0x200A0 [1, 0, 2, 0, 1, 0, 0, 0, 0, 3, 2], regs := [(0x605, 0x20000)], jobs := [(5, { valid := true, epoch := 1, dmap := [0, 7] })] }

theorem wit_fjsync :
    (lost.jobEntry 5).valid = true ∧ (lost.jobEntry 5).epoch = 2 ∧ (lost.jobEntry 5).dmap = [0] ∧ lost.jobWaiters 0 = []
    ∧ (Tab.getD 5 ({} : Job) (go (.fjsync 5) lost).jobs).ctr.broken = true
    ∧ ((go (.fjsync 9) lost).jobs.map (·.1)) = [5, 9] := by decide +kernel

/-! ### Queues, launches and slices -/

/-- Tenant 1 on plain 0, queue 0 open to it at priority 5, its ring at 0x20000, HEAD 0, TAIL 2. -/
def queue : State :=
  { State.reset with regs := [(0x400, 0x94000001), (0x401, 0x20000), (0x402, 2), (0x580, 0x80000001)], seq := 1 }

/-- Launch 1 of two crews of one thread, as its entry 0 was read; it is ready. -/
def launch1 (r : Rcd) (f : Launch → Launch) : State :=
  { queue with seq := 10, ctxs := [(5, { croot := 0x30001 })]
               launches := [(1, f { q := 0, n := 0, ctx := 5, rcd := r, entry := 0x40000, entered := true, base := 2, readyAt := some 0, candSince := some 0 })] }

def two : Rcd := { crews := 2, regs := 16, floor := 16 }
def waiting : State := launch1 two id
/-- Its dies are chosen, no valley bound. -/
def placed : State := launch1 two fun l => { l with dies := [0], map := [(0, 0)] }

theorem wit_queues :
    (queue.inWindow 0 0 && !queue.inWindow 0 1 && !queue.inWindow 0 2 && (queue.launchAt 0 0).isNone && queue.entryAddr 0 17 == 0x20010) = true
    ∧ (let s := { queue with mem := writeBytes [] 0x20000 [1] }; (s.coh 0x20000 8).headD 0 == 1 && ((go (.launchWindowEntry 0 0) s).la 1).status == 3) = true
    ∧ ((go (.launchWindowEntry 0 2) queue).launches == []) = true
    ∧ (let b := leBytes 8 7 ++ [1, 0, 0, 1, 1, 0, 2, 1, 1, 1, 4, 0, 1, 0, 16, 2] ++ leBytes 232 0; let r := Rcd.ofBytes b;
      b.length == 256 && !queue.malformedRcd r b && queue.malformedRcd { r with regs := 0 } b && queue.malformedRcd { r with dmin := 5 } b && r.crews == 2) = true
    ∧ (waiting.placeable 1 && !(launch1 { two with dmin := 2 } id).placeable 1) = true
    ∧ ((queue.resolve 0x500000002).isNone && ({ queue with containers := [(5, { syms := [(2, 0x40000)] })] }.resolve 0x500000002 == some 0x40000)) = true := by
  decide +kernel

/-- A record that waits for queue word 0, whose ring has room or not, or is not valid; one whose launch waits for it. -/
def record (n : Nat) (l : Option Nat) : State :=
  { onWord (.nop (hd .b32)) (evq n) with records := [{ queue := 0, bytes := recordBytes 5 4 0 0 7, launch := l }] }

theorem wit_records :
    (let s := record 16 none; let t := go (.eventRecordAppend 0) s; s.eqValid 0 && s.eqRoom 0 && t.coh (0x10400 + 144) 16 == recordBytes 5 4 0 0 7 && t.records == []) = true
    ∧ (let s := record 9 none; s.eqValid 0 && !s.eqRoom 0 && go (.eventRecordAppend 0) s == s) = true
    ∧ (let s := (record 16 (some 0)).setLa 0 fun l => { l with ending := true, final := 2 }; ((go (.eventRecordAppend 0) s).la 0).status == 2) = true
    ∧ (let s := record 0 none; let t := go (.eventRecordAppend 0) s; !s.eqValid 0 && t.mem == s.mem && t.records == [] && (Tab.getD 12 {} t.banks).stat.getLsbD 63) = true
    ∧ (let s := (onWord (.nop (hd .b32)) msgs).setLa 0 fun l => { l with hq := [⟨0, 0, List.replicate 64 7⟩] }; let t := go (.handlerStart 0) s;
      s.freeSlots 0 == [0] && (t.th 4096).pc == 0x8000 && (t.th 4096).status == .ready && (t.la 0).hq == [] && (t.th 4096).vget 3 == 0x07070707) = true := by
  decide +kernel

theorem wit_binding :
    (let s := { waiting with ns := 500000 }; ((go (.launchPriorityAging 1) s).la 1).eff == 4) = true
    ∧ (let s := { launch1 { two with dmin := 2 } id with ns := 200000 }; s.isCandidate (.launch 1) && (List.range 16).all (fun q => (s.tryBind 1 q).isNone)
      && ((go (.candidateHold 1) s).la 1).hold && !((go (.candidateHold 1) { s with ns := 199999 }).la 1).hold) = true
    ∧ (let s := placed; let t := go (.valleyBind 1 0) s; s.launchReady 1 && (s.la 1).openPlain 0 == some (0, 0) && s.coreFor 0 1 == some (0, [0, 1, 2, 3]) && s.clusterOpen 0 5
      && !s.unstartedOn 0 && (t.la 1).status == 1 && Tab.find 0 (t.la 1).bound == some 0 && (t.cr 10).started && !(t.cr 11).started && (t.th 40960).pc == 0x40000
      && (t.th 40960).status == .ready) = true
    ∧ (let s := waiting; (s.tryBind 1 0).any fun u => (u.la 1).dies == [0]) = true
    ∧ (let s := { placed with launches := placed.launches ++ [(2, { (placed.la 1) with n := 1, eff := 7, hold := true, status := 1 })] };
      s.before (.launch 2) (.launch 1) && s.mayUse 2 0 && go (.valleyBind 1 0) s == s) = true
    ∧ (let s := go (.valleyBind 1 0) placed; s.startCore 11 == some (1, [0, 1, 2, 3]) && ((go (.crewStart 11) s).cr 11).core == 1 && ((go (.crewStart 11) s).cr 11).started) = true := by
  decide +kernel

/-- Launch 1 running, both crews started. -/
def running (f : State → State := id) : State := f (go (.crewStart 11) (go (.valleyBind 1 0) placed))

def allThreads (st : Status) (s : State) : State := { s with threads := s.threads.map fun (k, t) => (k, { t with status := st }) }

theorem wit_phases :
    (!(running).allArrived 1 && go (.phaseBoundary 1) (running) == (running)) = true
    ∧ (let s := running (allThreads .phase); let t := go (.phaseBoundary 1) s; s.allArrived 1 && s.resize 1 == s && (t.la 1).phase == 1
      && (t.th 40960).status == .ready && (t.th 45056).status == .ready) = true
    ∧ (let s := running fun s => { allThreads .exited s with crews := s.crews.map fun (k, c) => (k, { c with ended := true }) };
      s.launchOver 1 && ((go (.launchComplete 1) s).la 1).status == 2 && (go (.launchComplete 1) s).crews == []) = true
    ∧ (!(running).launchOver 1 && go (.launchComplete 1) (running) == (running)) = true
    ∧ (let s := running fun s => s.setLa 1 fun l => { l with rcd := { l.rcd with dmax := 2 }, dies := [0, 2, 3] }; ((s.resize 1).la 1).dies == [0, 2]) = true := by
  decide +kernel

/-- Launch 1 has run for 1.2 ms with a save area on both cores, and launch 2 of a higher rank has been unable to bind. -/
def rival (parked : Bool) : State := running fun s =>
  { s with ns := 1200000, threads := s.threads.map fun (k, t) => (k, { t with parked := parked })
           crews := s.crews.map fun (c, x) => (c, { x with parked := parked })
           ctxs := s.ctxs.map fun (c, x) => (c, { x with csave := [(0, 0x50000), (1, 0x60000)] })
           launches := s.launches ++ [(2, { (placed.la 1) with n := 1, ctx := 6, eff := 7, status := 1, unbound := some 0 })] }

theorem wit_slice_events :
    (let s := running; !(s.la 1).leaving.contains 0 && !s.toPreempt 1 0 && go (.slicePreempt 1 0) s == s) = true
    ∧ (let s := rival false; let t := go (.slicePreempt 1 0) s; s.toPreempt 1 0 && s.sliceCores 5 0 == [0, 1] && (t.la 1).leaving.contains 0 && t.threads.all (fun y => y.2.preempt)) = true
    ∧ (let s := (rival true).setLa 1 fun l => { l with leaving := [0] }; let u := (s.sliceCores 5 0).foldl (fun u c => u.askPark 5 c) s;
      s.ops == [] && u.ops == [] && [0, 1].all (fun c => u.isParked 5 c)) = true
    ∧ (let s := { running with slices := [(7, { ctx := 5, launch := 1, plain := 0, cluster := 3, cores := [], readyAt := 0 })] }; let t := go (.sliceRestore 7 1) s;
      s.clusterOpen 1 5 && !s.unstartedBeside 1 1 && s.tenantHas (s.qTenant 0) 0 && (s.loadCores 5 1 [] [4, 5, 6, 7]).isSome && t.slices == []) = true := by decide +kernel

/-! ### Engines at work -/

/-- A record at 0x10200: OWN, one row of 32 bytes from 0x10000 to 0x10300, an arrival at BN1, and no next one. -/
def transfer (own : Bool) : List Byte :=
  leBytes 8 0 ++ leBytes 4 ((if own then 0xA0000000 else 0x20000000) + 0x880) ++ leBytes 4 0 ++ leBytes 8 0x10000 ++ leBytes 8 0x10300 ++ leBytes 4 32
    ++ [1, 0, 1, 0] ++ leBytes 24 0

/-- Channel 0 of crew 0 runs at the record; masters of threads, copy engine and matrix engine may do everything. -/
def copying (own : Bool) (f : Chan → Chan := id) : State :=
  open_ [0, 0x300, 0x3C0] (dev fun s => { s with mem := writeBytes s.mem 0x10200 (transfer own) }.setCr 0 fun c =>
    { c with ch := [(0, f { st := 1, cur := 0x10200 })], bar := [(1, ⟨1, 0, 7⟩)] })

/-- The state an event leaves. -/
def nx : Host.Outcome State Fault Refusal → State
  | .next t => t
  | _ => State.reset

def readOf (s : State) : State := nx (execCopyRecordRead 0 0 s)

theorem wit_copies :
    (transfer true).length = 64 ∧ ((copying true fun x => { x with st := 2 }).chan 0 0).st ≠ 1
    ∧ (let s := copying true fun x => { x with halt := true }; !s.recordWaits (s.chanEng 0 0).owner && ((readOf s).chan 0 0).st == 4) = true
    ∧ (let s := copying false; match engRead (s.chanEng 0 0) .g .own 0x10200 64 s with
      | (.ok b, u) => !(recCtrl b).testBit 31 && u.crews == s.crews && ((readOf s).chan 0 0).st == 2
      | _ => false) = true
    ∧ (let s := copying false fun x => { x with cur := 0x40000 }; match engRead (s.chanEng 0 0) .g .own 0x40000 64 s with
      | (.fault c _, _) => ((readOf s).chan 0 0).st == 3 && ((readOf s).chan 0 0).code == c
      | _ => false) = true := by decide +kernel

/-- The record in flight, with pieces left. -/
def flying (ps : List CopyPiece) : State := copying true fun x => { x with flight := some (transfer true), plan := some { at_ := .mem 0x10200, pieces := ps, fl := 0 } }
def one : CopyPiece := ⟨some (.mem 0x10000), [], .mem 0x10300, 16, 0x10300⟩

theorem wit_records_in_flight :
    (((readOf (copying true)).cl 0).waiting ++ ((readOf (copying true)).cl 0).held).map (·.who) = [5]
    ∧ (((go (.reservationGrant 0) (readOf (copying true))).chan 0 0).plan.map fun p => p.pieces.map fun y => (y.src, y.dst, y.n))
      = some [(some (.mem 0x10000), .mem 0x10300, 16), (some (.mem 0x10010), .mem 0x10310, 16)]
    ∧ (go (.copyRecordComplete 0 0) (flying [one]) == flying [one]) = true
    ∧ (let t := nx ((flying [one]).perform (.piece 0 0 0)); t.coh 0x10300 16 == (flying [one]).coh 0x10000 16
      && (t.chan 0 0).plan.any fun p => p.pieces.isEmpty) = true
    ∧ (let s := flying []; let e := s.chanEng 0 0; let t := go (.copyRecordComplete 0 0) s; s.engIdle e.owner && !s.linesHeld e.owner (spanLines [(.mem 0x10200, 64)])
      && t.coh 0x10208 8 == leBytes 4 0x20000880 ++ [0, 0, 0, 1] && (t.chan 0 0).st == 0 && (t.chan 0 0).done == 1 && (t.cl 0).held == []
      && Tab.find 1 (t.cr 0).bar == some ⟨1, 0, 8⟩) = true := by decide +kernel

/-- A job in the table, its loops done or not. -/
def job (f : MxJob → MxJob := id) : State :=
  open_ [0, 0x300, 0x3C0] ((dev (withCard 1)).setCl 0 fun c => { c with table := [f { card := 0x10200, crew := 0, ctx := 0, launch := 0, bytes := card 1, seq := 3 }] })

theorem wit_matrix :
    (mxDot .i32 false 5 [(.fin true 3 0, 0), (.fin false 2 0, 0)] [(.fin false 4 0, 0), (.fin false 5 0, 0)]).v = 3
    ∧ (mxDot .f32 false 0x3F800000 [(.fin false 1 (-1), 0)] [(.fin false 1 1, 0)]).v = 0x40000000
    ∧ ((Card.ofBytes (card 0)).level 0).count = 1 ∧ stepIdx (Card.ofBytes (card 0)) [0, 0, 0, 0, 0] = [1, 0, 0, 0, 0]
    ∧ (let s := job; ((s.cl 0).table.all fun j => !j.running && !j.chosen && s.mxReady 0 j)) = true
    ∧ (let s := { job with cycle := 8192 }; ((go (.matrixEntryAged 0 0) s).cl 0).table.map (·.aged)) = [true]
    ∧ (let s := { job with cycle := 8191 }; ((go (.matrixEntryAged 0 0) s).cl 0).table.map (·.aged)) = [false]
    ∧ (let s := job fun j => { j with running := true }; go (.matrixPassGrant 0) s == s && go (.matrixJobComplete 0 0) s == s) = true
    ∧ (let s := job fun j => { j with idx := [1, 0, 0, 0, 0] }; let e := jobEng 0 ((s.cl 0).table.headD { card := 0, crew := 0, ctx := 0, launch := 0, bytes := [] });
      let t := go (.matrixJobComplete 0 0) s; s.engIdle e.owner && !s.recordWaits e.owner && (t.cl 0).table == [] && t.coh 0x102B4 4 == leBytes 4 0x104) = true := by
  decide +kernel

/-- Reservations: one that fits, one that does not; an age. -/
def claims (c : Nat) (f : Cluster → Cluster := id) : State :=
  dev.setCl 0 fun x => f { x with waiting := [{ who := 0, cost := c, since := 0 }] }

theorem wit_reservations :
    (let s := claims 8; let t := go (.reservationGrant 0) s; (s.cl 0).nextGrant 1 (s.cl 0).waiting == (s.cl 0).waiting.head? && (t.cl 0).held.length == 1
      && (t.cl 0).waiting == []) = true
    ∧ (let s := claims 8 fun x => { x with held := List.replicate 4 { who := 1, cost := 8, since := 0 } }; decide (32 < (s.cl 0).units + 8) && go (.reservationGrant 0) s == s) = true
    ∧ (let s := { claims 8 with cycle := 8192 }; ((go (.reservationAged 0 0) s).cl 0).waiting.map (·.aged)) = [true] := by decide +kernel

/-! ### The fabric -/

/-- Device 3 with its fabric on, of a job 5 with device 7, epoch 2; the peer's master may do everything. -/
def peer (f : State → State := id) : State :=
  let s := (open_ [0, 0x4B0] dev).setReg 0x600 0x80000003
  f { s with jobs := [(5, { valid := true, epoch := 2, devs := 2, dmap := [3, 7] })], ptpErr := 10 }

def flit (n : BitVec 8) (addr : BitVec 64) (data : List Byte) (fn : BitVec 16 := 0) (ep : BitVec 16 := 2) (seq : BitVec 32 := 0) (time : BitVec 64 := 0) : Flit :=
  ⟨0, n, 3, 7, 5, ep, fn, seq, addr, time, data, []⟩

/-- The kind, time and bytes of the last flit sent. -/
def said (s : State) : Nat × Nat × List Byte := match s.outbox.getLast? with | some g => (g.kind.toNat, g.time.toNat, g.data ++ g.payload) | none => (0, 0, [])

theorem wit_requests :
    (let f := flit 4 0x10000 []; let s := peer; s.hears f && s.peerMay f 4 false && !s.lineTaken 0x10000 && !s.writeWaits 0x10000 s.wakers
      && said (go (.flitRead f) s) == (4, 0, s.coh 0x10000 4)) = true
    ∧ (let f := flit 4 0x10000 [] 0x8000; let s := peer; let t := go (.flitRead f) s; said t == (4, 1000, s.coh 0x10000 4) && t.readLeases == [⟨0x10000, 7, 1000, 4161⟩]) = true
    ∧ (let f := flit 4 0x10000 [1, 2, 3, 4]; let t := go (.flitWrite f) (peer); said t == (4, 0, []) && t.coh 0x10000 4 == [1, 2, 3, 4]) = true
    ∧ (let f := flit 4 0x10200 [1, 0, 0, 0] (0x300 + 0); let t := go (.flitAtomic f) (peer); said t == (4, 0, [0, 0, 0, 0]) && t.coh 0x10200 4 == [1, 0, 0, 0]) = true
    ∧ ([Instr.flitRead (flit 4 0 [] 0 2), .flitWrite (flit 4 0 [] 0 2), .flitAtomic (flit 4 0 [] 0 2)].map fun i => said (go i (peer fun s => { s with jobs := [] }))) = List.replicate 3 (5, 0, [])
    ∧ (let t := go (.flitRead (flit 4 0 [] 0 1)) (peer); t.outbox == [] && (Tab.getD 3 {} t.banks).cnt == 1) = true
    ∧ (said (go (.flitWrite (flit 4 0 [1, 2, 3, 4])) (peer fun s => { s with acc := [] })) == (5, 0, [])) = true
    ∧ (let t := go (.flitRead (flit 4 0x10000 [])) (peer fun s => s.setTh 0 fun t => { t with leases := [⟨0x10000, [], 9, .crew, 0, []⟩] }); t.outbox == [] && t.wakers.length == 1) = true
    ∧ (let t := go (.flitWrite (flit 4 0x10000 [1, 2, 3, 4])) (peer fun s => { s with readLeases := [⟨0x10000, 9, 50, 9999⟩] }); t.outbox == [] && t.wakers.length == 1) = true := by
  decide +kernel

/-- An access of thread 0 to device 7 that is out. -/
def out (k : OpKind) (h : Option Held := none) : State := peer fun s =>
  { s with ops := [(0, { th := 0, crew := 0, core := 0, kind := k, loc := .remote 7 0x500, va := 0x900, size := 4, space := .g, rtype := .own, ty := .b32
                         dst := if k = .load then some 6 else none, data := if k = .load then [] else [1, 2, 3, 4], held := h })]
           remote := [⟨0, 7, 5, 0, 0⟩] }

theorem wit_answers :
    (let s := out .load; let f := flit 4 0x500 [9, 8, 7, 6]; (s.answered f).isSome && (Tab.find 0 (go (.flitResponse f) s).ops).any (fun o => o.early == some [9, 8, 7, 6])) = true
    ∧ (let s := out .store; let f := flit 0 0x500 []; (s.answered f).isSome && (go (.flitResponse f) s).ops == []) = true
    ∧ (let s := out .store (some .sent); let f := flit 0 0x500 []; s.live 0 && (Tab.find 0 (go (.flitRefusal f) s).ops).any (fun o => o.held == some (.failed 0x11))) = true
    ∧ (let s := out .load; let f := flit 4 0x500 [9, 8, 7, 6] 0 2 0 77; ((go (.flitResponse f) s).co 0).copies.map (·.kind) == [.leased 77]) = true
    ∧ (let s := { out .store (some .sent) with ns := 100000 }; let t := go (.remoteTimeout 0) s; (Tab.find 0 t.ops).any (fun o => o.held == some (.failed 0x30)) && t.remote == []
      && go (.remoteTimeout 0) { s with ns := 99999 } == { s with ns := 99999 }) = true
    ∧ (let s := out .load; let f := flit 4 0x500 [] 0 1; (Tab.getD 3 {} (go (.flitResponse f) s).banks).cnt == 1) = true := by decide +kernel

/-- A running launch of job 5 with a handler crew of one slot, and the stream from device 7 at 4. -/
def listening (f : State → State := id) : State := peer fun s => f
  { s.setLa 0 (fun l => { l with rcd := { l.rcd with jobid := 5, hcrew := 1, msgn := 1 }, hcrewId := some 1 }) with
    crews := Tab.put 1 { launch := 0, ctx := 0, core := 0, handler := true, started := true } s.crews
    streams := [{ job := 5, dev := 7, expect := 4, next := 9 }], ns := 100 }

def msg (seq : BitVec 32) (time : BitVec 64) : Flit := { flit 64 0 [] 0 2 seq time with payload := List.replicate 64 5 }

theorem wit_flit_messages :
    (let s := listening; s.hears (msg 4 100) && s.admitFlit (msg 4 100) == .ok && s.handlerLaunch 5 == some 0 && s.takesMsg 0) = true
    ∧ (let t := go (.flitMessage (msg 4 100)) (listening); (said t).1 == 7 && (t.la 0).hq.length == 1 && (t.stream 5 7 0).expect == 5) = true
    ∧ (let t := go (.flitMessage (msg 3 100)) (listening); (said t).1 == 7 && (t.la 0).hq == []) = true
    ∧ (go (.flitMessage (msg 5 100)) (listening) == listening && go (.flitMessage (msg 4 99)) (listening) == listening) = true
    ∧ (let s := listening fun s => s.setLa 0 fun l => { l with hq := List.replicate 257 ⟨1, 0, []⟩ }; !s.takesMsg 0 && (said (go (.flitMessage (msg 4 100)) s)).1 == 8) = true
    ∧ (let s := listening fun s => ((s.setLa 0 fun l => { l with hcrewId := none, q := 0, n := 0 }).setReg 0x400 0x80000001).setReg 0x402 1; s.handlerLaunch 5 == none && (said (go (.flitMessage (msg 4 100)) s)).1 == 8) = true
    ∧ ((said (go (.flitMessage (msg 4 100)) (peer))).1 == 5) = true := by decide +kernel

/-- One message sent to device 7 and not acknowledged. -/
def unacked (retry : Nat) (f : State → State := id) : State := listening fun s => f { s with sent := [⟨5, 7, 0, 8, 0, 0, [], 200, retry⟩] }

theorem wit_sent :
    (let s := unacked 150; let a := flit 0 0 [] 0 2 8; (go (.flitAcknowledge a) s).sent == [] && (go (.flitBusy a) s).sent.map (·.deadline) == [100 + s.msgLife]) = true
    ∧ (let s := unacked 0; go (.flitAcknowledge (flit 0 0 [] 0 2 8)) s == s) = true
    ∧ (let s := unacked 150; let t := go (.flitRefusal (flit 0 (msgAddr 0) [] 0 2 8)) s; t.sent == [] && (Tab.getD 5 ({} : Job) t.jobs).ctr.l == 1) = true
    ∧ (let s := unacked 100; let t := go (.messageRetransmit 5 7) s; t.outbox.length == 1 && t.sent.map (·.retry) == [2100]) = true
    ∧ (let s := unacked 150; go (.streamAbandon 5 7) { s with ns := 239 } == { s with ns := 239 } && ((go (.streamAbandon 5 7) { s with ns := 240 }).stream 5 7 0).abandoned
      && (Tab.getD 5 ({} : Job) (go (.streamAbandon 5 7) { s with ns := 240 }).jobs).ctr.u == 1) = true
    ∧ (let s := listening fun s => { s with streams := [{ job := 5, dev := 7, next := 9, abandoned := true, repairing := some 100 }] }; let t := go (.repairSend 5 7) s;
      t.outbox.map (·.kind) == [9] && (t.stream 5 7 0).repairing == some 2100 && go (.repairSend 5 7) { s with ns := 99 } == { s with ns := 99 }) = true
    ∧ (let t := go (.flitRepair (flit 0 0 [] 0 2 6)) (listening); t.outbox.map (fun g => (g.kind, g.addr, g.time)) == [(9, msgAddr 0 ||| 4, 4)] && (t.stream 5 7 0).expect == 6) = true
    ∧ (let s := unacked 0 fun s => { s with streams := [{ job := 5, dev := 7, next := 9, abandoned := true, repairing := some 100 }] };
      let t := go (.flitRepair (flit 0 (msgAddr 0 ||| 4) [] 0 2 10 9)) s; !(t.stream 5 7 0).abandoned && (Tab.getD 5 ({} : Job) t.jobs).ctr.i == 1) = true := by decide +kernel

/-! ### Waves, phases, ports -/

/-- The peer's counters of job 5; one device, or two. -/
def counts (c : JobCtr) (devs : Nat := 2) : State := peer fun s => { s with jobs := [(5, { valid := true, epoch := 2, devs := devs, dmap := [3, 7], ctr := c })] }
/-- Counters I, C, L and U, on two of the dies. -/
def sums (i c l u : Nat) (x : JobCtr := {}) : JobCtr := { x with dies := [(0, ⟨i, c, 0, u⟩), (3, ⟨0, 0, l, 0⟩)] }
def ctr5 (s : State) : JobCtr := (Tab.getD 5 ({} : Job) s.jobs).ctr

theorem wit_waves :
    (let s := counts (sums 9 5 3 1); let t := go (.flitWave (flit 0 6 [] 0 2 1)) s; s.hears (flit 0 6 []) && (ctr5 t).wave == 6
      && (t.outbox.map fun g => (g.kind, g.data ++ g.payload)) == [(11, leBytes 8 9 ++ leBytes 8 5 ++ leBytes 8 3 ++ leBytes 8 1)]) = true
    ∧ ((ctr5 (go (.flitWave (flit 0 6 [] 0 2 2)) (counts { wave := 4 }))).wave == 4) = true
    ∧ (let s := counts {}; go (.flitWaveReply (flit 0 6 [])) s == s) = true
    ∧ ((ctr5 (go (.flitQuiet (flit 0 6 [])) (counts { quiet := some 4 }))).quiet == some 6 && (ctr5 (go (.flitQuiet (flit 0 6 [])) (counts { quiet := some 8 }))).quiet == some 8) = true
    ∧ (let s := counts { broken := true }; go (.flitQuiet (flit 0 6 [])) s == s) = true
    ∧ (let s := counts {}; go (.flitQuiet (flit 0 6 [] 0 1)) s == s.staleDrop 5 0 && (Tab.getD 3 {} (s.staleDrop 5 0).banks).cnt == 1) = true := by decide +kernel

/-- 20 R410: WLOCAL is 10 µs; two passes with equal balanced sums declare the wave quiet. -/
theorem wit_local_waves :
    (let s := { counts (sums 8 5 3 0 { wave := 2, due := 400 }) 1 with ns := 400 }; let t := go (.localWave 5) s
      (ctr5 t).wave == 3 && (ctr5 t).due == 10400 && (ctr5 t).prev == some (8, 5, 3, 0) && (ctr5 t).quiet == none && go (.localWave 5) { s with ns := 399 } == { s with ns := 399 }) = true
    ∧ ((ctr5 (go (.localWave 5) { counts (sums 8 5 3 1) 1 with ns := 400 })).prev == none) = true
    ∧ (let s := counts (sums 8 5 3 0 { wave := 3, prev := some (8, 5, 3, 0) }) 1; (ctr5 (go (.localWave 5) s)).quiet == some 3 && (ctr5 (go (.localWave 5) s)).prev == none) = true
    ∧ ((ctr5 (go (.localWave 5) (counts (sums 9 5 3 0 { wave := 3, prev := some (8, 5, 3, 0) }) 1))).quiet == none) = true
    ∧ (let s := { counts { due := 10000, prev := some (0, 0, 0, 0) } 1 with ns := 10000000 }; (ctr5 (go (.waveTimeout 5) s)).prev == none
      && go (.waveTimeout 5) { s with ns := 9999999 } == { s with ns := 9999999 }) = true
    ∧ (((dev fun s => s.setLa 0 fun l => { l with own := some {} }).keyCtr 4096).isSome && ((dev fun s => s).keyCtr 5).isNone) = true := by decide +kernel

/-- Job 5's launch 0, entered and running, at phase 0. -/
def phased (f : State → State := id) : State := peer fun s => f (s.setLa 0 fun l => { l with rcd := { l.rcd with jobid := 5 }, entered := true, status := 1 })

theorem wit_phases_across :
    (let s := phased; let f := flit 0 0 [] 1; s.admitFlit f == .ok && s.phaseLaunch f == some 0 && !(s.la 0).told
      && ((go (.flitPhaseArrive f) s).la 0).arrived == [1] && ((go (.flitPhaseArrive f) s).la 0).goneDevs == [1]) = true
    ∧ (let s := phased fun s => s.setTh 0 fun t => { t with status := .phase }; let t := go (.flitPhaseGo (flit 0 0 [])) s; !(s.la 0).gone && s.resize 0 == s
      && (t.la 0).phase == 1 && (t.th 0).status == .ready) = true
    ∧ (let s := (phased).setReg 0x605 0x20000; let t := go (.flitKillNotice (flit 0 0 [])) s; (Tab.getD 5 ({} : Job) t.jobs).killed && t.coh (0x20000 + 160) 1 == [2]
      && ((Tab.getD 9 {} t.banks).stat).getLsbD 63) = true
    ∧ (let s := { dev with caps := { dev.caps with ports := 1 } }; let t := go (.portRetrain 0) s; field (t.reg 0x610) 31 30 == 1 && (Tab.getD 9 {} t.banks).cnt == 1
      && field ((go (.linkTrainingEnd 0 false) t).reg 0x610) 31 30 == 3 && (s.linkError 0 true).linkFails == [(0, 1)]
      && field (({ s with linkFails := [(0, 7)] }.linkError 0 true).reg 0x610) 31 30 == 1) = true := by decide +kernel

/-- No L1 owns a line: what of `L1Ok` a state says for itself. -/
theorem l1Ok_of_none {s : State} (a : (s.cores.map (·.1)).Pairwise (· < ·)) (b : ∀ x ∈ s.cores, x.2.owned = []) : s.L1Ok :=
  ⟨a, fun x hx y _ l h => by rw [b x hx] at h; simp [Tab.find] at h, fun x hx => by simp [b x hx]⟩

theorem wit_kill_lines : (phased).L1Ok := l1Ok_of_none (by decide +kernel) (by decide +kernel)

/-! ### Power, errors, self-test, reset -/

/-- Supply domain 0 is tenant 1's, the thread asks for boost, its context has permits. -/
def boosts (f : State → State := id) : State :=
  dev fun s => f { ([0x580, 0x581, 0x582, 0x583].foldl (fun s r => s.setReg r 0x80000001) s).setTh 0 (fun t => { t with perf := 3 }) with ctxs := Tab.modify 0 (fun c => { c with permits := 5 }) s.ctxs }
/-- An interval's end: cluster 0 claims, is granted, was charged for context 0. -/
def burning (f : State → State := id) : State :=
  let s := boosts fun s => s.setCl 0 fun x => { x with claim := true, granted := true, charged := true, clk := 84, asked := [0] }
  f { s with ns := 10000 }

theorem wit_intervals :
    (let s := burning; s.clusterAsks 0 == some 3 && s.isoDomain 0 && decide ((s.clusters.map (·.1)).Nodup)) = true
    ∧ (let t := (burning).chargeInterval; (t.dom 0).dperm == 63 && (t.cx 0).permits == 4) = true
    ∧ (let t := (burning).grantDomain 0; (t.cl 0).granted && ((t.stepClock 0).cl 0).clk == 88) = true
    ∧ (((burning fun s => s.setDom 0 fun d => { d with dperm := 0 }).grantDomain 0).cl 0).granted = false
    ∧ (let t := (burning fun s => { s with hot := [(0, 2)] }).grantDomain 0; !(t.cl 0).granted && ((t.stepClock 0).cl 0).clk == 80) = true
    ∧ (go .powerIntervalEnd { burning with ns := 9999 } == { burning with ns := 9999 }) = true
    ∧ (let t := go (.replayRateExcursion 0) (burning); t.granted 0 == [] && (t.dom 0).excess) = true
    ∧ ([(94, 2), (95, 0), (96, 0), (96, 2), (101, 0)].map fun x => Tab.getD 0 0 (go (.thermalStep 0 x.1) (burning fun s => { s with hot := [(0, x.2)] })).hot) = [0, 0, 1, 3, 2] := by decide +kernel

/-- A bank that holds an error of a severity. -/
def bank (sev : Nat) (f : State → State := id) : State := f (dev.logMc { bank := 5, sev := sev, type := 0x14, skind := 3, sidx := 1, addr := some 7 })

theorem wit_banks :
    (let e : McEvent := { bank := 5, sev := 2, type := 0x15, skind := 3, sidx := 2, addr := some 9 }
      let b (s : State) : Bank := Tab.getD 5 {} (s.logMc e).banks
      (b dev).addr == 9 && !(b dev).stat.getLsbD 62 && (b (bank 1)).addr == 9 && (b (bank 1)).stat.getLsbD 62 && (b (bank 2)).addr == 7 && (b (bank 3)).addr == 7) = true
    ∧ (let s := dev; let t := go (.hbmScrub 0x10200 true) s; s.paOk 0x10200 && t.poisoned 0x10200 32 && (go (.hbmScrub 0x10200 false) s).poison == []) = true
    ∧ ([Instr.thermalTrip 0, .supplyOutOfRegulation 1].map fun i => let t := go i (phased); (t.fatal, (t.la 0).status == 1)) = [(true, false), (true, false)] := by decide +kernel

/-- A device with the clusters of plain 0 in service; self-test is on after reset, each interval INT = 1,000 ms. -/
def testing (f : State → State := id) : State := f { State.reset with caps := { State.reset.caps with clusen := 0xFFF, clusin := 0xFFF }, ns := 1000000000 }

theorem wit_self_test :
    (let s := testing; s.inService 0 && (s.reg 0x720).getLsbD 31 && !(s.reg 0x721).getLsbD 31 && field (s.reg 0x720) 23 0 * 1000000 == 1000000000 && s.testFrom == 0
      && go .selftestHold { s with ns := 999999999 } == { s with ns := 999999999 }) = true
    ∧ (let t := go .selftestHold (testing); (t.cl 0).hold == some 1000000000 && t.testNext == 1 && (t.reg 0x721).getLsbD 31 && field (t.reg 0x721) 27 20 == 0
      && t.clusterCrews 0 == [] && ((go .selftestClusterReady t).cl 0).emptied == some 1000000000
      && (let u := { go .selftestClusterReady t with ns := 1001000000 }; ((go .selftestHoldTimeout u).cl 0).hold == none && go .selftestHoldTimeout { u with ns := 1000999999 } == { u with ns := 1000999999 })) = true
    ∧ (let t := go .selftestHold (testing fun s => { s with testNext := 191 }); field (t.reg 0x721) 27 20 == 0) = true
    ∧ (let t := go .selftestHold { dev with caps := (testing).caps, ns := 1000000000 }; t.clusterCrews 0 == [0] && go .selftestClusterReady t == t) = true
    ∧ (let c : Caps := ⟨0, 0, [], 0, 0⟩; let t := go (.deviceReset c) { dev with mem := [(5, 5), (2 ^ 51, 6)] }; t.threads == [] && readByte t.mem 5 == 0 && readByte t.mem (2 ^ 51) == 6
      && (Caps.enough c || t.recovery)) = true := by decide +kernel

/-! ### What waits, stands back, or ends the device -/
/-- A lease of thread 1 on a line. -/
def lent (line : Nat) (s : State) : State :=
  { s with threads := Tab.put 1 { s.th 0 with status := .ready, leases := [⟨line, List.replicate 128 0, 99, .crew, 0, []⟩] } s.threads }

/-- Accesses that wait: of a master, for a leased line and for one of its own; of a peer's read behind a write; of an engine's word for a read lease. -/
theorem wit_waiting_accesses :
    (let s := lent 0x10200 host; let t := go (.hostWrite 3 0x10200 [1, 2]) s; let u := go (.hostRead 3 0x10000 4) t;
      s.admits 0 0x4A3 0x10200 2 true && s.linesHeld 0 (spanLines [(.mem 0x10200, 2)]) && t.posted == [⟨0x4A3, 0x10200, [1, 2], 0, none⟩] && t.coh 0x10200 2 == s.coh 0x10200 2
      && u.posted == t.posted ++ [⟨0x4A3, 0x10000, [], 4, none⟩] && u.report == []) = true
    ∧ (let s := { peer with wakers := [{ flit 4 0x10000 [1, 2, 3, 4] with kind := 2 }] }; let t := go (.flitRead (flit 4 0x10000 [])) s; s.writeWaits 0x10000 s.wakers
      && t.outbox == [] && t.wakers.length == 2 && !s.lateAnswer (flit 4 0x10000 [])) = true
    ∧ (let s := { flying [] with readLeases := [⟨0x10200, 9, 1000, 9999⟩], ns := 500 }; let e := s.chanEng 0 0; let t := go (.copyRecordComplete 0 0) s;
      s.engIdle e.owner && !s.engReleasing e.owner 2 && !s.linesHeld e.owner (spanLines [(.mem 0x10200, 64)]) && (s.leaseHolder 0x10200).isNone
      && (s.leaseUntil 0x10200).isSome && (t.chan 0 0).plan.any (·.closing) && t.mem == s.mem) = true
    ∧ (let s := flying []; !s.putWaits (.mem 0x10208) && !(flying [one]).putWaits (.mem 0x10300) && s.ops == []) = true := by decide +kernel

/-- Arbitration: a thread starved by its time alone goes before a higher priority; one that has yielded stands back. -/
theorem wit_standing_back :
    (let s := atHeader fun s => { s with cycle := 4099 }; s.isStarved 32 && !s.isStarved 0 && s.readyFrom 32 == 3 && s.chosen 0 == [32, 1]) = true
    ∧ (let s := atHeader fun s => s.setTh 32 fun t => { t with yielded := true }; s.competitors 0 == [0, 1, 32] && (s.chosen 0 == [0, 1])) = true := by decide +kernel

/-- HALT asks first; a load needs its header, its eligibility and its image. -/
theorem wit_halting :
    (let i : Instr := .halt (hd .b32) (.v 4); let s := onWord i (ctx1 false); let t := go i s; readyB s i 0 && s.resident 1 (some 0) == [4096] && (t.th 4096).preempt
      && t.crews == s.crews) = true
    ∧ (let i : Instr := .halt (hd .b32) (.v 4); let s := onWord i (ctx1 true); (s.resident 1 (some 0)).all (fun j => (s.th j).parked) && s.threads.all (fun y => y.2.leases == [])) = true
    ∧ (let s := onWord (.nop (hd .b32)) area; s.eligClean 0x10400 (s.coh 0x10400 256) && (s.resident 1 (some 0)).all (fun j => s.atRest j)
      && ((Tab.find (leNat (s.coh (0x10400 + at64 (s.coh 0x10400 256) 0x20 8 + ticketAt) 8)) s.images).any fun im => im.ctx == 1)) = true
    ∧ (let i : Instr := .tlbinv (hd .b32) (.v 2) (.v 4) 1; let e := fun s => { tlbs s with ops := [(3, { th := 4096, crew := 1, core := 0, kind := .load, loc := .mem 0x10200, va := 0, size := 4, space := .g, rtype := .uc, ty := .b32 })] };
      let s := onWord i e; readyB s i 0 && s.translating (fun y => y == 1) && go i s == s) = true := by decide +kernel

/-- A context kill of every launch, told to the devices of its job. -/
theorem wit_fatal :
    (let s := phased fun s => s.setLa 0 fun l => { l with rcd := { l.rcd with devs := 2 } }; let t := go (.thermalTrip 0) s;
      decide ((s.launches.map (·.1)).Nodup) && (t.la 0).status == 5 && t.crews == [] && (t.cx 0).killed
      && t.outbox.any fun f => f.kind == 0x0F && f.dst == 7 && f.src == 3 && f.job == 5) = true
    ∧ (let t := go (.supplyOutOfRegulation 0) dev; t.fatal && (t.la 0).status == 5) = true := by decide +kernel

/-- More clauses of memory words: the quarters of an affine access, a lease that has run out, a store of a crew mate that FENCE.sc waits for. -/
theorem wit_more_memory :
    (let i : Instr := .afld (hA .b32) (.v 16) (.v 2) (.imm 0) (mg); let s := onWord i at200; let n : Need := { r := true, rtype := .own, size := 64 };
      !s.remoteBusy 0 .g 0x10200 n && !s.remoteAcq 0 (hA .b32) mg 0x10200 n && (match s.quarters 0 .g 0x10200 n with
        | (.at_ _, ws, _) => ws == [.mem 0x10200, .mem 0x10210, .mem 0x10220, .mem 0x10230] && ws.all (fun q => !q.poisoned s 16)
        | _ => false)) = true
    ∧ traps at200 (.afld (hA .b32) (.v 16) (.v 2) (.imm 0) (mg 4)) 0x12 = true
    ∧ (let i : Instr := .lend (hd .b32) (.sp 1); let s := onWord i fun s => { mine [0x10200] s with cycle := 200 }; let t := go i s;
      readyB s i 0 && !s.lendWait 0 && (t.th 0).leases == [] && !(t.th 0).p.getLsbD 1) = true
    ∧ (let s := { issued (.st (hd .i32) (.v 8) (.v 2) (.imm 0) ⟨.crew, .g, .wt, 0, 0⟩) mem41 with threads := (mem41 (onWord (.nop (hd .b32)))).threads }; s.crewWrites 0 .device && !s.crewWrites 0 .crew) = true
    ∧ (let s := onWord eqpost (evq 16); !s.ringBusy 0) = true := by decide +kernel

/-- A rendezvous that waits anew keeps what it noted. -/
theorem wit_noted :
    (let i : Instr := .pollAny (hd .b32) d5 a2 3;
      let s := onWord i fun s => th0 (fun t => { t with wait := .rendezvous 3 0 [(0x20, 7)] }) { s with threads := Tab.put 1 (s.th 0) s.threads };
      readyB s i 0 && (match exec i s with | .next t => (t.th 0).wait == .rendezvous 3 0 [(0x20, 7)] && t.outside 0 | _ => false)) = true := by decide +kernel

/-- The boundary of a phase waits for the stores of dies that leave; a finished launch leaves no copies of type .ro. -/
theorem wit_leaving :
    (let s := running fun s => { (allThreads .phase s).setLa 1 fun l => { l with target := 1, dies := [0, 1], rcd := { l.rcd with dmax := 2, crews := 1 } } with
        crews := s.crews.map fun (c, x) => (c, { x with die := c - 10 })
        ops := [(3, { th := 45056, crew := 11, core := 1, kind := .store, loc := .mem 0x10200, va := 0, size := 4, space := .g, rtype := .wt, ty := .b32, data := [1, 2, 3, 4] })] };
      s.diesFrom 1 (s.la 1).diesWanted == [11] && s.leavingBusy 1 && s.allArrived 1 && go (.phaseBoundary 1) s == s && !({ s with ops := [] }).leavingBusy 1) = true
    ∧ (let s := (running fun s => { allThreads .exited s with crews := s.crews.map fun (k, c) => (k, { c with ended := true }) }).setCo 0 fun c =>
        { c with copies := [⟨.ro 0, none, 0x10080, [2], 0⟩, ⟨.si, none, 0x10000, [1], 0⟩] };
      s.launchOver 1 && ((go (.launchComplete 1) s).co 0).copies.map (·.kind) == [.si]) = true := by decide +kernel

/-! ### System calls -/

/-- A page search over nothing taken, or over all but one page, finds a page wherever it starts. -/
theorem findPages_free {top : Nat} (h : 2 ≤ top) (n x : Nat) : (findPages [] top 1 1 (n + 2) x).isSome := by
  simp only [findPages, Nat.add_sub_cancel, Nat.div_one, Nat.mul_one, List.find?_nil]
  split <;> simp [show ¬ top < 1 + 1 by omega]

/-- The caller on plain 0 is tenant 1's, the program's tables map page 1 (virtual) to 0x20000, and 0x10000 and up hold the tables. -/
def program (f : State → State := id) : State :=
  let t (a : Nat) (v : Nat) (m : List Host.Cell) : List Host.Cell := writeBytes m a (leBytes 8 v)
  let s := open_ [0x480] dev
  f { s with regs := [(0x580, 0x80000001)], os := { s.os with croot := 0x10001 }
             mem := t 0x10000 0x12001 <| t 0x12000 0x14001 <| t 0x14000 0x16001 <| t 0x16008 0x2001F <| t 0x17FF8 0x3001F [] }

/-- The lowest pages taken but for one, at the top: it is found wherever the search starts. -/
theorem findPages_last (m x : Nat) (h : 2 ≤ m) : findPages [(0, m)] (m + 1) 1 1 5 x = some m := by
  have e (n y : Nat) (hy : y < m) : findPages [(0, m)] (m + 1) 1 1 (n + 2) y = some m := by
    simp [findPages, pagesMeet, hy, show ¬ m + 1 < y + 1 by omega]
  rcases Nat.lt_trichotomy x m with h1 | rfl | h1
  · exact e 3 x h1
  · simp [findPages, pagesMeet]
  · rw [findPages]; simp [show m + 1 < x + 1 by omega, e 2 1 (by omega)]

/-- The same where the ranges of `newRange` are taken, that of address 0 among them. -/
theorem findPages_high (m x : Nat) (h : 2 ≤ m) : findPages [(0, 1), (1, m)] (m + 2) 1 1 7 x = some (m + 1) := by
  have e (n y : Nat) (hy : 1 ≤ y) (hm : y < m + 1) : findPages [(0, 1), (1, m)] (m + 2) 1 1 (n + 2) y = some (m + 1) := by
    simp [findPages, pagesMeet, show ¬ m + 2 < y + 1 by omega, show ¬ y < 0 + 1 by omega, hm, hy, show ¬ y < 1 by omega,
      show ¬ y = 0 by omega, Nat.add_comm 1 m]
  rcases Nat.lt_trichotomy x (m + 1) with h1 | rfl | h1
  · rcases Nat.eq_zero_or_pos x with rfl | h0
    · rw [findPages]; simp [pagesMeet, e 4 1 (by omega) (by omega)]
    · exact e 5 x h0 h1
  · simp [findPages, pagesMeet, Nat.add_comm 1 m]
  · rw [findPages]; simp [show m + 2 < x + 1 by omega, e 4 1 (by omega) (by omega)]

/-- One page is left of plain 0's memory and one of the addresses, its tables in place. -/
def nearlyFull : State := program fun s =>
  { s with frames := [(0, 2 ^ 20 - 1)], allocs := [(1, 2 ^ 40 - 2)]
           mem := [0x11FF8, 0x13FF8, 0x15FF8].foldl (fun m a => writeBytes m a (leBytes 8 (a / 0x2000 * 0x2000 + 0x2001))) s.mem }

theorem wit_alloc : (nearlyFull.alloc 0 (pagesFor 5) 1 [] true false).isSome := by
  have a : nearlyFull.newRange 1 1 = some (2 ^ 40 - 1, { nearlyFull.draw.2 with allocs := nearlyFull.allocs ++ [(2 ^ 40 - 1, 1)] }) := by
    unfold State.newRange
    exact congrArg (Option.map _) (findPages_high (2 ^ 40 - 2) _ (by decide))
  have b (s : State) (h : s.frames = [(0, 2 ^ 20 - 1)]) (c : s.caps = fullCaps) :
      s.newFrames 0 1 = some (2 ^ 20 - 1, { s.draw.2 with frames := s.frames ++ [(2 ^ 20 - 1, 1)] }) := by
    have e : (s.draw.2.frames.filter fun x => x.1 / 2 ^ 20 == 0).map (fun x => (x.1 % 2 ^ 20, x.2)) = [(0, 2 ^ 20 - 1)] := by
      rw [show s.draw.2.frames = s.frames from rfl, h]; rfl
    unfold State.newFrames
    simp only [e, c]
    exact congrArg (Option.map _) (findPages_last (2 ^ 20 - 1) _ (by decide))
  rw [show pagesFor 5 = 1 from rfl]
  simp only [State.alloc, a, Option.bind_some, State.newCopies]
  rw [b _ rfl rfl]
  decide +kernel

/-- A queue opened needs a page and finds one. -/
theorem wit_frames (s : State) (h : s.frames = []) (c : s.caps = fullCaps) (q : Nat) (l : q < 16) : (s.newFrames q 1).isSome := by
  have e : s.draw.2.frames = [] := h
  have w : fullCaps.chan.getD q 0 = 32 := by
    rw [List.getD_eq_getElem?_getD, show fullCaps.chan = List.replicate 16 32 from rfl, List.getElem?_replicate_of_lt l]; rfl
  unfold State.newFrames
  simp only [e, c, w, List.filter_nil, List.map_nil, Option.isSome_map]
  exact findPages_free (by decide) 1 _

/-- No line is held and the device waits for nothing, before the first entry is read. -/
theorem wit_quiet : (∀ l, queue.homeFree l = true) ∧ ∀ x ∈ queue.ops, x.2.th ≠ deviceKey := ⟨fun _ => rfl, fun _ h => nomatch h⟩

/-- A plain without memory has no page for a pool counter; one with all its memory free has one. -/
theorem wit_no_frames (s : State) (c : s.caps.chan = []) : s.newFrames 0 1 = none := by
  have e (t : List (Nat × Nat)) (n x : Nat) : findPages t 0 1 1 n x = none := by
    induction n generalizing x with
    | zero => rfl
    | succ n h => simp [findPages, h]
  simp [State.newFrames, c, e]

/-- The caller with queue 0 of its tenant open, one entry waiting or none. -/
def called (tail : BitVec 64 := 1) (f : State → State := id) : State :=
  program fun s => f { s with regs := [(0x400, 0x88000001), (0x401, 0x20000), (0x402, tail), (0x580, 0x80000001)] }

/-- The errors and results of calls one after another. -/
def result (i : Instr) (s : State) : Int := (go i s).result
theorem wit_calls_refused :
    ([Instr.timeGet, .imageLoad 0x20000 4, .imageUnload 3, .memAlloc 4 2, .memAlloc 0 0, .memAlloc 4 17, .memAlloc 4 512, .memFree 5, .queueOpen 2 0, .queueClose 1, .queueRestart 1,
        .launchSubmit 1 0 0, .launchStatus 9, .funcRef 1 0, .evqRead 0 0 1 0, .evqOpen 1 16].map fun i => result i { called with ns := 7 })
      = [7, -1, -4, -3, -1, -1, -1, -4, -1, -4, -4, -4, -4, -4, -4, -3] := by decide +kernel

theorem wit_queue_calls :
    (let s := called; s.tenantOf s.caller == some 1 && s.qTenant 0 == 1 && s.qEn 0 && !s.qStop 0 && s.qHead 0 != s.qTail 0 && (go (.queueClose 0) s).waiting == [.close 0]) = true
    ∧ (let t := go (.queueClose 0) (called 0); t.result == 0 && t.reg 0x400 == 0x08000001 && !t.qEn 0) = true
    ∧ (let s := (called).setReg 0x400 0xA8000001; result (.queueClose 0) s == -5 && (go (.queueRestart 0) s).reg 0x400 == 0x88000001) = true
    ∧ (result (.queueClose 0) ((called).setReg 0x400 0x88000002) == -3) = true
    ∧ (let s := { called 0 with waiting := [.close 0] }; s.serveCalls.waiting == [] && !s.serveCalls.qEn 0) = true
    ∧ (let s := { called with waiting := [.close 0] }; s.serveCalls == s) = true
    ∧ (let t := go (.launchSubmit 0 0x500 3) (called 1); t.qTail 0 == 2 && t.seq == (called 1).seq + 1) = true
    ∧ (result (.launchSubmit 0 0x500 3) (called 256) == -5) = true
    ∧ ((called 1).entryAddr 0 1 == 0x20010 && (Tab.find (called 1).seq (called 1).launches).isNone) = true := by decide +kernel

/-- Launch 0 runs, of the caller's tenant. -/
def launched (f : Launch → Launch := id) : State := called 1 fun s => { s.setLa 0 (fun l => f { l with q := 0, ctx := 0, status := 1 }) with calls := [0] }

/-- Its thread taken. -/
def held (s : State) : State := { s with threads := s.threads.map fun (k, t) => (k, { t with status := .ready, parked := true, preempt := false }) }

theorem wit_launch_calls :
    (let s := launched; (s.launches.reverse.find? fun x => x.2.ctx == 0) == some (0, s.la 0) && result (.launchStatus 0) s == 1) = true
    ∧ (let t := go (.launchResize 0 3) (launched); t.result == 0 && (t.la 0).target == 3 && result (.launchResize 0 5) (launched) == -1) = true
    ∧ (let t := go (.launchCancel 0) (launched); t.result == 0 && (t.la 0).status == 1 && (t.la 0).cancelled && t.crews.all (·.2.started)
      && t.cancelStep 0 == ({ t with threads := [(0, { t.th 0 with preempt := true })] }).takePreempts) = true
    ∧ (let t := (held (go (.launchCancel 0) (launched fun l => { l with rcd := { l.rcd with evq := 0x80000005 } }))).cancelStep 0; (t.la 0).ending && (t.la 0).final == 6 && t.records.map (·.queue) == [5]) = true
    ∧ (let t := (held (go (.launchCancel 0) (launched))).cancelStep 0; (t.la 0).status == 6 && t.crews == []) = true
    ∧ (let t := go (.launchCancel 0) (launched fun l => { l with status := 0 }); t.result == 0 && (t.la 0).status == 6) = true
    ∧ (result (.launchCancel 0) (launched fun l => { l with status := 2 }) == -4) = true
    ∧ (let t := go (.syscallExit 9) (launched); t.result == 9 && t.calls == [] && (t.la 0).cancelled) = true := by decide +kernel

/-- An image of a container with no section. -/
def plainImage (cont : List Byte := leBytes 4 0x59545244 ++ [1, 0, 1, 0] ++ leBytes 8 0 ++ leBytes 8 64 ++ leBytes 8 64 ++ leBytes 32 0) (sum : List Byte := sha256 cont) : List Byte :=
  leBytes 4 0x4D494245 ++ [1, 0, 0, 0] ++ leBytes 8 64 ++ leBytes 8 0 ++ leBytes 8 64 ++ leBytes 8 64 ++ leBytes 8 128 ++ leBytes 8 128 ++ leBytes 8 0
    ++ cont ++ ([1, 0] ++ leBytes 30 0 ++ sha256 [] ++ sum ++ leBytes 32 0)

theorem wit_images :
    (match (program).loadImageBytes (plainImage) with | .ok hd u => hd == 0 && (Tab.find 0 u.containers).isSome | _ => false) = true
    ∧ (partsOfImage (plainImage (List.replicate 64 0) [])).badHeader = true
    ∧ (partsOfImage (plainImage (sum := [])) |>.badMeasure) = true
    ∧ ((program fun s => { s with mem := writeBytes s.mem 0x20000 [1, 2, 3] }).osRead 0x10000 3 == some [1, 2, 3] && ((program).osRead 0x20000 1).isNone) = true
    ∧ (let s := { program with containers := [(1, { kernels := [([65], 4)] })] }; s.osName 0x10000 4096 == some []
      && (go (.imageUnload 1) s).containers == [] && result (.funcRef 1 0x10000) { s with containers := [(1, { kernels := [([], 4)] })] } == 0x100000004) = true := by decide +kernel

/-- Pages given out, and a queue word of tenant 1 with records 9 to `h`. -/
theorem wit_memory_calls :
    (let s := { program with allocs := [(1, 1)] }; let t := go (.memFree 0x10000) s; t.result == 0 && t.allocs == [] && (t.osPlaces 0x10000).isNone) = true
    ∧ (let r : Rcd := { ranges := [⟨0, 0x10000, 4⟩] }; let s := { launched fun l => { l with rcd := r, entered := true } with allocs := [(1, 1)] }
      result (.memFree 0x10000) s == -5) = true := by decide +kernel

/-! ### More clauses: what is denied, guarded off, put off, or comes a second time -/

/-- Whether a word is ready and raises a cause. -/
def raises (e : State → State) (i : Instr) (cause : BitVec 8) (tva : Nat) : Bool :=
  let s := onWord i e
  readyB s i 0 && s.handled 0 cause && (after i e).tca2 == cause.setWidth 32 && (after i e).tva2 == BitVec.ofNat 64 tva

/-- 08 R210: an RPT whose guard is false; the word runs once, and its repetitions are guarded off. -/
theorem wit_guarded_repeat :
    (let i : Instr := .rpt hf 3 1 0 1; let e := next i (.iadd (hd .i32) (.v 20) a2 b3); let s := onWord i e; let t := go i s;
      standsB s i 0 && !s.guard 0 hf.g && !s.guardPending 0 hf && !((s.front.map (·.last)).getD true) && s.wordAfter 0 (s.th 0).pc 1 == .word (wordOf (.iadd (hd .i32) (.v 20) a2 b3))
      && (t.th 0).rep == some ⟨0, 4, 0, 0, 0⟩ && !(t.th 0).idles && !(t.setTh 0 fun x => { x with rep := some ⟨2, 4, 0, 0, 0⟩ }).guard 0 ⟨false, 7⟩) = true := by
  decide +kernel

/-- 02 R60: the last word of a slice makes its target eligible, at depth 2 behind a recipe; a trap within it ends that. -/
theorem wit_slice_ends :
    let t : Thread := { (dev.th 0) with slice := some ⟨6, 0x10018, 2, [2], 2⟩, elig := [⟨2, 0x10018, 1, 1, [], 0⟩, ⟨6, 0x10018, 1, 1, [], 0⟩] };
    (t.sliceStep 5).slice = some ⟨6, 0x10018, 2, [2], 1⟩
    ∧ (({ t with slice := some ⟨6, 0x10018, 2, [2], 1⟩ } : Thread).sliceStep 5).elig.getLast? = some ⟨6, 0x10018, 2, 2, [2], 5⟩
    ∧ (((dev.setTh 0 fun _ => t).enter2 0 ⟨0x20, 7, none, none⟩ t.pc t.hofs).th 0).elig = [⟨2, 0x10018, 1, 1, [], 0⟩] := by decide +kernel

/-- The launch's pool counter at 0x10400 holds n; it gives blocks of 64 symbols. -/
def poolOf (n : Nat) (f : Launch → Launch := id) (s : State) : State :=
  { s with mem := writeBytes s.mem 0x10400 (leBytes 8 n) }.setLa 0 fun l => f { l with poolAt := some 0x10400, rcd := { l.rcd with sympool := 128, devs := 2 } }

/-- 02 R76: a block drawn, the pool empty, and a device that is not launch device 0, which asks. -/
theorem wit_pool :
    (let i : Instr := .afsym (hd .b32) d5; runs (poolOf 1) i && (after i (poolOf 1)).vget 6 == 65 && (go i (onWord i (poolOf 1))).coh 0x10400 8 == leBytes 8 2
      && ((go i (onWord i (poolOf 1))).cr 0).block == some (66, 128)) = true
    ∧ raises (poolOf 2) (.afsym (hd .b32) d5) 0x18 0 = true
    ∧ (runs (fun s => poolOf 1 id (aff12 s)) (.afsqr (hd .b32) (.v 48) (.v 16)) && raises (fun s => poolOf 2 id (aff12 s)) (.afsqr (hd .b32) (.v 48) (.v 16)) 0x18 0) = true
    ∧ (let i : Instr := .afsqr (hd .b32) (.v 48) (.v 16); let s := onWord i fun s => poolOf 0 (fun l => { l with dev := 1 }) (aff12 s); let t := go i s;
      readyB s i 0 && (s.cr 0).block.isNone && (s.cr 0).draw.isNone && (t.cr 0).draw == some s.seq && t.remote.length == 1) = true := by decide +kernel

/-- 04 R104: a load and an atomic on a frame that nothing has written; PREF of what is not mapped. -/
theorem wit_fresh_frames :
    (let i : Instr := .pref (hd .b32) (.v 2) (.imm 0) (mg); let e := regs [(2, 0x900000), (3, 0)]; runs e i
      && (match ((onWord i e).place 0 .g 0x900000 1 { r := true, rtype := .own, size := 1 }).1 with | .fault _ _ _ => true | _ => false)) = true
    ∧ (let s := dev fun s => s.setTh 0 fun t => { t with fresh := [(8, 16)] }; let m : MemF := ⟨.crew, .l, .own, 0, 0⟩;
      s.frameZeros 0 m 6 4 == [2, 3] && (s.zeroNow 0 m 12 4 (.mem 0x10200)).coh 0x10200 4 == [0, 0, 0, 0]
      && ((s.zeroNow 0 m 12 4 (.mem 0x10200)).th 0).fresh == [(8, 12)] && ((s.th 0).wroteFrame 10 2).fresh == [(8, 10), (12, 16)]) = true := by decide +kernel

/-- 04 R110: scratch that was poisoned in a way now returned is poisoned no more. -/
theorem wit_resize_poison :
    (let i : Instr := .cresize (hd .b32) (.imm 0); let e := fun s => { at200 s with scrPoison := [.crewScratch 0 5, .crewScratch 0 (2 ^ 19 + 3), .crewScratch 1 (2 ^ 20)] };
      let t := go i (onWord i e); runs e i && t.scrPoison == [.crewScratch 0 5, .crewScratch 1 (2 ^ 20)]) = true := by decide +kernel

/-- 18 R388, R389: CPSTAT and device registers that the access tables deny to the core. -/
theorem wit_denials :
    raises (fun s => { chan 3 0 s with acc := [] }) (.cpstat (hd .b32) (.v 6) (.sp 0x50) (.imm 1)) 0x11 0 = true
    ∧ (let e := fun s : State => { s with acc := s.acc.filter fun x => x.1 != 32 }; (onWord (.nop (hd .b32)) id).sysAdmits 0 0x603 false
      && !(onWord (.nop (hd .b32)) e).sysAdmits 0 0x603 false && raises e (.srd (hd .n64) (.v 6) 0x603) 0x11 0x603 && raises e (.swr (hd .n64) (.v 2) 0x603) 0x11 0x603
      && runs id (.srd (hd .n64) (.v 6) 0x603) && runs id (.swr (hd .n64) (.v 2) 0x603)) = true := by decide +kernel

/-- CTXLOAD beside an unstarted crew of another launch, and of an area that the core may not read. -/
theorem wit_load_refused :
    let j : Instr := .ctxload (hd .b32) (.v 20) (.v 8) (.v 2);
    (let e := fun s => { area s with crews := Tab.put 9 { launch := 3, ctx := 7, core := 0 } (area s).crews }; let s := onWord j e; readyB s j 0
      && s.unstartedBeside 0 1 && ((go j s).th 0).vget 20 == 2) = true
    ∧ (let e := fun s => { area s with acc := [] }; let s := onWord j e; readyB s j 0 && !s.coreMay 0 0x10400 256 false && ((go j s).th 0).vget 20 == 1) = true := by
  decide +kernel

/-- An access that is out: its thread is at no point where it may be taken (01 R28). -/
theorem wit_not_taken :
    (let s := (out .load (some .sent)).setTh 0 fun t => { t with preempt := true, rep := some ⟨1, 4, 0, 0, 0⟩ }; go (.preemptionTakeEffect 0) s == s
      && ((go (.preemptionTakeEffect 0) { s with ops := [], remote := [] }).th 0).parked) = true := by decide +kernel

/-- 20 R405: a home whose clock is not good counts its own cycles. -/
theorem wit_own_cycles :
    (let s := { leasedStore with ptpErr := 30, readLeases := [⟨0x10200, 9, 1000, leasedStore.cycle + 9⟩] }; let t := go (.homeStoreMerge (opId s)) s;
      enabledB s (opId s) && (Tab.find (opId s) t.ops).any (fun o => o.notBefore == some 503)) = true := by decide +kernel

/-- Masters: denials by kind, a register behind a waiting access, what a switch of the host link aborts. -/
theorem wit_masters :
    ((go (.hostWrite 4 0x10200 [1]) host).reply == .unsupported && (go (.controlCoreAccess 0x481 (.regRead 0x604)) host).reply == .accessFault) = true
    ∧ (let s := { host with posted := [⟨0x480, 0x10200, [1], 0, none⟩] }; let t := go (.controlCoreAccess 0x480 (.regWrite 0x604 20)) s; let u := go (.registerWrite 0x604 20) s;
      t.posted.length == 2 && t.reg 0x604 == s.reg 0x604 && u.posted == t.posted && u.reg 0x604 == s.reg 0x604
      && (go (.controlCoreAccess 0x480 (.regRead 0x604)) s).posted.map (·.reg) == [none, some 0x604]) = true
    ∧ (let s := { host.setReg 0x630 0x80000000 with posted := [⟨0x4A3, 0x10200, [1], 0, none⟩, ⟨0x480, 0x10200, [1], 0, none⟩] }; let t := go .hostLinkSwitch s;
      t.posted.map (·.master) == [0x480] && t.reply == .aborted && ((go (.hostselWrite 1) (open_ [0, 0x480, 0x3C0, 0x4A3] { s with posted := s.posted.take 1 })).posted == [])) = true
    ∧ (let t := go (.registerWrite 0x604 20) (open_ [0] dev); t.reply == .accessFault && t.reg 0x604 == 1000) = true
    ∧ (let s := regdev (posted 5); let t := go (.engresJobPost 0xC0000000) { s with acc := s.acc.map fun (k, x) => (k, if k = 36 then { x with perms := [] } else x) };
      (t.cl 0).table == [] && (Tab.getD 11 {} t.banks).cnt == 1) = true := by decide +kernel

/-- A scrub finds a double-bit error under a line that an L1 owns: nothing is poisoned. -/
theorem wit_scrub_owned :
    (let s := dev cached; let t := go (.hbmScrub 0x10200 true) s; (s.ownerOf 0x10200).isSome && s.paOk 0x10200 && t.poison == s.poison) = true := by
  decide +kernel

/-- 17 R361, R391: the base priority follows the queue; no crew on another tenant's plain. 17 R363: nothing starts of a cancelled launch. -/
theorem wit_bindings :
    (let s := placed.setLa 1 fun l => { l with base := 9 }; (s.tidyLaunches.la 1).base == min 0 (s.qPri 0)) = true
    ∧ (let s := placed.setReg 0x580 0x80000002; !s.tenantHas (s.qTenant 0) 0 && go (.valleyBind 1 0) s == s) = true
    ∧ (let s := (go (.valleyBind 1 0) placed).setLa 1 fun l => { l with cancelled := true }; go (.crewStart 11) s == s) = true
    ∧ (let s := running fun s => { allThreads .exited s with crews := s.crews.map fun (k, c) => (k, { c with ended := true }) }; s.allExited 1 && go (.phaseBoundary 1) s == s) = true := by
  decide +kernel

/-- A slice on a held cluster is not taken; one of a cancelled launch, or behind a launch of a higher rank, is not restored. -/
theorem wit_slices_wait :
    (let s := ((rival true).setLa 1 fun l => { l with leaving := [0] }).setCl 0 fun c => { c with hold := some 0 }; let t := go (.slicePreempt 1 0) s;
      !(t.la 1).leaving.contains 0 && t.slices == []) = true
    ∧ (let s := { running with slices := [(7, { ctx := 5, launch := 1, plain := 0, cluster := 3, cores := [], readyAt := 0 })] };
      let c := s.setLa 1 fun l => { l with cancelled := true }; (c.tryRestore 7 1).isNone && go (.sliceRestore 7 1) c == c
      && (s.cands 0).all (fun c => !s.before c (.slice 7))) = true := by decide +kernel

/-- Peers' requests of a job killed, of a device not in its map, at no place, and at one that is denied; each is refused. -/
theorem wit_turned_away :
    (let i : Instr := .flitRead (flit 4 0x10000 []); (said (go i (peer fun s => { s with jobs := s.jobs.map fun (j, x) => (j, { x with killed := true }) }))).1 == 5
      && (said (go i (peer fun s => { s with jobs := s.jobs.map fun (j, x) => (j, { x with dmap := [3, 8] }) }))).1 == 5) = true
    ∧ (said (go (.flitRead (flit 4 (2 ^ 50) [])) (peer))).1 = 5
    ∧ (let t := go (.flitAtomic (flit 4 0x10200 [1, 0, 0, 0] (0x300 + 0))) (peer fun s => { s with acc := [] }); (said t).1 == 5 && (Tab.getD 11 {} t.banks).cnt == 1) = true := by
  decide +kernel

/-- Messages: one its stream has had, of a job whose handlers are gone; one refused moves its stream on; one held on an abandoned stream is
lost at its own deadline. -/
theorem wit_streams :
    (let s := peer fun s => { s with streams := [{ job := 5, dev := 7, expect := 4, next := 9 }], ns := 100 };
      s.handlerLaunch 5 == none && (said (go (.flitMessage (msg 3 100)) s)).1 == 7
      && (said (go (.flitMessage (msg 4 100)) s)).1 == 5 && ((go (.flitMessage (msg 4 100)) s).stream 5 7 0).expect == 5) = true
    ∧ (let s := unacked 150 fun s => { s with streams := [{ job := 5, dev := 7, next := 9, abandoned := true, repairing := some 900 }] };
      let t := go (.streamAbandon 5 7) { s with ns := 200 }; t.sent == [] && (t.stream 5 7 0).abandoned && (ctr5 t).l == 1 && (ctr5 t).u == 0
      && (go (.streamAbandon 5 7) { s with ns := 199 }).sent == s.sent) = true := by decide +kernel

/-- Phases and kills: an arrival for a launch not read here yet is kept; a second notice of a killed job is logged, one of a stranger is not. -/
theorem wit_arrivals :
    (let f := flit 0 0 [] 1; let s := peer; s.admitFlit f == .ok && s.phaseLaunch f == none && go (.flitPhaseArrive f) s == { s with early := [f] }) = true
    ∧ (let s := (phased fun s => { s with jobs := s.jobs.map fun (j, x) => (j, { x with killed := true }) }).setReg 0x605 0x20000; let t := go (.flitKillNotice (flit 0 0 [])) s;
      (Tab.getD 5 ({} : Job) t.jobs).killed && (Tab.getD 9 {} t.banks).stat.getLsbD 63) = true
    ∧ (let s := peer fun s => { s with jobs := s.jobs.map fun (j, x) => (j, { x with dmap := [3, 8] }) }; go (.flitKillNotice (flit 0 0 [])) s == s) = true := by decide +kernel

/-- 17 R373: a call behind a store that waits, and its turn. -/
theorem wit_fenced_calls :
    (let s := { called with ns := 7, posted := [⟨0x480, 0x10200, [1], 0, none⟩] }; let t := go .timeGet s;
      s.storesWait && t.waiting == [.fenced .timeGet] && t.result == s.result && t.serveCalls == t
      && ({ t with posted := [] }.serveCalls).result == 7 && ({ t with posted := [] }.serveCalls).waiting == []) = true := by decide +kernel

/-! ### Decoding: words written field by field from 06 R149 and the tables of 06 R163 and of each instruction -/

/-- A word with guard 7 and no hints: OP, FN, D, A, B, X, TYPE, MOD at bits 88, 82, 72, 62, 52, 20, 12 and 8. -/
def fw (op fn d a b x ty : Nat) (md : Nat := 0) : IWord :=
  BitVec.ofNat 96 (op * 2 ^ 88 + fn * 2 ^ 82 + d * 2 ^ 72 + a * 2 ^ 62 + b * 2 ^ 52 + x * 2 ^ 20 + 7 * 2 ^ 16 + ty * 2 ^ 12 + md * 2 ^ 8)

/-- Each word decodes to its instruction. -/
def reads (l : List (IWord × Instr)) : Prop := l.map (fun x => decodeWord x.1) = l.map fun x => .ok x.2

/-- FN 0 and up of an OP, the other fields the same. -/
def fns (op d a b x ty : Nat) (l : List Instr) (from_ : Nat := 0) (md : Nat := 0) : List (IWord × Instr) :=
  ((List.range l.length).map fun i => fw op (from_ + i) d a b x ty md).zip l

theorem test_decode_control :
    let h := hd .b32
    reads (fns 0x02 0 0 0 0 0 [.nop h] ++ fns 0x03 0 0 0 0xFFFFFFFE 0 [.bra h (-2)] ++ fns 0x03 0 2 0 0 0 [.brx h (.v 2)] 1 ++ fns 0x04 6 0 0 9 0 [.call h (.v 6) 9]
      ++ fns 0x04 6 2 0 0 0 [.callx h (.v 6) (.v 2)] 1 ++ fns 0x04 0 2 0 0 0 [.ret h (.v 2)] 2 ++ fns 0x05 0 0x303 0 9 0 [.loop h (.imm 3) 9, .loopx h (.imm 3) 9]
      ++ fns 0x05 0 0 0 0 0 [.lbrk h] 2 ++ fns 0x06 0 0 0 0 0 [.exit h, .yield h, .phase h] ++ fns 0x07 0 0 0 0x1234 0 [.trap h 0x1234] ++ fns 0x07 0 0 0 0 0 [.tret (hd .b32 1)] 1 1
      ++ fns 0x08 0 0 0 0x7E05 0 [.rpt h 5 0 7 7] ++ fns 0x09 0 0 0 0x801 0 [.waitf h 0x801] ++ fns 0x0A 0 0 0 0x2A15 0 [.setmode h 0x15 0x2A]
      ++ fns 0x0A 0 2 0 0 0 [.setperf h (.v 2)] 1 ++ fns 0x0A 6 0x301 0 0 0 [.getclk h (.v 6) (.imm 1)] 2) := by rfl

theorem test_decode_integers :
    let h := hd .i32
    let b := hd .b32
    let d : Spec := .v 6
    let a : Spec := .v 2
    let c : Spec := .v 4
    let e : Spec := .v 8
    reads (fns 0x10 6 2 4 0 3 [.iadd h d a c, .isub h d a c] ++ fns 0x10 6 2 0 0 3 [.ineg h d a, .iabs h d a] 2 ++ fns 0x10 6 2 0 70000 3 [.iaddImm h d a 70000, .isubImm h d a 70000] 0x20
      ++ fns 0x11 6 2 4 0 3 [.imul h d a c, .imulhi h d a c] ++ fns 0x11 6 2 4 8 3 [.imad h d a c e, .imadw h d a c e] 2 ++ fns 0x11 6 2 0 9 3 [.imulImm h d a 9, .imulhiImm h d a 9] 0x20
      ++ fns 0x12 6 2 4 0 3 [.idiv h d a c, .irem h d a c] ++ fns 0x12 6 2 0 9 3 [.idivImm h d a 9, .iremImm h d a 9] 0x20
      ++ fns 0x13 6 2 4 0 3 [.imin h d a c, .imax h d a c] ++ fns 0x13 6 2 4 8 7 [.isad (hd .n32) d a c e] 2 ++ fns 0x13 6 2 0 9 3 [.iminImm h d a 9, .imaxImm h d a 9] 0x20)
    ∧ reads (fns 0x14 6 2 4 3 0 [.lea b d a c 3] ++ fns 0x14 6 2 4 3 3 [.leaw h d a c 3] 1
      ++ fns 0x15 6 2 4 0 0 [.and b d a c, .or b d a c, .xor b d a c, .andn b d a c] ++ fns 0x15 6 2 0 0 0 [.not b d a] 4 ++ fns 0x15 6 2 4 0x96008 0 [.bool3 b d a c e 0x96] 5
      ++ fns 0x15 6 2 0 9 0 [.andImm b d a 9, .orImm b d a 9, .xorImm b d a 9, .andnImm b d a 9] 0x20
      ++ fns 0x16 6 2 4 0 0 [.shl b d a c] ++ fns 0x16 6 2 4 0 0 [.shr b d a c] 1 ++ fns 0x16 6 2 4 0 3 [.sar h d a c] 2 ++ fns 0x16 6 2 4 0 0 [.rot b d a c] 3 ++ fns 0x16 6 2 4 8 0 [.xshr b d a c e] 4
      ++ fns 0x16 6 2 0 9 0 [.shlImm b d a 9, .shrImm b d a 9] 0x20 ++ fns 0x16 6 2 0 9 3 [.sarImm h d a 9] 0x22 ++ fns 0x16 6 2 0 9 0 [.rotImm b d a 9] 0x23)
    ∧ reads (fns 0x17 6 2 0 0x0503 7 [.bfx (hd .n32) d a 3 5] ++ fns 0x17 6 2 4 0x0503 0 [.bfi b d a c 3 5] 1 ++ fns 0x17 6 2 0 0 0 [.brev b d a, .popc b d a, .clz b d a, .ctz b d a] 2
      ++ fns 0x18 6 2 4 0x214C7 0 [.bpick b d a c 0x214C7] ++ fns 0x19 6 2 4 8 1 [.idp4 (hd .i8) d a c e] ++ fns 0x19 6 2 4 8 6 [.idp2 (hd .n16) d a c e] 1
      ++ fns 0x28 0x202 2 4 0x12 3 [.icmp h (.sp 2) a c 2 1] ++ fns 0x28 6 2 4 0x35 3 [.icmpv h d a c 5 3] 1 ++ fns 0x29 0x202 2 4 0x0C 12 [.fcmp (hd .f32) (.sp 2) a c 12 0]
      ++ fns 0x29 6 2 4 0x28 12 [.fcmpv (hd .f32 8) d a c 8 2] 1 8 ++ fns 0x2A 0x201 0x202 0x203 0x80207 0 [.pbool3 b (.sp 1) (.sp 2) (.sp 3) (.sp 7) 0x80]
      ++ fns 0x2A 6 0 0 0 0 [.pmovGet b d] 1 ++ fns 0x2A 0 2 0 0x5501 0 [.pmovSet b a 0x55] 1 ++ fns 0x2B 6 2 4 0xB 0 [.sel b d a c 3 1]
      ++ fns 0x2C 6 2 0 0 0 [.mov b d a] ++ fns 0x2C 6 0 0 0xDEADBEEF 0 [.movi b d 0xDEADBEEF] 1 ++ fns 0x2C 6 2 0 0 7 [.movw (hd .n32) d a] 2) := by
  refine ⟨?_, ?_, ?_⟩ <;> rfl

theorem test_decode_floats :
    let h := hd .f32
    let d : Spec := .v 6
    let a : Spec := .v 2
    let c : Spec := .v 4
    let e : Spec := .v 8
    reads (fns 0x30 6 2 4 0 12 [.fadd h d a c, .fsub h d a c, .fmul h d a c] ++ fns 0x30 6 2 4 8 12 [.ffma (hd .f32 12) d a c e] 3 12
      ++ fns 0x30 6 2 0 0x3F800000 12 [.faddImm h d a 0x3F800000, .fsubImm h d a 0x3F800000, .fmulImm h d a 0x3F800000] 0x20
      ++ fns 0x31 6 2 4 0 12 [.fdiv h d a c] ++ fns 0x31 6 2 0 0 12 [.fsqrt h d a, .frcp h d a, .frsq h d a] 1 ++ fns 0x32 6 2 4 0 12 [.fmin h d a c, .fmax h d a c]
      ++ fns 0x32 6 2 0 0x3F800000 12 [.fminImm (hd .f32 1) d a 0x3F800000, .fmaxImm (hd .f32 1) d a 0x3F800000] 0x20 1 ++ fns 0x33 6 2 0 0 10 [.fabs (hd .bf16) d a, .fneg (hd .bf16) d a]
      ++ fns 0x33 6 2 4 0 13 [.fcpys (hd .f64) d a c] 2 ++ fns 0x34 0x201 2 0 0x155 12 [.fclass h (.sp 1) a 0x155] ++ fns 0x35 6 2 0 0 12 [.frnd h d a, .ffrac h d a]
      ++ fns 0x36 6 2 0 0 9 [.fexp2 (hd .f16) d a, .flog2 (hd .f16) d a, .fsin (hd .f16) d a, .fcos (hd .f16) d a, .ftanh (hd .f16) d a]
      ++ fns 0x37 6 2 4 0 11 [.fscale (hd .f19) d a c] ++ fns 0x37 6 2 0 0 12 [.fgetexp h d a] 1)
    ∧ reads (fns 0x38 6 2 4 0 9 [.hadd2 (hd .f16) d a c, .hmul2 (hd .f16) d a c] ++ fns 0x38 6 2 4 8 10 [.hfma2 (hd .bf16) d a c e] 2
      ++ fns 0x38 6 2 4 0 9 [.hmin2 (hd .f16 1) d a c, .hmax2 (hd .f16 1) d a c] 3 1 ++ fns 0x38 6 2 0 0x3C004000 9 [.hadd2Imm (hd .f16) d a 0x3C004000, .hmul2Imm (hd .f16) d a 0x3C004000] 0x20
      ++ fns 0x38 6 2 0 9 9 [.hmin2Imm (hd .f16) d a 9, .hmax2Imm (hd .f16) d a 9] 0x23
      ++ fns 0x48 20 8 4 0 15 [.cvtnPk (hd .slot 1) (.v 20) (.v 8) c] 0 1 ++ fns 0x48 8 20 4 0 15 [.cvtnUnpk (hd .slot 9) (.v 8) (.v 20) c] 0 9
      ++ fns 0x49 6 2 0x30C 0 9 [.cvtw (hd .f16 1) d a (.imm 12)] 0 1 ++ fns 0x4A 30 12 13 4 15 [.vblkx (hd .slot 2) (.v 30) (.v 12) (.v 13) 4] 0 2) := by
  refine ⟨?_, ?_⟩ <;> rfl

theorem test_decode_lanes :
    let h := hd .b32
    let d : Spec := .v 6
    let a : Spec := .v 2
    let c : Spec := .v 4
    reads (fns 0x50 6 2 4 0xF0F 0 [.lanexPick h d a c 0xF0F, .lanexBack h d a c 0xF0F, .lanexFwd h d a c 0xF0F, .lanexFlip h d a c 0xF0F, .lanexRot h d a c 0xF0F]
      ++ fns 0x51 6 2 0 0xF0F 0 [.pollAll h d a 0xF0F, .pollAny h d a 0xF0F, .pollMask h d a 0xF0F, .pollSame h d a 0xF0F, .pollCount h d a 0xF0F]
      ++ fns 0x52 6 2 0 0xF0F 8 [.peersGroup (hd .n64 3) d a 0xF0F, .peersWhole (hd .n64 3) d a 0xF0F] 0 3
      ++ fns 0x53 6 2 4 3 3 [.mredAdd (hd .i32) d a c 3, .mredMin (hd .i32) d a c 3, .mredMax (hd .i32) d a c 3]
      ++ fns 0x53 6 2 4 3 0 [.mredAnd h d a c 3, .mredOr h d a c 3, .mredXor h d a c 3] 3
      ++ fns 0x54 6 2 0 3 13 [.scanAdd (hd .f64 8) d a 3, .scanMin (hd .f64 8) d a 3, .scanMax (hd .f64 8) d a 3] 0 8
      ++ fns 0x54 6 2 0 3 0 [.scanAnd h d a 3, .scanOr h d a 3, .scanXor h d a 3] 3
      ++ fns 0x55 6 2 0 3 12 [.redxAdd (hd .f32) d a 3, .redxMin (hd .f32) d a 3, .redxMax (hd .f32) d a 3]
      ++ fns 0x55 6 2 0 3 0 [.redxAnd h d a 3, .redxOr h d a 3, .redxXor h d a 3] 3
      ++ fns 0x56 6 2 0x308 3 7 [.hist (hd .n32) d a (.imm 8) 3] ++ fns 0x57 6 2 0x301 3 7 [.hmrg (hd .n32) d a (.imm 1) 3])
    ∧ reads (fns 0x58 6 0 0 8 0 [.slice h d 8] ++ fns 0x59 0 2 0 0 0 [.rcpmat h a] ++ fns 0x5A 6 0 0 0 0 [.rcpdrop h d] ++ fns 0x5B 6 2 0 0 0 [.rcpstat (hd .b32 2) d a] 0 2
      ++ fns 0x5C 16 32 48 0 0 [.afadd h (.v 16) (.v 32) (.v 48), .afsub h (.v 16) (.v 32) (.v 48)] ++ fns 0x5C 16 32 0x302 0 0 [.afscl h (.v 16) (.v 32) (.imm 2)] 2
      ++ fns 0x5D 16 32 48 0 0 [.afmul h (.v 16) (.v 32) (.v 48)] ++ fns 0x5D 16 32 0 0 0 [.afsqr h (.v 16) (.v 32), .afrec h (.v 16) (.v 32)] 1
      ++ fns 0x5E 16 32 4 0xE 0 [.afcond h (.v 16) (.v 32) c 6 1] ++ fns 0x5E 6 32 0 0 0 [.afbnd h d (.v 32)] 1 ++ fns 0x5E 16 2 4 0xFFFF 0 [.afini h (.v 16) a c 0xFFFF] 2
      ++ fns 0x5E 6 0 0 0 0 [.afsym h d] 3 ++ fns 0x5F 16 2 4 0xFFFFC 0 [.afld h (.v 16) a c ⟨.crew, .g, .own, 0, -4⟩, .afst h (.v 16) a c ⟨.crew, .g, .own, 0, -4⟩]) := by
  refine ⟨?_, ?_⟩ <;> rfl

theorem test_decode_memory :
    let h := hd .b32
    let d : Spec := .v 6
    let a : Spec := .v 2
    let c : Spec := .v 4
    let m : MemF := ⟨.device, .g, .wt, 0, 64⟩
    let x := 3 * 2 ^ 29 + 1 * 2 ^ 23 + 64
    reads (fns 0x60 6 2 4 (x + 2 * 2 ^ 20) 12 [.ld (hd .f32 5) d a c { m with scale := 2 }] 0 5 ++ fns 0x61 6 2 4 (x + 4 * 2 ^ 20) 2 [.st (hd .i16 10) d a c { m with scale := 4 }] 0 10
      ++ fns 0x62 0 2 4 64 0 [.pref h a c ⟨.crew, .g, .own, 0, 64⟩] ++ fns 0x60 6 2 4 (2 ^ 26 + 3) 1 [.ld (hd .i8 1) d a c ⟨.crew, .l, .own, 0, 3⟩] 0 1
      ++ fns 0x70 6 2 4 x 4 [.atomAdd (hd .i64 4) d a c m, .atomMin (hd .i64 4) d a c m, .atomMax (hd .i64 4) d a c m, .atomAnd (hd .i64 4) d a c m, .atomOr (hd .i64 4) d a c m,
          .atomXor (hd .i64 4) d a c m, .atomExch (hd .i64 4) d a c m] 0 4
      ++ fns 0x70 6 2 4 x 7 [.atomInc (hd .n32 8) d a c m, .atomDec (hd .n32 8) d a c m, .atomCas (hd .n32 8) d a c m] 7 8
      ++ fns 0x70 6 2 4 x 12 [.atomFadd (hd .f32 4) d a c m, .atomFmin (hd .f32 4) d a c m, .atomFmax (hd .f32 4) d a c m] 10 4)
    ∧ reads (fns 0x71 0x201 2 4 (3 * 2 ^ 29 + 64) 0 [.lease (hd .b32 1) (.sp 1) a c ⟨.device, .g, .own, 0, 64⟩] 0 1 ++ fns 0x71 0x201 0 0 0 0 [.lend h (.sp 1)] 1
      ++ fns 0x78 0 0 0 4 0 [.fenceAcq h .domain, .fenceRel h .domain, .fenceAr h .domain, .fenceSc h .domain]
      ++ fns 0x79 0 0 0 0 0 [.roinv h] ++ fns 0x79 0 2 4 0 0 [.cinv h a c, .cinvDiscard h a c, .cwb h a c] 1 ++ fns 0x79 0 2 0 0 0 [.cresize h a] 4
      ++ fns 0x7A 0 0x23F 4 0 0 [.bninit h (.sp 0x3F) c] ++ fns 0x7A 6 0x23F 0 0 0 [.bnarr h d (.sp 0x3F)] 1 ++ fns 0x7A 0 0x23F 4 0 0 [.bnwait h (.sp 0x3F) c] 2
      ++ fns 0x7A 0x201 0x23F 4 0 0 [.bntest (hd .b32 1) (.sp 1) (.sp 0x3F) c] 3 1 ++ fns 0x7B 6 2 4 (3 * 2 ^ 29 + 64) 0 [.mbarr h d a c ⟨.device, .g, .own, 0, 64⟩]
      ++ fns 0x7B 0 2 4 (3 * 2 ^ 29 + 64) 0 [.mbwait h a c ⟨.device, .g, .own, 0, 64⟩] 1)
    ∧ reads (fns 0x80 0 0x253 4 0 0 [.cpgo h (.sp 0x53) c] ++ fns 0x80 6 0x253 0x301 0 0 [.cpstat h d (.sp 0x53) (.imm 1)] 1 ++ fns 0x81 0x24F 2 4 0 0 [.cvinit h (.sp 0x4F) a c]
      ++ fns 0x81 0x201 0x24F 0 0 0 [.mxsign h (.sp 1) (.sp 0x4F)] 1 ++ fns 0x81 0x201 2 0 0 0 [.mxpost h (.sp 1) a] 2 ++ fns 0x81 6 2 0 0 0 [.mxstat h d a] 3
      ++ fns 0x88 0 16 3 5 0 [.msend h (.v 16) (.v 3) 5] ++ fns 0x89 0 2 4 8 0 [.eqpost h a c (.v 8)] ++ fns 0x8A 6 0 0 0 0 [.waitq h d, .qwave h d])
    ∧ reads (fns 0x90 6 0 0 0x102 8 [.srd (hd .n64) d 0x102] ++ fns 0x90 0 2 0 0x102 8 [.swr (hd .n64) a 0x102] 1 ++ fns 0x91 0 0 0 0 0 [.trets (hd .b32 1)] 0 1
      ++ fns 0x92 0 2 4 1 0 [.tlbinv h a c 1] ++ fns 0x92 0 0 0 0 0 [.icinv h] 1 ++ fns 0x93 6 2 0 0 0 [.rcpflush h d a] ++ fns 0x94 6 2 4 0 0 [.ctxsave h d a c, .ctxload h d a c]
      ++ fns 0x94 6 2 4 0 0 [.ctxsave (hd .b32 1) d a c] 0 1 ++ fns 0x95 0 2 0 0 0 [.park h a, .halt h a] ++ fns 0x95 0 2 0 0 0 [.parkRel (hd .b32 1) a] 0 1
      ++ fns 0x96 6 0 0 3 0 [.stest h d 3] ++ fns 0x97 6 2 4 0 0 [.setperfSysCap h d a c] ++ fns 0x97 6 2 4 1 0 [.setperfSysPermits h d a c]) := by
  refine ⟨?_, ?_, ?_, ?_⟩ <;> rfl

/-- 06 R149 to R156: hints, guard and header. -/
theorem test_decode_heads : reads
    [(0x900004000000000010278000, .srd (hd .n64) (.v 4) 0x102), (0x010000400080000000000000, .strh 1 0 0 1 0),
     (0x10000700FFB00000000A3080, .iadd ⟨⟨true, 2⟩, .i32, 0, ⟨true, 0, false, false, 0⟩⟩ (.v 7) (.v 3) (.imm 0xFB)),
     (BitVec.ofNat 96 (0x01 * 2 ^ 88 + 0x801 * 2 ^ 70 + 0x1B * 2 ^ 65 + 0x14 * 2 ^ 60 + 24 * 2 ^ 55 + 5 * 2 ^ 52), .strh 0x801 0x1B 0x14 24 5)] := by rfl

/-- 06 R150, R152, R166: ill-formed terms, one for each check: the type, MOD, an operand's class, a limit of an X field. -/
theorem test_ill_formed : ([.iadd (hd .f32) (.v 6) (.v 2) (.v 4), .iadd (hd .i32 2) (.v 6) (.v 2) (.v 4), .fadd (hd .f32 7) (.v 6) (.v 2) (.v 4), .iadd (hd .i32) (.k 6) (.v 2) (.v 4),
      .movw (hd .n32) (.v 7) (.v 2), .bfx (hd .n32) (.v 6) (.v 2) 32 1, .bfx (hd .n32) (.v 6) (.v 2) 0 33, .icmp (hd .i32) (.sp 1) (.v 2) (.v 4) 6 0, .icmp (hd .i32) (.v 1) (.v 2) (.v 4) 0 0,
      .pollAll (hd .b32) (.v 6) (.v 2) 0, .slice (hd .b32) (.v 6) 9, .afcond (hd .b32) (.v 16) (.v 32) (.v 4) 7 0, .tlbinv (hd .b32) (.v 2) (.v 4) 3] : List Instr).map Instr.wf
    = List.replicate 13 false ∧ (Instr.iadd (hd .i32) (.v 6) (.v 2) (.v 4)).wf = true := by decide

/-- Reserved bits set, an OP and FN not assigned, TYPE 0xE, X bits not assigned: refused by name. -/
theorem test_refused_words : [fw 0x10 0 6 2 4 1 3, fw 0x2C 0 6 2 1 0 0, fw 0x02 1 0 0 0 0 0, fw 0x1A 0 0 0 0 0 0, fw 0x02 0 0 0 0 0 0xE, 0, BitVec.ofNat 96 (0xFF * 2 ^ 88), fw 0x07 0 0 0 0 0x10000 0].map (fun w =>
      match decodeWord w with | .ok _ => none | .error e => some e)
    = [some .reservedBits, some .reservedBits, some .unassigned, some .unassigned, some .unassigned, some .illegalOp, some .illegalOp, some .reservedBits] := by decide

/-! ### The whole machine -/

/-- MOVI v6, #5 placed where the next step fetches it. -/
def placed1 : State := State.reset.withFetchWord 96 (0x2C04 * 2 ^ 80 + 6 * 2 ^ 72 + 5 * 2 ^ 20 + 7 * 2 ^ 16)

/-- The step fetches the word at the program counter and runs what it decodes to. -/
theorem wit_fetch :
    (placed1.agenda = [.issue 0] ∧ placed1.fatal = false ∧ placed1.recovery = false)
    ∧ (match placed1.convoys with
      | [c] => c.mem == [0] && (placed1.th 0).pc == c.pc && c.pc != c.hdr && (placed1.th 0).rep.isNone
        && (match { placed1 with agenda := [] }.fetch 0 c.code c.pc with
          | (.word w, _) => (match decodeWord w with | .ok i => decide (i = .movi (hd .b32) (.v 6) 5) | _ => false)
          | _ => false)
        && (match { placed1 with agenda := [] }.codePlace 0 c.pc with | (.at_ (.mem pa), y) => pa == 0x10000 && (Tab.find pa (y.co 0).icache).isNone && !y.poisoned pa 64 | _ => false)
        && c.code == []
      | _ => false) = true
    ∧ (match step placed1 with | .next t => (t.th 0).vget 6 == 5 && (t.th 0).pc == 0x10018 | _ => false) = true := by decide +kernel

/-- The same, its context with a handler. -/
def handledAt : State := { placed1 with ctxs := Tab.modify 0 (fun c => { c with tvec2 := 0x9000 }) placed1.ctxs }

/-- A header placed, a block whose trailer is wrong, a page that is not mapped, a word in a repeat. -/
theorem wit_fetch_others :
    (match step (State.reset.withFetchWord 96 (wordOf (.strh 0 0 0 1 0)).toNat) with | .next t => (t.th 0).pc == 0x1000C && (t.th 0).hdr == 0x10000 | _ => false) = true
    ∧ (match step { handledAt with mem := writeByte placed1.mem 0x10000 0xEE } with | .next t => (t.th 0).tca2 == 0x30 && (t.th 0).tlvl == 2 | _ => false) = true
    ∧ (match step { handledAt with mem := writeBytes placed1.mem 0x26008 (leBytes 8 0) } with | .next t => (t.th 0).tca2 == 0x10 | _ => false) = true := by decide +kernel

/-- A block in a line that another thread has leased: the fetch waits. -/
theorem wit_fetch_waits :
    (let s : State := { lent 0x10000 placed1 with cores := [] }; match s.convoys with
      | [c] => (match { s with agenda := [] }.fetch 0 c.code c.pc with | (.busy l, _) => l == 0x10000 | _ => false)
        && (match step s with | .next t => (t.th 0).pc == c.pc && (t.th 0).vget 6 == 0 | _ => false)
      | _ => false) = true := by decide +kernel

/-- The other turns, and a device that has stopped. -/
theorem wit_turns :
    (match step { placed1 with agenda := [.tick 3 5] } with | .next t => t.cycle == 3 && t.ns == 5 | _ => false) = true
    ∧ (encode (.phaseBoundary 0) = none)
    ∧ (match step { placed1 with agenda := [.act (.threadStarved 0)] } with | .next _ => true | _ => false) = true
    ∧ (match step { placed1 with fatal := true } with | .next t => t == { placed1 with fatal := true, agenda := [] } | _ => false) = true
    ∧ (match step { placed1 with recovery := true, agenda := [.act (.deviceReset ⟨0, 0, [], 0, 0⟩)] } with | .next t => t.recovery | _ => false) = true := by
  decide +kernel

/-- 22 R435: what a stopped device answers, and a repeated word whose burst has no reservation. -/
theorem wit_stopped :
    (answers (.act (.hostRead 0 cfgBase 4)) && answers (.act (.controlCoreAccess 0x4A0 (.regRead 0x800))) && !answers (.act (.controlCoreAccess 0x480 (.regRead 0x800)))
      && !answers (.issue 0) && !answers (.act (.timeGet))) = true
    ∧ (match step { placed1 with fatal := true, agenda := [.act (.hostRead 0 cfgBase 4)] } with | .next t => t.report.length == 4 && t.fatal | _ => false) = true
    ∧ (match placed1.convoys with | [c] => !placed1.burstAgain c (wordOf (.movi (hd .b32) (.v 6) 5)) && !(placed1.th 0).idles | _ => false) = true := by decide +kernel

/-- A state with memory in its canonical form, no line owned, that steps to a next state. -/
theorem wit_keeps_memory : placed1.MemOk ∧ placed1.L1Ok ∧ (match step placed1 with | .next _ => true | _ => false) = true :=
  ⟨placeWord_memOk _ reset_memOk, l1Ok_of_none (by decide) (by decide), by decide +kernel⟩

/-- A well-formed instruction with its word, and a word that decodes. -/
theorem wit_round_trip : (Instr.movi (hd .b32) (.v 6) 5).wf = true ∧ encode (.movi (hd .b32) (.v 6) 5) = some (fw 0x2C 1 6 0 0 5 0)
    ∧ decodeWord (fw 0x2C 1 6 0 0 5 0) = .ok (.movi (hd .b32) (.v 6) 5) := ⟨by decide, rfl, rfl⟩

/-- 03 R90, R94: 5 ÷ 2 rounded into E2M1 lies between 2 and 3, its value and the neighbours are numbers. -/
theorem wit_rounding : Fp.e2m1 ∈ allFormats ∧ Fp.e2m1.num? (Fp.roundTo Fp.e2m1 .rz false ⟨.num false 5 2, 0⟩).1 = some 2
    ∧ Fp.e2m1.num? (Fp.roundTo Fp.e2m1 .ru false ⟨.num false 5 2, 0⟩).1 = some 3 ∧ (Fp.roundTo Fp.e2m1 .ru false ⟨.num false 5 2, 0⟩).2 &&& Fp.OF = 0
    ∧ Fp.e2m1.num? Fp.e2m1.maxEnc = some 6 := by decide +kernel

/-- 09 R235: finite values, a zero divisor, zeros of both signs; a NaN; a square root. -/
theorem wit_exact : (Fp.Val.fin false 3 0).num? = some 3 ∧ (Fp.Val.fin true 0 0).num? = some 0 ∧ Fp.signOf (.fin true 0 0) ≠ Fp.signOf (.fin false 0 0)
    ∧ (Fp.Val.nan true).isNaN = true ∧ Fp.f16.num? 0x4000 = some 2 := by decide +kernel

end Sys2Proof.Tests
end

section
/-! PROOF. O15: where a thread stands once it has completed an instruction. -/

namespace Sys2Proof.Machine

/-- A thread's place with its address, loops and skips replaced by those that passing an instruction gives. -/
def Thread.passed (t : Thread) (fin : Bool) : Flow :=
  let p := t.pass t.tlvl t.pc fin
  ⟨p.2, p.1.loops, p.1.skips, none⟩

/-- Passing an instruction leaves the repeat state as it is. -/
@[simp] theorem Thread.rep_pass (t : Thread) (lvl : Nat) (pc : DWord) (fin : Bool) : (t.pass lvl pc fin).1.rep = t.rep := by
  unfold Thread.pass
  dsimp only
  split
  · split <;> rfl
  · rfl

/-- Where a thread goes as it passes depends on no repeat and no transfer. -/
theorem Thread.passed_clear (t : Thread) (j : Option DWord) (fin : Bool) :
    ({ t with rep := none, jump := j } : Thread).passed fin = t.passed fin := by
  unfold Thread.passed Thread.pass
  dsimp only
  split
  · split <;> rfl
  · rfl

/-- A thread that passes its instruction from the place of `t`, in no repeat. -/
theorem Thread.flow_of_pass {t x : Thread} (h : x.flow = ⟨t.pc, t.loops, t.skips, none⟩) (fin : Bool) :
    ({ (x.pass t.tlvl t.pc fin).1 with pc := (x.pass t.tlvl t.pc fin).2 } : Thread).flow = t.passed fin := by
  obtain ⟨h1, hpc⟩ := Prod.mk.inj (Thread.flow_pass (u := { t with rep := none }) h t.tlvl t.pc fin)
  rw [← Thread.passed_clear t t.jump]
  simp only [Thread.flow, Flow.mk.injEq, Thread.rep_pass] at h1
  obtain ⟨-, hloops, hskips, hrep⟩ := h1
  simp only [Thread.flow, Thread.passed, Thread.rep_pass, Flow.mk.injEq]
  exact ⟨hpc, hloops, hskips, hrep⟩

/-- Outside a repeat and without a transfer, a thread goes where passing its instruction takes it. -/
theorem Thread.flow_complete_none {t : Thread} (hr : t.rep = none) (hj : t.jump = none) (now : Nat) (fin : Bool) :
    (t.complete now fin).flow = t.passed fin := by
  unfold Thread.complete
  simp only [hr, hj]
  refine Thread.flow_of_pass ?_ fin
  rw [Thread.sliceStep_flow]
  rfl

/-- So it does after the last repetition. -/
theorem Thread.flow_complete_last {t : Thread} {r : Rep} (hr : t.rep = some r) (h : r.tot ≤ r.idx + 1) (now : Nat) (fin : Bool) :
    (t.complete now fin).flow = t.passed fin := by
  unfold Thread.complete
  simp only [hr, show ¬(r.idx + 1 < r.tot) by omega, if_false]
  exact Thread.flow_of_pass rfl fin

/-- A taken transfer goes to its target and discards the skips of its level. -/
theorem Thread.flow_complete_jump {t : Thread} {a : DWord} (hr : t.rep = none) (hj : t.jump = some a) (now : Nat) (fin : Bool) :
    (t.complete now fin).flow = ⟨a, t.loops, t.skips.filter fun q => q.lvl != t.tlvl, none⟩ := by
  have hs (x : Thread) (hx : x.flow = ⟨t.pc, t.loops, t.skips, none⟩) (sk : List Skip) :
      ({ x.sliceStep now with pc := a, skips := sk } : Thread).flow = ⟨a, t.loops, sk, none⟩ := by
    rw [← Thread.sliceStep_flow x now] at hx
    have hl := congrArg Flow.loops hx
    have hp := congrArg Flow.rep hx
    simp only [Thread.flow, Flow.mk.injEq, true_and] at hl hp ⊢
    exact ⟨hl, hp⟩
  unfold Thread.complete
  simp only [hr, hj]
  exact hs _ rfl _

/-- Where no skip is taken, the loop check alone says where a thread goes. -/
theorem Thread.passed_of_no_skip {t : Thread} {fin : Bool}
    (hs : (if fin then t.skips.find? fun q => q.lvl == t.tlvl else none) = none) :
    t.passed fin = ⟨(unwind t.tlvl t.pc (nextPC t.pc) t.loops.reverse).2,
      (unwind t.tlvl t.pc (nextPC t.pc) t.loops.reverse).1.reverse, t.skips, none⟩ := by
  unfold Thread.passed Thread.pass
  cases fin with
  | false => rfl
  | true =>
      simp only [if_true] at hs ⊢
      simp only [hs]

/-- At an END a pending skip of the level is taken. -/
theorem Thread.passed_of_skip {t : Thread} {fin : Bool} {q : Skip}
    (hs : (if fin then t.skips.find? fun q => q.lvl == t.tlvl else none) = some q) :
    (t.passed fin).pc = q.exit ∧ (t.passed fin).skips = t.skips.filter fun x => x.lvl != t.tlvl := by
  unfold Thread.passed Thread.pass
  cases fin with
  | false => simp at hs
  | true =>
      simp only [if_true] at hs ⊢
      simp only [hs]
      exact ⟨trivial, trivial⟩

/-- Where the innermost level ends elsewhere, no level is touched. -/
theorem Thread.unwind_no_end {t : Thread} (h : t.innerEnd ≠ some t.pc) :
    unwind t.tlvl t.pc (nextPC t.pc) t.loops.reverse = (t.loops.reverse, nextPC t.pc) := by
  unfold Thread.innerEnd at h
  rw [← List.head?_reverse] at h
  cases hl : t.loops.reverse with
  | nil => rfl
  | cons l r =>
      have : ¬(l.lvl = t.tlvl ∧ l.le = t.pc) := by
        rintro ⟨h1, h2⟩
        simp [hl, h1, h2] at h
      simp [unwind, this]

/-- The innermost level ends at the instruction: it goes round, or is free and the level around it is checked. -/
theorem unwind_end {lvl : Nat} {pc dflt : DWord} {l : Loop} (h1 : l.lvl = lvl) (h2 : l.le = pc) (r : List Loop) :
    unwind lvl pc dflt (l :: r) = if 1 < l.lc.toNat then ({ l with lc := l.lc - 1 } :: r, l.ls) else unwind lvl pc dflt r := by
  simp [unwind, h1, h2]

/-- Settles O15: a repeat goes on first, then a transfer is taken, then come the loop check and a pending skip. -/
theorem movingOn : Obligations.MovingOn := by
  unfold Obligations.MovingOn
  intro t now fin u skip
  refine ⟨fun a hr hj => Thread.flow_complete_jump hr hj now fin, fun r hr hlt => ?_, fun r hr hle => ?_,
    fun hr hj hk he => ?_, fun ls l hr hj hk hl h1 h2 => ⟨fun hc => ?_, fun hc => ?_⟩, fun q hr hj hk => ?_⟩
  case _ => simp [u, Thread.complete, hr, hlt, Thread.flow]
  case _ =>
    rw [Thread.flow_complete_last hr hle, Thread.flow_complete_none (t := { t with rep := none, jump := none }) rfl rfl]
    exact (Thread.passed_clear t none fin).symm
  case _ =>
    rw [Thread.flow_complete_none hr hj, Thread.passed_of_no_skip hk, Thread.unwind_no_end he, List.reverse_reverse]
  case _ =>
    rw [Thread.flow_complete_none hr hj, Thread.passed_of_no_skip hk, hl, List.reverse_concat, unwind_end h1 h2, if_pos hc]
    simp
  case _ =>
    rw [Thread.flow_complete_none hr hj, Thread.flow_complete_none (t := { t with loops := ls }) hr hj, Thread.passed_of_no_skip hk,
      Thread.passed_of_no_skip (t := { t with loops := ls }) hk, hl, List.reverse_concat, unwind_end h1 h2, if_neg (by omega)]
  case _ =>
    have hf := Thread.flow_complete_none hr hj now fin
    obtain ⟨g1, g2⟩ := Thread.passed_of_skip hk
    exact ⟨(congrArg Flow.pc hf).trans g1, (congrArg Flow.skips hf).trans g2⟩

end Sys2Proof.Machine
end

section
/-! PROOF. O19: a header among the words of a stretch, for a convoy whose member is no live thread. -/

namespace Sys2Proof.Machine

/-- A convoy of one member that is no thread, one place past its header. -/
def deadMember : State :=
  { caps := fullCaps, convoys := [{ part := 0, mem := [0], pc := 0, hdr := 12 }], ctxs := [(0, { tvec2 := 1 })] }

/-- A member that is no live thread takes no trap, and stays in its convoy at the header it meets there. -/
theorem exec_strh_deadMember : (match exec (.strh 0 0 0 1 0) deadMember with
    | .next t => t.outside 0
    | _ => false) = false := by
  decide +kernel

/-- Refutes O19: a header among the words of a stretch is stated for every convoy of one member, and a member that is no live
thread takes no trap there and is left in its convoy. -/
theorem not_wordCauses : ¬ Obligations.WordCauses := by
  intro h
  obtain ⟨-, -, hheader⟩ := h
  obtain ⟨-, -, hamong⟩ := hheader deadMember { part := 0, mem := [0], pc := 0, hdr := 12 } 0 0 0 1 0 rfl
  obtain ⟨t, hexec, -, hout⟩ := hamong 0 (by decide) rfl rfl rfl (by decide +kernel) rfl
  have hstay := exec_strh_deadMember
  rw [hexec] at hstay
  exact absurd hout (by simpa using hstay)

end Sys2Proof.Machine
end

section
/-! PROOF. O33: an atomic that returns the old value, issued by a thread that is in no list. -/

namespace Sys2Proof.Machine

/-- An exchange of four bytes at address 0 whose result goes to register 0. -/
def swapOp : Op :=
  { th := 0, crew := 0, core := 0, kind := .atom 6 true, loc := .mem 0, va := 0, size := 4, space := .g, rtype := .wt, ty := .n32,
    dst := some 0, data := [1, 0, 0, 0] }

/-- The exchange is pending, and its thread is in no list. -/
def orphanSwap : State := { caps := fullCaps, ops := [(0, swapOp)] }

/-- The exchange completes, and the thread that is in no list has no register. -/
theorem exec_complete_orphanSwap : (match exec (.longLatencyComplete 0) orphanSwap with
    | .next t => (t.th 0).v.isEmpty
    | _ => false) = true := by
  decide +kernel

/-- Refutes O33: the result of an atomic is stated to stand in the registers of its thread, listed or not, and a thread that is
in no list takes no result. -/
theorem not_performing : ¬ Obligations.Performing := by
  intro h
  obtain ⟨-, hperform⟩ := h
  obtain ⟨-, -, hreturning, -⟩ := hperform orphanSwap 0 swapOp 0 rfl rfl rfl rfl rfl rfl rfl rfl (by decide +kernel)
    (fun j hj => absurd hj (by rw [show orphanSwap.leaseHolder (lineOf 0) = none by decide +kernel]; simp))
    (by decide) List.Pairwise.nil (by simp [orphanSwap])
  obtain ⟨t, hexec, -, hregs, -, -⟩ := hreturning 6 0 rfl rfl rfl rfl (Or.inl rfl) (by decide +kernel) (by decide +kernel) rfl
  have hnone := exec_complete_orphanSwap
  rw [hexec] at hnone
  have hempty : (t.th 0).v = [] := by simpa using hnone
  have hv : (t.th 0).v = [(0, 0)] := (congrArg Thread.v hregs).trans (by decide +kernel)
  exact absurd (hempty.symm.trans hv) (by decide)

end Sys2Proof.Machine
end

section
/-! PROOF. O47: a launch that ends while another crew's load waits for the lease on the line of its STATUS. -/

namespace Sys2Proof.Machine

/-- A read-only load of a crew of another launch, queued at the lease of a thread of the same core on line 0. -/
def queuedRead : Op :=
  { th := 8192, crew := 2, core := 0, kind := .load, loc := .mem 0, va := 0, size := 4, space := .g, rtype := .ro, ty := .b32,
    dst := some 0, probing := true }

/-- The crew of launch 0 has ended on core 0; the line of the launch's STATUS is leased by a thread of that core, whose probe queue is full. -/
def endOnLeasedLine : State :=
  { caps := fullCaps, seq := 1
    crews := [(0, { launch := 0, ctx := 0, core := 0, started := true, ended := true }),
      (1, { launch := 1, ctx := 0, core := 0, started := true }), (2, { launch := 1, ctx := 0, core := 0, started := true })]
    launches := [(0, { status := 1, dies := [0], rcd := { crews := 1 } }), (1, { status := 1, dies := [0] })]
    threads := [(4096, { pc := 0, hdr := 0, src := 0, leases := [{ line := 0, shadow := [], ends := 1000, scope := .crew }] }),
      (8192, { pc := 0, hdr := 0, src := 0, status := .waiting })]
    ops := [(0, queuedRead)]
    cores := [(0, { probes := List.replicate 32 0 })] }

/-- Writing STATUS breaks the lease, and the load that waited for it keeps a read-only copy of the line in the core. -/
theorem exec_launchComplete_endOnLeasedLine : (match exec (.launchComplete 0) endOnLeasedLine with
    | .next t => (t.co 0).copies.any fun x => x.kind.isRo
    | _ => false) = true := by
  decide +kernel

/-- Refutes O47: the read-only copies of a core are stated to be gone when a launch that ran there has ended. Where the line of its
STATUS is leased by a thread whose core has a full probe queue, writing it breaks the lease, and a load of another crew that waited
there brings a new copy. -/
theorem not_launchEvents : ¬ Obligations.LaunchEvents := by
  intro h
  obtain ⟨-, -, -, -, -, -, -, -, -, -, -, -, hend, -⟩ := h endOnLeasedLine
  obtain ⟨t, hexec, hcrews, -⟩ := hend 0 (by decide +kernel) (by decide)
  obtain ⟨-, hcopies⟩ := hcrews (0, { launch := 0, ctx := 0, core := 0, started := true, ended := true }) (by simp [endOnLeasedLine]) rfl
  have hkept := exec_launchComplete_endOnLeasedLine
  rw [hexec] at hkept
  obtain ⟨x, hx, hro⟩ := List.any_eq_true.mp hkept
  exact absurd hro (by simp [hcopies x hx])

end Sys2Proof.Machine
end

section
/-! SUPPORT. What performing accesses, breaking leases and making room for registers leave as it was: everything but memory
and its caches, the pending operations, the words, flags, frames and leases of threads, scratches, rows and counters. -/

namespace Sys2Proof.Machine

/-- A thread without what the completion of its accesses and the end of its leases change. -/
def Thread.still (t : Thread) : Thread :=
  { t with v := [], cf := [], flagAt := [], dropped := [], affine := [], observed := [], leases := [], broken := false, fresh := [] }

/-- A crew and a launch without their scratches. -/
def Crew.still (c : Crew) : Crew := { c with scratch := [] }
def Launch.still (l : Launch) : Launch := { l with pscr := [] }

/-- Every entry of a table changed. -/
def mapTab {α β : Type} (f : α → β) (t : List (Nat × α)) : List (Nat × β) := t.map fun e => (e.1, f e.2)

/-- A state without what performing accesses changes. -/
def State.still (s : State) : State :=
  { s with mem := [], poison := [], scrPoison := [], cores := [], ops := [], remote := [], rows := [], counters := [], seq := 0
           threads := mapTab Thread.still s.threads, crews := mapTab Crew.still s.crews, launches := mapTab Launch.still s.launches }

theorem find_mapTab {α β : Type} (f : α → β) (k : Nat) (t : List (Nat × α)) : Tab.find k (mapTab f t) = (Tab.find k t).map f := by
  induction t with
  | nil => rfl
  | cons p t ih =>
      simp only [mapTab, List.map_cons, Tab.find] at ih ⊢
      split
      · rfl
      · exact ih

theorem mapTab_modify {α β : Type} (f : α → β) (k : Nat) (g : α → α) (h : ∀ a, f (g a) = f a) (t : List (Nat × α)) :
    mapTab f (Tab.modify k g t) = mapTab f t := by
  induction t with
  | nil => rfl
  | cons p t ih =>
      simp only [mapTab, Tab.modify] at ih ⊢
      split <;> simp [h, ih]

/-- A chain of steps that each keep something of the state keeps it. -/
theorem foldl_keeps {α β γ : Type} (g : β → γ) (f : β → α → β) (h : ∀ b a, g (f b a) = g b) (l : List α) (b : β) :
    g (l.foldl f b) = g b := by
  induction l generalizing b with
  | nil => rfl
  | cons a l ih => rw [List.foldl_cons, ih, h]

/-! ### What the two sides of an equation of `still` have in common -/

theorem State.find_threads_still (s : State) (k : Nat) : Tab.find k s.still.threads = (Tab.find k s.threads).map Thread.still :=
  find_mapTab _ _ _

theorem State.find_launches_still (s : State) (l : Nat) : Tab.find l s.still.launches = (Tab.find l s.launches).map Launch.still :=
  find_mapTab _ _ _

theorem State.stopped_still (s : State) : s.still.stopped = s.stopped := rfl

theorem State.isSome_thread_of_still {s t : State} (h : t.still = s.still) (k : Nat) :
    (Tab.find k t.threads).isSome = (Tab.find k s.threads).isSome := by
  have e := congrArg Option.isSome (congrArg (fun x : State => Tab.find k x.threads) h)
  simpa only [State.find_threads_still, Option.isSome_map] using e

theorem State.th_still_of_still {s t : State} (h : t.still = s.still) (k : Nat) : (t.th k).still = (s.th k).still := by
  have e := congrArg (fun x : State => Tab.find k x.threads) h
  simp only [State.find_threads_still] at e
  unfold State.th Tab.getD
  cases ht : Tab.find k t.threads <;> cases hs : Tab.find k s.threads <;> simp_all

theorem State.isSome_launch_of_still {s t : State} (h : t.still = s.still) (l : Nat) :
    (Tab.find l t.launches).isSome = (Tab.find l s.launches).isSome := by
  have e := congrArg Option.isSome (congrArg (fun x : State => Tab.find l x.launches) h)
  simpa only [State.find_launches_still, Option.isSome_map] using e

theorem State.la_still_of_still {s t : State} (h : t.still = s.still) (l : Nat) : (t.la l).still = (s.la l).still := by
  have e := congrArg (fun x : State => Tab.find l x.launches) h
  simp only [State.find_launches_still] at e
  unfold State.la Tab.getD
  cases ht : Tab.find l t.launches <;> cases hs : Tab.find l s.launches <;> simp_all

theorem State.stopped_of_still {s t : State} (h : t.still = s.still) : t.stopped = s.stopped := by
  rw [← t.stopped_still, ← s.stopped_still, h]

/-! ### Updates of one part -/

theorem State.still_setCr (s : State) (c : Nat) (f : Crew → Crew) (h : ∀ x, (f x).still = x.still := by intro x; rfl) :
    (s.setCr c f).still = s.still := by
  simp only [State.still, State.setCr, mapTab_modify _ _ _ h]

theorem State.still_setLa (s : State) (l : Nat) (f : Launch → Launch) (h : ∀ x, (f x).still = x.still := by intro x; rfl) :
    (s.setLa l f).still = s.still := by
  simp only [State.still, State.setLa, mapTab_modify _ _ _ h]

theorem State.still_setTh (s : State) (k : Nat) (f : Thread → Thread) (h : ∀ t, (f t).still = t.still := by intro t; rfl) :
    (s.setTh k f).still = s.still := by
  simp only [State.still, State.setTh, mapTab_modify _ _ _ h]

@[simp] theorem State.still_setCo (s : State) (c : Nat) (f : Core → Core) : (s.setCo c f).still = s.still := rfl
@[simp] theorem State.still_setRw (s : State) (r : Nat) (f : Row → Row) : (s.setRw r f).still = s.still := rfl
@[simp] theorem State.still_setOp (s : State) (i : Nat) (f : Op → Op) : (s.setOp i f).still = s.still := rfl
@[simp] theorem State.still_dropOp (s : State) (i : Nat) : (s.dropOp i).still = s.still := rfl
@[simp] theorem State.still_newOp (s : State) (o : Op) : (s.newOp o).still = s.still := rfl
@[simp] theorem State.still_count (s : State) (c n : Nat) : (s.count c n).still = s.still := rfl

/-! ### Memory and its caches -/

@[simp] theorem State.still_recall (s : State) (line : Nat) : (s.recall line).still = s.still := by
  unfold State.recall
  split <;> rfl

@[simp] theorem State.still_recallOthers (s : State) (core line : Nat) : (s.recallOthers core line).still = s.still := by
  unfold State.recallOthers
  split
  · split
    · rfl
    · exact s.still_recall line
  · rfl

theorem State.still_homeWriteAll (s : State) (pa : Nat) (l : List (Nat × Byte)) : (s.homeWriteAll pa l).still = s.still := by
  induction l generalizing s with
  | nil => rfl
  | cons p l ih => exact (ih _).trans (s.still_recall _)

@[simp] theorem State.still_homeStore (s : State) (pa : Nat) (bs : List Byte) : (s.homeStore pa bs).still = s.still :=
  s.still_homeWriteAll pa _

theorem State.still_ownBytes (s : State) (core pa : Nat) (l : List (Nat × Byte)) : (s.ownBytes core pa l).still = s.still := by
  induction l generalizing s with
  | nil => rfl
  | cons p l ih => exact (ih _).trans (s.still_recallOthers core _)

@[simp] theorem State.still_ownWrite (s : State) (core pa : Nat) (bs : List Byte) : (s.ownWrite core pa bs).still = s.still :=
  s.still_ownBytes core pa _

@[simp] theorem State.still_refreshSi (s : State) (core : Nat) (dev : Option Nat) (a : Nat) (bs : List Byte) :
    (s.refreshSi core dev a bs).still = s.still := by
  unfold State.refreshSi
  split <;> rfl

@[simp] theorem State.still_locWrite (s : State) (own : Option Nat) (w : Where) (bs : List Byte) : (s.locWrite own w bs).still = s.still := by
  cases w with
  | mem a => cases own <;> simp [State.locWrite]
  | repl l => exact foldl_keeps State.still _ (fun s a => s.still_homeStore a bs) l s
  | host a => rfl
  | remote d a => rfl
  | crewScratch c o => exact State.still_setCr _ c _
  | plainScratch l p o => exact State.still_setLa _ l _

/-! ### Room for registers -/

@[simp] theorem State.still_convert (s : State) (r g : Nat) (e : Elig) : (s.convert r g e).still = s.still := by
  rw [State.convert, State.still_setRw]
  exact foldl_keeps State.still _ (fun u k => u.still_setTh k _) _ s

@[simp] theorem State.still_spill (s : State) (r g : Nat) : (s.spill r g).still = s.still := by
  simp only [State.spill, State.still_count, State.still_setRw]
  exact (foldl_keeps State.still _ (fun u k => u.still_setTh k _) _ _).trans (s.still_homeStore _ _)

theorem State.still_findEntry {s t : State} {r : Nat} (h : s.findEntry r = some t) : t.still = s.still := by
  unfold State.findEntry at h
  dsimp only at h
  generalize (if (s.rw r).entries < s.floorRow r then none else s.firstConvertible r) = own at h
  split at h
  · rw [← Option.some.inj h]
  · cases own with
    | some e => rw [← Option.some.inj h]; exact s.still_convert _ _ _
    | none =>
        obtain ⟨e, -, rfl⟩ := Option.map_eq_some_iff.1 h
        exact s.still_convert _ _ _

@[simp] theorem State.still_takeEntry (s : State) (r : Nat) : (s.takeEntry r).2.still = s.still := by
  unfold State.takeEntry
  split
  · next h => exact State.still_findEntry h
  · split
    · exact s.still_spill _ _
    · rfl

@[simp] theorem State.still_reload (s : State) (r g : Nat) : (s.reload r g).still = s.still := by
  unfold State.reload
  split
  · split
    · simp only [State.still_count, State.still_setRw]
      refine (foldl_keeps State.still _ (fun u k => ?_) _ _).trans (s.still_takeEntry r)
      split
      · rfl
      · exact u.still_setTh k _
    · rfl
  · rfl

@[simp] theorem State.still_openReg (s : State) (k g : Nat) : (s.openReg k g).still = s.still := by
  unfold State.openReg
  dsimp only
  split
  · simp
  · simp only [State.still_setRw]
    split <;> simp

@[simp] theorem State.still_putV (s : State) (k g : Nat) (v : Word) : (s.putV k g v).still = s.still := by
  rw [State.putV, State.still_setTh _ k _, State.still_openReg]

@[simp] theorem State.still_putVs (s : State) (k g : Nat) (vs : List Word) : (s.putVs k g vs).still = s.still := by
  induction vs generalizing s g with
  | nil => rfl
  | cons v vs ih => exact (ih _ _).trans (s.still_putV k g v)

@[simp] theorem State.still_settleReserve (s : State) (p : Nat) : (s.settleReserve p).still = s.still := by
  refine foldl_keeps State.still _ (fun u e => ?_) _ s
  dsimp only
  split
  · exact u.still_convert _ _ _
  · split
    · rfl
    · exact u.still_spill _ _

/-! ### Performing operations -/

@[simp] theorem Thread.still_cfDown (t : Thread) (f : Option Nat) (now : Nat) : (t.cfDown f now).still = t.still := by
  cases f <;> rfl

@[simp] theorem State.still_loadBytes (s : State) (id : Nat) (o : Op) : (s.loadBytes id o).2.2.still = s.still := by
  unfold State.loadBytes
  split
  · dsimp only
    split
    · split <;> rfl
    · split <;> rfl
    · exact s.still_refreshSi _ _ _ _
  · rfl

@[simp] theorem State.still_observe (s : State) (k : Nat) (js : List Nat) : (s.observe k js).still = s.still := by
  unfold State.observe
  split
  · rfl
  · exact s.still_setTh k _

@[simp] theorem State.still_acquire (s : State) (core : Nat) (sc : Scope) : (s.acquire core sc).still = s.still := by
  cases sc <;> rfl

@[simp] theorem State.still_doWrite (s : State) (o : Op) : (s.doWrite o).1.still = s.still := by
  unfold State.doWrite
  dsimp only
  split <;> simp

@[simp] theorem State.still_deliver (s : State) (o : Op) (got : List Byte) : (s.deliver o got).still = s.still := by
  have flag (u : State) (h : u.still = s.still) :
      (if o.group.isSome && u.ops.any fun (_, p) => p.th == o.th && p.group == o.group then u
        else u.setTh o.th fun t => t.cfDown o.flag u.cycle).still = s.still := by
    split
    · exact h
    · rw [State.still_setTh _ _ _ (by intro t; exact t.still_cfDown _ _), h]
  refine flag _ ?_
  split
  · rfl
  · split
    · exact (State.still_setTh _ o.th _).trans (s.still_putVs _ _ _)
    · split <;> simp

@[simp] theorem State.still_performNow (s : State) (id : Nat) : (s.performNow id).still = s.still := by
  unfold State.performNow
  split
  · rfl
  · next o ho =>
    have after (u : State) : (match o.acq with
        | some sc => u.acquire o.core sc
        | none => u).still = u.still := by split <;> simp
    dsimp only
    generalize (!o.isKnock && match o.loc with
      | .remote _ _ => o.kind == .load && o.early.isSome && o.dst.isSome && o.held.isNone
      | _ => o.held.isNone && s.enabled id o) = go
    cases go with
    | false => rfl
    | true =>
        simp only [if_true]
        split
        · rw [State.still_deliver]
          refine (after _).trans ?_
          rw [State.still_dropOp, State.still_observe]
          split
          · rfl
          · exact s.still_loadBytes id o
        · split
          · rfl
          · have write := (after ((s.doWrite o).1.dropOp id)).trans (s.still_doWrite o)
            split
            · exact (State.still_deliver _ o _).trans write
            · exact write

@[simp] theorem State.still_undo (s : State) (i : Nat) : (s.undo i).still = s.still := by
  unfold State.undo
  split
  · split
    · split <;> rfl
    · rfl
  · rfl

@[simp] theorem State.still_serve (s : State) (core : Nat) (lines : List Nat) : (s.serve core lines).still = s.still := by
  refine (foldl_keeps (fun acc : State × List Nat => acc.1.still) _ (fun acc i => ?_) _ _).trans rfl
  dsimp only
  split
  · split
    · rfl
    · dsimp only
      split <;> simp
  · rfl

@[simp] theorem State.still_endLeases (s : State) (k : Nat) : (s.endLeases k).still = s.still := by
  unfold State.endLeases
  dsimp only
  split
  · rfl
  · exact (State.still_serve _ _ _).trans (s.still_setTh k _)

@[simp] theorem State.still_breakLeases (s : State) (k : Nat) : (s.breakLeases k).still = s.still := by
  unfold State.breakLeases
  dsimp only
  split
  · rfl
  · refine (State.still_endLeases _ k).trans ((State.still_setTh _ k _).trans ?_)
    refine (foldl_keeps State.still _ (fun u l => ?_) _ _).trans (foldl_keeps State.still _ (fun u i => u.still_undo i) _ s)
    rw [State.still_refreshSi, State.still_homeStore]

@[simp] theorem State.still_probe (s : State) (id : Nat) : (s.probe id).still = s.still := by
  unfold State.probe
  split
  · rfl
  · next o h _ =>
    split
    · rfl
    · dsimp only
      split
      · rfl
      · have queue (u : State) (hu : u.still = s.still) : (if (o.loc.line.bind u.leaseHolder).isSome then
            (u.setCo (s.coreTh h) fun x => { x with probes := x.probes ++ [id] }).setOp id fun o => { o with probing := true }
          else u).still = s.still := by
          split <;> exact hu
        refine queue _ ?_
        split
        · split <;> simp
        · rfl

@[simp] theorem State.still_knock (s : State) (who line : Nat) : (s.knock who line).still = s.still := by
  unfold State.knock
  split
  · rfl
  · split
    · rfl
    · dsimp only
      split <;> simp

@[simp] theorem State.still_tryPerform (s : State) (id : Nat) : (s.tryPerform id).still = s.still := by
  simp [State.tryPerform]

@[simp] theorem State.still_deviceDo (s : State) (kind : OpKind) (pa : Nat) (bs : List Byte) : (s.deviceDo kind pa bs).still = s.still := by
  unfold State.deviceDo
  dsimp only
  split <;> simp

@[simp] theorem State.still_deviceStore (s : State) (pa : Nat) (bs : List Byte) : (s.deviceStore pa bs).still = s.still :=
  s.still_deviceDo _ _ _

end Sys2Proof.Machine
end

section
/-! SUPPORT. What a fetch leaves as it was, and that no trap, kill or end of an issue stops the device. -/

namespace Sys2Proof.Machine

/-! ### Machine-check events -/

/-- A state without what a translation or a fetch changes: the caches of the cores, and the banks with their interrupts. -/
def State.looked (s : State) : State := { s with cores := [], banks := [], irqs := [] }

theorem State.looked_logMc (s : State) (e : McEvent) : (s.logMc e).looked = s.looked := by
  unfold State.logMc
  dsimp only
  split
  · rfl
  · split
    · exact foldl_keeps State.looked State.raiseIrq (fun _ _ => rfl) _ _
    · rfl

theorem State.looked_denied (s : State) (q : Nat) (c : Option Nat) : (s.denied q c).looked = s.looked := s.looked_logMc _

theorem State.looked_leafFor (s : State) (core : Option Nat) (ctx master va : Nat) : (s.leafFor core ctx master va).2.looked = s.looked := by
  unfold State.leafFor
  split
  · rfl
  · split
    · rfl
    · split
      · rfl
      · split <;> rfl

theorem State.looked_translate (s : State) (core : Option Nat) (ctx master plain : Nat) (va : DWord) (n : Need) :
    (s.translate core ctx master plain va n).2.looked = s.looked := by
  have leaf := s.looked_leafFor core ctx master va.toNat
  unfold State.translate
  split
  · rfl
  · generalize s.leafFor core ctx master va.toNat = r at leaf
    obtain ⟨w, u⟩ := r
    rw [← leaf]
    cases w with
    | fault => rfl
    | deny q => exact u.looked_denied _ _
    | absent => rfl
    | busy l => rfl
    | leaf e b =>
        dsimp only
        split
        · rfl
        · split
          · split
            · rfl
            · split <;> rfl
          · split
            · generalize (if n.w = true then replOrder plain e (va.toNat % 2 ^ b) else (replOrder plain e (va.toNat % 2 ^ b)).take 1) = need
              split
              · rfl
              · split
                · rfl
                · split
                  · exact u.looked_denied _ _
                  · rfl
            · split
              · split <;> rfl
              · split
                · rfl
                · split
                  · exact u.looked_denied _ _
                  · rfl

theorem State.looked_codePlace (s : State) (k : Nat) (pc : DWord) : (s.codePlace k pc).2.looked = s.looked := s.looked_translate _ _ _ _ _ _

theorem State.looked_readBlock (s : State) (core : Nat) (w : Where) : (s.readBlock core w).2.looked = s.looked := by
  unfold State.readBlock
  dsimp only
  split <;> rfl

theorem State.looked_fetch (s : State) (k : Nat) (code : List (DWord × List Byte)) (pc : DWord) : (s.fetch k code pc).2.looked = s.looked := by
  have place := s.looked_codePlace k pc
  unfold State.fetch
  generalize s.codePlace k pc = r at place
  obtain ⟨w, u⟩ := r
  rw [← place]
  cases w with
  | fault c t => rfl
  | busy l => rfl
  | at_ w =>
      dsimp only
      split
      · rfl
      · split
        · rfl
        · have block := u.looked_readBlock (u.coreTh k) w
          generalize u.readBlock (u.coreTh k) w = b at block
          obtain ⟨_ | b, v⟩ := b <;> exact block

/-! ### What does not stop the device -/

theorem State.stopped_of_looked {s t : State} (h : t.looked = s.looked) : t.stopped = s.stopped := by
  show t.looked.stopped = s.looked.stopped
  rw [h]

@[simp] theorem State.stopped_setTh (s : State) (k : Nat) (f : Thread → Thread) : (s.setTh k f).stopped = s.stopped := rfl
@[simp] theorem State.stopped_setLa (s : State) (l : Nat) (f : Launch → Launch) : (s.setLa l f).stopped = s.stopped := rfl
@[simp] theorem State.stopped_setCx (s : State) (c : Nat) (f : Ctx → Ctx) : (s.setCx c f).stopped = s.stopped := rfl
@[simp] theorem State.stopped_setReg (s : State) (i : Nat) (v : DWord) : (s.setReg i v).stopped = s.stopped := rfl
@[simp] theorem State.stopped_setFront (s : State) (f : Convoy → Convoy) : (s.setFront f).stopped = s.stopped := rfl
@[simp] theorem State.stopped_leaveConvoy (s : State) (k : Nat) : (s.leaveConvoy k).stopped = s.stopped := rfl

@[simp] theorem State.stopped_breakLeases (s : State) (k : Nat) : (s.breakLeases k).stopped = s.stopped :=
  State.stopped_of_still (s.still_breakLeases k)

@[simp] theorem State.stopped_knock (s : State) (who line : Nat) : (s.knock who line).stopped = s.stopped :=
  State.stopped_of_still (s.still_knock who line)

@[simp] theorem State.stopped_logMc (s : State) (e : McEvent) : (s.logMc e).stopped = s.stopped :=
  State.stopped_of_looked (s.looked_logMc e)

@[simp] theorem State.stopped_performAll (s : State) (c : Nat) : (s.performAll c).stopped = s.stopped :=
  foldl_keeps State.stopped _ (fun u i => State.stopped_of_still (u.still_tryPerform i)) _ s

@[simp] theorem State.stopped_dropFrame (s : State) (k : Nat) : (s.dropFrame k).stopped = s.stopped := by
  refine foldl_keeps State.stopped _ (fun u i => ?_) _ s
  split
  · split <;> rfl
  · rfl

@[simp] theorem State.stopped_dropCrew (s : State) (c : Nat) : (s.dropCrew c).stopped = s.stopped :=
  foldl_keeps State.stopped _ (fun u k => u.stopped_leaveConvoy k) _ _

@[simp] theorem State.stopped_consumed (s : State) (l core n : Nat) : (s.consumed l core n).stopped = s.stopped := by
  unfold State.consumed State.setJobCtr
  dsimp only
  split <;> rfl

@[simp] theorem State.stopped_haltCrew (s : State) (c : Nat) : (s.haltCrew c).stopped = s.stopped := by
  have halt : State.stopped ((s.crewThreads c).foldl State.breakLeases s) = s.stopped :=
    foldl_keeps State.stopped _ (fun u k => u.stopped_breakLeases k) _ s
  have drop (u : State) (l core n : Nat) : (if n = 0 then u.dropCrew c else (u.dropCrew c).consumed l core n).stopped = u.stopped := by
    split <;> simp
  unfold State.haltCrew
  generalize (s.crewThreads c).foldl State.breakLeases s = u at halt
  dsimp only
  rw [drop, foldl_keeps State.stopped _ fun u k => u.stopped_dropFrame k, State.stopped_performAll]
  exact halt

@[simp] theorem State.stopped_haltCtx (s : State) (ctx : Nat) (core : Option Nat) : (s.haltCtx ctx core).stopped = s.stopped :=
  foldl_keeps State.stopped _ (fun u c => u.stopped_haltCrew c) _ s

@[simp] theorem State.stopped_send (s : State) (f : Flit) : (s.send f).stopped = s.stopped := by
  unfold State.send
  split <;> rfl

@[simp] theorem State.stopped_killNotices (s : State) (l : Nat) : (s.killNotices l).stopped = s.stopped := by
  unfold State.killNotices
  dsimp only
  split
  · rfl
  · exact foldl_keeps State.stopped _ (fun u f => u.stopped_send f) _ s

@[simp] theorem State.stopped_advanceHead (s : State) (q n : Nat) : (s.advanceHead q n).stopped = s.stopped := by
  induction n generalizing s with
  | zero => rfl
  | succ n ih =>
      rw [State.advanceHead]
      dsimp only
      split
      · exact (ih _).trans (s.stopped_setReg _ _)
      · rfl

@[simp] theorem State.stopped_writeStatus (s : State) (l st : Nat) : (s.writeStatus l st).stopped = s.stopped := by
  have store (pa : Nat) (bs : List Byte) : (s.deviceStore pa bs).stopped = s.stopped := State.stopped_of_still (s.still_deviceStore pa bs)
  unfold State.writeStatus
  dsimp only
  split
  · rw [State.stopped_advanceHead]
    split <;> exact store _ _
  · split <;> exact store _ _

@[simp] theorem State.stopped_kill (s : State) (ctx cause : Nat) (pc tpc2 tva2 : DWord) (skind sidx : Nat) :
    (s.kill ctx cause pc tpc2 tva2 skind sidx).stopped = s.stopped := by
  refine (foldl_keeps State.stopped _ (fun u l => ?_) _ _).trans ((State.stopped_logMc _ _).trans (s.stopped_haltCtx ctx none))
  exact (State.stopped_writeStatus _ l 5).trans (u.stopped_killNotices l)

@[simp] theorem State.stopped_killBy (s : State) (k cause : Nat) (pc : DWord) : (s.killBy k cause pc).stopped = s.stopped :=
  s.stopped_kill _ _ _ _ _ _ _

@[simp] theorem State.stopped_enter1 (s : State) (k : Nat) (r : Raise) (pc : DWord) (hofs : Nat) : (s.enter1 k r pc hofs).stopped = s.stopped := by
  simp [State.enter1]

@[simp] theorem State.stopped_enter2 (s : State) (k : Nat) (r : Raise) (pc : DWord) (hofs : Nat) : (s.enter2 k r pc hofs).stopped = s.stopped := by
  simp [State.enter2]

@[simp] theorem State.stopped_trap (s : State) (k : Nat) (r : Raise) : (s.trap k r).stopped = s.stopped := by
  unfold State.trap State.trapAt State.trap2
  split
  · rfl
  · split
    · simp
    · split
      · simp
      · split <;> simp

@[simp] theorem State.stopped_finishIssue (s : State) (p : Nat) (lane : Option Nat) (yld : Bool) : (s.finishIssue p lane yld).stopped = s.stopped := by
  have settle (u : State) : (u.settleReserve p).stopped = u.stopped := State.stopped_of_still (u.still_settleReserve p)
  have front (u : State) (l : List Nat) (f : State → Thread → Thread) : (l.foldl (fun s k => s.setTh k (f s)) u).stopped = u.stopped :=
    foldl_keeps State.stopped _ (by intro v k; rfl) l u
  unfold State.finishIssue
  dsimp only
  split
  · exact settle _
  · split
    · exact settle _
    · split
      · exact settle _
      · split
        · split
          · exact (front _ _ _).trans (settle _)
          · exact (front _ _ _).trans (settle _)
        · exact settle _

end Sys2Proof.Machine
end

section
/-! PROOF. O58: what a turn of the agenda runs. -/

namespace Sys2Proof.Machine

/-! ### Words outside a repeat -/

theorem Fields.toWord_ofWord (w : IWord) : (Fields.ofWord w).toWord = w := by
  unfold Fields.ofWord Fields.toWord
  simp (disch := omega) only [BitVec.extractLsb'_append_extractLsb'_eq_extractLsb', BitVec.extractLsb'_eq_self]

/-- Steps of nothing leave a word as it is. -/
theorem stepWord_zero (w : IWord) : stepWord w (0, 0, 0) = some w := by
  have spec (b : BitVec 10) : stepSpec b 0 = some b := by simp [stepSpec]
  simp only [stepWord, spec]
  exact congrArg some (Fields.toWord_ofWord w)

theorem Thread.steps_of_no_repeat {t : Thread} (h : t.rep = none) : t.steps = (0, 0, 0) := by
  simp [Thread.steps, h]

/-! ### A step of a device that runs -/

theorem stopped_eq_false {s : State} (hf : s.fatal = false) (hr : s.recovery = false) : s.stopped = false := by
  simp [State.stopped, hf, hr]

theorem step_of_running {s : State} {t : Turn} {rest : List Turn} (h : s.stopped = false) (ha : s.agenda = t :: rest) :
    step s = settled (State.perform { s with agenda := rest } t) := by
  simp [step, ha, h]

theorem settled_next {s : State} (h : s.stopped = false) : settled (.next s) = .next s.settle := by
  simp [settled, h]

/-! ### The fetch of a convoy of one -/

/-- A convoy whose only member stands at the convoy's program counter, brought to the front. -/
structure Fronts (x : State) (c : Convoy) (k : Nat) : Prop where
  front : x.front = some c
  alone : c.mem = [k]
  here : (x.th k).pc = c.pc

section
variable {x : State} {c : Convoy} {k : Nat} (h : Fronts x c k)
include h

theorem Fronts.standing : (c.mem.filter fun j => (x.th j).pc == c.pc) = [k] := by
  simp [h.alone, h.here]

theorem Fronts.actors : x.actors = [k] := by
  unfold State.actors
  rw [h.front]
  dsimp only
  rw [h.standing]
  cases hi : (x.th k).idles <;> simp [hi]

/-- A fetch leaves the convoy and its member where they stand. -/
theorem Fronts.fetch {y : State} {f : Fetched} (hy : x.fetch k c.code c.pc = (f, y)) : Fronts y c k ∧ (y.th k) = (x.th k) := by
  have looked : y.looked = x.looked := by rw [← x.looked_fetch k c.code c.pc, hy]
  have threads : y.th k = x.th k := by
    show y.looked.th k = x.looked.th k
    rw [looked]
  have front : y.front = x.front := by
    show y.looked.front = x.looked.front
    rw [looked]
  exact ⟨⟨front.trans h.front, h.alone, by rw [threads, h.here]⟩, threads⟩

theorem Fronts.fetchWaits_busy {y : State} {l : Nat} (hy : x.fetch k c.code c.pc = (.busy l, y)) : x.fetchWaits c = some (k, l) := by
  simp [State.fetchWaits, h.standing, hy]

theorem Fronts.fetchWaits_word {y : State} {w : IWord} (hy : x.fetch k c.code c.pc = (.word w, y)) : x.fetchWaits c = none := by
  simp [State.fetchWaits, h.standing, hy]

theorem Fronts.fetchWaits_fault {y : State} {cz : BitVec 8} {t : Bool} (hy : x.fetch k c.code c.pc = (.fault cz t, y)) : x.fetchWaits c = none := by
  simp [State.fetchWaits, h.standing, hy]

end

theorem State.fetchFor_word {x y : State} {c : Convoy} {k : Nat} {w : IWord} (hy : x.fetch k c.code c.pc = (.word w, y)) :
    x.fetchFor c [k] = (some w, [], y) := by
  simp [State.fetchFor, State.fetchAll, hy]

theorem State.fetchFor_fault {x y : State} {c : Convoy} {k : Nat} {cz : BitVec 8} {t : Bool} (hy : x.fetch k c.code c.pc = (.fault cz t, y)) :
    x.fetchFor c [k] = (none, [(k, ⟨cz, blockAddr c.pc, if t then some (blockAddr c.pc) else none, none⟩)], y.noteFetch k c.pc cz) := by
  by_cases hc : cz = 0x30
  · simp [State.fetchFor, State.fetchAll, State.noteFetch, hy, hc]
  · have hc : cz ≠ 48#8 := hc
    simp [State.fetchFor, State.fetchAll, State.noteFetch, hy, hc]

/-! ### The turn of an issue slot -/

/-- A step whose turn is the slot of a convoy of one that stands where words are fetched. -/
structure SlotTurn (s : State) (rest : List Turn) (p k : Nat) (c : Convoy) : Prop where
  runs : s.stopped = false
  turn : s.agenda = .issue p :: rest
  found : s.convoys.find? (fun c => c.isOf p none) = some c
  alone : c.mem = [k]
  here : (s.th k).pc = c.pc

/-- The state as the slot's convoy comes to the front. -/
def State.atSlot (s : State) (rest : List Turn) (c : Convoy) : State :=
  { s with agenda := rest, convoys := c :: s.convoys.filter (· != c) }

section
variable {s : State} {rest : List Turn} {p k : Nat} {c : Convoy} (h : SlotTurn s rest p k c)
include h

theorem SlotTurn.fronts : Fronts (s.atSlot rest c) c k := ⟨rfl, h.alone, h.here⟩

theorem SlotTurn.isOf : c.isOf p none = true := by
  have := List.find?_some h.found
  exact this

/-- Outside a header that stands off the slots, the turn is that of the words the convoy fetches. -/
theorem SlotTurn.step_eq (hp : c.pc ≠ c.hdr ∨ isSlotPC c.pc = true) :
    step s = settled (match (s.atSlot rest c).fetchWaits c with
      | some (j, l) => .next ((s.atSlot rest c).knock j l)
      | none => match (s.atSlot rest c).fetchFor c [k] with
        | (none, bad, u) => .next ((bad.foldl (fun u (j, r) => u.trap j r) u).finishIssue p none false)
        | (some w, bad, u) =>
            let u := bad.foldl (fun u (j, r) => u.trap j r) u
            match u.front with
            | some c' => if c'.isOf p none then u.issueWord c' w else .next u
            | none => .next u) := by
  rw [step_of_running h.runs h.turn]
  simp only [State.perform, State.issueTurn, State.bringFront, h.found, Option.map_some]
  have off : ¬(c.pc = c.hdr ∧ (!isSlotPC c.pc) = true) := by
    rintro ⟨hh, hs⟩
    rcases hp with hp | hp
    · exact hp hh
    · simp [hp] at hs
  rw [if_neg off, ← h.fronts.standing]
  rfl

theorem SlotTurn.step_word {w : IWord} {y : State} (hp : c.pc ≠ c.hdr ∨ isSlotPC c.pc = true)
    (hy : (s.atSlot rest c).fetch k c.code c.pc = (.word w, y)) : step s = settled (y.issueWord c w) := by
  obtain ⟨fronts, -⟩ := h.fronts.fetch hy
  simp only [h.step_eq hp, h.fronts.fetchWaits_word hy, State.fetchFor_word hy, List.foldl_nil, fronts.front, h.isOf, if_true]

theorem SlotTurn.step_busy {l : Nat} {y : State} (hp : c.pc ≠ c.hdr ∨ isSlotPC c.pc = true)
    (hy : (s.atSlot rest c).fetch k c.code c.pc = (.busy l, y)) : step s = .next ((s.atSlot rest c).knock k l).settle := by
  simp only [h.step_eq hp, h.fronts.fetchWaits_busy hy]
  exact settled_next (((s.atSlot rest c).stopped_knock k l).trans h.runs)

theorem SlotTurn.step_fault {cz : BitVec 8} {t : Bool} {y : State} (hp : c.pc ≠ c.hdr ∨ isSlotPC c.pc = true)
    (hy : (s.atSlot rest c).fetch k c.code c.pc = (.fault cz t, y)) :
    step s = .next (((y.noteFetch k c.pc cz).trap k ⟨cz, blockAddr c.pc, if t then some (blockAddr c.pc) else none, none⟩).finishIssue p none false).settle := by
  have looked : y.stopped = (s.atSlot rest c).stopped :=
    State.stopped_of_looked (by rw [← (s.atSlot rest c).looked_fetch k c.code c.pc, hy])
  have note : (y.noteFetch k c.pc cz).stopped = y.stopped := by
    unfold State.noteFetch
    split
    · exact y.stopped_logMc _
    · rfl
  simp only [h.step_eq hp, h.fronts.fetchWaits_fault hy, State.fetchFor_fault hy, List.foldl_cons, List.foldl_nil]
  refine settled_next ?_
  rw [State.stopped_finishIssue, State.stopped_trap, note, looked]
  exact h.runs

end

theorem issueWord_inside {y : State} {c : Convoy} {k : Nat} {w : IWord} {i : Instr} (h : Fronts y c k) (hp : c.pc ≠ c.hdr)
    (hi : (y.th k).idles = false) (hb : y.burstAgain c ((stepWord w (y.th k).steps).getD w) = false)
    (hd : decodeWord ((stepWord w (y.th k).steps).getD w) = .ok i) :
    y.issueWord c w = exec i (y.begin_ ((stepWord w (y.th k).steps).getD w)) := by
  simp [State.issueWord, hp, h.actors, hi, hd, hb]

theorem issueWord_header {y : State} {c : Convoy} {w : IWord} {i : Instr} (hp : c.pc = c.hdr) (hh : isHeader w = true)
    (hd : decodeWord w = .ok i) : y.issueWord c w = exec i (y.begin_ w) := by
  simp [State.issueWord, hp, hh, hd]

/-! ### A block of memory -/

theorem State.codeBusy_unleased {y : State} {core pa : Nat} (hl : ∀ j ∈ y.threads, ∀ l ∈ j.2.leases, l.line ≠ lineOf pa) :
    y.codeBusy core (.mem pa) = none := by
  have none : y.leaseHolder (lineOf pa) = none := by
    simp only [State.leaseHolder, List.findSome?_eq_none_iff]
    intro e he
    simpa using hl e he
  unfold State.codeBusy
  simp only [Where.line]
  split <;> simp_all

theorem State.blockBytes_unleased {y : State} {core pa : Nat} (hi : Tab.find pa (y.co core).icache = none)
    (hl : ∀ j ∈ y.threads, ∀ l ∈ j.2.leases, l.line ≠ lineOf pa) : y.blockBytes core (.mem pa) = y.coh pa 64 := by
  have none : y.shadowOf (lineOf pa) = none := by
    simp only [State.shadowOf, List.findSome?_eq_none_iff]
    intro e he
    simpa using hl e he
  simp [State.blockBytes, Where.codeKey, Where.line, hi, none, State.locRead]

/-- The fetch of a block of memory that no cache and no lease holds: the word of its slot where its trailer is right, else
cause 0x30. -/
theorem State.fetch_block {x y : State} {k pa : Nat} {pc : DWord} (hp : x.codePlace k pc = (.at_ (.mem pa), y))
    (hi : Tab.find pa (y.co (y.coreTh k)).icache = none) (hn : y.poisoned pa 64 = false)
    (hl : ∀ j ∈ y.threads, ∀ l ∈ j.2.leases, l.line ≠ lineOf pa) :
    (x.fetch k [] pc).1 = if blockGood (y.coh pa 64) then .word (blockWord (y.coh pa 64) (slotOf pc)) else .fault 0x30 false := by
  unfold State.fetch
  simp only [hp, List.find?_nil, State.codeBusy_unleased hl, State.readBlock, State.blockBytes_unleased hi hl, Where.poisoned, hn, Bool.false_or]
  cases blockGood (y.coh pa 64) <;> rfl

/-! ### What a stopped device answers -/

theorem answers_iff (i : Instr) : answers (.act i) = true ↔ (∃ caps, i = .deviceReset caps) ∨ (∃ fn a n, i = .hostRead fn a n ∧ cfgBase ≤ a)
    ∨ ∃ m r, i = .controlCoreAccess m (.regRead r) ∧ 0x4A0 ≤ m ∧ m ≤ 0x4AF ∧ 0x800 ≤ r ∧ r ≤ 0x87F ∧ devAssigned r = true := by
  unfold answers
  split
  · next caps h => cases h; simp
  · next fn a n h => cases h; simp
  · next m r h => cases h; simp [and_assoc]
  · next hreset hread hbank =>
    simp only [Bool.false_eq_true, false_iff, not_or, not_exists, not_and]
    refine ⟨fun caps h => hreset caps (by rw [h]), fun fn a n h => absurd (by rw [h]) (hread fn a n), fun m r h => absurd (by rw [h]) (hbank m r)⟩

/-- Settles O58: a slot's turn through the fetch and the issue of its word, an event's turn by what a step is. -/
theorem stepRunsDecoded : Obligations.StepRunsDecoded := by
  intro s rest hf hr u
  have runs := stopped_eq_false hf hr
  refine ⟨fun p k c ha hc hm hk => ?_, fun i ha he => ?_, fun c n ha => ?_, fun v hv => ?_, answers_iff⟩
  · have slot : SlotTurn s rest p k c := ⟨runs, ha, hc, hm, hk⟩
    refine ⟨fun w y i hp hy hi hb hd => ?_, fun w hw => ?_, fun w y i hp hs hy hh hd => ?_, fun l y hp hy => slot.step_busy hp hy,
      fun cz t y hp hy => slot.step_fault hp hy, fun pa y hp hcode hcache hpoison hlease => ?_⟩
    · obtain ⟨fronts, same⟩ := slot.fronts.fetch hy
      have same : y.th k = s.th k := same
      rw [slot.step_word (.inl hp) hy, issueWord_inside fronts hp] <;> rw [same] <;> assumption
    · rw [Thread.steps_of_no_repeat hw, stepWord_zero]
      rfl
    · rw [slot.step_word (.inr hs) hy, issueWord_header hp hh hd]
    · have looked := (s.atSlot rest c).looked_codePlace k c.pc
      rw [show (s.atSlot rest c).codePlace k c.pc = _ from hp] at looked
      have core : y.coreTh k = s.coreTh k := by
        show y.looked.coreTh k = (s.atSlot rest c).looked.coreTh k
        rw [looked]
      have threads : y.threads = s.threads := by
        show y.looked.threads = (s.atSlot rest c).looked.threads
        rw [looked]
      have block := State.fetch_block hp (by rw [core]; exact hcache) hpoison (by rw [threads]; exact hlease)
      rw [hcode]
      refine ⟨fun good => ⟨_, Prod.ext (block.trans (if_pos ?_)) rfl⟩, fun bad => ⟨_, Prod.ext (block.trans (if_neg ?_)) rfl⟩⟩
      · simpa [blockGood] using good
      · simpa [blockGood] using bad
  · rw [step_of_running runs ha]
    simp [State.perform, isWord, he]
    rfl
  · rw [step_of_running runs ha]
    exact settled_next runs
  · have stopped : v.stopped = true := by simpa [State.stopped] using hv
    exact ⟨fun ha => by simp [step, ha, stopped], fun t l ha hn => by simp [step, ha, stopped, hn], fun t l ha hn => by simp [step, ha, stopped, hn]⟩

end Sys2Proof.Machine
end

section
/-! PROOF. O42, the threads that a free slot is given to. -/

namespace Sys2Proof.Machine

/-! ### Lists -/

theorem nodup_eraseDups {α : Type} [BEq α] [LawfulBEq α] : ∀ l : List α, l.eraseDups.Nodup
  | [] => List.nodup_nil
  | a :: l => by
      rw [List.eraseDups_cons, List.nodup_cons, List.mem_eraseDups]
      exact ⟨by simp, nodup_eraseDups _⟩
termination_by l => l.length
decreasing_by exact Nat.lt_succ_of_le (List.length_filter_le _ _)

theorem mem_insertTid {k j : Nat} {l : List Nat} : j ∈ insertTid k l ↔ j = k ∨ j ∈ l := by
  induction l with
  | nil => simp [insertTid]
  | cons a l ih =>
      unfold insertTid
      split
      · simp
      · simp only [List.mem_cons, ih]
        tauto

@[simp] theorem mem_byTid {k : Nat} {ks : List Nat} : k ∈ byTid ks ↔ k ∈ ks := by
  induction ks with
  | nil => simp [byTid]
  | cons a ks ih => simp only [byTid, List.foldr_cons, mem_insertTid, List.mem_cons] at ih ⊢; rw [ih]

theorem isSome_find_of_mem_keys {α : Type} {k : Nat} {t : List (Nat × α)} (h : k ∈ Tab.keys t) : (Tab.find k t).isSome := by
  induction t with
  | nil => simp [Tab.keys] at h
  | cons p t ih =>
      simp only [Tab.find]
      split
      · rfl
      · next hne => exact ih ((List.mem_cons.1 h).resolve_left fun e => hne e)

/-! ### The thread ready longest -/

/-- A thread has been ready longer than another, or as long with no higher tid. -/
def State.readyNoLater (s : State) (m j : Nat) : Prop :=
  s.readyFrom m < s.readyFrom j ∨ (s.readyFrom m = s.readyFrom j ∧ tidOf m ≤ tidOf j)

theorem State.longest_eq_none {s : State} {l : List Nat} : s.longest l = none ↔ l = [] := by
  cases l with
  | nil => simp [State.longest]
  | cons k l =>
      simp only [State.longest, reduceCtorEq, iff_false]
      split
      · split <;> simp
      · simp

theorem State.longest_mem {s : State} {l : List Nat} {m : Nat} (h : s.longest l = some m) : m ∈ l := by
  induction l generalizing m with
  | nil => cases h
  | cons k l ih =>
      simp only [State.longest] at h
      split at h
      · next j hj =>
        split at h
        · exact List.mem_cons_of_mem _ (ih (hj.trans h))
        · simp [← Option.some.inj h]
      · simp [← Option.some.inj h]

theorem State.longest_readyNoLater {s : State} {l : List Nat} {m : Nat} (h : s.longest l = some m) : ∀ j ∈ l, s.readyNoLater m j := by
  induction l generalizing m with
  | nil => cases h
  | cons k l ih =>
      simp only [State.longest] at h
      simp only [List.forall_mem_cons]
      unfold State.readyNoLater at ih ⊢
      split at h
      · next i hi =>
        have best := ih hi
        split at h
        · next earlier =>
          cases h
          exact ⟨by omega, best⟩
        · next later =>
          cases h
          exact ⟨by omega, fun j hj => by have := best j hj; omega⟩
      · next hnone =>
        cases h
        rw [State.longest_eq_none] at hnone
        exact ⟨by omega, by simp [hnone]⟩

/-! ### The address first in order -/

/-- PRI of the header that the first thread of a group stands under. -/
def State.headPri (s : State) : List Nat → Nat
  | k :: _ => match s.headerAt k (s.th k).hdr with
      | some w => (hdrPri w).toNat
      | none => 0
  | [] => 0

/-- The threads of a list that stand where a thread stands. -/
def State.standing (s : State) (ks : List Nat) (j : Nat) : List Nat := ks.filter fun k => s.standAt k == s.standAt j

/-- The address first in order has no lower PRI. -/
theorem State.headPri_of_addrBefore {s : State} {a b : List Nat} :
    (s.addrBefore a b = true → s.headPri b ≤ s.headPri a) ∧ (s.addrBefore a b = false → s.headPri a ≤ s.headPri b) := by
  by_cases h : s.headPri a = s.headPri b
  · omega
  · have : s.addrBefore a b = decide (s.headPri a > s.headPri b) := if_pos h
    rw [this, decide_eq_true_eq, decide_eq_false_iff_not]
    omega

theorem State.bestGroup_eq_none {s : State} {gs : List (List Nat)} : s.bestGroup gs = none ↔ gs = [] := by
  cases gs with
  | nil => simp [State.bestGroup]
  | cons a gs =>
      simp only [State.bestGroup, reduceCtorEq, iff_false]
      split
      · split <;> simp
      · simp

theorem State.bestGroup_mem {s : State} {gs : List (List Nat)} {b : List Nat} (h : s.bestGroup gs = some b) : b ∈ gs := by
  induction gs generalizing b with
  | nil => cases h
  | cons a gs ih =>
      simp only [State.bestGroup] at h
      split at h
      · next c hc =>
        split at h
        · exact List.mem_cons_of_mem _ (ih (hc.trans h))
        · simp [← Option.some.inj h]
      · simp [← Option.some.inj h]

theorem State.bestGroup_headPri {s : State} {gs : List (List Nat)} {b : List Nat} (h : s.bestGroup gs = some b) :
    ∀ a ∈ gs, s.headPri a ≤ s.headPri b := by
  induction gs generalizing b with
  | nil => cases h
  | cons a gs ih =>
      simp only [State.bestGroup] at h
      simp only [List.forall_mem_cons]
      split at h
      · next c hc =>
        have best := ih hc
        obtain ⟨before, after⟩ := s.headPri_of_addrBefore (a := c) (b := a)
        split at h
        · next hb => cases h; exact ⟨before hb, best⟩
        · next hb =>
          cases h
          exact ⟨le_rfl, fun g hg => (best g hg).trans (after (by simpa using hb))⟩
      · next hnone =>
        cases h
        rw [State.bestGroup_eq_none] at hnone
        exact ⟨le_rfl, by simp [hnone]⟩

theorem State.mem_groups {s : State} {ks g : List Nat} : g ∈ s.groups ks ↔ ∃ j ∈ ks, g = s.standing ks j := by
  simp only [State.groups, List.mem_map, List.mem_eraseDups, State.standing]
  constructor
  · rintro ⟨x, ⟨j, hj, rfl⟩, rfl⟩
    exact ⟨j, hj, rfl⟩
  · rintro ⟨j, hj, rfl⟩
    exact ⟨_, ⟨j, hj, rfl⟩, rfl⟩

/-! ### The thread of a lane -/

/-- A thread that yielded stands back, unless it is starved (08 R206, 01 R23). -/
def State.standsBack (s : State) (k : Nat) : Prop := (s.th k).yielded = true ∧ s.isStarved k = false

/-- What the thread picked for a lane is among those of its group on the lane. -/
structure Picked (s : State) (g : List Nat) (l m : Nat) : Prop where
  mem : m ∈ g
  lane : laneOf m = l
  back : ∀ j ∈ g, laneOf j = l → s.standsBack m → s.standsBack j
  first : ∀ j ∈ g, laneOf j = l → (s.standsBack m ↔ s.standsBack j) → s.readyNoLater m j

theorem State.picked_of_pickLane {s : State} {g : List Nat} {l m : Nat} (h : s.pickLane g l = some m) : Picked s g l m := by
  unfold State.pickLane at h
  dsimp only at h
  have forward (k : Nat) : (!(s.th k).yielded || s.isStarved k) = true ↔ ¬s.standsBack k := by
    unfold State.standsBack
    cases (s.th k).yielded <;> cases s.isStarved k <;> simp
  have mem := State.longest_mem h
  have best := State.longest_readyNoLater h
  split at h
  · next hall =>
    rw [if_pos hall] at mem best
    simp only [List.mem_filter, beq_iff_eq, and_imp] at mem best
    have back : ∀ j ∈ g, laneOf j = l → s.standsBack j := by
      intro j hj hl
      by_contra hb
      have := List.isEmpty_iff.1 hall
      rw [List.filter_eq_nil_iff] at this
      exact this j (by simp [hj, hl]) ((forward j).2 hb)
    exact ⟨mem.1, mem.2, fun j hj hl _ => back j hj hl, fun j hj hl _ => best j hj hl⟩
  · next hsome =>
    rw [if_neg hsome] at mem best
    simp only [List.mem_filter, beq_iff_eq, forward, and_imp] at mem best
    obtain ⟨⟨hm, hl⟩, hb⟩ := mem
    exact ⟨hm, hl, fun j _ _ h => absurd h hb, fun j hj hl he => best j hj hl fun h => hb (he.2 h)⟩

theorem State.pickLane_isSome {s : State} {g : List Nat} {l j : Nat} (hj : j ∈ g) (hl : laneOf j = l) : ∃ m, s.pickLane g l = some m := by
  rw [← Option.isSome_iff_exists, ← Option.ne_none_iff_isSome]
  unfold State.pickLane
  rw [Ne, State.longest_eq_none]
  split
  · exact List.ne_nil_of_mem (List.mem_filter.2 ⟨hj, by simpa using hl⟩)
  · next hsome => simpa [List.isEmpty_iff] using hsome

/-! ### The members of the next convoy -/

/-- The group that a free slot is given to, by where a thread of it stands. -/
structure Chosen (s : State) (p j : Nat) : Prop where
  mem : j ∈ s.competitors p
  eq : s.chosen p = (((s.standing (s.competitors p) j).map laneOf).eraseDups).filterMap (s.pickLane (s.standing (s.competitors p) j))
  starved : (∃ m ∈ s.competitors p, s.isStarved m = true) →
    s.isStarved j = true ∧ ∀ m ∈ s.competitors p, s.isStarved m = true → s.readyFrom j ≤ s.readyFrom m
  pri : (∀ m ∈ s.competitors p, s.isStarved m = false) →
    ∀ m ∈ s.competitors p, s.headPri (s.standing (s.competitors p) m) ≤ s.headPri (s.standing (s.competitors p) j)

theorem State.exists_chosen {s : State} {p : Nat} (h : s.chosen p ≠ []) : ∃ j, Chosen s p j := by
  unfold State.chosen at h
  dsimp only at h
  cases hl : s.longest ((s.competitors p).filter s.isStarved) with
  | some j =>
      have mem := List.mem_filter.1 (State.longest_mem hl)
      refine ⟨j, mem.1, by simp only [State.chosen, hl]; rfl, fun _ => ⟨mem.2, fun m hm hs => ?_⟩, fun hn => ?_⟩
      · have := State.longest_readyNoLater hl m (List.mem_filter.2 ⟨hm, hs⟩)
        unfold State.readyNoLater at this
        omega
      · exact absurd mem.2 (by simp [hn j mem.1])
  | none =>
      rw [State.longest_eq_none, List.filter_eq_nil_iff] at hl
      have hn : s.longest ((s.competitors p).filter s.isStarved) = none := State.longest_eq_none.2 (List.filter_eq_nil_iff.2 hl)
      cases hb : s.bestGroup (s.groups (s.competitors p)) with
      | none => simp [hn, hb] at h
      | some g =>
          obtain ⟨j, hj, rfl⟩ := State.mem_groups.1 (State.bestGroup_mem hb)
          refine ⟨j, hj, by simp only [State.chosen, hn, hb], fun ⟨m, hm, hs⟩ => absurd hs (hl m hm), fun _ m hm => ?_⟩
          exact State.bestGroup_headPri hb _ (State.mem_groups.2 ⟨m, hm, rfl⟩)

section
variable {s : State} {p j : Nat} (h : Chosen s p j)
include h

theorem Chosen.picked {k : Nat} (hk : k ∈ s.chosen p) : Picked s (s.standing (s.competitors p) j) (laneOf k) k := by
  rw [h.eq, List.mem_filterMap] at hk
  obtain ⟨l, -, hl⟩ := hk
  have picked := State.picked_of_pickLane hl
  rw [picked.lane]
  exact picked

theorem Chosen.standAt {k : Nat} (hk : k ∈ s.chosen p) : k ∈ s.competitors p ∧ s.standAt k = s.standAt j := by
  simpa [State.standing] using (h.picked hk).mem

theorem Chosen.nodup_lanes : ((s.chosen p).map laneOf).Nodup := by
  rw [h.eq, List.map_filterMap]
  refine List.Nodup.filterMap (fun a b l ha hb => ?_) (nodup_eraseDups _)
  simp only [Option.mem_def, Option.map_eq_some_iff] at ha hb
  obtain ⟨m, hm, rfl⟩ := ha
  obtain ⟨n, hn, hl⟩ := hb
  rw [← (State.picked_of_pickLane hm).lane, ← (State.picked_of_pickLane hn).lane, hl]

/-- Of each lane whose threads stand there one is taken. -/
theorem Chosen.exists_of_lane {i : Nat} (hi : i ∈ s.competitors p) (hs : s.standAt i = s.standAt j) :
    ∃ m ∈ s.chosen p, laneOf m = laneOf i := by
  have mem : i ∈ s.standing (s.competitors p) j := by simp [State.standing, hi, hs]
  obtain ⟨m, hm⟩ := State.pickLane_isSome (s := s) mem rfl
  refine ⟨m, ?_, (State.picked_of_pickLane hm).lane⟩
  rw [h.eq, List.mem_filterMap]
  exact ⟨laneOf i, by simpa using ⟨i, mem, rfl⟩, hm⟩

end

/-- Where the threads that stand at one place have one PRI, it is that of their group. -/
theorem State.headPri_standing {s : State} {ks : List Nat} {j : Nat} (hj : j ∈ ks)
    (same : ∀ i ∈ ks, ∀ k ∈ ks, s.standAt i = s.standAt k → s.headPri [i] = s.headPri [k]) :
    s.headPri (s.standing ks j) = s.headPri [j] := by
  cases hg : s.standing ks j with
  | nil => exact absurd hg (List.ne_nil_of_mem (a := j) (by simp [State.standing, hj]))
  | cons i l =>
      have mem : i ∈ s.standing ks j := by simp [hg]
      simp only [State.standing, List.mem_filter, beq_iff_eq] at mem
      exact same i mem.1 j hj mem.2

end Sys2Proof.Machine
end

section
/-! PROOF. O42, what giving a free slot to its threads does, and what taking a pre-empted thread does. -/

namespace Sys2Proof.Machine

/-! ### Threads and the device as they stay while convoys form -/

/-- Threads keep their registers and their place, and the device all but the notes of the issue logic. -/
structure Stays (s t : State) : Prop where
  threads : ∀ j, (t.th j).regs = (s.th j).regs ∧ (t.th j).flow = (s.th j).flow
  world : t.world = s.world

theorem Stays.refl (s : State) : Stays s s := ⟨fun _ => ⟨rfl, rfl⟩, rfl⟩

theorem Stays.trans {s t u : State} (h : Stays s t) (i : Stays t u) : Stays s u :=
  ⟨fun j => ⟨(i.threads j).1.trans (h.threads j).1, (i.threads j).2.trans (h.threads j).2⟩, i.world.trans h.world⟩

theorem Stays.setTh (s : State) (k : Nat) (f : Thread → Thread) (hr : ∀ t, (f t).regs = t.regs) (hf : ∀ t, (f t).flow = t.flow) :
    Stays s (s.setTh k f) := by
  refine ⟨fun j => ?_, rfl⟩
  rw [State.th_setTh]
  split
  · exact ⟨hr _, hf _⟩
  · exact ⟨rfl, rfl⟩

theorem Stays.foldl {α : Type} {f : State → α → State} (h : ∀ s a, Stays s (f s a)) (l : List α) (s : State) : Stays s (l.foldl f s) := by
  induction l generalizing s with
  | nil => exact Stays.refl s
  | cons a l ih => exact (h s a).trans (ih _)

/-- A thread as it begins to run in a convoy. -/
def Thread.run (t : Thread) : Thread := { t with status := .running, yielded := false, starved := false }

/-- Threads taken out of their convoys to run in a new one. -/
def State.running (s : State) (ks : List Nat) : State := ks.foldl (fun s j => (s.leaveConvoy j).setTh j Thread.run) s

theorem State.stays_running (s : State) (ks : List Nat) : Stays s (s.running ks) :=
  Stays.foldl (f := fun u j => (u.leaveConvoy j).setTh j Thread.run) (fun u j =>
    ⟨(Stays.setTh (u.leaveConvoy j) j Thread.run (fun _ => rfl) fun _ => rfl).threads, rfl⟩) ks s

/-- Where its threads stand at their header, a convoy forms without a fetch. -/
theorem State.formConvoy_eq {s : State} {p : Nat} {lane : Option Nat} {ks : List Nat} (hne : ks ≠ [])
    (hh : ∀ k ∈ ks, (s.th k).pc = (s.th k).hdr) : ∃ k ∈ ks, s.formConvoy p lane ks = { s.running (byTid ks) with
      convoys := (s.running (byTid ks)).convoys ++ [{ part := p, lane := lane, mem := byTid ks, pc := (s.th k).pc, hdr := (s.th k).hdr }] } := by
  obtain ⟨i, hi⟩ := List.exists_mem_of_ne_nil ks hne
  cases hk : byTid ks with
  | nil => exact absurd (mem_byTid.2 hi) (by simp [hk])
  | cons k l =>
      have mem : k ∈ ks := mem_byTid.1 (by simp [hk])
      refine ⟨k, mem, ?_⟩
      unfold State.formConvoy
      simp only [hk]
      rw [if_pos (hh k mem)]
      rfl

theorem State.stays_formConvoy {s : State} {p : Nat} {lane : Option Nat} {ks : List Nat} (hne : ks ≠ [])
    (hh : ∀ k ∈ ks, (s.th k).pc = (s.th k).hdr) : Stays s (s.formConvoy p lane ks) := by
  obtain ⟨k, -, he⟩ := s.formConvoy_eq (p := p) (lane := lane) hne hh
  rw [he]
  exact ⟨(s.stays_running _).threads, (s.stays_running _).world⟩

/-- Threads that are listed run once they have been taken, and those that ran go on. -/
theorem State.status_running {s : State} {ks : List Nat} {k : Nat} (hk : (Tab.find k s.threads).isSome)
    (h : k ∈ ks ∨ (s.th k).status = .running) : ((s.running ks).th k).status = .running := by
  induction ks generalizing s with
  | nil => exact h.resolve_left (by simp)
  | cons j ks ih =>
      refine ih (s := (s.leaveConvoy j).setTh j Thread.run) ?_ ?_
      · show (Tab.find k (Tab.modify j Thread.run s.threads)).isSome
        rw [Tab.find_modify]
        split <;> simpa using hk
      · by_cases hkj : k = j
        · subst hkj
          right
          rw [State.th_setTh_self (s := s.leaveConvoy k) _ hk]
          rfl
        · refine (h.imp_left fun h => (List.mem_cons.1 h).resolve_left hkj).imp_right fun h => ?_
          rw [State.th_setTh, if_neg fun e => hkj e.1]
          exact h

/-- A thread that runs is listed. -/
theorem State.isSome_of_running {s : State} {k : Nat} (h : (s.th k).status = .running) : (Tab.find k s.threads).isSome := by
  unfold State.th Tab.getD at h
  cases hk : Tab.find k s.threads with
  | none => simp [hk] at h
  | some t => rfl

/-! ### The convoy stays while the loop buffers start -/

/-- A convoy stands in the list, and its members run. -/
structure InSlot (c : Convoy) (s : State) : Prop where
  mem : c ∈ s.convoys
  run : ∀ k ∈ c.mem, (s.th k).status = .running

/-- One that does not run is in no such convoy: as it leaves its own, the convoy stays. -/
theorem InSlot.leaveConvoy {c : Convoy} {s : State} (h : InSlot c s) (hne : c.mem ≠ []) {k : Nat} (hk : (s.th k).status ≠ .running) :
    c ∈ (s.leaveConvoy k).convoys := by
  have out : c.mem.filter (· != k) = c.mem := by
    rw [List.filter_eq_self]
    intro j hj
    simp only [bne_iff_ne]
    rintro rfl
    exact hk (h.run j hj)
  simp only [State.leaveConvoy, List.mem_filter, List.mem_map]
  exact ⟨⟨c, h.mem, by rw [out]⟩, by simpa [List.isEmpty_iff] using hne⟩

/-- The start of loop buffers leaves the convoy of the slot, its members running. -/
theorem State.startBuffers_stays {s : State} {p : Nat} {c : Convoy} (h : InSlot c s) (hne : c.mem ≠ []) :
    Stays s (s.startBuffers p) ∧ InSlot c (s.startBuffers p) := by
  unfold State.startBuffers
  generalize List.range 32 = ls
  induction ls generalizing s with
  | nil => exact ⟨Stays.refl s, h⟩
  | cons l ls ih =>
      rw [List.foldl_cons]
      split
      · exact ih h
      · dsimp only
        split
        · next k hk =>
          have ready := State.longest_mem hk
          simp only [List.mem_filter, Bool.and_eq_true, beq_iff_eq] at ready
          obtain ⟨-, ⟨⟨-, hs⟩, hh⟩, -⟩ := ready
          have hh : ∀ j ∈ [k], (s.th j).pc = (s.th j).hdr := by simpa using hh
          have stays := s.stays_formConvoy (p := p) (lane := some l) (by simp) hh
          obtain ⟨_, -, he⟩ := s.formConvoy_eq (p := p) (lane := some l) (by simp) hh
          have slot : InSlot c (s.formConvoy p (some l) [k]) := by
            rw [he]
            refine ⟨List.mem_append_left _ (h.leaveConvoy hne (by simp [hs])), fun j hj => ?_⟩
            exact State.status_running (State.isSome_of_running (h.run j hj)) (.inr (h.run j hj))
          obtain ⟨more, last⟩ := ih slot
          exact ⟨stays.trans more, last⟩
        · exact ih h

/-- Yields honoured: the threads of a list stand back no longer. -/
def State.noYields (s : State) (ks : List Nat) : State := ks.foldl (fun s k => s.setTh k fun t => { t with yielded := false }) s

theorem State.stays_noYields (s : State) (ks : List Nat) : Stays s (s.noYields ks) :=
  Stays.foldl (f := fun u k => u.setTh k fun t => { t with yielded := false }) (fun u k => Stays.setTh u k _ (fun _ => rfl) fun _ => rfl) ks s

theorem InSlot.noYields {c : Convoy} {s : State} (h : InSlot c s) (ks : List Nat) : InSlot c (s.noYields ks) := by
  induction ks generalizing s with
  | nil => exact h
  | cons j ks ih =>
      refine ih (s := s.setTh j fun t => { t with yielded := false }) ⟨h.mem, fun k hk => ?_⟩
      rw [State.th_setTh]
      split <;> exact h.run k hk

/-- A free slot given to the threads chosen for it, where they stand at their headers: they run in its convoy. -/
theorem State.arbitrate_spec {s : State} {p : Nat} (free : ∀ c ∈ s.convoys, c.part = p → c.lane ≠ none) (rgu : (s.pt p).rgu = none)
    (up : (s.co (p / 4)).dead = false) (hne : s.chosen p ≠ []) (hh : ∀ k ∈ s.chosen p, (s.th k).pc = (s.th k).hdr)
    (listed : ∀ k ∈ s.chosen p, (Tab.find k s.threads).isSome) :
    ∃ k ∈ s.chosen p, ∃ c : Convoy, c.part = p ∧ c.lane = none ∧ c.mem = byTid (s.chosen p) ∧ c.pc = (s.th k).pc ∧ c.hdr = (s.th k).hdr
      ∧ Stays s (s.arbitrate p) ∧ InSlot c (s.arbitrate p) := by
  obtain ⟨k, hk, he⟩ := s.formConvoy_eq (p := p) (lane := none) hne hh
  refine ⟨k, hk, { part := p, lane := none, mem := byTid (s.chosen p), pc := (s.th k).pc, hdr := (s.th k).hdr }, rfl, rfl, rfl, rfl, rfl, ?_⟩
  have taken : (s.convoys.any fun c => c.part == p && c.lane.isNone) = false := by
    simp only [List.any_eq_false, Bool.and_eq_true, beq_iff_eq, Option.isNone_iff_eq_none, not_and]
    exact free
  have formed := s.stays_formConvoy (p := p) (lane := none) hne hh
  have slot : InSlot { part := p, lane := none, mem := byTid (s.chosen p), pc := (s.th k).pc, hdr := (s.th k).hdr } (s.formConvoy p none (s.chosen p)) := by
    rw [he]
    exact ⟨List.mem_append_right _ (by simp), fun j hj => State.status_running (listed j (mem_byTid.1 hj)) (.inl hj)⟩
  generalize hu : s.formConvoy p none (s.chosen p) = u at formed slot
  have eq : s.arbitrate p = (u.noYields ((Tab.keys u.threads).filter fun k => u.partTh k == p)).startBuffers p := by
    unfold State.arbitrate State.noYields
    simp only [taken, rgu, up, hu, List.isEmpty_iff, hne, if_false, Bool.or_self, Option.isSome_none, Bool.false_eq_true]
  have more := u.stays_noYields ((Tab.keys u.threads).filter fun k => u.partTh k == p)
  have slot := slot.noYields ((Tab.keys u.threads).filter fun k => u.partTh k == p)
  obtain ⟨last, slot⟩ := State.startBuffers_stays (p := p) slot (by
    intro h
    exact absurd (mem_byTid.2 hk) (by rw [show byTid (s.chosen p) = [] from h]; simp))
  rw [eq]
  exact ⟨formed.trans (more.trans last), slot⟩

/-! ### A pre-emption taken -/

/-- Where a pre-emption of a thread takes effect, 01 R28. -/
theorem State.atPoint_iff (s : State) (k : Nat) : s.atPoint k = true ↔
    (s.th k).status = .waiting ∨ (s.th k).status = .phase
      ∨ ((s.th k).status = .ready ∧ ((s.th k).pc = (s.th k).hdr ∨ ∃ r, (s.th k).rep = some r ∧ 0 < r.idx))
      ∨ ((s.th k).status = .running ∧ (∀ x ∈ s.ops, x.2.th = k → x.2.held = none)
        ∧ ((∃ r, (s.th k).rep = some r ∧ 0 < r.idx) ∨ (∃ c ∈ s.convoys, k ∈ c.mem ∧ c.hdr = (s.th k).pc)
          ∨ s.inWaitf k = true ∨ s.inProbe k = true)) := by
  have between : ((s.th k).rep.any fun r => decide (0 < r.idx)) = true ↔ ∃ r, (s.th k).rep = some r ∧ 0 < r.idx := by
    cases (s.th k).rep <;> simp
  have quiet : (s.heldOps k).isEmpty = true ↔ ∀ x ∈ s.ops, x.2.th = k → x.2.held = none := by
    simp [State.heldOps, List.isEmpty_iff, List.filter_eq_nil_iff]
  have boundary : (s.convoys.any fun c => c.mem.contains k && c.hdr == (s.th k).pc) = true ↔ ∃ c ∈ s.convoys, k ∈ c.mem ∧ c.hdr = (s.th k).pc := by
    simp
  unfold State.atPoint Thread.stopsHere
  dsimp only
  cases h : (s.th k).status with
  | waiting => simp
  | phase => simp
  | exited => simp
  | ready => simp only [Bool.or_eq_true, beq_iff_eq, between]; simp
  | running => simp only [Bool.and_eq_true, Bool.or_eq_true, between, quiet, boundary]; simp [or_assoc]

theorem Thread.status_of_still {a b : Thread} (h : a.still = b.still) : a.status = b.status := by
  show a.still.status = b.still.status
  rw [h]

/-- A pre-emption that has come to such a point parks its thread out of any convoy, its leases broken. -/
theorem State.takePreempt_spec {s : State} {k : Nat} (hp : (s.th k).preempt = true) (ha : s.atPoint k = true) :
    (s.takePreempt k).th k = { (s.breakLeases k).th k with
        parked := true, preempt := false, status := if (s.th k).status = .running then .ready else (s.th k).status }
      ∧ (s.takePreempt k).outside k = true ∧ (∀ j, j ≠ k → (s.takePreempt k).th j = (s.breakLeases k).th j)
      ∧ (s.takePreempt k).world = (s.breakLeases k).world := by
  have kept := s.still_breakLeases k
  have listed : (Tab.find k (s.breakLeases k).threads).isSome := by
    rw [State.isSome_thread_of_still kept]
    cases hk : Tab.find k s.threads with
    | none => simp [State.th, Tab.getD, hk] at hp
    | some t => rfl
  have status : ((s.breakLeases k).th k).status = (s.th k).status := Thread.status_of_still (State.th_still_of_still kept k)
  have eq : s.takePreempt k = ((s.breakLeases k).leaveConvoy k).setTh k fun t =>
      { t with parked := true, preempt := false, status := if t.status = .running then .ready else t.status } := by
    simp [State.takePreempt, hp, ha]
  rw [eq]
  refine ⟨?_, ?_, fun j hj => State.th_setTh_ne _ hj, rfl⟩
  · rw [State.th_setTh_self (s := (s.breakLeases k).leaveConvoy k) _ listed, ← status]
    rfl
  · simp only [State.outside, State.setTh_convoys, State.leaveConvoy, List.all_eq_true, List.mem_filter, List.mem_map]
    rintro c ⟨⟨d, -, rfl⟩, -⟩
    simp

theorem State.takePreempt_of_not_atPoint {s : State} {k : Nat} (ha : s.atPoint k = false) : s.takePreempt k = s := by
  simp [State.takePreempt, ha]

end Sys2Proof.Machine
end

section
/-! SUPPORT. What fetches and the words of a slice read: of other threads and of the row pool nothing but leases, so that a
regeneration may run them lane by lane. -/

namespace Sys2Proof.Machine

/-- A thread without its words. -/
def Thread.noWords (t : Thread) : Thread := { t with v := [] }

/-- The device of one state with the threads and the row pool of another. -/
def State.withPool (s x : State) : State := { s with threads := x.threads, rows := x.rows, parts := x.parts, counters := x.counters }

/-- Two states whose threads agree but for their words. -/
def Alike (s x : State) : Prop := mapTab Thread.noWords x.threads = mapTab Thread.noWords s.threads

section
variable {s x : State} (h : Alike s x)
include h

theorem Alike.leaseHolder (line : Nat) : (s.withPool x).leaseHolder line = s.leaseHolder line := by
  have words (l : List (Nat × Thread)) : (l.findSome? fun (k, t) => if t.leases.any fun y => y.line == line then some k else none)
      = (mapTab Thread.noWords l).findSome? fun (k, t) => if t.leases.any fun y => y.line == line then some k else none := by
    rw [mapTab, List.findSome?_map]
    rfl
  exact (words x.threads).trans ((congrArg _ h).trans (words s.threads).symm)

theorem Alike.shadowOf (line : Nat) : (s.withPool x).shadowOf line = s.shadowOf line := by
  have words (l : List (Nat × Thread)) : (l.findSome? fun (_, t) => (t.leases.find? fun y => y.line == line).map fun y => y.shadow)
      = (mapTab Thread.noWords l).findSome? fun (_, t) => (t.leases.find? fun y => y.line == line).map fun y => y.shadow := by
    rw [mapTab, List.findSome?_map]
    rfl
  exact (words x.threads).trans ((congrArg _ h).trans (words s.threads).symm)

theorem Alike.th (k : Nat) : (x.th k).noWords = (s.th k).noWords := by
  have e := congrArg (Tab.find k) h
  rw [find_mapTab, find_mapTab] at e
  unfold State.th Tab.getD
  cases hx : Tab.find k x.threads <;> cases hs : Tab.find k s.threads <;> simp_all

theorem Alike.isSys (k : Nat) : (s.withPool x).isSys k = s.isSys k := by
  have tlvl : (x.th k).tlvl = (s.th k).tlvl := by
    show (x.th k).noWords.tlvl = (s.th k).noWords.tlvl
    rw [h.th]
  show ((x.th k).tlvl == 2 || (s.cx (s.ctxTh k)).sys) = _
  rw [tlvl]
  rfl

theorem Alike.walkFrom (ctx master va fuel lvl t : Nat) : (s.withPool x).walkFrom ctx master va fuel lvl t = s.walkFrom ctx master va fuel lvl t := by
  induction fuel generalizing lvl t with
  | zero => rfl
  | succ fuel ih =>
      simp only [State.walkFrom, h.leaseHolder, ih]
      rfl

end

theorem State.withPool_walkPath (s x : State) (ctx master va fuel lvl t : Nat) :
    (s.withPool x).walkPath ctx master va fuel lvl t = s.walkPath ctx master va fuel lvl t := by
  induction fuel generalizing lvl t with
  | zero => rfl
  | succ fuel ih =>
      simp only [State.walkPath, ih]
      rfl

theorem State.withPool_logMc (s x : State) (e : McEvent) : (s.withPool x).logMc e = (s.logMc e).withPool x := by
  have irqs (l : List Nat) (u : State) : l.foldl State.raiseIrq (u.withPool x) = (l.foldl State.raiseIrq u).withPool x := by
    induction l generalizing u with
    | nil => rfl
    | cons p l ih => exact ih (u.raiseIrq p)
  have cases (p q : Prop) [Decidable p] [Decidable q] (a b c : State) : (if p then a.withPool x else if q then b.withPool x else c.withPool x)
      = (if p then a else if q then b else c).withPool x := by
    split
    · rfl
    · split <;> rfl
  unfold State.logMc
  dsimp only
  rw [← cases, ← irqs]
  rfl

theorem State.withPool_denied (s x : State) (q : Nat) (c : Option Nat) : (s.withPool x).denied q c = (s.denied q c).withPool x :=
  s.withPool_logMc x _

/-- A result with the threads and the row pool of another state. -/
def onPool {α : Type} (x : State) (r : α × State) : α × State := (r.1, r.2.withPool x)

section
variable {s x : State} (h : Alike s x)
include h

theorem Alike.leafFor (core : Option Nat) (ctx master va : Nat) :
    (s.withPool x).leafFor core ctx master va = onPool x (s.leafFor core ctx master va) := by
  have walk : (s.withPool x).walk ctx master va = s.walk ctx master va := by
    simp only [State.walk, h.walkFrom]
    rfl
  cases core with
  | none => simp only [State.leafFor, walk]; rfl
  | some c =>
      simp only [State.leafFor, walk, State.withPool_walkPath, show (s.withPool x).tlbFind c ctx va = s.tlbFind c ctx va from rfl,
        show (s.withPool x).cx ctx = s.cx ctx from rfl]
      split
      · rfl
      · split
        · rfl
        · split <;> rfl

theorem Alike.translate (core : Option Nat) (ctx master plain : Nat) (va : DWord) (n : Need) :
    (s.withPool x).translate core ctx master plain va n = onPool x (s.translate core ctx master plain va n) := by
  unfold State.translate
  rw [h.leafFor]
  split
  · rfl
  · generalize s.leafFor core ctx master va.toNat = r
    obtain ⟨w, u⟩ := r
    cases w with
    | fault => rfl
    | deny q => exact congrArg (Prod.mk _) (u.withPool_denied x q _)
    | absent => rfl
    | busy l => rfl
    | leaf e b =>
        dsimp only [onPool]
        generalize (if n.w = true then replOrder plain e (va.toNat % 2 ^ b) else (replOrder plain e (va.toNat % 2 ^ b)).take 1) = need
        simp only [State.withPool_denied, show (u.withPool x).paOk = u.paOk from rfl, show (u.withPool x).admits = u.admits from rfl,
          show (u.withPool x).caps = u.caps from rfl]
        split
        · rfl
        · split
          · split
            · rfl
            · split <;> rfl
          · split
            · split
              · rfl
              · split
                · rfl
                · split <;> rfl
            · split
              · split <;> rfl
              · split
                · rfl
                · split <;> rfl

theorem Alike.codePlace (k : Nat) (pc : DWord) : (s.withPool x).codePlace k pc = onPool x (s.codePlace k pc) := by
  unfold State.codePlace
  rw [h.isSys]
  exact h.translate _ _ _ _ _ _

theorem Alike.codeBusy (core : Nat) (w : Where) : (s.withPool x).codeBusy core w = s.codeBusy core w := by
  simp only [State.codeBusy, h.leaseHolder]
  rfl

theorem Alike.blockBytes (core : Nat) (w : Where) : (s.withPool x).blockBytes core w = s.blockBytes core w := by
  have shadow : (s.withPool x).shadowOf = s.shadowOf := funext h.shadowOf
  have read : (s.withPool x).locRead w 64 = s.locRead w 64 := by cases w <;> rfl
  simp only [State.blockBytes, shadow, read]
  rfl

theorem Alike.readBlock (core : Nat) (w : Where) : (s.withPool x).readBlock core w = onPool x (s.readBlock core w) := by
  have poisoned : w.poisoned (s.withPool x) 64 = w.poisoned s 64 := by cases w <;> rfl
  simp only [State.readBlock, h.blockBytes, poisoned]
  split <;> rfl

theorem Alike.fetch (k : Nat) (code : List (DWord × List Byte)) (pc : DWord) : (s.withPool x).fetch k code pc = onPool x (s.fetch k code pc) := by
  have place := s.looked_codePlace k pc
  unfold State.fetch
  rw [h.codePlace]
  generalize s.codePlace k pc = r at place
  obtain ⟨w, u⟩ := r
  have h : Alike u x := by
    have threads : u.threads = s.threads := by
      show u.looked.threads = s.looked.threads
      exact congrArg _ place
    unfold Alike
    rw [threads]
    exact h
  cases w with
  | fault c t => rfl
  | busy l => rfl
  | at_ w =>
      dsimp only [onPool]
      simp only [h.codeBusy, h.readBlock, show (u.withPool x).coreTh k = u.coreTh k from rfl]
      split
      · rfl
      · split
        · rfl
        · generalize u.readBlock (u.coreTh k) w = b
          obtain ⟨_ | b, v⟩ := b <;> rfl

theorem Alike.fetched {k : Nat} {code : List (DWord × List Byte)} {pc : DWord} : Alike (s.fetch k code pc).2 x := by
  have threads : (s.fetch k code pc).2.threads = s.threads := by
    show (s.fetch k code pc).2.looked.threads = s.looked.threads
    rw [s.looked_fetch]
  unfold Alike
  rw [threads]
  exact h

/-- The words of a slice that can be fetched. -/
theorem Alike.sliceWords {k : Nat} {a : DWord} {n : Nat} {ws : List IWord} (hw : (s.sliceWords k a n).1 = .ok ws) :
    (s.withPool x).sliceWords k a n = onPool x (s.sliceWords k a n) ∧ Alike (s.sliceWords k a n).2 x := by
  induction n generalizing ws with
  | zero => exact ⟨rfl, h⟩
  | succ n ih =>
      simp only [State.sliceWords] at hw ⊢
      generalize hr : s.sliceWords k a n = r at hw ih
      obtain ⟨_ | us, u⟩ := r
      · cases hw
      · obtain ⟨eq, alike⟩ := ih rfl
        simp only [eq, onPool] at hw ⊢
        simp only [show (u.withPool x).forward k a = u.forward k a from rfl, alike.fetch]
        have fetched := alike.fetched (k := k) (code := []) (pc := slotPC ((slotN (u.forward k a) : Int) + n))
        generalize u.fetch k [] (slotPC ((slotN (u.forward k a) : Int) + n)) = f at hw fetched
        obtain ⟨w | _ | l, v⟩ := f
        · exact ⟨rfl, fetched⟩
        · cases hw
        · cases hw

end

end Sys2Proof.Machine
end

section
/-! SUPPORT. The words of a slice run for a lane, whatever the other lanes hold. -/

namespace Sys2Proof.Machine

theorem State.guard_congr {s t : State} {k : Nat} (h : t.th k = s.th k) (g : Guard) : t.guard k g = s.guard k g := by
  simp only [State.guard, h]

/-- What a thread reads is its own, its crew's and its launch's, and the cycle. -/
theorem State.rd_congr {s t : State} {k : Nat} (h : t.th k = s.th k) (hc : t.crewTh k = s.crewTh k) (hl : t.laTh k = s.laTh k)
    (hn : t.cycle = s.cycle) : t.rd k = s.rd k := by
  have sp (i : Nat) : t.spRead k i = s.spRead k i := by simp only [State.spRead, h, hc, hl, hn]
  have reg (a : Spec) (w : Nat) : t.regRead k a w = s.regRead k a w := by
    cases a <;> simp only [State.regRead, h, hl, sp]
  simp only [State.rd, reg, h, hl]

/-- A word that computes a value, run for a lane: it is skipped where its guard is false; one that turns out illegal gives a
free value. -/
theorem State.runSlice_cons {s : State} {k g : Nat} {slice : DWord} {w : IWord} {rest : List IWord} {t : Thread} {i : Instr}
    (hd : decodeWord w = .ok i) (hv : (sliceValue i).isSome) : s.runSlice k g slice (w :: rest) t =
      if i.head.any fun h => !(s.setTh k fun _ => t).guard k h.g then s.runSlice k g slice rest t
      else match patchedValue i with
        | some (d, n, f) =>
            let o := f { (s.setTh k fun _ => t).rd k with fmode := 0 }
            if o.illegal then (.val ((Config.freeDWord s.free).setWidth 32), { s with free := s.free + 1 })
            else s.runSlice k g slice rest (t.replayPut d n o.v)
        | none => (.val ((Config.freeDWord s.free).setWidth 32), { s with free := s.free + 1 }) := by
  simp only [State.runSlice, hd]
  split
  · rfl
  · split
    · simp [sliceValue] at hv
    · simp [sliceValue] at hv
    · rfl

/-- The lanes of a slice of values do not read each other's threads, nor the row pool. -/
theorem State.runSlice_withPool {s x : State} {k g : Nat} {slice : DWord} {ws : List IWord} {t : Thread}
    (hs : (Tab.find k s.threads).isSome) (hx : (Tab.find k x.threads).isSome)
    (values : ∀ w ∈ ws, ∃ i, decodeWord w = .ok i ∧ (sliceValue i).isSome = true) :
    (s.withPool x).runSlice k g slice ws t = onPool x (s.runSlice k g slice ws t) := by
  induction ws generalizing t with
  | nil => rfl
  | cons w ws ih =>
      obtain ⟨i, hd, hv⟩ := values w (by simp)
      have ih (t : Thread) := ih (t := t) fun w hw => values w (by simp [hw])
      have look : ((s.withPool x).setTh k fun _ => t).th k = (s.setTh k fun _ => t).th k := by
        rw [State.th_setTh_self _ hs, State.th_setTh_self (s := s.withPool x) _ hx]
      have rd : ((s.withPool x).setTh k fun _ => t).rd k = (s.setTh k fun _ => t).rd k := State.rd_congr look rfl rfl rfl
      simp only [State.runSlice_cons hd hv, State.guard_congr look, rd, ih]
      split
      · rfl
      · split
        · split <;> rfl
        · rfl

end Sys2Proof.Machine
end

section
/-! PROOF. O42, a register regenerated lane by lane. -/

namespace Sys2Proof.Machine

/-! ### Keys of lanes -/

theorem laneOf_laneKey {r l : Nat} (h : l < 32) : laneOf (laneKey r l) = l := by
  unfold laneOf laneKey
  omega

theorem laneKey_inj {r l m : Nat} (h : laneKey r l = laneKey r m) : l = m := by
  unfold laneKey at h
  omega

theorem crewOf_laneKey_zero (r : Nat) : crewOf (laneKey r 0) = r / 128 := by
  unfold crewOf laneKey
  omega

/-! ### What a regeneration starts from -/

/-- The lanes of a row-register that wait for a regeneration. -/
def RowReg.waiting (x : RowReg) : List Nat := (List.range 32).filter fun l => x.lmask.getLsbD l

/-- What a lane needs for its slice to give a value: its words are there, each computes one, and its inputs are held as values. -/
structure LaneReady (s : State) (r g : Nat) (x : RowReg) (l : Nat) (ws : List IWord) (v : Word) : Prop where
  live : s.live (laneKey r l) = true
  words : s.sliceWords (laneKey r l) x.saddr x.len = (.ok ws, s)
  run : s.runSlice (laneKey r l) g x.saddr ws { s.th (laneKey r l) with v := Tab.put g 0 (s.th (laneKey r l)).v, rep := none } = (.val v, s)
  values : ∀ w ∈ ws, ∃ i, decodeWord w = .ok i ∧ (sliceValue i).isSome = true
  inputs : ∀ q ∈ (s.th (laneKey r l)).pinsOf g, q ≠ g ∧ ∃ y, s.rreg r q = some y ∧ y.form = .value

theorem isSome_of_live {s : State} {k : Nat} (h : s.live k = true) : (Tab.find k s.threads).isSome := by
  unfold State.live State.th Tab.getD at h
  cases hk : Tab.find k s.threads with
  | none => simp [hk] at h
  | some t => rfl

/-- Readiness does not depend on the notes of the issue logic. -/
theorem LaneReady.setPt {s : State} {r g : Nat} {x : RowReg} {l : Nat} {ws : List IWord} {v : Word} (h : LaneReady s r g x l ws v) (p : Nat)
    (f : Part → Part) : LaneReady (s.setPt p f) r g x l ws v := by
  have alike : Alike s (s.setPt p f) := rfl
  have words := (alike.sliceWords (congrArg Prod.fst h.words)).1
  rw [h.words] at words
  have listed := isSome_of_live h.live
  have run := s.runSlice_withPool (x := s.setPt p f) (g := g) (slice := x.saddr) listed listed h.values
    (t := { s.th (laneKey r l) with v := Tab.put g 0 (s.th (laneKey r l)).v, rep := none })
  rw [h.run] at run
  exact ⟨h.live, words, run, h.values, h.inputs⟩

theorem RowReg.isRecipe_of_value {y : RowReg} (h : y.form = .value) : y.isRecipe = false := by
  simp [RowReg.isRecipe, h]

/-! ### While lanes are regenerated -/

/-- A state in which some lanes of a register have been regenerated: their words are written, and nothing else of the device or of
the threads has changed. -/
structure Regenerated (s : State) (r g : Nat) (x : RowReg) (v : Nat → Word) (done : List Nat) (u : State) : Prop where
  device : u = s.withPool u
  alike : Alike s u
  threads : ∀ j, u.th j = if j ∈ done.map (laneKey r) then { s.th j with v := Tab.put g (v (laneOf j)) (s.th j).v } else s.th j
  reg : ∃ y, u.rreg r g = some y ∧ ∀ l, l < 32 → y.lmask.getLsbD l = (x.lmask.getLsbD l && !done.contains l)
  others : ∀ q, q ≠ g → u.rreg r q = s.rreg r q
  rgu : ∀ p, (u.pt p).rgu = (s.pt p).rgu

theorem State.rreg_setRw (s : State) (r q : Nat) (f : Row → Row) : (s.setRw r f).rreg r q = Tab.find q (f (s.rw r)).regs := by
  simp [State.rreg, State.rw_setRw]

/-- A lane that is ready gets its value, and leaves the descriptor. -/
theorem State.regenLane_of_val {u : State} {r g l : Nat} {x : RowReg} {ws : List IWord} {w : Word} (live : u.live (laneKey r l) = true)
    (inputs : u.inputsOf r g l = none) (words : u.sliceWords (laneKey r l) x.saddr x.len = (.ok ws, u))
    (run : u.runSlice (laneKey r l) g x.saddr ws { u.th (laneKey r l) with v := Tab.put g 0 (u.th (laneKey r l)).v, rep := none } = (.val w, u)) :
    ∃ b : RowReg → Word, u.regenLane r g l x = (u.setTh (laneKey r l) fun t => { t with v := Tab.put g w t.v }).setRw r fun y =>
      { y with regs := Tab.modify g (fun z => { z with lmask := z.lmask &&& ~~~(1#32 <<< l), bad := b z }) y.regs } := by
  unfold State.regenLane
  simp only [live, Bool.not_true, Bool.false_eq_true, if_false, inputs, words, run]
  exact ⟨_, rfl⟩

theorem Regenerated.lane {s u : State} {r g : Nat} {x : RowReg} {v : Nat → Word} {done : List Nat} {l : Nat} {ws : List IWord}
    (h : Regenerated s r g x v done u) (ready : LaneReady s r g x l ws (v l)) (hl : l < 32) (hn : l ∉ done) :
    Regenerated s r g x v (done ++ [l]) (u.regenLane r g l x) := by
  have listed : (Tab.find (laneKey r l) s.threads).isSome := isSome_of_live ready.live
  have fresh : laneKey r l ∉ done.map (laneKey r) := by
    simp only [List.mem_map, not_exists, not_and]
    intro m hm he
    exact hn (laneKey_inj he ▸ hm)
  have same : u.th (laneKey r l) = s.th (laneKey r l) := by rw [h.threads, if_neg fresh]
  have live : u.live (laneKey r l) = true := by
    have := ready.live
    unfold State.live at this ⊢
    rwa [same]
  have inputs : u.inputsOf r g l = none := by
    simp only [State.inputsOf, List.findSome?_eq_none_iff, same]
    intro q hq
    obtain ⟨hne, y, hy, hv⟩ := ready.inputs q hq
    simp [h.others q hne, hy, RowReg.isRecipe_of_value hv]
  have words := (h.alike.sliceWords (congrArg Prod.fst ready.words)).1
  rw [ready.words, onPool, ← h.device] at words
  have run := s.runSlice_withPool (x := u) (g := g) (slice := x.saddr) listed (isSome_of_live live) ready.values
    (t := { s.th (laneKey r l) with v := Tab.put g 0 (s.th (laneKey r l)).v, rep := none })
  rw [ready.run, onPool, ← h.device, ← same] at run
  obtain ⟨b, eq⟩ := State.regenLane_of_val live inputs words run
  obtain ⟨y, hy, hmask⟩ := h.reg
  rw [eq]
  refine ⟨?_, ?_, fun j => ?_, ⟨{ y with lmask := y.lmask &&& ~~~(1#32 <<< l), bad := b y }, ?_, fun i hi => ?_⟩, fun q hq => ?_, h.rgu⟩
  · conv_lhs => rw [h.device]
    rfl
  · exact (mapTab_modify Thread.noWords (laneKey r l) _ (by intro t; rfl) u.threads).trans h.alike
  · show ((u.setTh (laneKey r l) _).th j) = _
    by_cases hj : j = laneKey r l
    · subst hj
      rw [State.th_setTh_self _ (isSome_of_live live), same, if_pos (by simp), laneOf_laneKey hl]
    · rw [State.th_setTh_ne _ hj, h.threads]
      simp [hj]
  · rw [State.rreg_setRw, Tab.find_modify, if_pos rfl]
    exact congrArg (Option.map _) hy
  · have bit : (~~~(1#32 <<< l)).getLsbD i = decide (i ≠ l) := by
      rw [← BitVec.twoPow_eq, BitVec.getLsbD_not, BitVec.getLsbD_twoPow]
      simp [hi, hl, eq_comm]
    rw [BitVec.getLsbD_and, bit, hmask i hi]
    by_cases he : i = l <;> simp [he]
  · rw [State.rreg_setRw, Tab.find_modify, if_neg hq]
    exact h.others q hq

theorem Regenerated.lanes {s u : State} {r g : Nat} {x : RowReg} {ws : Nat → List IWord} {v : Nat → Word} {done ls : List Nat}
    (h : Regenerated s r g x v done u) (ready : ∀ l ∈ ls, LaneReady s r g x l (ws l) (v l) ∧ l < 32) (hn : (done ++ ls).Nodup) :
    Regenerated s r g x v (done ++ ls) (ls.foldl (fun u l => u.regenLane r g l x) u) := by
  induction ls generalizing done u with
  | nil => simpa using h
  | cons l ls ih =>
      obtain ⟨hl, hlt⟩ := ready l (by simp)
      have fresh : l ∉ done := fun hd => (List.nodup_append.1 hn).2.2 l hd l (by simp) rfl
      have eq : done ++ l :: ls = (done ++ [l]) ++ ls := by simp
      rw [eq] at hn ⊢
      exact ih (h.lane hl hlt fresh) (fun m hm => ready m (by simp [hm])) hn

/-! ### The whole register -/

/-- A chain of steps none of which changes anything. -/
theorem foldl_eq_self {α β : Type} {f : β → α → β} {b : β} {l : List α} (h : ∀ a ∈ l, f b a = b) : l.foldl f b = b := by
  induction l with
  | nil => rfl
  | cons a l ih => rw [List.foldl_cons, h a (by simp), ih fun a ha => h a (by simp [ha])]

/-- A register held as values needs no regeneration. -/
theorem State.regen_of_value {s : State} {r i : Nat} {y : RowReg} (hy : s.rreg r i = some y) (hv : y.form = .value) (fuel : Nat) :
    s.regen r i fuel = s := by
  cases fuel with
  | zero => rfl
  | succ fuel => simp [State.regen, hy, RowReg.lanesToDo, RowReg.isRecipe_of_value hv, maskList]

/-- A register that is not spilled needs no reload. -/
theorem State.reload_of_held {s : State} {r i : Nat} {y : RowReg} (hy : s.rreg r i = some y) (hv : y.form ≠ .spilled) : s.reload r i = s := by
  simp [State.reload, hy, hv]

/-- A row below what is left of its floor, of a launch without VCAP, takes an entry of its own. -/
theorem State.regenEntry_of_room {s : State} {r g : Nat} (hr : (s.rw r).entries < s.floorLeft r)
    (hc : (s.la (s.cr (r / 128)).launch).rcd.vcap = 0) : s.regenEntry r g = s := by
  simp [State.regenEntry, State.findEntry, State.capOk, hr, hc]

/-- Lanes of a register that wait, none of which a fault holds back, are those that a regeneration runs. -/
theorem RowReg.maskList_lanesToDo {x : RowReg} (hr : x.isRecipe = true) (hf : x.faults = []) : maskList x.lanesToDo.toNat = x.waiting := by
  simp only [RowReg.lanesToDo, hr, hf, if_true, List.map_nil, listMask, List.foldl_nil]
  simp only [RowReg.waiting, maskList, BitVec.not_zero, BitVec.and_allOnes]
  rfl

/-- A register regenerated: all its lanes are held as values again, the words of those that waited are new, and nothing else of the
threads or of the device has changed. -/
structure Regained (s : State) (r g : Nat) (x : RowReg) (v : Nat → Word) (t : State) : Prop where
  world : t.world = s.world
  rgu : ∀ p, (t.pt p).rgu = (s.pt p).rgu
  reg : ∃ y, t.rreg r g = some y ∧ y.form = .value ∧ y.lmask = 0
  threads : ∀ j, t.th j = if j ∈ x.waiting.map (laneKey r) then { s.th j with v := Tab.put g (v (laneOf j)) (s.th j).v } else s.th j

/-- A register after a regeneration: one of values where no lane waits. -/
def RowReg.settled (n : Nat) (z : RowReg) : RowReg := { z with form := if z.lmask = 0 then .value else .mixed, used := n }

theorem Regenerated.regained {s u : State} {r g : Nat} {x : RowReg} {v : Nat → Word} (h : Regenerated s r g x v x.waiting u) (n p : Nat)
    {f : Part → Part} (hf : ∀ y, (f y).rgu = y.rgu) : Regained s r g x v ((u.setRw r fun y => { y with regs := Tab.modify g (RowReg.settled n) y.regs }).setPt p f) := by
  obtain ⟨y, hy, hmask⟩ := h.reg
  have clear : y.lmask = 0 := by
    refine BitVec.eq_of_getLsbD_eq fun i hi => ?_
    rw [hmask i hi]
    cases hb : x.lmask.getLsbD i
    · simp
    · simp [RowReg.waiting, hi, hb]
  refine ⟨?_, fun q => ?_, ⟨{ y with form := .value, used := n }, ?_, rfl, clear⟩, h.threads⟩
  · show u.world = s.world
    rw [h.device]
    rfl
  · rw [← h.rgu q]
    unfold State.setPt State.pt
    simp only [Tab.getD_put]
    split
    · next hq => subst hq; exact hf _
    · rfl
  · show (u.setRw r fun y => { y with regs := Tab.modify g (RowReg.settled n) y.regs }).rreg r g = _
    rw [State.rreg_setRw, Tab.find_modify, if_pos rfl, show Tab.find g (u.rw r).regs = some y from hy]
    simp [RowReg.settled, clear]

/-- A register that waits in some lanes, none of which a fault holds back, is regenerated where an entry is there for it and every
lane is ready. -/
theorem State.regained_regen {s : State} {r g : Nat} {x : RowReg} {ws : Nat → List IWord} {v : Nat → Word} (hx : s.rreg r g = some x)
    (hf : x.faults = []) (hne : x.waiting ≠ [])
    (form : x.form = .mixed ∨ (x.form = .recipe ∧ (s.rw r).entries < s.floorLeft r ∧ (s.la (s.cr (r / 128)).launch).rcd.vcap = 0))
    (ready : ∀ l ∈ x.waiting, LaneReady s r g x l (ws l) (v l)) (fuel : Nat) : Regained s r g x v (s.regen r g (fuel + 2)) := by
  have recipe : x.isRecipe = true := by
    rcases form with h | ⟨h, -⟩ <;> simp [RowReg.isRecipe, h]
  rw [State.regen]
  simp only [hx, RowReg.maskList_lanesToDo recipe hf, List.isEmpty_iff, hne, if_false]
  -- the registers in use are noted; the inputs are held, and the entry is there
  generalize hp : ((x.waiting.flatMap fun l => (s.th (laneKey r l)).pinsOf g).eraseDups) = pins
  generalize hb : (s.setPt (s.partRow r) fun y => { y with busy := (s.pt (s.partRow r)).busy ++ (g :: pins).map fun i => (r, i) }) = b
  have inputs : pins.foldl (fun s i => (s.regen r i (fuel + 1)).reload r i) b = b := by
    refine foldl_eq_self fun i hi => ?_
    rw [← hp, List.mem_eraseDups, List.mem_flatMap] at hi
    obtain ⟨l, hl, hi⟩ := hi
    obtain ⟨-, y, hy, hv⟩ := (ready l hl).inputs i hi
    have hy : b.rreg r i = some y := by rw [← hb]; exact hy
    rw [State.regen_of_value hy hv, State.reload_of_held hy (by simp [hv])]
  have entry : (if x.form = .recipe then b.regenEntry r g else b.reload r g) = b := by
    rcases form with h | ⟨h, room, vcap⟩
    · rw [if_neg (by simp [h]), State.reload_of_held (y := x) (by rw [← hb]; exact hx) (by simp [h])]
    · rw [if_pos h, ← hb]
      exact State.regenEntry_of_room room vcap
  rw [inputs, entry]
  have start : Regenerated s r g x v [] b := by
    rw [← hb]
    refine ⟨rfl, rfl, fun j => rfl, ⟨x, hx, by simp⟩, fun q _ => rfl, fun q => ?_⟩
    unfold State.setPt State.pt
    simp only [Tab.getD_put]
    split
    · next hq => subst hq; rfl
    · rfl
  have done := start.lanes (ls := x.waiting) (fun l hl => ⟨ready l hl, by simpa using (List.mem_filter.1 hl).1⟩)
    (by rw [List.nil_append]; exact List.nodup_range.filter _)
  rw [List.nil_append] at done
  have regained := done.regained (State.cycle (x.waiting.foldl (fun u l => u.regenLane r g l x) b)) (s.partRow r)
    (f := fun y => { y with busy := (s.pt (s.partRow r)).busy }) fun _ => rfl
  split
  · exact regained
  · exact ⟨regained.world, regained.rgu, regained.reg, regained.threads⟩

/-- Settles O42: the choice of a convoy's threads by its rules one after the other, a pre-emption through what breaking leases
leaves as it was, and a regeneration lane by lane. -/
theorem threadEvents : Obligations.ThreadEvents := by
  intro s pri back
  refine ⟨?_, ?_, ?_, ?_⟩
  · intro p comp ks free rgu up hne hh same
    obtain ⟨j, chosen⟩ := State.exists_chosen hne
    have listed (k : Nat) (hk : k ∈ ks) : (Tab.find k s.threads).isSome :=
      isSome_find_of_mem_keys (List.mem_filter.1 (chosen.standAt hk).1).1
    obtain ⟨k₀, hk₀, c, hpart, hlane, hmem, hpc, hhdr, stays, slot⟩ := State.arbitrate_spec free rgu up hne hh listed
    have one : ∀ i ∈ ks, ∀ k ∈ ks, s.standAt i = s.standAt k := fun i hi k hk =>
      (chosen.standAt hi).2.trans (chosen.standAt hk).2.symm
    refine ⟨chosen.nodup_lanes, fun k hk => ?_, fun k hk i hi hs => ?_, fun starved => ?_, fun none k hk i hi => ?_, s.arbitrate p, rfl,
      fun k hk => slot.run k (by rw [hmem]; exact mem_byTid.2 hk),
      ⟨c, slot.mem, hpart, hlane, hmem, fun k hk => ?_⟩, stays.world, stays.threads⟩
    · have := (List.mem_filter.1 (chosen.standAt hk).1).2
      simp only [Bool.and_eq_true, beq_iff_eq] at this
      exact ⟨this.1, this.2, fun i hi => one i hi k hk⟩
    · have hs : s.standAt i = s.standAt j := hs.trans (chosen.standAt hk).2
      obtain ⟨m, hm, hl⟩ := chosen.exists_of_lane hi hs
      have picked := chosen.picked hm
      have mem : i ∈ s.standing comp j := by simp [State.standing, comp, hi, hs]
      exact ⟨m, hm, hl, picked.back i mem hl.symm, picked.first i mem hl.symm⟩
    · obtain ⟨hj, first⟩ := chosen.starved starved
      exact ⟨j, chosen.mem, hj, first, fun k hk => (chosen.standAt hk).2⟩
    · have best := chosen.pri none i hi
      rw [State.headPri_standing hi same, State.headPri_standing chosen.mem same] at best
      rw [same k (chosen.standAt hk).1 j chosen.mem (chosen.standAt hk).2]
      exact best
    · have := one k hk k₀ hk₀
      simp only [State.standAt, Prod.mk.injEq] at this
      exact ⟨hpc.trans this.2.1.symm, hhdr.trans this.2.2.symm⟩
  · intro k hc hs
    show Host.Outcome.next (s.starve k) = _
    by_cases starved : s.readyFrom k + 4096 ≤ s.cycle <;> simp [State.starve, hc, hs, Config.starveCycles, starved]
  · intro k t between here u
    refine ⟨fun hp _ ha => ?_, fun ha => ?_⟩
    · obtain ⟨own, out, others, world⟩ := State.takePreempt_spec hp ((s.atPoint_iff k).2 ha)
      exact ⟨s.takePreempt k, rfl, own, out, others, world⟩
    · exact congrArg Host.Outcome.next (State.takePreempt_of_not_atPoint (by
        rw [← Bool.not_eq_true, s.atPoint_iff k]
        exact ha))
  · intro p r g x ws v lanes hp hx hf hne form ready
    have form : x.form = .mixed ∨ (x.form = .recipe ∧ (s.rw r).entries < s.floorLeft r ∧ (s.la (s.cr (r / 128)).launch).rcd.vcap = 0) := by
      simpa only [State.laTh, State.crewTh, crewOf_laneKey_zero] using form
    have free : Regained (s.setPt p fun y => { y with rgu := none }) r g x v ((s.setPt p fun y => { y with rgu := none }).regenNow r g) := by
      refine State.regained_regen (s := s.setPt p fun y => { y with rgu := none }) (ws := ws) hx hf hne form (fun l hl => ?_) 1
      obtain ⟨live, words, run, values, inputs⟩ := ready l hl
      exact LaneReady.setPt ⟨live, words, run, values, inputs⟩ p _
    refine ⟨_, by simp only [exec, execRegenerationComplete, hp], ?_, free.world, free.reg, free.threads⟩
    rw [free.rgu]
    simp [State.setPt, State.pt, Tab.getD_put]

end Sys2Proof.Machine
end

section
/-! SUPPORT. What the coherent agents see of memory after writes at its home. -/

namespace Sys2Proof.Machine

/-! ### Sorted tables -/

/-- Keys rising. -/
abbrev Rising {α : Type} (t : List (Nat × α)) : Prop := (t.map (·.1)).Pairwise (· < ·)

theorem Rising.find {α : Type} {t : List (Nat × α)} (h : Rising t) {k : Nat} {a : α} (hm : (k, a) ∈ t) : Tab.find k t = some a := by
  induction t with
  | nil => cases hm
  | cons p t ih =>
      obtain ⟨hp, ht⟩ := List.pairwise_cons.1 h
      rcases List.mem_cons.1 hm with rfl | hm
      · simp [Tab.find]
      · have : p.1 < k := hp k (List.mem_map_of_mem hm)
        simp only [Tab.find]
        rw [if_neg (by omega)]
        exact ih ht hm

theorem Rising.put {α : Type} {t : List (Nat × α)} (h : Rising t) (k : Nat) (a : α) : Rising (Tab.put k a t) := by
  induction t with
  | nil => simp [Rising, Tab.put]
  | cons p t ih =>
      obtain ⟨j, b⟩ := p
      obtain ⟨hp, ht⟩ := List.pairwise_cons.1 h
      simp only [Tab.put]
      split
      · next hlt =>
        refine List.pairwise_cons.2 ⟨fun i hi => ?_, h⟩
        rcases List.mem_cons.1 hi with rfl | hi
        · exact hlt
        · exact Nat.lt_trans hlt (hp i hi)
      · split
        · next he => subst he; exact h
        · next hn he =>
          refine List.pairwise_cons.2 ⟨fun i hi => ?_, ih ht⟩
          obtain ⟨x, hx, rfl⟩ := List.mem_map.1 hi
          rcases Tab.mem_put hx with rfl | hx
          · simp only at hn he ⊢; omega
          · exact hp _ (List.mem_map_of_mem hx)

theorem Tab.drop_sublist {α : Type} (k : Nat) (t : List (Nat × α)) : (Tab.drop k t).Sublist t := by
  induction t with
  | nil => exact .slnil
  | cons p t ih =>
      simp only [Tab.drop]
      split
      · exact ih.cons _
      · exact ih.cons_cons _

/-! ### The exclusive holder of a line -/

/-- Under the rules of the L1s, a line's holder is the core in whose table it stands. -/
theorem State.L1Ok.ownerOf_iff {s : State} (h : s.L1Ok) {l c : Nat} {d : List (Nat × Byte)} :
    s.ownerOf l = some (c, d) ↔ Tab.find l (s.co c).owned = some d := by
  have find {c : Nat} {co : Core} (hm : (c, co) ∈ s.cores) : s.co c = co := by
    simp [State.co, Tab.getD, Rising.find h.sorted hm]
  have mem {x : Nat × List (Nat × Byte)} (ho : s.ownerOf l = some x) : Tab.find l (s.co x.1).owned = some x.2 := by
    obtain ⟨⟨c, co⟩, hm, he⟩ := List.exists_of_findSome?_eq_some ho
    obtain ⟨d, hd, rfl⟩ := Option.map_eq_some_iff.1 he
    rw [find hm]
    exact hd
  refine ⟨mem, fun hd => ?_⟩
  have listed {c : Nat} {d : List (Nat × Byte)} (hd : Tab.find l (s.co c).owned = some d) : (c, s.co c) ∈ s.cores := by
    unfold State.co Tab.getD at hd ⊢
    cases hc : Tab.find c s.cores with
    | none => simp [hc] at hd
    | some co => exact Tab.mem_of_find hc
  cases ho : s.ownerOf l with
  | none =>
      have := List.findSome?_eq_none_iff.1 ho (c, s.co c) (listed hd)
      simp [hd] at this
  | some x =>
      have hx := mem ho
      have same := h.one _ (listed hx) _ (listed hd) l (by simp [hx]) (by simp [hd])
      obtain ⟨c', d'⟩ := x
      dsimp only at same hx
      subst same
      rw [hd] at hx
      rw [Option.some.inj hx]

/-- Dirty bytes merged into memory stand there. -/
theorem readByte_mergeDirty (m : List Host.Cell) (line : Nat) (hl : line % 128 = 0) (d : List (Nat × Byte)) (hd : Rising d)
    (hlt : ∀ e ∈ d, e.1 < 128) (x : Nat) : readByte (mergeDirty m line d) x =
      if lineOf x = line then (Tab.find (x % 128) d).getD (readByte m x) else readByte m x := by
  induction d generalizing m with
  | nil => simp [mergeDirty]
  | cons e d ih =>
      obtain ⟨o, b⟩ := e
      obtain ⟨ho, hd'⟩ := List.pairwise_cons.1 hd
      have lt : o < 128 := hlt (o, b) (by simp)
      have step : mergeDirty m line ((o, b) :: d) = mergeDirty (writeByte m (line + o) b) line d := rfl
      rw [step, ih _ hd' fun e he => hlt e (by simp [he])]
      simp only [readByte_writeByte, Tab.find]
      by_cases hx : lineOf x = line
      · rw [if_pos hx, if_pos hx]
        by_cases he : x % 128 = o
        · have absent : Tab.find o d = none := by
            by_contra hne
            obtain ⟨a, ha⟩ := Option.ne_none_iff_exists'.1 hne
            exact absurd (ho o (List.mem_map_of_mem (Tab.mem_of_find ha))) (Nat.lt_irrefl o)
          have : x = line + o := by unfold lineOf at hx; omega
          simp [he, absent, ← this]
        · have : x ≠ line + o := by unfold lineOf at hx; omega
          simp [he, this]
      · have : x ≠ line + o := by
          rintro rfl
          unfold lineOf at hx
          omega
        simp [hx, this]

/-! ### A line recalled -/

section
variable {s : State} (h : s.L1Ok)
include h

/-- What is known of the bytes that a holder has of a line. -/
theorem State.L1Ok.dirty {l c : Nat} {d : List (Nat × Byte)} (ho : s.ownerOf l = some (c, d)) :
    l % 128 = 0 ∧ Rising d ∧ ∀ e ∈ d, e.1 < 128 := by
  have hd := h.ownerOf_iff.1 ho
  unfold State.co Tab.getD at hd
  cases hc : Tab.find c s.cores with
  | none => simp [hc] at hd
  | some co =>
      simp only [hc, Option.getD_some] at hd
      obtain ⟨-, lines⟩ := h.lines (c, co) (Tab.mem_of_find hc)
      exact lines (l, d) (Tab.mem_of_find hd)

theorem State.L1Ok.recall (line : Nat) : (s.recall line).L1Ok := by
  unfold State.recall
  cases ho : s.ownerOf line with
  | none => exact h
  | some x =>
      obtain ⟨c, d⟩ := x
      dsimp only
      have old : (c, s.co c) ∈ s.cores := by
        have hd := h.ownerOf_iff.1 ho
        unfold State.co Tab.getD at hd ⊢
        cases hc : Tab.find c s.cores with
        | none => simp [hc] at hd
        | some co => exact Tab.mem_of_find hc
      have origin {x : Nat × Core} (hx : x ∈ Tab.put c { s.co c with owned := Tab.drop line (s.co c).owned } s.cores) :
          ∃ y ∈ s.cores, y.1 = x.1 ∧ x.2.owned.Sublist y.2.owned ∧ ∀ l, (Tab.find l x.2.owned).isSome → (Tab.find l y.2.owned).isSome := by
        rcases Tab.mem_put hx with rfl | hx
        · refine ⟨_, old, rfl, Tab.drop_sublist _ _, fun l hl => ?_⟩
          rw [Tab.find_drop] at hl
          split at hl
          · cases hl
          · exact hl
        · exact ⟨x, hx, rfl, List.Sublist.refl _, fun _ h => h⟩
      refine ⟨Rising.put h.sorted _ _, fun x hx y hy l hl hm => ?_, fun x hx => ?_⟩
      · obtain ⟨x', hx', ex, -, fx⟩ := origin hx
        obtain ⟨y', hy', ey, -, fy⟩ := origin hy
        rw [← ex, ← ey]
        exact h.one x' hx' y' hy' l (fx l hl) (fy l hm)
      · obtain ⟨x', hx', -, sub, -⟩ := origin hx
        obtain ⟨sorted, lines⟩ := h.lines x' hx'
        exact ⟨sorted.sublist (sub.map _), fun o ho => lines o (sub.subset ho)⟩

/-- A line recalled is held by nobody, another as before. -/
theorem State.L1Ok.ownerOf_recall (line l : Nat) : (s.recall line).ownerOf l = if l = line then none else s.ownerOf l := by
  refine Option.ext fun x => ?_
  obtain ⟨c, d⟩ := x
  rw [(h.recall line).ownerOf_iff]
  have same : (if l = line then none else s.ownerOf l) = some (c, d) ↔ l ≠ line ∧ Tab.find l (s.co c).owned = some d := by
    split
    · simp [*]
    · rw [h.ownerOf_iff]; simp [*]
  rw [same]
  unfold State.recall
  cases ho : s.ownerOf line with
  | none =>
      refine ⟨fun hd => ⟨?_, hd⟩, fun hd => hd.2⟩
      rintro rfl
      rw [h.ownerOf_iff.2 hd] at ho
      cases ho
  | some y =>
      obtain ⟨c', d'⟩ := y
      have hd' := h.ownerOf_iff.1 ho
      have co : ({ s with mem := mergeDirty s.mem line d' }.setCo c' fun co => { co with owned := Tab.drop line co.owned }).co c =
          if c = c' then { s.co c' with owned := Tab.drop line (s.co c').owned } else s.co c := State.co_setCo _ _ _ _
      dsimp only
      rw [co]
      split
      · next hc =>
        subst hc
        simp only [Tab.find_drop]
        by_cases hl : l = line <;> simp [hl]
      · next hc =>
        refine ⟨fun hd => ⟨?_, hd⟩, fun hd => hd.2⟩
        rintro rfl
        rw [h.ownerOf_iff.2 hd] at ho
        exact hc (Prod.mk.inj (Option.some.inj ho)).1

end

end Sys2Proof.Machine
end

section
/-! SUPPORT. Coherent bytes after a recall and after a write at the home slices, and the bytes of a number. -/

namespace Sys2Proof.Machine

/-! ### Coherent bytes after a write at the home -/

theorem State.L1Ok.of_cores {s t : State} (h : s.L1Ok) (e : t.cores = s.cores) : t.L1Ok := by
  obtain ⟨sorted, one, lines⟩ := h
  exact ⟨e ▸ sorted, e ▸ one, e ▸ lines⟩

/-- Coherent bytes are read from memory and the L1s alone. -/
theorem State.cohByte_congr {s t : State} (hm : t.mem = s.mem) (hc : t.cores = s.cores) : t.cohByte = s.cohByte := by
  funext x
  simp only [State.cohByte, State.ownerOf, hm, hc]

section
variable {s : State} (h : s.L1Ok)
include h

theorem State.L1Ok.cohByte_recall (line x : Nat) : (s.recall line).cohByte x = s.cohByte x := by
  cases ho : s.ownerOf line with
  | none => simp only [State.recall, ho]
  | some y =>
      unfold State.cohByte
      rw [h.ownerOf_recall]
      obtain ⟨c, d⟩ := y
      obtain ⟨hl, hd, lt⟩ := h.dirty ho
      have mem : readByte (s.recall line).mem x = if lineOf x = line then (Tab.find (x % 128) d).getD (readByte s.mem x) else readByte s.mem x := by
        simp only [State.recall, ho]
        exact readByte_mergeDirty _ _ hl _ hd lt _
      rw [mem]
      by_cases e : lineOf x = line
      · simp [e, ho]
      · simp [e]

theorem State.L1Ok.homeWrite (pa : Nat) (bs : List Byte) : (s.homeWrite pa bs).L1Ok := (h.recall (lineOf pa)).of_cores rfl

theorem State.L1Ok.cohByte_homeWrite (pa : Nat) (b : Byte) (x : Nat) :
    (s.homeWrite pa [b]).cohByte x = if x = pa then b else s.cohByte x := by
  have owner : (s.homeWrite pa [b]).ownerOf = (s.recall (lineOf pa)).ownerOf := rfl
  have mem : readByte (s.homeWrite pa [b]).mem x = if x = pa then b else readByte (s.recall (lineOf pa)).mem x :=
    readByte_writeByte _ _ _ _
  by_cases e : x = pa
  · subst e
    unfold State.cohByte
    rw [owner, h.ownerOf_recall, mem]
    simp
  · rw [if_neg e, ← h.cohByte_recall (lineOf pa)]
    unfold State.cohByte
    rw [owner, mem, if_neg e]

end

theorem State.L1Ok.homeWriteAll {s : State} (h : s.L1Ok) (pa : Nat) (l : List (Nat × Byte)) : (s.homeWriteAll pa l).L1Ok := by
  induction l generalizing s with
  | nil => exact h
  | cons e l ih => exact ih (h.homeWrite _ _)

theorem State.L1Ok.cohByte_homeWriteAll {s : State} (h : s.L1Ok) (pa k : Nat) (bs : List Byte) (x : Nat) :
    (s.homeWriteAll pa ((List.range' k bs.length).zip bs)).cohByte x =
      if pa + k ≤ x ∧ x < pa + k + bs.length then bs.getD (x - (pa + k)) 0 else s.cohByte x := by
  induction bs generalizing s k with
  | nil => simp [State.homeWriteAll]
  | cons b bs ih =>
      rw [List.length_cons, List.range'_succ, List.zip_cons_cons, State.homeWriteAll, ih (h.homeWrite _ _), h.cohByte_homeWrite]
      by_cases first : x = pa + k
      · subst first
        simp
      · by_cases later : pa + (k + 1) ≤ x ∧ x < pa + (k + 1) + bs.length
        · obtain ⟨j, hj⟩ : ∃ j, x - (pa + k) = j + 1 := ⟨x - (pa + k) - 1, by omega⟩
          rw [if_pos later, if_pos (by omega), hj, List.getD_cons_succ]
          congr 1
          omega
        · rw [if_neg later, if_neg first, if_neg (by omega)]

section
variable {s : State} (h : s.L1Ok)
include h

theorem State.L1Ok.homeStore (pa : Nat) (bs : List Byte) : (s.homeStore pa bs).L1Ok := (h.homeWriteAll pa (numbered bs)).of_cores rfl

/-- A write at the home slices is what is read from then on, and nothing else changes. -/
theorem State.L1Ok.cohByte_homeStore (pa : Nat) (bs : List Byte) (x : Nat) :
    (s.homeStore pa bs).cohByte x = if pa ≤ x ∧ x < pa + bs.length then bs.getD (x - pa) 0 else s.cohByte x := by
  have all := h.cohByte_homeWriteAll pa 0 bs x
  rw [← List.range_eq_range', Nat.add_zero] at all
  exact all

end

/-! ### Ranges of coherent bytes -/

theorem State.coh_eq_map (s : State) (a n : Nat) : s.coh a n = (List.range' a n).map s.cohByte := by
  induction n generalizing a with
  | zero => rfl
  | succ n ih => rw [State.coh, ih, List.range'_succ, List.map_cons]

@[simp] theorem State.coh_length (s : State) (a n : Nat) : (s.coh a n).length = n := by simp [State.coh_eq_map]

theorem State.coh_of_cohByte {s t : State} (a n : Nat) (h : ∀ x, a ≤ x → x < a + n → t.cohByte x = s.cohByte x) : t.coh a n = s.coh a n := by
  rw [State.coh_eq_map, State.coh_eq_map]
  refine List.map_congr_left fun x hx => ?_
  obtain ⟨lo, hi⟩ := List.mem_range'_1.1 hx
  exact h x lo hi

theorem State.coh_congr {s t : State} (hm : t.mem = s.mem) (hc : t.cores = s.cores) (a n : Nat) : t.coh a n = s.coh a n :=
  State.coh_of_cohByte _ _ fun _ _ _ => congrFun (State.cohByte_congr hm hc) _

/-- A part of a range. -/
theorem State.coh_part (s : State) {a m o n : Nat} (h : o + n ≤ m) : ((s.coh a m).drop o).take n = s.coh (a + o) n := by
  refine List.ext_getElem (by simp; omega) fun i hi hb => ?_
  simp [State.coh_eq_map, Nat.add_assoc]

section
variable {s : State} (h : s.L1Ok)
include h

theorem State.L1Ok.coh_homeStore_self (pa : Nat) (bs : List Byte) {n : Nat} (hn : bs.length = n) : (s.homeStore pa bs).coh pa n = bs := by
  subst hn
  refine List.ext_getElem (by simp) fun i hi hb => ?_
  simp only [State.coh_eq_map, List.getElem_map, List.getElem_range', h.cohByte_homeStore]
  rw [if_pos (by omega)]
  simp [List.getD, hb]

theorem State.L1Ok.coh_homeStore_apart (pa : Nat) (bs : List Byte) {a n : Nat} (hd : a + n ≤ pa ∨ pa + bs.length ≤ a) :
    (s.homeStore pa bs).coh a n = s.coh a n :=
  State.coh_of_cohByte _ _ fun x lo hi => by rw [h.cohByte_homeStore, if_neg (by omega)]

end

/-! ### The bytes of a number -/

@[simp] theorem length_leBytes (n v : Nat) : (leBytes n v).length = n := by
  induction n generalizing v with
  | zero => rfl
  | succ n ih => simp [leBytes, ih]

theorem leNat_leBytes (n v : Nat) : leNat (leBytes n v) = v % 256 ^ n := by
  induction n generalizing v with
  | zero => simp [leBytes, leNat, Nat.mod_one]
  | succ n ih => rw [leBytes, leNat, ih, BitVec.toNat_ofNat, Nat.pow_succ' (m := 256), Nat.mod_mul (a := 256)]

/-- The first bytes of a number are its lowest. -/
theorem leNat_take (n : Nat) (b : List Byte) : leNat (b.take n) = leNat b % 256 ^ n := by
  induction n generalizing b with
  | zero => simp [leNat, Nat.mod_one]
  | succ n ih =>
      cases b with
      | nil => simp [leNat]
      | cons x b =>
          have := x.isLt
          have low : (x.toNat + 256 * leNat b) % 256 = x.toNat := by omega
          have high : (x.toNat + 256 * leNat b) / 256 = leNat b := by omega
          rw [List.take_succ_cons, leNat, leNat, ih, Nat.pow_succ', Nat.mod_mul, low, high]

end Sys2Proof.Machine
end

section
/-! SUPPORT. What the engines that read records for the device leave of the launches: their queues and entry numbers. -/

namespace Sys2Proof.Machine

/-! ### Places of the launches -/

/-- The queue and the entry number of each launch. -/
def State.places (s : State) : List (Nat × Nat × Nat) := mapTab (fun y : Launch => (y.q, y.n)) s.launches

theorem State.places_still (s : State) : s.still.places = s.places := by
  simp only [State.places, State.still, mapTab, List.map_map]
  rfl

theorem State.places_of_still {s t : State} (h : t.still = s.still) : t.places = s.places := by
  rw [← t.places_still, h, s.places_still]

theorem State.places_of_looked {s t : State} (h : t.looked = s.looked) : t.places = s.places := by
  have e := congrArg State.places h
  exact e

theorem State.la_place_of_places {s t : State} (h : t.places = s.places) (l : Nat) : (t.la l).q = (s.la l).q ∧ (t.la l).n = (s.la l).n := by
  have e := congrArg (Tab.find l) h
  simp only [State.places, find_mapTab] at e
  unfold State.la Tab.getD
  cases ht : Tab.find l t.launches <;> cases hs : Tab.find l s.launches <;> simp_all

theorem State.places_setLa (s : State) (l : Nat) (f : Launch → Launch) (h : ∀ y, ((f y).q, (f y).n) = (y.q, y.n) := by intro y; rfl) :
    (s.setLa l f).places = s.places := mapTab_modify _ _ _ h _

/-! ### What a piece of an engine's work keeps -/

/-- Whatever it comes to, a piece of work leaves something of the state as it was. -/
def EngM.Keeps {α γ : Type} (g : State → γ) (m : EngM α) : Prop := ∀ s, g (m s).2 = g s

section
variable {α β γ : Type} {g : State → γ}

theorem EngM.Keeps.pure (a : α) : EngM.Keeps g (EngM.pure a) := fun _ => rfl

theorem EngM.Keeps.bind {m : EngM α} {f : α → EngM β} (hm : EngM.Keeps g m) (hf : ∀ a, EngM.Keeps g (f a)) : EngM.Keeps g (EngM.bind m f) := by
  intro s
  have first := hm s
  unfold EngM.bind
  generalize m s = r at first
  obtain ⟨_ | _ | _ | _, u⟩ := r
  case ok a => exact (hf a u).trans first
  all_goals exact first

theorem EngM.Keeps.each {f : α → EngM β} (hf : ∀ a, EngM.Keeps g (f a)) (l : List α) : EngM.Keeps g (EngM.each f l) := by
  induction l with
  | nil => exact .pure _
  | cons a l ih => exact (hf a).bind fun _ => ih.bind fun _ => .pure _

end

/-! ### The engines' reads -/

theorem engGlobal_keeps_places (e : Eng) (nd : Need) (fuel va n : Nat) : EngM.Keeps State.places (engGlobal e nd fuel va n) := by
  induction fuel generalizing nd va n with
  | zero => exact .pure _
  | succ fuel ih =>
      intro s
      unfold engGlobal
      split
      · rfl
      · dsimp only
        have looked := s.looked_translate (some e.master) e.ctx e.master e.plain (BitVec.ofNat 64 va)
          { nd with size := if n < 4096 - va % 4096 then n else 4096 - va % 4096, sys := (s.cx e.ctx).sys, remote := s.fabricOk e.launch }
        have kept := State.places_of_looked looked
        split
        · next h => rw [h] at kept; exact kept
        · next h => rw [h] at kept; exact (State.places_of_still (State.still_knock _ _ _)).trans kept
        · next w u h =>
          rw [h] at kept
          exact Eq.trans (EngM.Keeps.bind (ih _ _ _) (fun r => .pure _) u) kept

theorem State.places_send (s : State) (f : Flit) : (s.send f).places = s.places := by
  unfold State.send
  split <;> rfl

theorem engRemote_keeps_places (e : Eng) (va dev pa n : Nat) : EngM.Keeps State.places (engRemote e va dev pa n) := by
  intro s
  unfold engRemote
  dsimp only
  split
  · split <;> rfl
  · exact State.places_send _ _

theorem engAsk_keeps_places (e : Eng) (va : Nat) (l : List (Where × Nat)) : EngM.Keeps State.places (engAsk e va l) := by
  intro s
  refine foldl_keeps State.places _ (fun u x => ?_) _ s
  obtain ⟨a, w, n⟩ := x
  cases w
  case remote d pa => exact engRemote_keeps_places e a d pa n u
  all_goals rfl

theorem State.places_engLook (s : State) (e : Eng) (w : Where) (n : Nat) : (s.engLook e w n).2.places = s.places := by
  unfold State.engLook
  dsimp only
  refine foldl_keeps State.places _ (fun u i => ?_) _ s
  rfl

theorem engBytes_keeps_places (e : Eng) (va : Nat) (l : List (Where × Nat)) : EngM.Keeps State.places (engBytes e va l) := by
  intro s
  unfold engBytes
  split
  · exact foldl_keeps State.places _ (fun u x => State.places_of_still (u.still_knock _ _)) _ s
  · refine ((engAsk_keeps_places e va l).bind fun _ => (EngM.Keeps.each (fun x => ?_) _).bind fun _ => .pure _) s
    intro u
    dsimp only
    split
    · exact engRemote_keeps_places _ _ _ _ _ u
    · split
      · rfl
      · exact u.places_engLook _ _ _

/-- A read of the device's own. -/
theorem engRead_keeps_places (e : Eng) (rt : RType) (addr n : Nat) : EngM.Keeps State.places (engRead e .g rt addr n) :=
  EngM.Keeps.bind (engGlobal_keeps_places e _ _ addr n) fun l => engBytes_keeps_places e addr l

theorem readLaunch_keeps_places (e : Eng) (lrec : Nat) : EngM.Keeps State.places (readLaunch e lrec) := engRead_keeps_places _ _ _ _

theorem readTables_keeps_places (e : Eng) (r : Rcd) : EngM.Keeps State.places (readTables e r) := by
  refine (engRead_keeps_places _ _ _ _).bind fun kb => EngM.Keeps.bind ?_ fun fs => (engRead_keeps_places _ _ _ _).bind fun mt => .pure _
  split
  · exact .pure _
  · exact engRead_keeps_places _ _ _ _

end Sys2Proof.Machine
end

section
/-! SUPPORT. The device's own writes where nothing holds the line, and the end of a launch. -/

namespace Sys2Proof.Machine

/-! ### Writes at the home leave the rest -/

/-- A state without memory and what caches it. -/
def State.besideMem (s : State) : State := { s with mem := [], cores := [], poison := [] }

theorem State.besideMem_recall (s : State) (line : Nat) : (s.recall line).besideMem = s.besideMem := by
  unfold State.recall
  split <;> rfl

theorem State.besideMem_homeStore (s : State) (pa : Nat) (bs : List Byte) : (s.homeStore pa bs).besideMem = s.besideMem := by
  have all (u : State) (l : List (Nat × Byte)) : (u.homeWriteAll pa l).besideMem = u.besideMem := by
    induction l generalizing u with
    | nil => rfl
    | cons e l ih => exact (ih _).trans (u.besideMem_recall _)
  exact all s (numbered bs)

section
variable (s : State) (pa : Nat) (bs : List Byte)

@[simp] theorem State.launches_homeStore : (s.homeStore pa bs).launches = s.launches := by
  have e := congrArg State.launches (s.besideMem_homeStore pa bs)
  exact e

@[simp] theorem State.regs_homeStore : (s.homeStore pa bs).regs = s.regs := by
  have e := congrArg State.regs (s.besideMem_homeStore pa bs)
  exact e

@[simp] theorem State.records_homeStore : (s.homeStore pa bs).records = s.records := by
  have e := congrArg State.records (s.besideMem_homeStore pa bs)
  exact e

@[simp] theorem State.threads_homeStore : (s.homeStore pa bs).threads = s.threads := by
  have e := congrArg State.threads (s.besideMem_homeStore pa bs)
  exact e

@[simp] theorem State.rows_homeStore : (s.homeStore pa bs).rows = s.rows := by
  have e := congrArg State.rows (s.besideMem_homeStore pa bs)
  exact e

@[simp] theorem State.ops_homeStore : (s.homeStore pa bs).ops = s.ops := by
  have e := congrArg State.ops (s.besideMem_homeStore pa bs)
  exact e

theorem State.homeFree_homeStore (l : Nat) : (s.homeStore pa bs).homeFree l = s.homeFree l := by
  have e := congrArg (fun x : State => x.homeFree l) (s.besideMem_homeStore pa bs)
  exact e

end

/-! ### The device's own writes -/

/-- Nothing holds a line of memory, and no write of the device waits. -/
def State.Quiet (s : State) : Prop := (∀ l, s.homeFree l = true) ∧ ∀ x ∈ s.ops, x.2.th ≠ deviceKey

/-- What the device writes it writes at once. -/
theorem State.Quiet.deviceStore {s : State} (h : s.Quiet) (pa : Nat) (bs : List Byte) : s.deviceStore pa bs = s.homeStore pa bs := by
  obtain ⟨free, own⟩ := h
  have alone : (s.ops.any fun x => x.2.th == deviceKey && overlaps x.2.loc x.2.size (.mem pa) bs.length) = false := by
    rw [List.any_eq_false]
    intro x hx
    simp [own x hx]
  unfold State.deviceStore State.deviceDo
  dsimp only
  rw [if_pos (by rw [free, alone]; rfl)]
  rfl

/-- What a hold on a line, or a write of the device that waits, stands in. -/
def State.claims (s : State) : List (Nat × Thread) × List (Nat × Nat) × List ReadLease × BitVec 32 × Nat × Nat × List (Nat × Op) :=
  (s.threads, s.engOwned, s.readLeases, s.ptpErr, s.ns, s.cycle, s.ops)

theorem State.Quiet.of_claims {s t : State} (h : s.Quiet) (e : t.claims = s.claims) : t.Quiet := by
  simp only [State.claims, Prod.mk.injEq] at e
  obtain ⟨threads, engOwned, leases, err, ns, cycle, ops⟩ := e
  obtain ⟨free, own⟩ := h
  refine ⟨fun l => ?_, by rwa [ops]⟩
  rw [← free l]
  simp only [State.homeFree, State.leaseHolder, State.leaseUntil, threads, engOwned, leases, err, ns, cycle]

theorem State.Quiet.homeStore {s : State} (h : s.Quiet) (pa : Nat) (bs : List Byte) : (s.homeStore pa bs).Quiet := by
  obtain ⟨free, own⟩ := h
  exact ⟨fun l => (s.homeFree_homeStore pa bs l).trans (free l), by rwa [s.ops_homeStore]⟩

/-! ### Launches -/

theorem State.la_of_find {s : State} {l : Nat} {x : Launch} (h : Tab.find l s.launches = some x) : s.la l = x := by
  simp [State.la, Tab.getD, h]

theorem State.find_setLa {s : State} {l : Nat} {x : Launch} (h : Tab.find l s.launches = some x) (f : Launch → Launch) :
    Tab.find l (s.setLa l f).launches = some (f x) := by
  simp [State.setLa, Tab.find_modify, h]

/-! ### STATUS -/

/-- A state without its registers. -/
def State.besideRegs (s : State) : State := { s with regs := [] }

theorem State.besideRegs_advanceHead (s : State) (q n : Nat) : (s.advanceHead q n).besideRegs = s.besideRegs := by
  induction n generalizing s with
  | zero => rfl
  | succ n ih =>
      unfold State.advanceHead
      dsimp only
      split
      · exact ih _
      · rfl

/-- A STATUS is written, the launch has it, and registers of the queue follow. -/
theorem State.besideRegs_writeStatus (s : State) (l st : Nat) : (s.writeStatus l st).besideRegs =
    ((s.deviceStore (s.entryAddr (s.la l).q (s.la l).n + 8) (leBytes 2 st)).setLa l fun x => { x with status := st, ending := false }).besideRegs := by
  unfold State.writeStatus
  dsimp only
  generalize (s.deviceStore _ _).setLa l _ = u
  have stopped : (if st = 5 ∨ st = 6 ∧ (s.la l).status = 1 then
      u.setReg (0x400 + 4 * (s.la l).q) (u.reg (0x400 + 4 * (s.la l).q) ||| 0x20000000) else u).besideRegs = u.besideRegs := by
    split <;> rfl
  split
  · exact (State.besideRegs_advanceHead _ _ _).trans stopped
  · exact stopped

theorem State.la_writeStatus {s : State} {l : Nat} {x : Launch} (h : Tab.find l s.launches = some x) (st : Nat) :
    ((s.writeStatus l st).la l).still = { x with status := st, ending := false, pscr := [] } := by
  have launches := congrArg State.launches (s.besideRegs_writeStatus l st)
  have kept := (s.still_deviceStore (s.entryAddr (s.la l).q (s.la l).n + 8) (leBytes 2 st))
  have there := State.find_launches_still s l
  rw [← kept, State.find_launches_still, h] at there
  obtain ⟨y, hy, same⟩ := Option.map_eq_some_iff.1 there
  have now : Tab.find l (s.writeStatus l st).launches = some { y with status := st, ending := false } :=
    (congrArg (Tab.find l) launches).trans (State.find_setLa hy _)
  rw [State.la_of_find now]
  show ({ y.still with status := st, ending := false } : Launch) = { x.still with status := st, ending := false }
  rw [same]

theorem State.places_writeStatus (s : State) (l st : Nat) : (s.writeStatus l st).places = s.places := by
  have e := congrArg State.places (s.besideRegs_writeStatus l st)
  exact e.trans ((State.places_setLa _ l _).trans (State.places_of_still (s.still_deviceStore _ _)))

/-- A STATUS written at once. -/
theorem State.Quiet.coh_writeStatus {s : State} (h : s.Quiet) (l st a n : Nat) : (s.writeStatus l st).coh a n =
    (s.homeStore (s.entryAddr (s.la l).q (s.la l).n + 8) (leBytes 2 st)).coh a n := by
  have e := s.besideRegs_writeStatus l st
  rw [h.deviceStore] at e
  have mem := congrArg State.mem e
  have cores := congrArg State.cores e
  exact State.coh_congr (t := s.writeStatus l st) (s := s.homeStore _ _) mem cores a n

/-! ### The end of a launch -/

/-- What the end of a launch leaves: its record where it has an event queue, else its STATUS. -/
def State.Ended (u t : State) (l st code : Nat) : Prop :=
  if (u.la l).rcd.evq.getLsbD 31 then (t.la l).ending = true ∧ (t.la l).final = st ∧ ∃ r ∈ t.records, r.launch = some l
    ∧ r.bytes = recordBytes (u.la l).rcd.evtag.toNat 1 code (u.la l).rcd.jobid (u.la l).lrec
  else (t.la l).status = st ∧ t.coh (u.entryAddr (u.la l).q (u.la l).n + 8) 2 = leBytes 2 st

theorem State.places_endLaunch (s : State) (l st : Nat) (code : Option Nat) : (s.endLaunch l st code).places = s.places := by
  unfold State.endLaunch
  dsimp only
  split
  · split
    · exact s.places_setLa l _
    · exact s.places_writeStatus l st
  · exact s.places_writeStatus l st

theorem State.places_reject (s : State) (l st code : Nat) : (s.reject l st code).places = s.places := s.places_endLaunch l st _

section
variable {s : State} {l : Nat} {x : Launch} (h : Tab.find l s.launches = some x) (st code : Nat)
include h

/-- A launch whose record names no event queue has its STATUS at once. -/
theorem State.reject_of_no_queue (none : x.rcd.evq.getLsbD 31 = false) : s.reject l st code = s.writeStatus l st := by
  unfold State.reject State.endLaunch
  dsimp only
  rw [State.la_of_find h, none]
  rfl

theorem State.status_reject (none : x.rcd.evq.getLsbD 31 = false) : ((s.reject l st code).la l).status = st := by
  rw [State.reject_of_no_queue h st code none]
  exact congrArg Launch.status (State.la_writeStatus h st)

/-- A launch is ended as its record says, as it stood before `u` was worked on. -/
theorem State.ended_reject (ok : s.L1Ok) (quiet : s.Quiet) {u : State} {y : Launch} (hu : Tab.find l u.launches = some y)
    (regs : u.regs = s.regs) (same : (y.q, y.n, y.rcd, y.lrec) = (x.q, x.n, x.rcd, x.lrec)) : u.Ended (s.reject l st code) l st code := by
  simp only [Prod.mk.injEq] at same
  obtain ⟨hq, hn, hr, hl⟩ := same
  unfold State.Ended
  rw [State.la_of_find hu, hr, hl]
  cases e : x.rcd.evq.getLsbD 31 with
  | true =>
      have ended : s.reject l st code = (s.setLa l fun x => { x with ending := true, final := st }).addRecord
          { queue := x.rcd.evq.toNat % 1024, bytes := recordBytes x.rcd.evtag.toNat 1 code x.rcd.jobid x.lrec, launch := some l } := by
        unfold State.reject State.endLaunch
        dsimp only
        rw [State.la_of_find h, e]
        rfl
      have la : ((s.reject l st code).la l) = { x with ending := true, final := st } := by
        rw [ended]
        exact State.la_of_find (State.find_setLa h _)
      rw [if_pos rfl, la, ended]
      exact ⟨rfl, rfl, _, List.mem_append_right _ (List.mem_singleton.2 rfl), rfl, rfl⟩
  | false =>
      have addr : u.entryAddr y.q y.n = s.entryAddr x.q x.n := by
        simp only [State.entryAddr, State.reg, regs, hq, hn]
      rw [if_neg Bool.false_ne_true, addr]
      refine ⟨State.status_reject h st code e, ?_⟩
      rw [State.reject_of_no_queue h st code e, quiet.coh_writeStatus, State.la_of_find h]
      exact ok.coh_homeStore_self _ _ (length_leBytes 2 st)

end

end Sys2Proof.Machine
end

section
/-! SUPPORT. An entry that comes into its queue's window: what is read, and what its launch comes to (17 R359, R363). -/

namespace Sys2Proof.Machine

/-! ### The launch of a new entry -/

/-- The launch made for an entry, as its sixteen bytes say. -/
def State.newLaunch (s : State) (q n : Nat) : Launch :=
  { q := q, n := n, ctx := s.newCtxId, lrec := BitVec.ofNat 64 (leNat (s.coh (s.entryAddr q n) 8))
    dev := leNat (s.coh (s.entryAddr q n + 0xA) 2) % 2 ^ 12 }

/-- The state once an entry has a launch. -/
def State.launched (s : State) (q n : Nat) : State := (s.makeLaunch q n).2.setLa s.seq fun y =>
  { y with lrec := BitVec.ofNat 64 (leNat (s.coh (s.entryAddr q n) 8)), dev := leNat (s.coh (s.entryAddr q n + 0xA) 2) % 2 ^ 12 }

/-- And once its context's id stands in the entry. -/
def State.entering (s : State) (q n : Nat) : State := (s.launched q n).homeStore (s.entryAddr q n + 0xC) (leBytes 4 s.newCtxId)

/-- A launch's record and its tables read and checked. -/
def State.readEntry (s : State) (l lrec : Nat) : State :=
  let e := s.launchEng l
  if lrec % 256 ≠ 0 then (s.setLa l fun x => { x with entered := true }).reject l 3 4
  else
    match readLaunch e lrec s with
    | (.wait, s) => s
    | (.poison, s) => (s.setLa l fun x => { x with entered := true }).reject l 3 4
    | (.fault code _, s) => (s.setLa l fun x => { x with entered := true }).reject l 3 code
    | (.ok b, s) =>
        let r := Rcd.ofBytes b
        let s := s.setLa l fun x => { x with rcd := r }
        if s.malformedRcd r b || decide ((s.la l).dev ≥ r.devs) then (s.setLa l fun x => { x with entered := true }).reject l 3 4
        else match readTables e r s with
          | (.wait, s) => s
          | (.poison, s) => (s.setLa l fun x => { x with entered := true }).reject l 3 4
          | (.fault code _, s) => (s.setLa l fun x => { x with entered := true }).reject l 3 code
          | (.ok t, s) => s.takeIn l b t

theorem State.find_makeLaunch (s : State) (q n : Nat) :
    Tab.find s.seq (s.makeLaunch q n).2.launches = some { q := q, n := n, ctx := s.newCtxId } := Tab.find_put_self _ _ _

theorem State.find_launched (s : State) (q n : Nat) : Tab.find s.seq (s.launched q n).launches = some (s.newLaunch q n) :=
  State.find_setLa (s.find_makeLaunch q n) _

theorem State.find_entering (s : State) (q n : Nat) : Tab.find s.seq (s.entering q n).launches = some (s.newLaunch q n) := by
  rw [State.entering, State.launches_homeStore, s.find_launched]

theorem State.regs_entering (s : State) (q n : Nat) : (s.entering q n).regs = s.regs := State.regs_homeStore _ _ _

theorem State.Quiet.launched {s : State} (h : s.Quiet) (q n : Nat) : (s.launched q n).Quiet := h.of_claims rfl

theorem State.Quiet.entering {s : State} (h : s.Quiet) (q n : Nat) : (s.entering q n).Quiet := (h.launched q n).homeStore _ _

theorem State.L1Ok.launched {s : State} (h : s.L1Ok) (q n : Nat) : (s.launched q n).L1Ok := h.of_cores rfl

theorem State.L1Ok.entering {s : State} (h : s.L1Ok) (q n : Nat) : (s.entering q n).L1Ok := (h.launched q n).homeStore _ _

theorem State.enterWindow_of_not_inWindow {s : State} {q n : Nat} (h : s.inWindow q n = false) : s.enterWindow q n = s := by
  simp [State.enterWindow, h]

/-- A new entry in the window is given a launch, and its record is read. -/
theorem State.enterWindow_new {s : State} {q n : Nat} (h : s.inWindow q n = true) (new : s.launchAt q n = none) (quiet : s.Quiet) :
    s.enterWindow q n = (s.entering q n).readEntry s.seq (leNat (s.coh (s.entryAddr q n) 8)) := by
  have lrec : at64 (s.coh (s.entryAddr q n) 16) 0 8 = leNat (s.coh (s.entryAddr q n) 8) := congrArg leNat (s.coh_part (o := 0) (by omega))
  have dev : at64 (s.coh (s.entryAddr q n) 16) 0xA 2 = leNat (s.coh (s.entryAddr q n + 0xA) 2) := congrArg leNat (s.coh_part (by omega))
  have ctx : ((s.launched q n).la s.seq).ctx = s.newCtxId := by rw [State.la_of_find (s.find_launched q n)]; rfl
  have store : (s.launched q n).deviceStore (s.entryAddr q n + 0xC) (leBytes 4 ((s.launched q n).la s.seq).ctx) = s.entering q n := by
    rw [(quiet.launched q n).deviceStore, ctx, State.entering]
  have id : (s.makeLaunch q n).1 = s.seq := rfl
  have made : (s.makeLaunch q n).2.setLa s.seq (fun y => { y with
      lrec := BitVec.ofNat 64 (leNat (s.coh (s.entryAddr q n) 8)), dev := leNat (s.coh (s.entryAddr q n + 0xA) 2) % 2 ^ 12 }) = s.launched q n := rfl
  unfold State.enterWindow
  simp only [h, new, Bool.not_true, Bool.or_self, Bool.false_eq_true, if_false, lrec, dev, id, made, store]
  generalize s.entering q n = u
  unfold State.readEntry
  refine if_congr Iff.rfl rfl ?_
  generalize readLaunch _ _ u = got
  obtain ⟨b | _ | _ | _, v⟩ := got
  case ok =>
    refine if_congr Iff.rfl rfl ?_
    generalize readTables _ _ _ = got
    obtain ⟨_ | _ | _ | _, w⟩ := got <;> rfl
  all_goals rfl

/-! ### A record and its tables -/

/-- Whether one of a launch's exponent tables is malformed. -/
def badSlots (r : Rcd) (fs : List Byte) : Bool :=
  (List.range 8).any fun i => r.fsmask.testBit i
    && (((List.range 8).map fun i => Fp.Slot.ofBytes ((fs.drop (32 * i)).take 32)).getD i (Fp.Slot.ofBytes [])).malformed

/-- A launch as its tables say. -/
def Launch.tabled (x : Launch) (r : Rcd) (t : List Byte × List Byte × List Byte) : Launch :=
  { x with kbank := (List.range 256).map fun i => BitVec.ofNat 32 (at64 t.1 (4 * i) 4)
           slots := (List.range 8).map fun i => Fp.Slot.ofBytes ((t.2.1.drop (32 * i)).take 32)
           msgs := (List.range r.msgn).map fun i => BitVec.ofNat 64 (at64 t.2.2 (8 * i) 7)
           target := if x.resized then x.target else r.dmax, entered := true }

/-- The state once the tables have been read. -/
def State.tabled (s : State) (l : Nat) (r : Rcd) (t : List Byte × List Byte × List Byte) : State :=
  let s := s.setLa l fun x => x.tabled r t
  s.setCx (s.la l).ctx fun c => { c with excl := r.excl }

/-- And once its entry and its job are known. -/
def State.resolved (s : State) (l : Nat) (r : Rcd) (t : List Byte × List Byte × List Byte) (pc : DWord) : State :=
  ((s.tabled l r t).setLa l fun x => { x with entry := pc }).readJob r.jobid

/-- A launch taken in: it waits. -/
def State.admitted (s : State) (l : Nat) : State :=
  (s.setLa l fun x => { x with own := if (s.jobOf l).valid then none else some {} }).writeStatus l 0

theorem State.takeIn_eq (s : State) (l : Nat) (b : List Byte) (t : List Byte × List Byte × List Byte) :
    s.takeIn l b t =
      let r := Rcd.ofBytes b
      if badSlots r t.2.1 then (s.tabled l r t).reject l 3 4
      else match s.resolve r.entry with
        | none => (s.tabled l r t).reject l 7 4
        | some pc =>
            if (s.resolved l r t pc).jobRejects l || !(s.resolved l r t pc).placeable l then (s.resolved l r t pc).reject l 4 4
            else match (s.resolved l r t pc).makePool l with
              | none => (s.resolved l r t pc).reject l 4 4
              | some u => u.admitted l := rfl

/-! ### The places of the launches stay -/

theorem State.places_tabled (s : State) (l : Nat) (r : Rcd) (t : List Byte × List Byte × List Byte) : (s.tabled l r t).places = s.places :=
  s.places_setLa l _

theorem State.places_resolved (s : State) (l : Nat) (r : Rcd) (t : List Byte × List Byte × List Byte) (pc : DWord) :
    (s.resolved l r t pc).places = s.places := (State.places_setLa _ l _).trans (s.places_tabled l r t)

theorem State.places_newFrames {s u : State} {q n f : Nat} (h : s.newFrames q n = some (f, u)) : u.places = s.places := by
  obtain ⟨x, -, e⟩ := Option.map_eq_some_iff.1 h
  rw [← (Prod.mk.inj e).2]
  rfl

theorem State.places_makePool {s u : State} {l : Nat} (h : s.makePool l = some u) : u.places = s.places := by
  unfold State.makePool at h
  split at h
  · rw [← Option.some.inj h]
  · split at h
    · obtain ⟨⟨f, v⟩, hv, rfl⟩ := Option.map_eq_some_iff.1 h
      exact (State.places_setLa _ l _).trans ((State.places_of_still (State.still_homeStore _ _ _)).trans (State.places_newFrames hv))
    · rw [← Option.some.inj h]
      exact State.places_setLa _ l _

theorem State.places_takeIn (s : State) (l : Nat) (b : List Byte) (t : List Byte × List Byte × List Byte) : (s.takeIn l b t).places = s.places := by
  rw [State.takeIn_eq]
  have tabled := s.places_tabled l (Rcd.ofBytes b) t
  dsimp only
  split
  · exact (State.places_reject _ _ _ _).trans tabled
  · split
    · exact (State.places_reject _ _ _ _).trans tabled
    · next pc _ =>
      have resolved := s.places_resolved l (Rcd.ofBytes b) t pc
      split
      · exact (State.places_reject _ _ _ _).trans resolved
      · split
        · exact (State.places_reject _ _ _ _).trans resolved
        · next u h =>
          exact (State.places_writeStatus _ _ _).trans ((State.places_setLa _ l _).trans ((State.places_makePool h).trans resolved))

theorem State.places_readEntry (s : State) (l lrec : Nat) : (s.readEntry l lrec).places = s.places := by
  have rejected (u : State) (st code : Nat) : ((u.setLa l fun x => { x with entered := true }).reject l st code).places = u.places :=
    (State.places_reject _ _ _ _).trans (u.places_setLa l _)
  unfold State.readEntry
  dsimp only
  split
  · exact rejected _ _ _
  · have record := readLaunch_keeps_places (s.launchEng l) lrec s
    generalize readLaunch _ _ s = got at record
    obtain ⟨b | _ | _ | _, v⟩ := got
    case ok =>
      rw [← record, ← v.places_setLa l fun x => { x with rcd := Rcd.ofBytes b }]
      dsimp only
      split
      · exact rejected _ _ _
      · generalize (v.setLa l fun x => { x with rcd := Rcd.ofBytes b }) = z
        have tables := readTables_keeps_places (s.launchEng l) (Rcd.ofBytes b) z
        generalize readTables _ _ z = got at tables
        obtain ⟨t | _ | _ | _, w⟩ := got
        case ok => exact (w.places_takeIn l b t).trans tables
        case wait => exact tables
        all_goals exact (rejected _ _ _).trans tables
    case wait => exact record
    all_goals exact (rejected _ _ _).trans record

/-! ### A job's entry -/

section
variable {s t : State} (mem : t.mem = s.mem) (cores : t.cores = s.cores) (threads : t.threads = s.threads)
include mem cores threads

theorem State.memNat_congr (a n : Nat) : t.memNat a n = s.memNat a n := by
  simp only [State.memNat, State.homeBytes, State.shadowOf, threads, State.coh_congr mem cores]

theorem State.jobEntry_congr (regs : t.regs = s.regs) (jobs : t.jobs = s.jobs) (j : Nat) : t.jobEntry j = s.jobEntry j := by
  have nat : t.memNat = s.memNat := by
    funext a n
    exact State.memNat_congr mem cores threads a n
  have addr : t.jobAddr j = s.jobAddr j := by simp only [State.jobAddr, State.reg, regs]
  unfold State.jobEntry
  rw [nat, addr, jobs]

end

/-! ### What a new launch comes to -/

section
variable {s : State} {l : Nat} {x : Launch} (h : Tab.find l s.launches = some x)
include h

theorem State.find_tabled (r : Rcd) (t : List Byte × List Byte × List Byte) :
    Tab.find l (s.tabled l r t).launches = some (x.tabled r t) := State.find_setLa h _

theorem State.find_resolved (r : Rcd) (t : List Byte × List Byte × List Byte) (pc : DWord) :
    Tab.find l (s.resolved l r t pc).launches = some { x.tabled r t with entry := pc } := State.find_setLa (State.find_tabled h r t) _

theorem State.status_rejected (none : x.rcd.evq.getLsbD 31 = false) (st code : Nat) :
    (((s.setLa l fun x => { x with entered := true }).reject l st code).la l).status = st :=
  State.status_reject (State.find_setLa h _) st code none

theorem State.placeable_resolved (r : Rcd) (t : List Byte × List Byte × List Byte) (pc : DWord) :
    (s.resolved l r t pc).placeable l = s.placeable l := by
  have rcd : ((s.resolved l r t pc).la l).rcd = (s.la l).rcd := by rw [State.la_of_find (State.find_resolved h r t pc), State.la_of_find h]; rfl
  have queue : ((s.resolved l r t pc).la l).q = (s.la l).q := by rw [State.la_of_find (State.find_resolved h r t pc), State.la_of_find h]; rfl
  simp only [State.placeable, State.diePlains, rcd, queue]
  rfl

theorem State.jobOf_resolved (r : Rcd) (t : List Byte × List Byte × List Byte) (pc : DWord) (hr : x.rcd = r) :
    (s.resolved l r t pc).jobOf l = s.jobEntry r.jobid := by
  have id : ((s.resolved l r t pc).la l).rcd.jobid = r.jobid := by
    rw [State.la_of_find (State.find_resolved h r t pc), ← hr]
    rfl
  unfold State.jobOf
  rw [id, State.resolved, State.readJob, Tab.getD_put, if_pos rfl]
  refine State.jobEntry_congr ?_ ?_ ?_ ?_ ?_ _ <;> rfl

/-- A launch that belongs to no job is rejected by its table only where it wants more than one device. -/
theorem State.jobRejects_resolved (r : Rcd) (t : List Byte × List Byte × List Byte) (pc : DWord) (hr : x.rcd = r)
    (job : (s.jobEntry r.jobid).valid = false) : (s.resolved l r t pc).jobRejects l = decide (r.devs > 1) := by
  have rcd : ((s.resolved l r t pc).la l).rcd = r := by
    rw [State.la_of_find (State.find_resolved h r t pc), ← hr]
    rfl
  simp only [State.jobRejects, State.jobOf_resolved h r t pc hr, job, rcd, Bool.false_eq_true, if_false]

end

end Sys2Proof.Machine
end

section
/-! SUPPORT. The ways in which a launch whose record and tables are read is rejected, and how it is admitted (17 R359, R363). -/

namespace Sys2Proof.Machine

/-! ### Reading the record -/

theorem State.malformedRcd_setLa (s : State) (l : Nat) (f : Launch → Launch) (r : Rcd) (b : List Byte) :
    (s.setLa l f).malformedRcd r b = s.malformedRcd r b := rfl

section
variable {s : State} {l lrec : Nat}

theorem State.readEntry_of_version (h : lrec % 256 ≠ 0) :
    s.readEntry l lrec = (s.setLa l fun x => { x with entered := true }).reject l 3 4 := if_pos h

variable (h : lrec % 256 = 0) {y : State}
include h

theorem State.readEntry_of_fault {code va : Nat} (hy : readLaunch (s.launchEng l) lrec s = (.fault code va, y)) :
    s.readEntry l lrec = (y.setLa l fun x => { x with entered := true }).reject l 3 code := by
  unfold State.readEntry
  dsimp only
  rw [if_neg (not_not.2 h), hy]

variable {b : List Byte} (hy : readLaunch (s.launchEng l) lrec s = (.ok b, y)) {x : Launch} (hx : Tab.find l y.launches = some x)
include hy hx

theorem State.readEntry_of_malformed (bad : y.malformedRcd (Rcd.ofBytes b) b = true ∨ (Rcd.ofBytes b).devs ≤ x.dev) : s.readEntry l lrec =
    ((y.setLa l fun x => { x with rcd := Rcd.ofBytes b }).setLa l fun x => { x with entered := true }).reject l 3 4 := by
  have dev : ((y.setLa l fun x => { x with rcd := Rcd.ofBytes b }).la l).dev = x.dev := by
    rw [State.la_of_find (State.find_setLa hx _)]
  unfold State.readEntry
  dsimp only
  rw [if_neg (not_not.2 h), hy]
  dsimp only
  rw [dev, State.malformedRcd_setLa, if_pos]
  exact Bool.or_eq_true_iff.2 (bad.imp id decide_eq_true)

theorem State.readEntry_of_tables {t : List Byte × List Byte × List Byte} {w : State} (good : y.malformedRcd (Rcd.ofBytes b) b = false)
    (fits : x.dev < (Rcd.ofBytes b).devs)
    (hw : readTables (s.launchEng l) (Rcd.ofBytes b) (y.setLa l fun x => { x with rcd := Rcd.ofBytes b }) = (.ok t, w)) :
    s.readEntry l lrec = w.takeIn l b t := by
  have dev : ((y.setLa l fun x => { x with rcd := Rcd.ofBytes b }).la l).dev = x.dev := by
    rw [State.la_of_find (State.find_setLa hx _)]
  have fine : (y.malformedRcd (Rcd.ofBytes b) b || decide (x.dev ≥ (Rcd.ofBytes b).devs)) = false := by
    rw [good, decide_eq_false (by omega)]
    rfl
  unfold State.readEntry
  dsimp only
  rw [if_neg (not_not.2 h), hy]
  dsimp only
  rw [dev, State.malformedRcd_setLa, if_neg (Bool.eq_false_iff.1 fine), hw]

end

/-! ### Frames for a pool's counter -/

/-- Which pages are found depends on the free values, the memory there is and the pages in use. -/
theorem State.newFrames_eq {s t : State} (free : t.free = s.free) (caps : t.caps = s.caps) (frames : t.frames = s.frames) (q n : Nat) :
    t.newFrames q n = (s.newFrames q n).map fun x => (x.1, { t with free := t.free + 1, frames := t.frames ++ [(x.1, n)] }) := by
  simp only [State.newFrames, State.draw, free, caps, frames, Option.map_map]
  rfl

/-! ### Tables checked -/

/-- A handler's entry is the low seven bytes of eight. -/
theorem at64_seven (b : List Byte) (o : Nat) : at64 b o 7 = at64 b o 8 % 2 ^ 56 := by
  have low := leNat_take 7 ((b.drop o).take 8)
  rw [List.take_take] at low
  exact low

section
variable {s : State} {l : Nat} {x : Launch} (h : Tab.find l s.launches = some x)
include h

/-- An admitted launch waits. -/
theorem State.la_admitted : ∃ own, ((s.admitted l).la l).still = { x with own := own, status := 0, ending := false, pscr := [] } :=
  ⟨_, State.la_writeStatus (State.find_setLa h _) 0⟩

variable (ok : s.L1Ok) (quiet : s.Quiet) {b : List Byte} (hr : x.rcd = Rcd.ofBytes b) {t : List Byte × List Byte × List Byte}

omit h in
theorem State.newFrames_resolved (t : List Byte × List Byte × List Byte) (pc : DWord) :
    (s.resolved l (Rcd.ofBytes b) t pc).newFrames 0 1 = (s.newFrames 0 1).map fun x => (x.1, { s.resolved l (Rcd.ofBytes b) t pc with
      free := s.free + 1, frames := s.frames ++ [(x.1, 1)] }) := by
  refine State.newFrames_eq ?_ ?_ ?_ 0 1 <;> rfl

include hr in
theorem State.makePool_resolved (t : List Byte × List Byte × List Byte) (pc : DWord) (dev : x.dev = 0) (pool : 64 ≤ (Rcd.ofBytes b).sympool) :
    (s.resolved l (Rcd.ofBytes b) t pc).makePool l =
    (((s.resolved l (Rcd.ofBytes b) t pc).newFrames 0 1).map fun (f, u) =>
      (u.homeStore (f * pageBytes) (List.replicate 8 0)).setLa l fun x => { x with poolAt := some (f * pageBytes) }) := by
  have la := State.la_of_find (State.find_resolved h (Rcd.ofBytes b) t pc)
  have large : ¬((s.resolved l (Rcd.ofBytes b) t pc).la l).rcd.sympool < 64 := by
    rw [la]
    exact Nat.not_lt.2 (hr ▸ pool)
  have first : ((s.resolved l (Rcd.ofBytes b) t pc).la l).dev = 0 := by
    rw [la]
    exact dev
  unfold State.makePool
  rw [if_neg large, if_pos first]

section
include ok quiet

theorem State.ended_reject_tabled (st : Nat) : s.Ended ((s.tabled l (Rcd.ofBytes b) t).reject l st 4) l st 4 :=
  State.ended_reject (State.find_tabled h _ t) st 4 (ok.of_cores rfl) (quiet.of_claims rfl) h rfl rfl

theorem State.ended_reject_resolved (pc : DWord) (st : Nat) : s.Ended ((s.resolved l (Rcd.ofBytes b) t pc).reject l st 4) l st 4 :=
  State.ended_reject (State.find_resolved h _ t pc) st 4 (ok.of_cores rfl) (quiet.of_claims rfl) h rfl rfl

theorem State.ended_takeIn_of_bad (bad : badSlots (Rcd.ofBytes b) t.2.1 = true) : s.Ended (s.takeIn l b t) l 3 4 := by
  rw [State.takeIn_eq]
  dsimp only
  rw [if_pos bad]
  exact State.ended_reject_tabled h ok quiet 3

variable (good : badSlots (Rcd.ofBytes b) t.2.1 = false)
include good

theorem State.ended_takeIn_of_unresolved (none : s.resolve (Rcd.ofBytes b).entry = none) : s.Ended (s.takeIn l b t) l 7 4 := by
  rw [State.takeIn_eq]
  dsimp only
  rw [if_neg (Bool.eq_false_iff.1 good), none]
  exact State.ended_reject_tabled h ok quiet 7

end

section
variable (good : badSlots (Rcd.ofBytes b) t.2.1 = false) {pc : DWord} (entry : s.resolve (Rcd.ofBytes b).entry = some pc)
  (job : (s.jobEntry (Rcd.ofBytes b).jobid).valid = false)
include good entry job hr

theorem State.ended_takeIn_of_rejected (ok : s.L1Ok) (quiet : s.Quiet) (no : (Rcd.ofBytes b).devs > 1 ∨ s.placeable l = false) :
    s.Ended (s.takeIn l b t) l 4 4 := by
  have rejects : ((s.resolved l (Rcd.ofBytes b) t pc).jobRejects l || !(s.resolved l (Rcd.ofBytes b) t pc).placeable l) = true := by
    rw [State.jobRejects_resolved h _ t pc hr job, State.placeable_resolved h]
    rcases no with no | no <;> simp [no]
  rw [State.takeIn_eq]
  dsimp only
  rw [if_neg (Bool.eq_false_iff.1 good), entry]
  dsimp only
  rw [if_pos rejects]
  exact State.ended_reject_resolved h ok quiet pc 4

variable (one : (Rcd.ofBytes b).devs = 1) (fits : s.placeable l = true)
include one fits

/-- A launch that its job and its tenant's plains allow is admitted unless it wants a pool and there is no page for its counter. -/
theorem State.takeIn_of_placeable : s.takeIn l b t = match (s.resolved l (Rcd.ofBytes b) t pc).makePool l with
    | none => (s.resolved l (Rcd.ofBytes b) t pc).reject l 4 4
    | some u => u.admitted l := by
  have accepts : ¬((s.resolved l (Rcd.ofBytes b) t pc).jobRejects l || !(s.resolved l (Rcd.ofBytes b) t pc).placeable l) = true := by
    rw [State.jobRejects_resolved h _ t pc hr job, State.placeable_resolved h, one, fits]
    simp
  rw [State.takeIn_eq]
  dsimp only
  rw [if_neg (Bool.eq_false_iff.1 good), entry]
  exact if_neg accepts

theorem State.takeIn_without_pool (no : (Rcd.ofBytes b).sympool < 64) : s.takeIn l b t = (s.resolved l (Rcd.ofBytes b) t pc).admitted l := by
  have none : (s.resolved l (Rcd.ofBytes b) t pc).makePool l = some (s.resolved l (Rcd.ofBytes b) t pc) := by
    unfold State.makePool
    rw [if_pos]
    rw [State.la_of_find (State.find_resolved h _ t pc)]
    exact hr ▸ no
  rw [State.takeIn_of_placeable h hr good entry job one fits, none]

variable (dev : x.dev = 0) (pool : 64 ≤ (Rcd.ofBytes b).sympool)
include dev pool

theorem State.ended_takeIn_of_no_page (ok : s.L1Ok) (quiet : s.Quiet) (no : s.newFrames 0 1 = none) : s.Ended (s.takeIn l b t) l 4 4 := by
  have none : (s.resolved l (Rcd.ofBytes b) t pc).makePool l = none := by
    rw [State.makePool_resolved h hr t pc dev pool, State.newFrames_resolved, no]
    rfl
  rw [State.takeIn_of_placeable h hr good entry job one fits, none]
  exact State.ended_reject_resolved h ok quiet pc 4

theorem State.takeIn_with_pool {f : Nat} {v : State} (page : s.newFrames 0 1 = some (f, v)) :
    ((s.takeIn l b t).la l).status = 0 ∧ ((s.takeIn l b t).la l).poolAt = some (65536 * f) := by
  obtain ⟨u, some, hu⟩ : ∃ u, (s.resolved l (Rcd.ofBytes b) t pc).makePool l = some u ∧
      Tab.find l u.launches = .some { x.tabled (Rcd.ofBytes b) t with entry := pc, poolAt := .some (f * pageBytes) } := by
    rw [State.makePool_resolved h hr t pc dev pool, State.newFrames_resolved, page]
    refine ⟨_, rfl, State.find_setLa (x := { x.tabled (Rcd.ofBytes b) t with entry := pc }) ?_ _⟩
    rw [State.launches_homeStore]
    exact State.find_resolved h _ t pc
  rw [State.takeIn_of_placeable h hr good entry job one fits, some]
  obtain ⟨own, still⟩ := State.la_admitted hu
  refine ⟨congrArg Launch.status still, (congrArg Launch.poolAt still).trans ?_⟩
  rw [Nat.mul_comm]
  rfl

end

end

end Sys2Proof.Machine
end

section
/-! SUPPORT. What an entry that comes into its queue's window leaves (01 R44, R45, 17 R358, R359, R363). -/

namespace Sys2Proof.Machine

/-- A rejected launch keeps its context, and its entry the context's id. -/
theorem State.context_reject {s : State} {l : Nat} {x : Launch} (h : Tab.find l s.launches = some x) (ok : s.L1Ok) (quiet : s.Quiet)
    (none : x.rcd.evq.getLsbD 31 = false) (st code : Nat) :
    ((s.reject l st code).la l).ctx = x.ctx ∧ (s.reject l st code).coh (s.entryAddr x.q x.n + 0xC) 4 = s.coh (s.entryAddr x.q x.n + 0xC) 4 := by
  rw [State.reject_of_no_queue h st code none]
  have ctx := congrArg Launch.ctx (State.la_writeStatus h st)
  refine ⟨ctx, ?_⟩
  rw [quiet.coh_writeStatus, State.la_of_find h, ok.coh_homeStore_apart _ _ (by simp)]

/-- A new launch's record is not read yet: it names no event queue. -/
theorem State.newLaunch_no_queue (s : State) (q n : Nat) : (s.newLaunch q n).rcd.evq.getLsbD 31 = false := by
  simp [State.newLaunch]

section
variable {s : State} (q n : Nat)

theorem State.coh_entering (ok : s.L1Ok) : (s.entering q n).coh (s.entryAddr q n + 0xC) 4 = leBytes 4 s.newCtxId :=
  (ok.launched q n).coh_homeStore_self _ _ (length_leBytes 4 _)

/-- An entry of a version that is not known is rejected, and its context's id stands in it. -/
theorem State.entry_of_version (ok : s.L1Ok) (quiet : s.Quiet) {lrec : Nat} (h : lrec % 256 ≠ 0) :
    (((s.entering q n).readEntry s.seq lrec).la s.seq).status = 3
    ∧ ((s.entering q n).readEntry s.seq lrec).coh (s.entryAddr q n + 0xC) 4 = leBytes 4 (((s.entering q n).readEntry s.seq lrec).la s.seq).ctx := by
  have addr : (s.entering q n).entryAddr q n = s.entryAddr q n := by
    simp only [State.entryAddr, State.reg, s.regs_entering q n]
  have coh := s.coh_entering q n ok
  have found := s.find_entering q n
  have none := s.newLaunch_no_queue q n
  have context : (s.newLaunch q n).ctx = s.newCtxId := rfl
  have place : (s.newLaunch q n).q = q ∧ (s.newLaunch q n).n = n := ⟨rfl, rfl⟩
  rw [← addr, ← context] at coh
  rw [← addr, State.readEntry_of_version h]
  have ok := ok.entering q n
  have quiet := quiet.entering q n
  generalize s.newLaunch q n = x at *
  generalize s.entering q n = u at *
  obtain ⟨rfl, rfl⟩ := place
  obtain ⟨ctx, there⟩ := State.context_reject (State.find_setLa found fun x => { x with entered := true }) (ok.of_cores rfl) (quiet.of_claims rfl) none 3 4
  refine ⟨State.status_rejected found none 3 4, ?_⟩
  rw [ctx, ← coh]
  exact there

end

/-- A launch that its job and its tenant's plains allow, and that wants no pool, is as its record and tables say. -/
theorem State.la_takeIn {s : State} {l : Nat} {x : Launch} (h : Tab.find l s.launches = some x) {b : List Byte} (hr : x.rcd = Rcd.ofBytes b)
    {t : List Byte × List Byte × List Byte} (good : badSlots (Rcd.ofBytes b) t.2.1 = false) {pc : DWord}
    (entry : s.resolve (Rcd.ofBytes b).entry = some pc) (job : (s.jobEntry (Rcd.ofBytes b).jobid).valid = false)
    (one : (Rcd.ofBytes b).devs = 1) (fits : s.placeable l = true) (no : (Rcd.ofBytes b).sympool < 64) :
    ∃ own, ((s.takeIn l b t).la l).still = { x.tabled (Rcd.ofBytes b) t with entry := pc, own := own, status := 0, ending := false, pscr := [] } := by
  rw [State.takeIn_without_pool h hr good entry job one fits no]
  exact State.la_admitted (State.find_resolved h _ t pc)

/-! ### The event -/

/-- LAUNCH_WINDOW_ENTRY: a new entry in the window. -/
theorem launchWindowEntry_new {s : State} (ok : s.L1Ok) (q n : Nat) (inside : s.inWindow q n = true) (new : s.launchAt q n = none)
    (quiet : s.Quiet) :
    let a := s.entryAddr q n
    let id := s.seq
    let lrec := leNat (s.coh a 8)
    let u := s.entering q n
    let e := u.launchEng id
    ∃ t, exec (.launchWindowEntry q n) s = .next t ∧ (t.la id).q = q ∧ (t.la id).n = n
      ∧ (lrec % 256 ≠ 0 → (t.la id).status = 3 ∧ t.coh (a + 0xC) 4 = leBytes 4 (t.la id).ctx)
      ∧ (lrec % 256 = 0 → ∀ code va y, readLaunch e lrec u = (.fault code va, y) → y.launches = u.launches → (t.la id).status = 3)
      ∧ (lrec % 256 = 0 → ∀ b y, readLaunch e lrec u = (.ok b, y) → y.L1Ok → y.Quiet → y.launches = u.launches → y.regs = u.regs →
        let r := Rcd.ofBytes b
        let z := y.setLa id fun g => { g with rcd := r }
        (y.malformedRcd r b = true ∨ r.devs ≤ (u.la id).dev → z.Ended t id 3 4)
        ∧ (∀ kb fs mt w, y.malformedRcd r b = false → (u.la id).dev < r.devs → readTables e r z = (.ok (kb, fs, mt), w) → w.L1Ok → w.Quiet →
          w.launches = z.launches → w.regs = z.regs → t = w.takeIn id b (kb, fs, mt) ∧ Tab.find id w.launches = some { s.newLaunch q n with rcd := r })) := by
  intro a id lrec u e
  have found : Tab.find id u.launches = some (s.newLaunch q n) := s.find_entering q n
  have none := s.newLaunch_no_queue q n
  obtain ⟨hq, hn⟩ := State.la_place_of_places (State.places_readEntry u id lrec) id
  rw [State.la_of_find found] at hq hn
  refine ⟨u.readEntry id lrec, congrArg Host.Outcome.next (State.enterWindow_new inside new quiet), hq, hn, State.entry_of_version q n ok quiet, ?_, ?_⟩
  · intro version code va y hy same
    rw [← same] at found
    rw [State.readEntry_of_fault version hy]
    exact State.status_rejected found none 3 code
  · intro version b y hy ok' quiet' same regs r z
    rw [State.la_of_find found]
    rw [← same] at found
    have filled : Tab.find id z.launches = some { s.newLaunch q n with rcd := r } := State.find_setLa found _
    refine ⟨fun bad => ?_, fun kb fs mt w good fits hw _ _ same' _ => ⟨State.readEntry_of_tables version hy found good fits hw, by rw [same', filled]⟩⟩
    rw [State.readEntry_of_malformed version hy found bad]
    exact State.ended_reject (State.find_setLa filled _) 3 4 (ok'.of_cores rfl) (quiet'.of_claims rfl) filled rfl rfl

end Sys2Proof.Machine
end

section
/-! SUPPORT. A record that goes into its ring (17 R371, R372). -/

namespace Sys2Proof.Machine

/-! ### A ring's descriptor -/

theorem State.eqDesc_aligned (s : State) (q : Nat) : s.eqDesc q % 32 = 0 := by
  unfold State.eqDesc
  omega

theorem State.shadowOf_of_leaseHolder {s : State} {line : Nat} (h : s.leaseHolder line = none) : s.shadowOf line = none := by
  refine List.findSome?_eq_none_iff.2 fun x hx => ?_
  have free := List.findSome?_eq_none_iff.1 h x hx
  have none : (x.2.leases.find? fun l => l.line == line) = none := by
    rw [List.find?_eq_none]
    intro l hl same
    exact absurd free (by simpa using ⟨l, hl, by simpa using same⟩)
  exact congrArg (Option.map _) none

/-- Where a ring is free the device reads its descriptor as all see it. -/
theorem State.memNat_desc {s : State} {q : Nat} (valid : s.eqValid q = true) (free : s.ringBusy q = false) {o : Nat} (ho : o < 32) (w : Nat) :
    s.memNat (s.eqDesc q + o) w = leNat (s.coh (s.eqDesc q + o) w) := by
  have aligned := s.eqDesc_aligned q
  have line : lineOf (s.eqDesc q + o) = lineOf (s.eqDesc q) := by
    unfold lineOf
    omega
  have listed : lineOf (s.eqDesc q) ∈ s.ringLines q := by
    have one : (s.eqDesc q % 128 + 32 + 127) / 128 = 1 := by omega
    simp [State.ringLines, spanLines, one]
  have holder : s.leaseHolder (lineOf (s.eqDesc q)) = none := by
    simp only [State.ringBusy, valid, Bool.true_and, Bool.or_eq_false_iff] at free
    obtain ⟨held, -⟩ := free
    have := List.any_eq_false.1 held _ listed
    simp at this
    exact this.1
  unfold State.memNat State.homeBytes
  rw [line, State.shadowOf_of_leaseHolder holder]

/-- The slot that the next record takes, as the descriptor says. -/
theorem State.eqSlot_eq {s : State} {q : Nat} (valid : s.eqValid q = true) (free : s.ringBusy q = false) : s.eqSlot q =
    leNat (s.coh (s.eqDesc q + 0) 8) + 16 * (leNat (s.coh (s.eqDesc q + 0x10) 8) % leNat (s.coh (s.eqDesc q + 8) 4)) := by
  have base := State.memNat_desc valid free (show 0 < 32 by omega) 8
  have next := State.memNat_desc valid free (show 0x10 < 32 by omega) 8
  have slots := State.memNat_desc valid free (show 8 < 32 by omega) 4
  rw [← base, ← next, ← slots, Nat.add_zero, State.eqSlot]

/-! ### A record appended -/

/-- A state without a record that waits. -/
def State.withoutRecord (s : State) (n : Nat) : State := { s with records := s.records.take n ++ s.records.drop (n + 1) }

/-- A record whose ring has been written. -/
def State.ringWritten (s : State) (q : Nat) (bs : List Byte) : State :=
  ((s.homeStore (s.eqSlot q) bs).homeStore (s.eqDesc q + 0x10) (leBytes 8 (s.memNat (s.eqDesc q + 0x10) 8 + 1))).raiseIrq (q / 64 % 16)

section
variable {s : State} {n : Nat} {r : Rec} (hr : s.records[n]? = some r)
  (first : ∀ x ∈ s.records.take n, x.launch ≠ r.launch ∨ x.owner ≠ r.owner)
include hr first

theorem State.appendRecord_eq : s.appendRecord n =
    if s.eqValid r.queue && !s.eqRoom r.queue then s
    else if s.ringBusy r.queue then s.knockAll (ringWho r.queue) (s.ringLines r.queue)
    else match r.launch with
      | some l => ((s.withoutRecord n).eqAppend r.queue r.bytes).writeStatus l (((s.withoutRecord n).eqAppend r.queue r.bytes).la l).final
      | none => (s.withoutRecord n).eqAppend r.queue r.bytes := by
  have alone : ((s.records.take n).any fun x =>
      x.launch == r.launch && x.owner == r.owner && (r.launch.isSome || r.owner.isSome || x.queue == r.queue)) = false := by
    rw [List.any_eq_false]
    intro x hx
    rcases first x hx with h | h <;> simp [h]
  unfold State.appendRecord
  rw [hr]
  dsimp only
  rw [if_neg (Bool.eq_false_iff.1 alone)]
  rfl

/-- A ring that is full lets nothing in. -/
theorem State.appendRecord_of_full (valid : s.eqValid r.queue = true) (full : s.eqRoom r.queue = false) : s.appendRecord n = s := by
  rw [State.appendRecord_eq hr first, if_pos (by rw [valid, full]; rfl)]

/-- A ring with room that nobody holds takes the record. -/
theorem State.appendRecord_of_room (valid : s.eqValid r.queue = true) (room : s.eqRoom r.queue = true) (free : s.ringBusy r.queue = false) :
    s.appendRecord n = match r.launch with
      | some l => ((s.withoutRecord n).ringWritten r.queue r.bytes).writeStatus l (((s.withoutRecord n).ringWritten r.queue r.bytes).la l).final
      | none => (s.withoutRecord n).ringWritten r.queue r.bytes := by
  have written : (s.withoutRecord n).eqAppend r.queue r.bytes = (s.withoutRecord n).ringWritten r.queue r.bytes := by
    unfold State.eqAppend
    dsimp only
    rw [if_pos]
    · rfl
    · exact valid
  rw [State.appendRecord_eq hr first, if_neg (by rw [valid, room]; decide), if_neg (by rw [free]; decide), written]

/-- A ring with no valid descriptor drops the record. -/
theorem State.appendRecord_of_invalid (invalid : s.eqValid r.queue = false) (none : r.launch = none) : s.appendRecord n =
    (s.withoutRecord n).logMc { bank := 12, sev := 1, type := 0x42, skind := 2, sidx := r.queue / 64 % 16 } := by
  have free : s.ringBusy r.queue = false := by rw [State.ringBusy, invalid]; rfl
  rw [State.appendRecord_eq hr first, if_neg (by simp [invalid]), if_neg (by rw [free]; decide), none]
  unfold State.eqAppend
  dsimp only
  rw [if_neg]
  rw [show (s.withoutRecord n).eqValid r.queue = s.eqValid r.queue from rfl, invalid]
  decide

end

theorem State.cohByte_raiseIrq (s : State) (p : Nat) : (s.raiseIrq p).cohByte = s.cohByte := State.cohByte_congr rfl rfl

theorem State.coh_raiseIrq (s : State) (p a n : Nat) : (s.raiseIrq p).coh a n = s.coh a n := by
  rw [State.coh_eq_map, State.coh_eq_map, s.cohByte_raiseIrq]

/-- What a ring's two writes leave. -/
theorem State.cohByte_ringWritten {s : State} (ok : s.L1Ok) (q : Nat) (bs : List Byte) (x : Nat) : (s.ringWritten q bs).cohByte x =
    if s.eqDesc q + 0x10 ≤ x ∧ x < s.eqDesc q + 0x18 then (leBytes 8 (s.memNat (s.eqDesc q + 0x10) 8 + 1)).getD (x - (s.eqDesc q + 0x10)) 0
    else if s.eqSlot q ≤ x ∧ x < s.eqSlot q + bs.length then bs.getD (x - s.eqSlot q) 0 else s.cohByte x := by
  rw [State.ringWritten, State.cohByte_raiseIrq, (ok.homeStore _ _).cohByte_homeStore, ok.cohByte_homeStore, length_leBytes, Nat.add_assoc]

theorem State.mem_irqs_raiseIrq (s : State) (p : Nat) : p ∈ (s.raiseIrq p).irqs := by
  unfold State.raiseIrq
  dsimp only
  split
  · next h => exact List.contains_iff_mem.1 h
  · simp

theorem State.launches_ringWritten (s : State) (q : Nat) (bs : List Byte) : (s.ringWritten q bs).launches = s.launches := by
  have irq (u : State) (p : Nat) : (u.raiseIrq p).launches = u.launches := rfl
  rw [State.ringWritten, irq, State.launches_homeStore, State.launches_homeStore]

theorem State.records_ringWritten (s : State) (q : Nat) (bs : List Byte) : (s.ringWritten q bs).records = s.records := by
  have irq (u : State) (p : Nat) : (u.raiseIrq p).records = u.records := rfl
  rw [State.ringWritten, irq, State.records_homeStore, State.records_homeStore]

/-- What a bank comes to depends on the banks alone. -/
theorem State.banks_logMc {s t : State} (h : t.banks = s.banks) (e : McEvent) : (t.logMc e).banks = (s.logMc e).banks := by
  have raised (u : State) (c d : Bool) :
      (if c then u.raiseIrq e.plain else if d then (List.range 16).foldl State.raiseIrq u else u).banks = u.banks := by
    split
    · rfl
    · split
      · exact foldl_keeps State.banks State.raiseIrq (fun _ _ => rfl) _ _
      · rfl
  unfold State.logMc
  dsimp only
  rw [raised, raised, h]

theorem State.cohByte_withoutRecord (s : State) (n : Nat) : (s.withoutRecord n).cohByte = s.cohByte := State.cohByte_congr rfl rfl

theorem State.records_withoutRecord (s : State) (n : Nat) : (s.withoutRecord n).records = s.records.eraseIdx n :=
  (List.eraseIdx_eq_take_drop_succ _ _).symm

section
variable {s : State} (ok : s.L1Ok) {q : Nat} {bs : List Byte}
include ok

theorem State.coh_slot_ringWritten (sixteen : bs.length = 16) (apart : s.eqSlot q + 16 ≤ s.eqDesc q ∨ s.eqDesc q + 32 ≤ s.eqSlot q) :
    (s.ringWritten q bs).coh (s.eqSlot q) 16 = bs := by
  have aside : s.eqSlot q + 16 ≤ s.eqDesc q + 0x10 ∨ s.eqDesc q + 0x10 + (leBytes 8 (s.memNat (s.eqDesc q + 0x10) 8 + 1)).length ≤ s.eqSlot q := by
    rw [length_leBytes]
    omega
  rw [State.ringWritten, State.coh_raiseIrq,
    (ok.homeStore _ _).coh_homeStore_apart _ _ aside, ok.coh_homeStore_self _ _ sixteen]

theorem State.tail_ringWritten (small : s.memNat (s.eqDesc q + 0x10) 8 + 1 < 2 ^ 64) :
    leNat ((s.ringWritten q bs).coh (s.eqDesc q + 0x10) 8) = s.memNat (s.eqDesc q + 0x10) 8 + 1 := by
  rw [State.ringWritten, State.coh_raiseIrq,
    (ok.homeStore _ _).coh_homeStore_self _ _ (length_leBytes 8 _), leNat_leBytes]
  exact Nat.mod_eq_of_lt small

end

/-! ### The event -/

/-- EVENT_RECORD_APPEND. -/
theorem eventRecordAppend_spec {s : State} (ok : s.L1Ok) (n : Nat) (r : Rec) (hr : s.records[n]? = some r)
    (first : ∀ x ∈ s.records.take n, x.launch ≠ r.launch ∨ x.owner ≠ r.owner) :
    let d := s.eqDesc r.queue
    let f (o w : Nat) : Nat := leNat (s.coh (d + o) w)
    let at_ := f 0 8 + 16 * (f 0x10 8 % f 8 4)
    (s.eqValid r.queue = true → s.eqRoom r.queue = false → exec (.eventRecordAppend n) s = .next s)
    ∧ (s.eqValid r.queue = true → s.eqRoom r.queue = true → s.ringBusy r.queue = false → r.bytes.length = 16 → (at_ + 16 ≤ d ∨ d + 32 ≤ at_) → f 0x10 8 + 1 < 2 ^ 64 →
      r.launch = none → ∃ t, exec (.eventRecordAppend n) s = .next t ∧ t.coh at_ 16 = r.bytes ∧ leNat (t.coh (d + 0x10) 8) = f 0x10 8 + 1
        ∧ (∀ x, (x < at_ ∨ at_ + 16 ≤ x) → (x < d + 0x10 ∨ d + 0x18 ≤ x) → t.cohByte x = s.cohByte x)
        ∧ t.records = s.records.eraseIdx n ∧ r.queue / 64 % 16 ∈ t.irqs)
    ∧ (∀ l, s.eqValid r.queue = true → s.eqRoom r.queue = true → s.ringBusy r.queue = false → r.launch = some l → (Tab.find l s.launches).isSome →
      ∃ t, exec (.eventRecordAppend n) s = .next t ∧ (t.la l).status = (s.la l).final ∧ (t.la l).ending = false)
    ∧ (s.eqValid r.queue = false → r.launch = none → ∃ t, exec (.eventRecordAppend n) s = .next t ∧ t.records = s.records.eraseIdx n
      ∧ t.mem = s.mem ∧ t.banks = (s.logMc { bank := 12, sev := 1, type := 0x42, skind := 2, sidx := r.queue / 64 % 16 }).banks) := by
  intro d f at_
  have next (t : State) (h : s.appendRecord n = t) : exec (.eventRecordAppend n) s = .next t := congrArg Host.Outcome.next h
  refine ⟨fun valid full => next _ (State.appendRecord_of_full hr first valid full), ?_, ?_, ?_⟩
  · intro valid room free sixteen apart small none
    have appended := State.appendRecord_of_room hr first valid room free
    rw [none] at appended
    dsimp only at appended
    have ok' : (s.withoutRecord n).L1Ok := ok.of_cores rfl
    have slot : (s.withoutRecord n).eqSlot r.queue = at_ := State.eqSlot_eq valid free
    have tail : (s.withoutRecord n).memNat ((s.withoutRecord n).eqDesc r.queue + 0x10) 8 = f 0x10 8 := State.memNat_desc valid free (by omega) 8
    have desc : (s.withoutRecord n).eqDesc r.queue = d := rfl
    refine ⟨_, next _ appended, ?_, ?_, fun x out aside => ?_, ?_, State.mem_irqs_raiseIrq _ _⟩
    · rw [← slot]
      exact State.coh_slot_ringWritten ok' sixteen (by rwa [slot, desc])
    · rw [← tail]
      exact State.tail_ringWritten ok' (by rwa [tail])
    · rw [State.cohByte_ringWritten ok', slot, desc, sixteen, if_neg (by omega), if_neg (by omega), s.cohByte_withoutRecord]
    · rw [State.records_ringWritten, State.records_withoutRecord]
  · intro l valid room free launch present
    obtain ⟨y, hy⟩ := Option.isSome_iff_exists.1 present
    have appended := State.appendRecord_of_room hr first valid room free
    rw [launch] at appended
    dsimp only at appended
    have found : Tab.find l ((s.withoutRecord n).ringWritten r.queue r.bytes).launches = some y := by
      rw [State.launches_ringWritten]
      exact hy
    rw [State.la_of_find found] at appended
    have still := State.la_writeStatus found y.final
    have status := congrArg Launch.status still
    have ending := congrArg Launch.ending still
    rw [State.la_of_find hy]
    exact ⟨_, next _ appended, status, ending⟩
  · intro invalid none
    have kept := State.looked_logMc (s.withoutRecord n) { bank := 12, sev := 1, type := 0x42, skind := 2, sidx := r.queue / 64 % 16 }
    have records := congrArg State.records kept
    have mem := congrArg State.mem kept
    refine ⟨_, next _ (State.appendRecord_of_invalid hr first invalid none), records.trans (s.records_withoutRecord n), mem, ?_⟩
    exact State.banks_logMc (s := s) (t := s.withoutRecord n) rfl _

end Sys2Proof.Machine
end

section
/-! SUPPORT. A message's handler starts: its thread, its frame, and the payload in its registers (12 R326, R327). -/

namespace Sys2Proof.Machine

/-! ### A lane freed -/

theorem RowReg.form_leave {y : RowReg} (h : y.form = .value) (lane : Nat) : (y.leave lane).form = .value := by
  simp [RowReg.leave, h]

theorem RowReg.entry_leave (y : RowReg) (lane : Nat) : (y.leave lane).entry = y.entry := by
  unfold RowReg.entry RowReg.leave
  dsimp only
  split
  · next h => simp [h.1]
  · rfl

theorem Row.entries_clearLane (x : Row) (lane : Nat) : (x.clearLane lane).entries = x.entries := by
  have kept (l : List (Nat × RowReg)) : ((l.map fun (g, y) => (g, y.leave lane)).filter fun (_, y) => y.entry && !y.reserve).length =
      (l.filter fun (_, y) => y.entry && !y.reserve).length := by
    rw [List.filter_map, List.length_map]
    congr 2
    funext e
    simp only [Function.comp, RowReg.entry_leave]
    rfl
  exact kept x.regs

/-- A lane that is freed takes no room. -/
theorem Row.roomIn_clearLane {x : Row} {floor : Nat} {free : Bool} {gs : List Nat} (h : x.roomIn floor free gs) (lane : Nat) :
    (x.clearLane lane).roomIn floor free gs := by
  have found (g : Nat) : Tab.find g (x.clearLane lane).regs = (Tab.find g x.regs).map (RowReg.leave lane) := find_mapTab _ _ _
  rcases h with all | ⟨held, room, free⟩
  · refine .inl fun g hg => ?_
    obtain ⟨y, hy, value⟩ := all g hg
    exact ⟨y.leave lane, by rw [found, hy]; rfl, RowReg.form_leave value lane⟩
  · refine .inr ⟨fun g hg z hz => ?_, by rwa [x.entries_clearLane], free⟩
    rw [found] at hz
    obtain ⟨y, hy, rfl⟩ := Option.map_eq_some_iff.1 hz
    exact RowReg.form_leave (held g hg y hy) lane

/-! ### Room for registers -/

theorem State.cr_still_of_still {s t : State} (h : t.still = s.still) (c : Nat) : (t.cr c).still = (s.cr c).still := by
  have e := congrArg (fun x : State => Tab.find c x.crews) h
  simp only [State.still, find_mapTab] at e
  unfold State.cr Tab.getD
  cases ht : Tab.find c t.crews <;> cases hs : Tab.find c s.crews <;> simp_all

/-- Room depends on the rows, on where the crews stand and on the records of the launches. -/
theorem State.hasRoom_congr {s t : State} (rows : t.rows = s.rows) (core : ∀ c, (t.cr c).core = (s.cr c).core)
    (place : ∀ c, (t.cr c).place = (s.cr c).place) (launch : ∀ c, (t.cr c).launch = (s.cr c).launch)
    (rcd : ∀ l, (t.la l).rcd = (s.la l).rcd) (k : Nat) (gs : List Nat) : t.hasRoom k gs = s.hasRoom k gs := by
  have partRow (r : Nat) : t.partRow r = s.partRow r := by simp only [State.partRow, core, place]
  have rw (r : Nat) : t.rw r = s.rw r := by simp only [State.rw, rows]
  have floorLeft (r : Nat) : t.floorLeft r = s.floorLeft r := by
    simp only [State.floorLeft, State.floorRow, State.heldBeside, launch, rcd, rows, partRow]
  have vcap : (t.laTh k).rcd.vcap = (s.laTh k).rcd.vcap := by
    simp only [State.laTh, State.crewTh, launch, rcd]
  unfold State.hasRoom
  simp only [State.rreg, rw, floorLeft, vcap]

theorem State.hasRoom_of_still {s t : State} (still : t.still = s.still) (rows : t.rows = s.rows) (k : Nat) (gs : List Nat) :
    t.hasRoom k gs = s.hasRoom k gs := by
  refine State.hasRoom_congr rows (fun c => ?_) (fun c => ?_) (fun c => ?_) (fun l => ?_) k gs
  · have e := congrArg Crew.core (State.cr_still_of_still still c)
    exact e
  · have e := congrArg Crew.place (State.cr_still_of_still still c)
    exact e
  · have e := congrArg Crew.launch (State.cr_still_of_still still c)
    exact e
  · have e := congrArg Launch.rcd (State.la_still_of_still still l)
    exact e

/-- Room for a register and others is, once that one is opened, room for the others. -/
theorem State.hasRoom_opened {s : State} {k g : Nat} {gs : List Nat} (h : s.hasRoom k (g :: gs) = true) :
    (s.setRw (rowKey k) fun x => x.opened g (laneOf k) s.cycle).hasRoom k gs = true := by
  rw [State.hasRoom_iff] at h ⊢
  rw [State.floorLeft_setRw, State.rw_setRw, if_pos rfl]
  exact Row.roomIn_opened h _ _

theorem State.hasRoom_clearLane {s : State} {k : Nat} {gs : List Nat} (h : s.hasRoom k gs = true) :
    (s.setRw (rowKey k) fun x => x.clearLane (laneOf k)).hasRoom k gs = true := by
  rw [State.hasRoom_iff] at h ⊢
  rw [State.floorLeft_setRw, State.rw_setRw, if_pos rfl]
  exact Row.roomIn_clearLane h _

/-! ### Registers written where there is room -/

/-- What writing registers where there is room leaves: the rest of the thread's place, and the launches. -/
theorem State.writeVs_room {s : State} {k : Nat} (there : (Tab.find k s.threads).isSome) (g : Nat) (ws : List Word)
    (room : s.hasRoom k (List.range' g ws.length) = true) :
    (s.writeVs k g ws).launches = s.launches
    ∧ ((s.writeVs k g ws).th k).status = (s.th k).status ∧ ((s.writeVs k g ws).th k).pc = (s.th k).pc
    ∧ ∀ j, ((s.writeVs k g ws).th k).vget j = if g ≤ j ∧ j < g + ws.length then ws.getD (j - g) 0 else (s.th k).vget j := by
  induction ws generalizing s g with
  | nil =>
      refine ⟨rfl, rfl, rfl, fun j => ?_⟩
      rw [if_neg (by simp)]
      rfl
  | cons w ws ih =>
      rw [List.length_cons, List.range'_succ] at room
      have opened := State.openReg_eq room
      have th : (s.writeV k g w).th k = { (s.th k).endElig g with v := Tab.put g w (s.th k).v, dropped := (s.th k).dropped.filter (· != g) } := by
        rw [State.writeV, opened]
        exact State.th_setTh_self (s := s.setRw (rowKey k) fun x => x.opened g (laneOf k) s.cycle) _ there
      have launches : (s.writeV k g w).launches = s.launches := by rw [State.writeV, opened]; rfl
      have present : (Tab.find k (s.writeV k g w).threads).isSome := by
        rw [State.writeV, opened]
        exact State.setTh_present there _
      have left : (s.writeV k g w).hasRoom k (List.range' (g + 1) ws.length) = true := by
        rw [State.writeV, opened]
        exact State.hasRoom_opened room
      obtain ⟨l, st, pc, v⟩ := ih present (g + 1) left
      rw [State.writeVs]
      refine ⟨l.trans launches, by rw [st, th]; rfl, by rw [pc, th]; rfl, fun j => ?_⟩
      rw [v, th]
      by_cases first : j = g
      · subst first
        simp [Thread.vget, Tab.getD_put]
      · have same : Thread.vget { (s.th k).endElig g with v := Tab.put g w (s.th k).v, dropped := (s.th k).dropped.filter (· != g) } j = (s.th k).vget j := by
          simp [Thread.vget, Tab.getD_put, first]
        rw [same, List.length_cons]
        by_cases later : g + 1 ≤ j ∧ j < g + 1 + ws.length
        · obtain ⟨i, hi⟩ : ∃ i, j - g = i + 1 := ⟨j - g - 1, by omega⟩
          rw [if_pos later, if_pos (by omega), hi, List.getD_cons_succ]
          congr 1
          omega
        · rw [if_neg later, if_neg (by omega)]

/-! ### A thread's frame cleared -/

theorem State.threads_locWrite (s : State) (w : Where) (bs : List Byte) : (s.locWrite none w bs).threads = s.threads := by
  cases w with
  | mem a => exact s.threads_homeStore a bs
  | repl l => exact foldl_keeps State.threads _ (fun u a => u.threads_homeStore a bs) l s
  | host a => rfl
  | remote d a => rfl
  | crewScratch c o => rfl
  | plainScratch l p o => rfl

theorem State.rows_locWrite (s : State) (w : Where) (bs : List Byte) : (s.locWrite none w bs).rows = s.rows := by
  cases w with
  | mem a => exact s.rows_homeStore a bs
  | repl l => exact foldl_keeps State.rows _ (fun u a => u.rows_homeStore a bs) l s
  | host a => rfl
  | remote d a => rfl
  | crewScratch c o => rfl
  | plainScratch l p o => rfl

/-- Whatever writing zeros in a scratch or in memory and noting what is unwritten leave, clearing a frame leaves. -/
theorem State.zeroFrame_keeps {γ : Type} (g : State → γ) (k : Nat) (written : ∀ (u : State) w bs, g (u.locWrite none w bs) = g u)
    (noted : ∀ (u : State) n, g (u.setTh k fun t => t.addFresh n) = g u) (s : State) : g (s.zeroFrame k) = g s := by
  refine foldl_keeps g _ (fun u i => ?_) _ s
  dsimp only
  split
  · split
    · exact written _ _ _
    · exact noted _ _
  · exact noted _ _

theorem State.still_zeroFrame (s : State) (k : Nat) : (s.zeroFrame k).still = s.still :=
  s.zeroFrame_keeps State.still k (fun u w bs => u.still_locWrite none w bs) fun u n => u.still_setTh k _

theorem State.rows_zeroFrame (s : State) (k : Nat) : (s.zeroFrame k).rows = s.rows :=
  s.zeroFrame_keeps State.rows k State.rows_locWrite fun _ _ => rfl

/-- A thread but for what it has not written of its frame. -/
def State.thWritten (k : Nat) (s : State) : Thread := { s.th k with fresh := [] }

theorem State.thWritten_zeroFrame (s : State) (k : Nat) : (s.zeroFrame k).thWritten k = s.thWritten k := by
  refine s.zeroFrame_keeps (State.thWritten k) k (fun u w bs => ?_) fun u n => ?_
  · simp only [State.thWritten, State.th, u.threads_locWrite]
  · unfold State.thWritten
    rw [State.th_setTh]
    split <;> rfl

/-! ### A handler's thread -/

/-- A message's words and where it comes from, as its handler finds them. -/
def Msg.words (m : Msg) : List Word :=
  ((List.range 16).map fun i => BitVec.ofNat 32 (at64 m.payload (4 * i) 4)) ++ [BitVec.ofNat 32 (m.srcDev % 4096), BitVec.ofNat 32 m.handler]

theorem Msg.length_words (m : Msg) : m.words.length = 18 := rfl

theorem Msg.words_getD (m : Msg) {j : Nat} (h : j < 18) : m.words.getD j 0 =
    if j < 16 then BitVec.ofNat 32 (at64 m.payload (4 * j) 4)
    else if j = 16 then BitVec.ofNat 32 (m.srcDev % 4096) else BitVec.ofNat 32 m.handler := by
  unfold Msg.words
  split
  · next lo =>
    rw [List.getD_append _ _ _ _ (by simpa using lo)]
    simp [lo]
  · next hi =>
    rw [List.getD_append_right _ _ _ _ (by simpa using hi)]
    split
    · next at_ => simp [at_]
    · have : j = 17 := by omega
      simp [this]

/-- What a thread started leaves: room in its row, its place, and the launches. -/
theorem State.spawn_spec {s : State} {k : Nat} {gs : List Nat} (room : s.hasRoom k gs = true) (pc : DWord) (g frame : Nat) :
    (s.spawn k pc g frame).hasRoom k gs = true
    ∧ (Tab.find k (s.spawn k pc g frame).threads).isSome
    ∧ ((s.spawn k pc g frame).th k).status = .ready ∧ ((s.spawn k pc g frame).th k).pc = pc ∧ ((s.spawn k pc g frame).th k).v = []
    ∧ ∀ l, ((s.spawn k pc g frame).la l).still = (s.la l).still := by
  have cleared := State.hasRoom_clearLane room
  generalize hu : ({ s.setRw (rowKey k) (fun x => x.clearLane (laneOf k)) with
      threads := Tab.put k { pc := pc, hdr := pc, src := pc, rng := seedRng (s.la (s.cr (crewOf k)).launch).rcd.seed g, frame := frame, since := s.cycle }
        s.threads } : State) = u
  have spawned : s.spawn k pc g frame = u.zeroFrame k := by
    rw [← hu]
    rfl
  have room' : u.hasRoom k gs = true := by
    rw [← hu]
    exact cleared
  have there : Tab.find k u.threads = some { pc := pc, hdr := pc, src := pc, rng := seedRng (s.la (s.cr (crewOf k)).launch).rcd.seed g, frame := frame, since := s.cycle } := by
    rw [← hu]
    exact Tab.find_put_self _ _ _
  have th : u.th k = { pc := pc, hdr := pc, src := pc, rng := seedRng (s.la (s.cr (crewOf k)).launch).rcd.seed g, frame := frame, since := s.cycle } := by
    simp [State.th, Tab.getD, there]
  have still := u.still_zeroFrame k
  have written := u.thWritten_zeroFrame k
  simp only [State.thWritten, th] at written
  rw [spawned]
  refine ⟨by rw [State.hasRoom_of_still still (u.rows_zeroFrame k), room'], by rw [State.isSome_thread_of_still still, there]; rfl, ?_, ?_, ?_, fun l => ?_⟩
  · have e := congrArg Thread.status written
    exact e
  · have e := congrArg Thread.pc written
    exact e
  · have e := congrArg Thread.v written
    exact e
  · rw [State.la_still_of_still still, ← hu]
    rfl

end Sys2Proof.Machine
end

section
/-! PROOF. Entries, records and messages of the queues come to their places (01 R44, R45, 17 R358, R359, R363, R372). -/

namespace Sys2Proof.Machine

/-- HANDLER_START: a message whose launch has a free handler's slot. -/
theorem handlerStart_spec {s : State} {l c slot : Nat} {m : Msg} {rest : List Msg} {more : List Nat} (crew : (s.la l).hcrewId = some c)
    (queue : (s.la l).hq = m :: rest) (free : s.freeSlots l = slot :: more) (here : (s.cr c).parked = false) :
    let k := 4096 * c + slot
    s.hasRoom k (List.range (min 18 (s.la l).rcd.regs)) = true →
    ∃ t, exec (.handlerStart l) s = .next t ∧ (t.la l).hq = rest ∧ (t.th k).status = .ready
      ∧ (t.th k).pc = (s.cx (s.la l).ctx).forward ((s.la l).msgs.getD m.handler 0 &&& 0x00FFFFFFFFFFFFFF)
      ∧ ∀ j, j < (s.la l).rcd.regs → (t.th k).vget j = if j < 16 then BitVec.ofNat 32 (at64 m.payload (4 * j) 4)
          else if j = 16 then BitVec.ofNat 32 (m.srcDev % 4096) else if j = 17 then BitVec.ofNat 32 m.handler else 0 := by
  intro k room
  -- the launch stands in the table: one that does not has no handler crew
  obtain ⟨x, hx⟩ : ∃ x, Tab.find l s.launches = some x := by
    cases h : Tab.find l s.launches with
    | some x => exact ⟨x, rfl⟩
    | none => simp [State.la, Tab.getD, h] at crew
  let pc := (s.cx (s.la l).ctx).forward ((s.la l).msgs.getD m.handler 0 &&& 0x00FFFFFFFFFFFFFF)
  let g := 0xFF000000 + slot
  let r := (s.la l).rcd
  let frame := r.threads * r.crews * r.valleys * r.plains * r.dmax + slot
  let u := s.setLa l fun x => { x with hq := rest }
  have started : s.startHandler l = ((u.spawn k pc g frame).writeVs k 0 (m.words.take r.regs)).acquire ((u.spawn k pc g frame).cr c).core .domain := by
    unfold State.startHandler
    rw [crew, queue, free]
    dsimp only
    rw [if_neg (by rw [here]; exact Bool.false_ne_true), Nat.mul_comm c 4096]
    rfl
  have launch : Tab.find l u.launches = some { x with hq := rest } := State.find_setLa hx _
  have still : u.hasRoom k (List.range (min 18 r.regs)) = true := by
    have rcd (q : Nat) : (u.la q).rcd = (s.la q).rcd := by
      rw [State.la_setLa]
      split <;> rfl
    rw [State.hasRoom_congr (t := u) (s := s) rfl (fun _ => rfl) (fun _ => rfl) (fun _ => rfl) rcd, room]
  obtain ⟨room', there, status, place, empty, las⟩ := State.spawn_spec still pc g frame
  have words : (m.words.take r.regs).length = min 18 r.regs := by
    rw [List.length_take, m.length_words, Nat.min_comm]
  rw [List.range_eq_range', ← words] at room'
  obtain ⟨launches, status', place', regs⟩ := State.writeVs_room there 0 _ room'
  refine ⟨_, congrArg Host.Outcome.next started, ?_, status'.trans status, place'.trans place, fun j (hj : j < r.regs) => ?_⟩
  · have e := congrArg Launch.hq (las l)
    have same : ((u.spawn k pc g frame).writeVs k 0 (m.words.take r.regs)).la l = (u.spawn k pc g frame).la l := by
      simp only [State.la, launches]
    rw [State.la_of_find launch] at e
    exact (congrArg Launch.hq same).trans e
  · refine (regs j).trans ?_
    rw [words, Nat.sub_zero, Nat.zero_add]
    by_cases lo : j < 18
    · have : (m.words.take r.regs).getD j 0 = m.words.getD j 0 := by
        rw [List.getD_eq_getElem?_getD, List.getElem?_take_of_lt hj, ← List.getD_eq_getElem?_getD]
      rw [if_pos ⟨Nat.zero_le j, by omega⟩, this, m.words_getD lo]
      split
      · rfl
      · split
        · rfl
        · rw [if_pos (by omega)]
    · rw [if_neg (by omega), if_neg (by omega), if_neg (by omega), if_neg (by omega)]
      simp [Thread.vget, Tab.getD, empty]

/-- What a launch whose record and tables have been read comes to. -/
theorem takeIn_spec {s : State} {l : Nat} {x : Launch} (found : Tab.find l s.launches = some x) (ok : s.L1Ok) (quiet : s.Quiet)
    {b : List Byte} (hr : x.rcd = Rcd.ofBytes b) (fits : x.dev < (Rcd.ofBytes b).devs) (fresh : x.resized = false) (kb fs mt : List Byte) :
    let r := Rcd.ofBytes b
    let t := s.takeIn l b (kb, fs, mt)
    let slots := (List.range 8).map fun i => Fp.Slot.ofBytes ((fs.drop (32 * i)).take 32)
    let bad := (List.range 8).any fun i => r.fsmask.testBit i && (slots.getD i (Fp.Slot.ofBytes [])).malformed
    (bad = true → s.Ended t l 3 4)
    ∧ (bad = false → s.resolve r.entry = none → s.Ended t l 7 4)
    ∧ (∀ pc, bad = false → s.resolve r.entry = some pc → (s.jobEntry r.jobid).valid = false →
      (r.devs > 1 ∨ s.placeable l = false → s.Ended t l 4 4)
      ∧ (r.devs = 1 → s.placeable l = true → 64 ≤ r.sympool → s.newFrames 0 1 = none → s.Ended t l 4 4)
      ∧ (∀ f v, r.devs = 1 → s.placeable l = true → 64 ≤ r.sympool → s.newFrames 0 1 = some (f, v) →
          (t.la l).status = 0 ∧ (t.la l).poolAt = some (65536 * f))
      ∧ (r.devs = 1 → s.placeable l = true → r.sympool < 64 → (t.la l).status = 0 ∧ (t.la l).entered = true ∧ (t.la l).ending = false
        ∧ (t.la l).entry = pc ∧ (t.la l).rcd = r ∧ (t.la l).slots = slots ∧ (t.la l).target = r.dmax
        ∧ (t.la l).msgs = (List.range r.msgn).map (fun i => BitVec.ofNat 64 (at64 mt (8 * i) 8 % 2 ^ 56))
        ∧ (t.la l).kbank = (List.range 256).map fun i => BitVec.ofNat 32 (at64 kb (4 * i) 4))) := by
  intro r t slots bad
  have first (one : r.devs = 1) : x.dev = 0 := by
    have lt : x.dev < r.devs := fits
    omega
  refine ⟨fun bad => ?_, fun fine unresolved => ?_, fun pc fine entry job => ⟨fun no => ?_, fun one placed pool page => ?_,
    fun f v one placed pool page => ?_, fun one placed pool => ?_⟩⟩
  · exact State.ended_takeIn_of_bad found ok quiet bad
  · exact State.ended_takeIn_of_unresolved found ok quiet fine unresolved
  · exact State.ended_takeIn_of_rejected found hr fine entry job ok quiet no
  · exact State.ended_takeIn_of_no_page found hr fine entry job one placed (first one) pool ok quiet page
  · exact State.takeIn_with_pool (t := (kb, fs, mt)) found hr fine entry job one placed (first one) pool page
  · obtain ⟨own, still⟩ := State.la_takeIn (t := (kb, fs, mt)) found hr fine entry job one placed pool
    have status := congrArg Launch.status still
    have entered := congrArg Launch.entered still
    have ending := congrArg Launch.ending still
    have entry := congrArg Launch.entry still
    have rcd := congrArg Launch.rcd still
    have slots := congrArg Launch.slots still
    have target := congrArg Launch.target still
    have msgs := congrArg Launch.msgs still
    have kbank := congrArg Launch.kbank still
    refine ⟨status, entered, ending, entry, rcd.trans hr, slots, target.trans ?_, msgs.trans ?_, kbank⟩
    · simp only [Launch.tabled, fresh, Bool.false_eq_true, if_false]
      rfl
    · simp only [Launch.tabled, at64_seven]
      rfl

/-- Settles O46, by the four events: an entry that is not in its window, one that is (read, checked, rejected or admitted), a record
with its ring, and a handler's start. -/
theorem queueEvents : Obligations.QueueEvents := by
  unfold Obligations.QueueEvents
  intro s ok ended quiet
  refine ⟨fun q n out => congrArg Host.Outcome.next (State.enterWindow_of_not_inWindow out), ?_,
    fun n r hr first => eventRecordAppend_spec ok n r hr first, fun l c m rest slot more crew queue free here _ => handlerStart_spec crew queue free here⟩
  intro q n inside new _ free a id x lrec u e
  have entered : u = s.entering q n := by
    show State.homeStore _ _ (leBytes 4 (x.la id).ctx) = _
    rw [State.la_of_find (s.find_makeLaunch q n)]
    rfl
  have launch : u.la id = s.newLaunch q n := by rw [entered, State.la_of_find (s.find_entering q n)]
  obtain ⟨t, step, hq, hn, version, faults, read⟩ := launchWindowEntry_new ok q n inside new free
  rw [← entered] at faults read
  refine ⟨t, step, hq, hn, version, faults, fun known b y hy ok' quiet' launches regs => ?_⟩
  obtain ⟨malformed, tables⟩ := read known b y hy ok' quiet' launches regs
  refine ⟨malformed, fun kb fs mt w good fits hw ok'' quiet'' launches' regs' => ?_⟩
  obtain ⟨rfl, found⟩ := tables kb fs mt w good fits hw ok'' quiet'' launches' regs'
  rw [launch] at fits
  exact takeIn_spec found ok'' quiet'' rfl fits rfl kb fs mt

end Sys2Proof.Machine
end

section
/-! PROOF. O20: where a cause goes, and what entering a trap saves and leaves (08 R212 to R214, 16 R337 to R339). -/

namespace Sys2Proof.Machine

/-! ### The level a cause is taken at -/

theorem State.toLevel1_iff (s : State) (k : Nat) (cause : BitVec 8) : s.toLevel1 k cause = true ↔
    (s.th k).tlvl = 0 ∧ (s.cx (s.ctxTh k)).route.getLsbD cause.toNat = true ∧ cause ≠ 0x30 ∧ (s.laTh k).rcd.trap1 ≠ 0 := by
  simp [State.toLevel1, and_assoc]

section
variable {s : State} {k : Nat} {r : Raise} (alive : s.live k = true)
include alive

theorem State.trap_of_toLevel1 (h : s.toLevel1 k r.cause = true) : s.trap k r = s.enter1 k r (s.th k).pc (s.th k).hofs := by
  obtain ⟨level, -⟩ := (State.toLevel1_iff _ _ _).1 h
  simp [State.trap, State.trapAt, alive, level, h]

theorem State.trap_of_toLevel2 (below : (s.th k).tlvl ≠ 2) (h : s.toLevel1 k r.cause = false) (handler : (s.cx (s.ctxTh k)).tvec2 ≠ 0) :
    s.trap k r = s.enter2 k r (s.th k).pc (s.th k).hofs := by
  simp only [State.trap, State.trapAt, alive, Bool.not_true, Bool.false_eq_true, if_false, below, h]
  exact if_neg handler

theorem State.trap_of_unhandled (h : (s.th k).tlvl = 2 ∨ s.toLevel1 k r.cause = false ∧ (s.cx (s.ctxTh k)).tvec2 = 0) :
    s.trap k r = s.killBy k r.cause.toNat (s.th k).pc := by
  rcases h with level | ⟨no, handler⟩
  · simp [State.trap, State.trapAt, alive, level]
  · simp [State.trap, State.trapAt, State.trap2, alive, no, handler]

end

/-! ### The status word, 08 R214 -/

/-- A status word read back: the distance from the header, the level, the loops, the repeat in progress. -/
structure TrapStatus (t : Thread) (hofs : Nat) (from1 : Bool) (w : Word) : Prop where
  hofs : w.extractLsb' 0 5 = BitVec.ofNat 5 hofs
  level : w.getLsbD 5 = from1
  loops : w.extractLsb' 28 3 = BitVec.ofNat 3 t.loops.length
  idle : t.rep = none → w.getLsbD 31 = false ∧ w.extractLsb' 6 22 = 0
  rep : ∀ p, t.rep = some p → w.getLsbD 31 = true ∧ w.extractLsb' 25 3 = p.d ∧ w.extractLsb' 22 3 = p.a ∧ w.extractLsb' 19 3 = p.b
    ∧ w.extractLsb' 13 6 = BitVec.ofNat 6 p.idx ∧ w.extractLsb' 6 7 = BitVec.ofNat 7 p.tot

theorem extract_ofNat {n : Nat} (start len : Nat) (h : n < 2 ^ 32) :
    (BitVec.ofNat 32 n).extractLsb' start len = BitVec.ofNat len (n / 2 ^ start) := by
  apply BitVec.eq_of_toNat_eq
  rw [BitVec.extractLsb'_toNat, BitVec.toNat_ofNat, BitVec.toNat_ofNat, Nat.mod_eq_of_lt h, Nat.shiftRight_eq_div_pow]

theorem bit_ofNat {n i : Nat} (hi : i < 32) : (BitVec.ofNat 32 n).getLsbD i = decide (n / 2 ^ i % 2 = 1) := by
  rw [BitVec.getLsbD_ofNat, Nat.testBit_eq_decide_div_mod_eq, decide_eq_true hi, Bool.true_and]

theorem ofNat_congr {w a b : Nat} (h : a % 2 ^ w = b % 2 ^ w) : BitVec.ofNat w a = BitVec.ofNat w b :=
  BitVec.eq_of_toNat_eq (by simpa using h)

/-- A repeat stands in bits 27:6 and 31 of a status word (08 R214). -/
theorem repBits_place {o : Option Rep} (inside : ∀ p, o = some p → p.idx < 64 ∧ p.tot ≤ 64) :
    ∃ top low, repBits o = top * 2 ^ 31 + low * 2 ^ 6 ∧ top ≤ 1 ∧ low < 2 ^ 22 := by
  cases o with
  | none => exact ⟨0, 0, rfl, by omega, by omega⟩
  | some p =>
      obtain ⟨hidx, htot⟩ := inside p rfl
      have hd := p.d.isLt
      have ha := p.a.isLt
      have hb := p.b.isLt
      refine ⟨1, p.d.toNat * 2 ^ 19 + p.a.toNat * 2 ^ 16 + p.b.toNat * 2 ^ 13 + p.idx * 2 ^ 7 + p.tot, ?_, by omega, by omega⟩
      simp only [repBits]
      omega

theorem Thread.trapStatus_spec {t : Thread} {hofs : Nat} (near : hofs < 32) (few : t.loops.length ≤ 4)
    (inside : ∀ p, t.rep = some p → p.idx < 64 ∧ p.tot ≤ 64) : TrapStatus t hofs (t.tlvl == 1) (t.trapStatus hofs) := by
  obtain ⟨top, low, place, htop, hlow⟩ := repBits_place inside
  have level : (t.tlvl == 1) = decide (t.tlvl = 1) := rfl
  obtain ⟨l, hl, hl'⟩ : ∃ l, (if t.tlvl = 1 then 32 else 0) = l ∧ (l = 32 ∧ t.tlvl = 1 ∨ l = 0 ∧ ¬t.tlvl = 1) := by
    refine ⟨_, rfl, ?_⟩
    split <;> simp_all
  have bound : repBits t.rep + t.loops.length * 2 ^ 28 + l + hofs % 32 < 2 ^ 32 := by omega
  unfold Thread.trapStatus
  rw [level, hl]
  refine ⟨?_, ?_, ?_, fun hr => ?_, fun p hr => ?_⟩
  · rw [extract_ofNat _ _ bound]; exact ofNat_congr (by omega)
  · rw [bit_ofNat (by omega), decide_eq_decide]; omega
  · rw [extract_ofNat _ _ bound]; exact ofNat_congr (by omega)
  · simp only [hr, repBits] at bound ⊢
    refine ⟨?_, ?_⟩
    · rw [bit_ofNat (by omega), decide_eq_false_iff_not]; omega
    · rw [extract_ofNat _ _ bound]; exact ofNat_congr (b := 0) (by omega)
  · obtain ⟨hidx, htot⟩ := inside p hr
    have hd := p.d.isLt
    have ha := p.a.isLt
    have hb := p.b.isLt
    have three (x : BitVec 3) {n : Nat} (h : n % 8 = x.toNat) : BitVec.ofNat 3 n = x := BitVec.eq_of_toNat_eq (by simpa using h)
    simp only [hr, repBits] at bound ⊢
    refine ⟨?_, ?_, ?_, ?_, ?_, ?_⟩
    · rw [bit_ofNat (by omega), decide_eq_true_eq]; omega
    · rw [extract_ofNat _ _ bound]; exact three _ (by omega)
    · rw [extract_ofNat _ _ bound]; exact three _ (by omega)
    · rw [extract_ofNat _ _ bound]; exact three _ (by omega)
    · rw [extract_ofNat _ _ bound]; exact ofNat_congr (by omega)
    · rw [extract_ofNat _ _ bound]; exact ofNat_congr (by omega)

/-! ### What an entry leaves -/

theorem State.outside_leaveConvoy (s : State) (k : Nat) : (s.leaveConvoy k).outside k = true := by
  simp only [State.outside, State.leaveConvoy, List.all_eq_true, List.mem_filter, List.mem_map]
  rintro c ⟨⟨d, -, rfl⟩, -⟩
  simp

/-- What every entry into a trap leaves as it was, and what it ends (02 R60, 08 R213, 16 R339). -/
structure Entered (s s' : State) (k : Nat) : Prop where
  rep : (s'.th k).rep = none
  loops : (s'.th k).loops = (s.th k).loops
  skips : (s'.th k).skips = (s.th k).skips
  v : (s'.th k).v = (s.th k).v
  p : (s'.th k).p = (s.th k).p
  cf : (s'.th k).cf = (s.th k).cf
  fflg : (s'.th k).fflg = (s.th k).fflg
  fmode : (s'.th k).fmode = (s.th k).fmode
  rng : (s'.th k).rng = (s.th k).rng
  perf : (s'.th k).perf = (s.th k).perf
  elig : (s'.th k).elig = (s.th k).elig.filter fun e => !(s.th k).slice.any fun x => x.reg == e.reg
  outside : s'.outside k = true
  others : ∀ j, j ≠ k → s'.th j = s.th j
  world : s'.world = s.world

/-- A thread that has entered level 1 (08 R213). -/
def Thread.atLevel1 (r : Raise) (pc : DWord) (hofs now : Nat) (target : DWord) (t : Thread) : Thread :=
  { t.enter r pc now target with
    tpc1 := pc &&& 0x00FFFFFFFFFFFFFF, tca1 := r.cause.setWidth 32, tva1 := r.tva, tst1 := t.trapStatus hofs, tlvl := 1 }

/-- A thread that has entered level 2 (16 R339). -/
def Thread.atLevel2 (r : Raise) (pc : DWord) (hofs now : Nat) (target : DWord) (t : Thread) : Thread :=
  { t.enter r pc now target with
    tpc2 := pc &&& 0x00FFFFFFFFFFFFFF, tca2 := r.cause.setWidth 32, tva2 := r.tva, tst2 := t.trapStatus hofs, tlvl := 2 }

section
variable {s : State} {k : Nat} (free : (s.th k).leases = []) (r : Raise) (pc : DWord) (hofs : Nat)
include free

theorem State.enter1_eq : s.enter1 k r pc hofs =
    (s.leaveConvoy k).setTh k (Thread.atLevel1 r pc hofs s.cycle (s.forward k (s.laTh k).rcd.trap1)) := by
  unfold State.enter1
  rw [State.breakLeases_none (u := s.leaveConvoy k) free]
  rfl

theorem State.enter2_eq : s.enter2 k r pc hofs =
    (s.leaveConvoy k).setTh k (Thread.atLevel2 r pc hofs s.cycle (s.cx (s.ctxTh k)).tvec2) := by
  unfold State.enter2
  rw [State.breakLeases_none (u := s.leaveConvoy k) free]
  rfl

end

section
variable {s : State} {k : Nat} (there : (Tab.find k s.threads).isSome)
include there

theorem State.th_entered (f : Thread → Thread) : ((s.leaveConvoy k).setTh k f).th k = f (s.th k) :=
  State.th_setTh_self (s := s.leaveConvoy k) f there

/-- A thread that leaves its convoy for a handler keeps all but its place, its slice and its trap registers. -/
theorem State.entered {f : Thread → Thread} {r : Raise} {pc target : DWord} {now : Nat}
    (set : ∃ tpc1 tca1 tva1 tst1 tpc2 tca2 tva2 tst2 lvl, f (s.th k) = { (s.th k).enter r pc now target with
      tpc1 := tpc1, tca1 := tca1, tva1 := tva1, tst1 := tst1, tpc2 := tpc2, tca2 := tca2, tva2 := tva2, tst2 := tst2, tlvl := lvl }) :
    Entered s ((s.leaveConvoy k).setTh k f) k := by
  obtain ⟨tpc1, tca1, tva1, tst1, tpc2, tca2, tva2, tst2, lvl, hf⟩ := set
  constructor
  case outside => exact s.outside_leaveConvoy k
  case others => exact fun j hj => State.th_setTh_ne (s := s.leaveConvoy k) _ hj
  case world => rfl
  all_goals rw [State.th_entered there, hf]; rfl

end

/-- The parts of a status word as 08 R214 lists them. -/
theorem TrapStatus.parts {t : Thread} {hofs : Nat} {from1 : Bool} {w : Word} (h : TrapStatus t hofs from1 w) :
    w.extractLsb' 0 5 = BitVec.ofNat 5 hofs ∧ w.getLsbD 5 = from1 ∧ w.extractLsb' 28 3 = BitVec.ofNat 3 t.loops.length
      ∧ (match t.rep with
        | none => w.getLsbD 31 = false ∧ w.extractLsb' 6 22 = 0
        | some p => w.getLsbD 31 = true ∧ w.extractLsb' 25 3 = p.d ∧ w.extractLsb' 22 3 = p.a ∧ w.extractLsb' 19 3 = p.b
            ∧ w.extractLsb' 13 6 = BitVec.ofNat 6 p.idx ∧ w.extractLsb' 6 7 = BitVec.ofNat 7 p.tot) := by
  refine ⟨h.hofs, h.level, h.loops, ?_⟩
  split
  · next hr => exact h.idle hr
  · next p hr => exact h.rep p hr

/-- Settles O20: a cause goes to the level that its route, its number and the handlers set say, and an entry saves the status word
of the thread as it stood and changes nothing but what 08 R213 and 16 R339 name. -/
theorem trapEntry : Obligations.TrapEntry := by
  unfold Obligations.TrapEntry
  refine ⟨fun s k r => ?_, fun s k r pc hofs there free few inside near => ?_⟩
  · intro t x to1 alive
    have level : s.toLevel1 k r.cause = true ↔ to1 := s.toLevel1_iff k r.cause
    have other (h : ¬to1) : s.toLevel1 k r.cause = false := by rwa [← level, Bool.not_eq_true] at h
    refine ⟨fun h => State.trap_of_toLevel1 alive (level.2 h), fun below no handler => ?_, fun h => ?_⟩
    · exact State.trap_of_toLevel2 alive below (other no) handler
    · exact State.trap_of_unhandled alive (h.imp_right fun ⟨no, handler⟩ => ⟨other no, handler⟩)
  · have status := Thread.trapStatus_spec near few inside
    refine ⟨fun level => ?_, fun below => ?_⟩
    · rw [level] at status
      rw [State.enter1_eq free]
      obtain ⟨rep, loops, skips, v, p, cf, fflg, fmode, rng, perf, elig, outside, others, world⟩ :=
        State.entered there (f := Thread.atLevel1 r pc hofs s.cycle (s.forward k (s.laTh k).rcd.trap1)) ⟨_, _, _, _, _, _, _, _, _, rfl⟩
      refine ⟨⟨rep, loops, skips, v, p, cf, fflg, fmode, rng, perf, elig, outside, others, world⟩, ?_⟩
      dsimp only
      rw [State.th_entered there]
      exact ⟨rfl, rfl, rfl, status.parts, rfl, rfl, rfl, rfl, rfl, rfl⟩
    · rw [State.enter2_eq free]
      obtain ⟨rep, loops, skips, v, p, cf, fflg, fmode, rng, perf, elig, outside, others, world⟩ :=
        State.entered there (f := Thread.atLevel2 r pc hofs s.cycle (s.cx (s.ctxTh k)).tvec2) ⟨_, _, _, _, _, _, _, _, _, rfl⟩
      refine ⟨⟨rep, loops, skips, v, p, cf, fflg, fmode, rng, perf, elig, outside, others, world⟩, ?_⟩
      dsimp only
      rw [State.th_entered there]
      refine ⟨rfl, rfl, rfl, status.parts, rfl, rfl, rfl, rfl, rfl, rfl, fun a ha => ?_⟩
      simp [Thread.atLevel2, Thread.enter, ha]

end Sys2Proof.Machine
end

section
/-! SUPPORT. Exact fractions as numbers: what each operation on them comes to (03 R102, 10 R263 to R270). -/

namespace Sys2Proof

theorem ratAbs_eq_abs (x : Rat) : ratAbs x = |x| := by
  unfold ratAbs
  split
  · next h => exact (abs_of_neg h).symm
  · next h => exact (abs_of_nonneg (not_lt.1 h)).symm

namespace Q

@[simp] theorem val_zero : Q.zero.val = 0 := by simp [Q.val, Q.zero]

theorem past_spec {a b : Q} (ha : 0 < a.den) (hb : 0 < b.den) : 0 < (past a b).2.2
    ∧ a.val = ((past a b).1 : Rat) / ((past a b).2.2 : Rat) ∧ b.val = ((past a b).2.1 : Rat) / ((past a b).2.2 : Rat) := by
  have a0 : (a.den : Rat) ≠ 0 := by positivity
  have b0 : (b.den : Rat) ≠ 0 := by positivity
  unfold past Q.val
  split
  · next h =>
    obtain ⟨c, hc⟩ := Nat.dvd_of_mod_eq_zero h
    have c0 : c ≠ 0 := by rintro rfl; omega
    have cq : (c : Rat) ≠ 0 := by positivity
    have quot : b.den / a.den = c := by rw [hc, Nat.mul_div_cancel_left _ ha]
    refine ⟨hb, ?_, rfl⟩
    rw [quot, hc]
    push_cast
    field_simp
  · split
    · next h =>
      obtain ⟨c, hc⟩ := Nat.dvd_of_mod_eq_zero h
      have c0 : c ≠ 0 := by rintro rfl; omega
      have cq : (c : Rat) ≠ 0 := by positivity
      have quot : a.den / b.den = c := by rw [hc, Nat.mul_div_cancel_left _ hb]
      refine ⟨ha, rfl, ?_⟩
      rw [quot, hc]
      push_cast
      field_simp
    · refine ⟨Nat.mul_pos ha hb, ?_, ?_⟩ <;> push_cast <;> field_simp

section
variable {a b : Q} (ha : 0 < a.den) (hb : 0 < b.den)
include ha hb

theorem den_add : 0 < (a.add b).den := (past_spec ha hb).1

theorem val_add : (a.add b).val = a.val + b.val := by
  obtain ⟨-, h1, h2⟩ := past_spec ha hb
  rw [h1, h2, ← add_div, ← Int.cast_add]
  rfl

theorem lt_iff : Q.lt a b = true ↔ a.val < b.val := by
  obtain ⟨pos, h1, h2⟩ := past_spec ha hb
  rw [h1, h2, div_lt_div_iff_of_pos_right (by exact_mod_cast pos), Int.cast_lt]
  simp [Q.lt]

end

@[simp] theorem den_neg (a : Q) : a.neg.den = a.den := rfl
@[simp] theorem val_neg (a : Q) : a.neg.val = -a.val := by simp [Q.val, Q.neg, neg_div]

theorem den_sub {a b : Q} (ha : 0 < a.den) (hb : 0 < b.den) : 0 < (a.sub b).den := den_add ha hb
theorem val_sub {a b : Q} (ha : 0 < a.den) (hb : 0 < b.den) : (a.sub b).val = a.val - b.val := by
  rw [Q.sub, val_add ha (b := b.neg) hb, val_neg, sub_eq_add_neg]

theorem le_iff {a b : Q} (ha : 0 < a.den) (hb : 0 < b.den) : Q.le a b = true ↔ a.val ≤ b.val := by
  simp [Q.le, ← not_lt, ← lt_iff hb ha]

theorem den_mul {a b : Q} (ha : 0 < a.den) (hb : 0 < b.den) : 0 < (a.mul b).den := Nat.mul_pos ha hb
@[simp] theorem val_mul (a b : Q) : (a.mul b).val = a.val * b.val := by
  simp only [Q.val, Q.mul, Int.cast_mul, Nat.cast_mul, mul_div_mul_comm]

@[simp] theorem den_abs (a : Q) : a.abs.den = a.den := rfl
@[simp] theorem val_abs (a : Q) : a.abs.val = |a.val| := by
  have den : (0 : Rat) ≤ a.den := Nat.cast_nonneg _
  simp only [Q.val, Q.abs, abs_div, Nat.cast_natAbs, Int.cast_abs, abs_of_nonneg den, Int.cast_id]

theorem den_half {a : Q} (ha : 0 < a.den) : 0 < a.half.den := Nat.mul_pos (by omega) ha
@[simp] theorem val_half (a : Q) : a.half.val = a.val / 2 := by
  simp only [Q.val, Q.half, Nat.cast_mul, Nat.cast_ofNat, div_div, mul_comm]

theorem val_eq_zero_iff {a : Q} (ha : 0 < a.den) : a.val = 0 ↔ a.num = 0 := by
  have : (a.den : Rat) ≠ 0 := by positivity
  simp [Q.val, this]

theorem isZero_iff {a : Q} (ha : 0 < a.den) : a.isZero = true ↔ a.val = 0 := by
  rw [val_eq_zero_iff ha]; simp [Q.isZero]

theorem val_nonneg_iff {a : Q} (ha : 0 < a.den) : 0 ≤ a.val ↔ 0 ≤ a.num := by
  have den : (0 : Rat) < a.den := by exact_mod_cast ha
  rw [Q.val, le_div_iff₀ den, zero_mul, Int.cast_nonneg_iff]

theorem den_inv {a : Q} (h : a.num ≠ 0) : 0 < a.inv.den := by
  unfold Q.inv
  split <;> exact Int.natAbs_pos.2 h

/-- A sum of fractions is one. -/
theorem den_sum {l : List Q} (h : ∀ x ∈ l, 0 < x.den) : 0 < (Q.sum l).den := by
  unfold Q.sum
  have start : 0 < Q.zero.den := by decide
  generalize Q.zero = z at start
  induction l generalizing z with
  | nil => exact start
  | cons x l ih => exact ih (fun y hy => h y (List.mem_cons_of_mem _ hy)) _ (den_add start (h x List.mem_cons_self))

theorem den_ofVal {x : Fp.Val} {a : Q} (h : Q.ofVal x = some a) : 0 < a.den := by
  cases x with
  | nan s => simp [Q.ofVal] at h
  | inf s => simp [Q.ofVal] at h
  | fin s m e =>
      simp only [Q.ofVal, Option.some.injEq] at h
      subst h
      have pos : 0 < (Fp.frac m e).2 := by
        unfold Fp.frac
        split
        · exact Nat.one_pos
        · exact Nat.two_pow_pos _
      exact pos

theorem den_roundFin {f : Fp.Fmt} {mode : Fp.Rnd} {a v : Q} {b : Nat} (h : Q.roundFin f mode a = some (b, v)) : 0 < v.den := by
  obtain ⟨w, hw, e⟩ := Option.map_eq_some_iff.1 h
  cases e
  exact den_ofVal hw

/-- The number of a finite encoding, as a fraction and as a number. -/
theorem num?_eq_val (x : Fp.Val) : x.num? = (Q.ofVal x).map Q.val := by
  cases x with
  | nan s => rfl
  | inf s => rfl
  | fin s m e =>
      simp only [Fp.Val.num?, Q.ofVal, Option.map_some, Option.some.injEq, ratOf, Q.val]
      cases s <;> simp [neg_div]

end Q

end Sys2Proof
end

section
/-! SUPPORT. RoundTo an IEEE format: what encodings stand for, and that rounding upward encloses (03 R80, R90, R91). -/

namespace Sys2Proof.Fp

/-! ### Numbers as fractions and powers of two -/

theorem frac_val (m : Nat) (e : Int) : ((frac m e).1 : Rat) / ((frac m e).2 : Rat) = m * 2 ^ e := by
  unfold frac
  split
  · next h =>
    obtain ⟨n, rfl⟩ := Int.eq_ofNat_of_zero_le h
    simp
  · next h =>
    obtain ⟨n, hn⟩ := Int.eq_ofNat_of_zero_le (a := -e) (by omega)
    obtain rfl : e = -(n : Int) := by omega
    simp [div_eq_mul_inv]

theorem scale_pos {n d : Nat} (hd : 0 < d) (q : Int) : 0 < (scale n d q).2 := by
  unfold scale
  split
  · exact Nat.mul_pos hd (Nat.two_pow_pos _)
  · exact hd

theorem scale_val (n d : Nat) (q : Int) : ((scale n d q).1 : Rat) / ((scale n d q).2 : Rat) = n / d / 2 ^ q := by
  unfold scale
  split
  · next h =>
    obtain ⟨k, rfl⟩ := Int.eq_ofNat_of_zero_le h
    simp [div_div]
  · next h =>
    obtain ⟨k, hk⟩ := Int.eq_ofNat_of_zero_le (a := -q) (by omega)
    obtain rfl : q = -(k : Int) := by omega
    simp [div_eq_mul_inv, mul_right_comm]

/-- n ÷ d lies between two powers of two. -/
theorem floorLog2_spec {n d : Nat} (hn : 0 < n) (hd : 0 < d) :
    (2 : Rat) ^ floorLog2 n d ≤ n / d ∧ (n / d : Rat) < 2 ^ (floorLog2 n d + 1) := by
  have d0 : (0 : Rat) < d := by exact_mod_cast hd
  have two : (2 : Rat) ≠ 0 := by norm_num
  have nlo : (2 : Rat) ^ n.log2 ≤ n := by exact_mod_cast Nat.log2_self_le hn.ne'
  have nhi : (n : Rat) < 2 ^ (n.log2 + 1) := by exact_mod_cast Nat.lt_log2_self
  have dlo : (2 : Rat) ^ d.log2 ≤ d := by exact_mod_cast Nat.log2_self_le hd.ne'
  have dhi : (d : Rat) < 2 ^ (d.log2 + 1) := by exact_mod_cast Nat.lt_log2_self
  generalize hl : (n.log2 : Int) - (d.log2 : Int) = l
  have below : (2 : Rat) ^ (l - 1) ≤ n / d := by
    rw [le_div_iff₀ d0]
    calc (2 : Rat) ^ (l - 1) * d ≤ 2 ^ (l - 1) * 2 ^ (d.log2 + 1) := by gcongr
      _ = 2 ^ n.log2 := by rw [← zpow_natCast, ← zpow_natCast, ← zpow_add₀ two]; congr 1; push_cast; omega
      _ ≤ n := nlo
  have above : (n / d : Rat) < 2 ^ (l + 1) := by
    rw [div_lt_iff₀ d0]
    calc (n : Rat) < 2 ^ (n.log2 + 1) := nhi
      _ = 2 ^ (l + 1) * 2 ^ d.log2 := by rw [← zpow_natCast, ← zpow_natCast, ← zpow_add₀ two]; congr 1; push_cast; omega
      _ ≤ 2 ^ (l + 1) * d := by gcongr
  have test : (if l ≥ 0 then decide (d * 2 ^ l.toNat ≤ n) else decide (d ≤ n * 2 ^ (-l).toNat)) = true ↔ (2 : Rat) ^ l ≤ n / d := by
    rw [le_div_iff₀ d0]
    split
    · next h =>
      obtain ⟨k, rfl⟩ := Int.eq_ofNat_of_zero_le h
      rw [decide_eq_true_eq, Int.toNat_natCast, zpow_natCast, mul_comm]
      exact_mod_cast Iff.rfl
    · next h =>
      obtain ⟨k, hk⟩ := Int.eq_ofNat_of_zero_le (a := -l) (by omega)
      obtain rfl : l = -(k : Int) := by omega
      rw [decide_eq_true_eq, neg_neg, Int.toNat_natCast, zpow_neg, zpow_natCast, inv_mul_le_iff₀ (by positivity), mul_comm]
      exact_mod_cast Iff.rfl
  unfold floorLog2
  dsimp only
  rw [hl]
  by_cases h : (2 : Rat) ^ l ≤ n / d
  · rw [if_pos (test.2 h)]
    exact ⟨h, above⟩
  · rw [if_neg (mt test.1 h), sub_add_cancel]
    exact ⟨below, not_le.1 h⟩

/-! ### Encodings of an IEEE format -/

/-- A format with IEEE's top exponent and bias. -/
structure Fmt.Ieee (f : Fmt) : Prop where
  top : f.top = .ieee
  bias : 2 ^ f.e = 2 * f.bias + 2
  normal : 0 < f.bias

theorem f64_ieee : f64.Ieee := ⟨rfl, rfl, by decide⟩
theorem f32_ieee : f32.Ieee := ⟨rfl, rfl, by decide⟩

/-- The bits of a sign, an exponent field and a fraction field. -/
def Fmt.bits (f : Fmt) (neg : Bool) (ex t : Nat) : Nat := (if neg then f.signBit else 0) + (ex * 2 ^ f.m + t)

/-- The largest finite number of an IEEE format. -/
def Fmt.maxNum (f : Fmt) : Rat := (2 ^ (f.m + 1) - 1) * 2 ^ ((f.bias : Int) - f.m)

section
variable {f : Fmt} (ieee : f.Ieee)
include ieee

theorem decode_bits (neg : Bool) {ex t : Nat} (hex : ex < 2 ^ f.e) (ht : t < 2 ^ f.m) : decode f (f.bits neg ex t) =
    if ex = 2 ^ f.e - 1 then (if t = 0 then .inf neg else .nan (f.m > 1 && !t.testBit (f.m - 1)))
    else if ex = 0 then .fin neg t (f.emin - f.m) else .fin neg (2 ^ f.m + t) ((ex : Int) - f.bias - f.m) := by
  have split : f.bits neg ex t = 2 ^ f.m * ((if neg then 1 else 0) * 2 ^ f.e + ex) + t := by
    unfold Fmt.bits Fmt.signBit
    cases neg
    · simp [Nat.mul_comm]
    · simp [pow_add]; ring
  have field : f.bits neg ex t / 2 ^ f.m = (if neg then 1 else 0) * 2 ^ f.e + ex := by
    rw [split, Nat.mul_add_div (Nat.two_pow_pos _), Nat.div_eq_of_lt ht, Nat.add_zero]
  have fraction : f.bits neg ex t % 2 ^ f.m = t := by
    rw [split, Nat.mul_add_mod, Nat.mod_eq_of_lt ht]
  have exponent : f.bits neg ex t / 2 ^ f.m % 2 ^ f.e = ex := by
    rw [field, Nat.add_comm, Nat.add_mul_mod_self_right, Nat.mod_eq_of_lt hex]
  have sign : (f.bits neg ex t).testBit (f.e + f.m) = neg := by
    rw [Nat.testBit_eq_decide_div_mod_eq, Nat.add_comm, pow_add, ← Nat.div_div_eq_div_mul, field, Nat.add_comm,
      Nat.add_mul_div_right _ _ (Nat.two_pow_pos _), Nat.div_eq_of_lt hex]
    cases neg <;> rfl
  unfold decode
  simp only [sign, exponent, fraction, ieee.top, true_and, reduceCtorEq, false_and, if_false]

/-- A finite encoding stands for a number no larger than the largest finite one. -/
theorem decode_fin_le {b m : Nat} {neg : Bool} {e : Int} (h : decode f b = .fin neg m e) : (m : Rat) * 2 ^ e ≤ f.maxNum := by
  have two : (1 : Rat) ≤ 2 := by norm_num
  have ht := Nat.mod_lt b (Nat.two_pow_pos f.m)
  have hex := Nat.mod_lt (b / 2 ^ f.m) (Nat.two_pow_pos f.e)
  unfold decode at h
  simp only [ieee.top, true_and, reduceCtorEq, false_and, if_false] at h
  have bias := ieee.bias
  have normal := ieee.normal
  have bound (k : Nat) (q : Int) (hk : k < 2 ^ (f.m + 1)) (hq : q ≤ (f.bias : Int) - f.m) : (k : Rat) * 2 ^ q ≤ f.maxNum := by
    have hk' : (k : Rat) ≤ 2 ^ (f.m + 1) - 1 := by
      rw [le_sub_iff_add_le]
      exact_mod_cast hk
    have : (0 : Rat) ≤ 2 ^ (f.m + 1) - 1 := le_trans (Nat.cast_nonneg k) hk'
    unfold Fmt.maxNum
    gcongr
  have wide : 2 ^ (f.m + 1) = 2 * 2 ^ f.m := by rw [pow_succ, Nat.mul_comm]
  split at h
  · split at h <;> cases h
  · split at h
    · cases h
      exact bound _ _ (by omega) (by unfold Fmt.emin; omega)
    · next h1 h2 =>
      cases h
      exact bound _ _ (by omega) (by omega)

end

/-! ### RoundTo -/

/-- The encoding of k × 2^q, sign aside, as RoundTo makes it. -/
def Fmt.encOf (f : Fmt) (k : Nat) (q : Int) : Nat :=
  if k < 2 ^ f.m then k else (q + f.m + f.bias).toNat * 2 ^ f.m + (k - 2 ^ f.m)

/-- A number of a format's precision, before its range is looked at. -/
structure Fmt.Fits (f : Fmt) (k : Nat) (q : Int) : Prop where
  least : f.emin - f.m ≤ q
  subnormal : k < 2 ^ f.m → q = f.emin - f.m
  most : k ≤ 2 ^ (f.m + 1)

section
variable {f : Fmt} (ieee : f.Ieee) {k : Nat} {q : Int} (fits : f.Fits k q)
include ieee fits

/-- The encoding of a number in range stands for it. -/
theorem decode_encOf (neg : Bool) (h : f.encOf k q ≤ f.maxEnc) :
    ∃ m e, decode f ((if neg then f.signBit else 0) + f.encOf k q) = .fin neg m e ∧ (m : Rat) * 2 ^ e = k * 2 ^ q := by
  obtain ⟨least, subnormal, most⟩ := fits
  have bias := ieee.bias
  have wide : 2 ^ (f.m + 1) = 2 * 2 ^ f.m := by rw [pow_succ, Nat.mul_comm]
  have pos := Nat.two_pow_pos f.m
  have top : f.maxEnc + 1 = (2 ^ f.e - 1) * 2 ^ f.m := by
    have : 0 < (2 ^ f.e - 1) * 2 ^ f.m := Nat.mul_pos (by omega) pos
    simp only [Fmt.maxEnc, ieee.top]
    omega
  unfold Fmt.encOf at h ⊢
  split at h
  · next small =>
    rw [if_pos small]
    have e0 : f.bits neg 0 k = (if neg then f.signBit else 0) + k := by simp [Fmt.bits]
    rw [← e0, decode_bits ieee neg (by omega) small, if_neg (by omega), if_pos rfl]
    exact ⟨_, _, rfl, by rw [subnormal small]⟩
  · next large =>
    rw [if_neg large]
    obtain ⟨ex, hex⟩ := Int.eq_ofNat_of_zero_le (a := q + f.m + f.bias) (by unfold Fmt.emin at least; omega)
    have ex1 : 1 ≤ ex := by unfold Fmt.emin at least; omega
    rw [hex, Int.toNat_natCast] at h ⊢
    rcases Nat.lt_or_ge (k - 2 ^ f.m) (2 ^ f.m) with inside | carry
    · have below : ex < 2 ^ f.e - 1 := by
        by_contra no
        have : (2 ^ f.e - 1) * 2 ^ f.m ≤ ex * 2 ^ f.m := Nat.mul_le_mul_right _ (by omega)
        omega
      change ∃ m e, decode f (f.bits neg ex (k - 2 ^ f.m)) = _ ∧ _
      rw [decode_bits ieee neg (by omega) inside, if_neg (by omega), if_neg (by omega)]
      refine ⟨_, _, rfl, ?_⟩
      rw [show 2 ^ f.m + (k - 2 ^ f.m) = k by omega, show (ex : Int) - f.bias - f.m = q by omega]
    · have twice : k = 2 * 2 ^ f.m := by omega
      have below : ex + 1 < 2 ^ f.e - 1 := by
        by_contra no
        have : (2 ^ f.e - 1) * 2 ^ f.m ≤ (ex + 1) * 2 ^ f.m := Nat.mul_le_mul_right _ (by omega)
        rw [Nat.succ_mul] at this
        omega
      have next_ : f.bits neg (ex + 1) 0 = (if neg then f.signBit else 0) + (ex * 2 ^ f.m + (k - 2 ^ f.m)) := by
        simp only [Fmt.bits, Nat.succ_mul]
        omega
      rw [← next_, decode_bits ieee neg (by omega) pos, if_neg (by omega), if_neg (by omega)]
      refine ⟨_, _, rfl, ?_⟩
      rw [show ((ex + 1 : Nat) : Int) - f.bias - f.m = q + 1 by push_cast; omega, twice, zpow_add_one₀ (by norm_num)]
      push_cast
      ring

/-- A number out of range is past the largest finite one, or rounds to the number after it. -/
theorem fits_of_maxEnc_lt (h : f.maxEnc < f.encOf k q) :
    (f.bias : Int) - f.m < q ∨ q = (f.bias : Int) - f.m ∧ k = 2 ^ (f.m + 1) := by
  obtain ⟨least, subnormal, most⟩ := fits
  have bias := ieee.bias
  have wide : 2 ^ (f.m + 1) = 2 * 2 ^ f.m := by rw [pow_succ, Nat.mul_comm]
  have pos := Nat.two_pow_pos f.m
  have top : f.maxEnc + 1 = (2 ^ f.e - 1) * 2 ^ f.m := by
    have : 0 < (2 ^ f.e - 1) * 2 ^ f.m := Nat.mul_pos (by omega) pos
    simp only [Fmt.maxEnc, ieee.top]
    omega
  by_contra no
  obtain ⟨inside, full⟩ := not_or.1 no
  refine absurd h (not_lt.2 ?_)
  unfold Fmt.encOf
  split
  · have : 1 * 2 ^ f.m ≤ (2 ^ f.e - 1) * 2 ^ f.m := Nat.mul_le_mul_right _ (by omega)
    omega
  · obtain ⟨ex, hex⟩ := Int.eq_ofNat_of_zero_le (a := q + f.m + f.bias) (by unfold Fmt.emin at least; omega)
    rw [hex, Int.toNat_natCast]
    rcases Nat.lt_or_ge (ex + 1) (2 ^ f.e - 1) with small | last
    · have : (ex + 1 + 1) * 2 ^ f.m ≤ (2 ^ f.e - 1) * 2 ^ f.m := Nat.mul_le_mul_right _ (by omega)
      simp only [Nat.succ_mul] at this
      omega
    · have : (ex + 1) * 2 ^ f.m ≤ (2 ^ f.e - 1) * 2 ^ f.m := Nat.mul_le_mul_right _ (by omega)
      have : q = (f.bias : Int) - f.m := by omega
      simp only [Nat.succ_mul] at *
      omega

end

/-- The power of two that RoundTo counts in. -/
def Fmt.ulp (f : Fmt) (n d : Nat) : Int := (if floorLog2 n d < f.emin then f.emin else floorLog2 n d) - f.m

/-- The multiple of it that RoundTo takes. -/
def Fmt.count (f : Fmt) (mode : Rnd) (neg : Bool) (n d : Nat) : Nat :=
  let s := scale n d (f.ulp n d)
  if roundUp mode neg (s.1 / s.2) (s.1 % s.2) s.2 then s.1 / s.2 + 1 else s.1 / s.2

theorem roundNum_fst {f : Fmt} (ieee : f.Ieee) (mode : Rnd) (neg : Bool) {n : Nat} (hn : 0 < n) (d : Nat) :
    (roundNum f mode false neg n d).1 = (if neg then f.signBit else 0) +
      if f.maxEnc < f.encOf (f.count mode neg n d) (f.ulp n d) then overflowEnc f mode false neg else f.encOf (f.count mode neg n d) (f.ulp n d) := by
  unfold roundNum
  rw [if_neg hn.ne']
  dsimp only
  simp only [ieee.top, reduceCtorEq, false_and, if_false]
  change (if f.maxEnc < f.encOf (f.count mode neg n d) (f.ulp n d) then _ else _ : Nat × Flags).1 = _
  split <;> rfl

section
variable {f : Fmt} {n d : Nat} (hn : 0 < n) (hd : 0 < d)
include hn hd

theorem scaled_lt : ((scale n d (f.ulp n d)).1 : Rat) / (scale n d (f.ulp n d)).2 < 2 ^ (f.m + 1) := by
  have two : (1 : Rat) ≤ 2 := by norm_num
  rw [scale_val, div_lt_iff₀ (by positivity)]
  calc (n / d : Rat) < 2 ^ (floorLog2 n d + 1) := (floorLog2_spec hn hd).2
    _ ≤ 2 ^ (((f.m + 1 : Nat) : Int) + f.ulp n d) := by
        refine zpow_le_zpow_right₀ two ?_
        unfold Fmt.ulp
        push_cast
        split <;> omega
    _ = 2 ^ (f.m + 1) * 2 ^ f.ulp n d := by rw [zpow_add₀ (by norm_num), zpow_natCast]

theorem count_fits (mode : Rnd) (neg : Bool) : f.Fits (f.count mode neg n d) (f.ulp n d) := by
  have pos := scale_pos (n := n) hd (f.ulp n d)
  have posq : (0 : Rat) < (scale n d (f.ulp n d)).2 := by exact_mod_cast pos
  have below : (scale n d (f.ulp n d)).1 / (scale n d (f.ulp n d)).2 < 2 ^ (f.m + 1) := by
    rw [Nat.div_lt_iff_lt_mul pos]
    have := scaled_lt (f := f) hn hd
    rw [div_lt_iff₀ posq] at this
    exact_mod_cast this
  have least : (scale n d (f.ulp n d)).1 / (scale n d (f.ulp n d)).2 ≤ f.count mode neg n d := by
    unfold Fmt.count
    dsimp only
    split <;> omega
  refine ⟨?_, fun small => ?_, ?_⟩
  · unfold Fmt.ulp
    split <;> omega
  · by_contra no
    have normal : f.ulp n d = floorLog2 n d - f.m := by
      unfold Fmt.ulp at no ⊢
      split
      · next h => exact absurd (by rw [if_pos h]) no
      · rfl
    have : 2 ^ f.m ≤ (scale n d (f.ulp n d)).1 / (scale n d (f.ulp n d)).2 := by
      rw [Nat.le_div_iff_mul_le pos]
      have enough : (2 : Rat) ^ f.m ≤ ((scale n d (f.ulp n d)).1 : Rat) / (scale n d (f.ulp n d)).2 := by
        rw [scale_val, le_div_iff₀ (by positivity), ← zpow_natCast, ← zpow_add₀ (by norm_num), normal, add_sub_cancel]
        exact (floorLog2_spec hn hd).1
      rw [le_div_iff₀ posq] at enough
      exact_mod_cast enough
    omega
  · unfold Fmt.count
    dsimp only
    split <;> omega

omit hn in
/-- Rounding a positive number upward takes the least multiple that is not below it. -/
theorem count_up : (n / d : Rat) ≤ f.count .ru false n d * 2 ^ f.ulp n d ∧ ((f.count .ru false n d : Rat) - 1) * 2 ^ f.ulp n d < n / d := by
  have pos := scale_pos (n := n) hd (f.ulp n d)
  have posq : (0 : Rat) < (scale n d (f.ulp n d)).2 := by exact_mod_cast pos
  have two : (0 : Rat) < 2 ^ f.ulp n d := by positivity
  rw [← div_le_iff₀ two, ← lt_div_iff₀ two, ← scale_val]
  unfold Fmt.count
  dsimp only
  generalize scale n d (f.ulp n d) = s at pos posq
  rw [div_le_iff₀ posq, lt_div_iff₀ posq]
  have parts := Nat.div_add_mod s.1 s.2
  have small := Nat.mod_lt s.1 pos
  have partsq : (s.2 : Rat) * (s.1 / s.2 : Nat) + (s.1 % s.2 : Nat) = s.1 := by exact_mod_cast parts
  have smallq : ((s.1 % s.2 : Nat) : Rat) < s.2 := by exact_mod_cast small
  simp only [roundUp, Bool.not_false, Bool.true_and, bne_iff_ne, ne_eq]
  split
  · next rest =>
    have restq : (0 : Rat) < (s.1 % s.2 : Nat) := by exact_mod_cast Nat.pos_of_ne_zero rest
    push_cast
    constructor <;> linarith
  · next exact_ =>
    rw [not_not] at exact_
    rw [exact_] at partsq
    push_cast at partsq
    constructor <;> linarith

end

theorem decode_inf {f : Fmt} (ieee : f.Ieee) : decode f f.inf = .inf false := by
  have bits : f.inf = f.bits false (2 ^ f.e - 1) 0 := by simp [Fmt.bits, Fmt.inf]
  have two := Nat.two_pow_pos f.e
  rw [bits, decode_bits ieee false (by omega) (Nat.two_pow_pos _), if_pos rfl, if_pos rfl]

/-- A positive number rounded upward: the least multiple not below it, or infinity past the range. -/
theorem roundNum_up_cases {f : Fmt} (ieee : f.Ieee) {n : Nat} (hn : 0 < n) (d : Nat) :
    f.maxEnc < f.encOf (f.count .ru false n d) (f.ulp n d) ∧ (roundNum f .ru false false n d).1 = f.inf
    ∨ f.encOf (f.count .ru false n d) (f.ulp n d) ≤ f.maxEnc
      ∧ (roundNum f .ru false false n d).1 = f.encOf (f.count .ru false n d) (f.ulp n d) := by
  have fst := roundNum_fst ieee .ru false hn d
  rcases lt_or_ge f.maxEnc (f.encOf (f.count .ru false n d) (f.ulp n d)) with past | inside
  · rw [if_pos past] at fst
    exact .inl ⟨past, by simpa [overflowEnc, ieee.top] using fst⟩
  · rw [if_neg (not_lt.2 inside)] at fst
    exact .inr ⟨inside, by simpa using fst⟩

/-- A positive number rounded upward to a finite encoding is not above what that encoding stands for. -/
theorem roundNum_up {f : Fmt} (ieee : f.Ieee) {n d : Nat} (hn : 0 < n) (hd : 0 < d) {neg : Bool} {m : Nat} {e : Int}
    (h : decode f (roundNum f .ru false false n d).1 = .fin neg m e) : neg = false ∧ (n / d : Rat) ≤ m * 2 ^ e := by
  rcases roundNum_up_cases ieee hn d with ⟨-, result⟩ | ⟨inside, result⟩
  · rw [result, decode_inf ieee] at h
    cases h
  · obtain ⟨m', e', stands, val⟩ := decode_encOf ieee (count_fits hn hd .ru false) false inside
    rw [if_neg Bool.false_ne_true, Nat.zero_add] at stands
    rw [result, stands] at h
    cases h
    exact ⟨rfl, val ▸ (count_up hd).1⟩

/-- A positive number no larger than the largest finite one is rounded upward to a finite encoding. -/
theorem roundNum_up_finite {f : Fmt} (ieee : f.Ieee) {n d : Nat} (hn : 0 < n) (hd : 0 < d) (h : (n / d : Rat) ≤ f.maxNum) :
    ∃ m e, decode f (roundNum f .ru false false n d).1 = .fin false m e := by
  have two : (1 : Rat) ≤ 2 := by norm_num
  have pos : (0 : Rat) < 2 ^ ((f.bias : Int) - f.m) := by positivity
  rcases roundNum_up_cases ieee hn d with ⟨past, -⟩ | ⟨inside, result⟩
  · exfalso
    obtain ⟨-, last⟩ := count_up (f := f) (n := n) hd
    rcases fits_of_maxEnc_lt ieee (count_fits hn hd .ru false) past with past | ⟨hq, hk⟩
    · have normal : ¬floorLog2 n d < f.emin := by
        intro sub
        have := ieee.normal
        unfold Fmt.ulp Fmt.emin at *
        rw [if_pos sub] at past
        omega
      have big : (2 : Rat) ^ ((f.bias : Int) + 1) ≤ n / d := by
        refine le_trans (zpow_le_zpow_right₀ two ?_) (floorLog2_spec hn hd).1
        unfold Fmt.ulp at past
        rw [if_neg normal] at past
        omega
      have split : (2 : Rat) ^ ((f.bias : Int) + 1) = 2 ^ (f.m + 1) * 2 ^ ((f.bias : Int) - f.m) := by
        rw [← zpow_natCast, ← zpow_add₀ (by norm_num)]
        congr 1
        push_cast
        omega
      unfold Fmt.maxNum at h
      linarith
    · rw [hk, hq] at last
      push_cast at last
      exact absurd h (not_le.2 last)
  · obtain ⟨m, e, stands, -⟩ := decode_encOf ieee (count_fits hn hd .ru false) false inside
    rw [if_neg Bool.false_ne_true, Nat.zero_add] at stands
    exact ⟨m, e, result ▸ stands⟩

/-- An encoding that RoundTo makes has the bits of its format. -/
theorem roundNum_lt {f : Fmt} (ieee : f.Ieee) (mode : Rnd) (neg : Bool) (n d : Nat) :
    (roundNum f mode false neg n d).1 < (if neg then f.signBit else 0) + f.signBit := by
  have pos := Nat.two_pow_pos f.m
  have bias := ieee.bias
  have top : f.inf < f.signBit := by
    unfold Fmt.inf Fmt.signBit
    rw [pow_add]
    exact Nat.mul_lt_mul_of_pos_right (by omega) pos
  have most : f.maxEnc ≤ f.inf := by
    simp only [Fmt.maxEnc, ieee.top]
    exact Nat.sub_le _ _
  rcases Nat.eq_zero_or_pos n with rfl | hn
  · simp only [roundNum, if_true]
    omega
  · have either (toInf : Bool) : (if toInf then f.inf else f.maxEnc) ≤ f.inf := by
      cases toInf
      · exact most
      · exact Nat.le_refl _
    have overflow : overflowEnc f mode false neg ≤ f.inf := by
      simp only [overflowEnc, ieee.top, Bool.false_eq_true, if_false]
      exact either _
    rw [roundNum_fst ieee _ _ hn]
    rcases lt_or_ge f.maxEnc (f.encOf (f.count mode neg n d) (f.ulp n d)) with past | inside
    · rw [if_pos past]
      omega
    · rw [if_neg (not_lt.2 inside)]
      omega

end Sys2Proof.Fp

namespace Sys2Proof.Q

open Fp

section
variable {f : Fmt} (ieee : f.Ieee)
include ieee

theorem val_le_maxNum {b : Nat} {v : Q} (h : ofVal (decode f b) = some v) : v.val ≤ f.maxNum := by
  cases hd : decode f b with
  | nan s => simp [hd, ofVal] at h
  | inf s => simp [hd, ofVal] at h
  | fin s m e =>
      have le := decode_fin_le ieee hd
      rw [← frac_val] at le
      simp only [hd, ofVal, Option.some.injEq] at h
      subst h
      have : (0 : Rat) ≤ ((frac m e).1 : Rat) / (frac m e).2 := by positivity
      cases s
      · simpa [Q.val] using le
      · simp only [Q.val, if_true, Int.cast_neg, neg_div, Int.cast_natCast]
        linarith

theorem round_lt (mode : Rnd) (a : Q) : a.round f mode < 2 * f.signBit := by
  have := roundNum_lt ieee mode (decide (a.num < 0)) a.num.natAbs a.den
  unfold Q.round roundTo
  dsimp only
  split at this <;> omega

theorem round_lt_of_nonneg (mode : Rnd) {a : Q} (h : 0 ≤ a.num) : a.round f mode < f.signBit := by
  have := roundNum_lt ieee mode (decide (a.num < 0)) a.num.natAbs a.den
  rw [decide_eq_false (not_lt.2 h)] at this
  unfold Q.round roundTo
  rw [decide_eq_false (not_lt.2 h)]
  simpa using this

/-- RoundTo zero. -/
theorem round_zero (mode : Rnd) {a : Q} (h : a.num = 0) : ∃ v, ofVal (decode f (a.round f mode)) = some v ∧ v.val = 0 := by
  have e : a.round f mode = f.bits false 0 0 := by simp [Q.round, roundTo, roundNum, h, Fmt.bits]
  have bias := ieee.bias
  rw [e, decode_bits ieee false (by omega) (Nat.two_pow_pos _), if_neg (by omega), if_pos rfl]
  refine ⟨_, rfl, ?_⟩
  have none_ : (frac 0 (f.emin - f.m)).1 = 0 := by
    unfold frac
    split <;> simp
  simp [Q.val, none_]

omit ieee in
theorem round_of_pos {a : Q} (h : 0 < a.num) (mode : Rnd) : a.round f mode = (roundNum f mode false false a.num.natAbs a.den).1 := by
  simp [Q.round, roundTo, not_lt.2 h.le]

/-- Rounding upward encloses. -/
theorem le_roundFin_up {a : Q} (ha : 0 < a.den) (h0 : 0 ≤ a.num) {b : Nat} {v : Q} (h : a.roundFin f .ru = some (b, v)) : a.val ≤ v.val := by
  obtain ⟨w, hw, e⟩ := Option.map_eq_some_iff.1 h
  cases e
  rcases h0.eq_or_lt with zero | pos
  · obtain ⟨v', hv, val⟩ := round_zero ieee .ru zero.symm
    rw [hv] at hw
    cases hw
    rw [val, (val_eq_zero_iff ha).2 zero.symm]
  · rw [round_of_pos pos] at hw
    cases hd : decode f (roundNum f .ru false false a.num.natAbs a.den).1 with
    | nan s => simp [hd, ofVal] at hw
    | inf s => simp [hd, ofVal] at hw
    | fin s m e =>
        obtain ⟨rfl, le⟩ := roundNum_up ieee (Int.natAbs_pos.2 pos.ne') ha hd
        simp only [hd, ofVal, Option.some.injEq] at hw
        subst hw
        rw [← frac_val, Nat.cast_natAbs, abs_of_pos pos] at le
        exact le

/-- Rounding upward a number no larger than the largest finite one gives a finite encoding. -/
theorem roundFin_up_finite {a : Q} (ha : 0 < a.den) (h0 : 0 ≤ a.num) (h : a.val ≤ f.maxNum) :
    ∃ v, a.roundFin f .ru = some (a.round f .ru, v) := by
  unfold roundFin
  dsimp only
  rcases h0.eq_or_lt with zero | pos
  · obtain ⟨v, hv, -⟩ := round_zero ieee .ru zero.symm
    exact ⟨v, by rw [hv]; rfl⟩
  · obtain ⟨m, e, fin⟩ := roundNum_up_finite ieee (n := a.num.natAbs) (d := a.den) (Int.natAbs_pos.2 pos.ne') ha
      (by rw [Nat.cast_natAbs, abs_of_pos pos]; exact h)
    rw [round_of_pos pos, fin]
    exact ⟨_, rfl⟩

end

end Sys2Proof.Q
end

section
/-! SUPPORT. The sixteen words of an affine value: what is read back from them, and how many there are (02 R74, 03 R102, R103,
10 R263). -/

namespace Sys2Proof

open Machine (Rising)

/-! ### Terms -/

theorem den_getD {q : List (Nat × Q)} (h : ∀ t ∈ q, 0 < t.2.den) (s : Nat) : 0 < (Tab.getD s Q.zero q).den := by
  unfold Tab.getD
  cases hf : Tab.find s q with
  | none => exact Nat.one_pos
  | some v => exact h _ (Tab.mem_of_find hf)

theorem termsOk_nil : termsOk [] := ⟨List.Pairwise.nil, fun _ h => nomatch h⟩

theorem termsOk_put {q : List (Nat × Q)} (h : termsOk q) (s : Nat) {v : Q} (hv : 0 < v.den) : termsOk (Tab.put s v q) := by
  refine ⟨Rising.put h.1 s v, fun t ht => ?_⟩
  rcases Tab.mem_put ht with rfl | ht
  · exact hv
  · exact h.2 t ht

theorem coefOf_put (q : List (Nat × Q)) (s u : Nat) (v : Q) : coefOf (Tab.put s v q) u = if u = s then v.val else coefOf q u := by
  unfold coefOf
  rw [Tab.getD_put]
  split <;> rfl

theorem termsOk_addTerm {q : List (Nat × Q)} (h : termsOk q) (s : Nat) {v : Q} (hv : 0 < v.den) : termsOk (addTerm q s v) :=
  termsOk_put h s (Q.den_add (den_getD h.2 s) hv)

theorem coefOf_addTerm {q : List (Nat × Q)} (h : termsOk q) (s u : Nat) {v : Q} (hv : 0 < v.den) :
    coefOf (addTerm q s v) u = if u = s then coefOf q u + v.val else coefOf q u := by
  unfold addTerm
  rw [coefOf_put, Q.val_add (den_getD h.2 s) hv]
  split
  · next e => rw [e]; rfl
  · rfl

/-- Terms added one after the other to those that stand (02 R74). -/
def addTerms (q : List (Nat × Q)) (l : List (Nat × Q)) : List (Nat × Q) := l.foldl (fun q t => addTerm q t.1 t.2) q

section
variable {l : List (Nat × Q)} (dens : ∀ t ∈ l, 0 < t.2.den)
include dens

theorem termsOk_addTerms {q : List (Nat × Q)} (h : termsOk q) : termsOk (addTerms q l) := by
  induction l generalizing q with
  | nil => exact h
  | cons t l ih =>
      obtain ⟨first, rest⟩ := List.forall_mem_cons.1 dens
      exact ih rest (termsOk_addTerm h _ first)

theorem coefOf_addTerms_of_absent {q : List (Nat × Q)} (h : termsOk q) {s : Nat} (no : ∀ t ∈ l, t.1 ≠ s) :
    coefOf (addTerms q l) s = coefOf q s := by
  induction l generalizing q with
  | nil => rfl
  | cons t l ih =>
      obtain ⟨first, rest⟩ := List.forall_mem_cons.1 dens
      obtain ⟨no1, no⟩ := List.forall_mem_cons.1 no
      rw [addTerms, List.foldl_cons, ← addTerms, ih rest (termsOk_addTerm h _ first) no, coefOf_addTerm h _ _ first, if_neg no1.symm]

theorem coefOf_addTerms_of_mem {q : List (Nat × Q)} (h : termsOk q) (once : (l.map (·.1)).Nodup) {t : Nat × Q} (ht : t ∈ l) :
    coefOf (addTerms q l) t.1 = coefOf q t.1 + t.2.val := by
  induction l generalizing q with
  | nil => cases ht
  | cons u l ih =>
      obtain ⟨first, rest⟩ := List.forall_mem_cons.1 dens
      obtain ⟨fresh, once⟩ := List.nodup_cons.1 once
      rw [addTerms, List.foldl_cons, ← addTerms]
      rcases List.mem_cons.1 ht with rfl | ht
      · rw [coefOf_addTerms_of_absent rest (termsOk_addTerm h _ first) fun x hx e => fresh (List.mem_map.2 ⟨x, hx, e⟩),
          coefOf_addTerm h _ _ first, if_pos rfl]
      · have ne : t.1 ≠ u.1 := fun e => fresh (List.mem_map.2 ⟨t, ht, e⟩)
        rw [ih rest (termsOk_addTerm h _ first) once ht, coefOf_addTerm h _ _ first, if_neg ne]

end

/-! ### Reading an operand -/

/-- The terms of an operand's words: symbol, bits, and the number they stand for. -/
def affTerms (w : Nat → Word) : List (Nat × Nat × Option Q) := (List.range 6).filterMap fun i =>
  let s := (w (4 + 2 * i)).toNat % 2 ^ 16
  if s = 0 then none else some (s, (w (5 + 2 * i)).toNat, Q.ofVal (Fp.decode Fp.f32 (w (5 + 2 * i)).toNat))

def affCentre (w : Nat → Word) : Option Q := Q.ofVal (Fp.decode Fp.f64 ((w 0).toNat + 2 ^ 32 * (w 1).toNat))
def affRadius (w : Nat → Word) : Option Q := Q.ofVal (Fp.decode Fp.f64 ((w 2).toNat + 2 ^ 32 * ((w 3).toNat % 2 ^ 31)))

/-- An operand is read where its centre, its radius and its terms are finite. -/
theorem Aff.ofWords_eq (w : Nat → Word) : Aff.ofWords w =
    match affCentre w, affRadius w with
    | some cv, some rv => if (affTerms w).all fun t => t.2.2.isSome then
        some ⟨(w 0).toNat + 2 ^ 32 * (w 1).toNat, cv, rv, addTerms [] ((affTerms w).map fun t => (t.1, t.2.2.getD Q.zero)),
          ((affTerms w).filter fun t => ((affTerms w).filter fun u => u.1 == t.1).length == 1).map fun t => (t.1, t.2.1)⟩
        else none
    | _, _ => none := by
  unfold addTerms
  rw [List.foldl_map]
  unfold Aff.ofWords affCentre affRadius affTerms
  rfl

theorem affTerms_den {w : Nat → Word} {t : Nat × Nat × Option Q} (ht : t ∈ affTerms w) : 0 < (t.2.2.getD Q.zero).den := by
  obtain ⟨i, -, hi⟩ := List.mem_filterMap.1 ht
  dsimp only at hi
  split at hi
  · cases hi
  · cases hi
    cases hv : Q.ofVal (Fp.decode Fp.f32 (w (5 + 2 * i)).toNat) with
    | none => exact Nat.one_pos
    | some v => exact Q.den_ofVal hv

theorem Q.num_nonneg_of_bits {f : Fp.Fmt} {b : Nat} {v : Q} (h : Q.ofVal (Fp.decode f b) = some v) (hb : b < f.signBit) : 0 ≤ v.num := by
  have sign : b.testBit (f.e + f.m) = false := Nat.testBit_lt_two_pow hb
  cases hd : Fp.decode f b with
  | nan s => simp [hd, Q.ofVal] at h
  | inf s => simp [hd, Q.ofVal] at h
  | fin s m e =>
      have : s = false := by
        unfold Fp.decode at hd
        simp only [sign] at hd
        split at hd
        · split at hd <;> cases hd
        · split at hd
          · cases hd
          · split at hd <;> cases hd <;> rfl
      subst this
      simp only [hd, Q.ofVal, Option.some.injEq] at h
      subst h
      exact Int.natCast_nonneg _

/-- What is read from sixteen words is an operand as instructions take one. -/
theorem Aff.ok_of_ofWords {w : Nat → Word} {a : Aff} (h : Aff.ofWords w = some a) : a.ok := by
  rw [Aff.ofWords_eq] at h
  cases hc : affCentre w with
  | none => simp [hc] at h
  | some cv =>
      cases hr : affRadius w with
      | none => simp [hc, hr] at h
      | some rv =>
          simp only [hc, hr] at h
          split at h
          · cases h
            refine ⟨Q.den_ofVal hc, Q.den_ofVal hr, Q.num_nonneg_of_bits hr ?_, termsOk_addTerms ?_ termsOk_nil⟩
            · have lo := (w 2).isLt
              have hi := Nat.mod_lt (w 3).toNat (Nat.two_pow_pos 31)
              show _ < 2 ^ 63
              omega
            · intro t ht
              obtain ⟨u, hu, rfl⟩ := List.mem_map.1 ht
              exact affTerms_den hu
          · cases h

/-! ### Words written and read back -/

/-- The words of some terms. -/
def termWords (terms : List (Nat × Nat)) : List Word := terms.flatMap fun t => [BitVec.ofNat 32 t.1, BitVec.ofNat 32 t.2]

/-- The sixteen words of a centre, a radius and up to six terms (02 R74). -/
def affWords (c r : Nat) (terms : List (Nat × Nat)) : List Word :=
  words64 c ++ words64 r ++ termWords terms ++ List.replicate (12 - (termWords terms).length) 0

theorem length_termWords (terms : List (Nat × Nat)) : (termWords terms).length = 2 * terms.length := by
  unfold termWords
  induction terms with
  | nil => rfl
  | cons t l ih => simp only [List.flatMap_cons, List.length_append, List.length_cons, List.length_nil, ih]; omega

theorem length_affWords (c r : Nat) {terms : List (Nat × Nat)} (h : terms.length ≤ 6) : (affWords c r terms).length = 16 := by
  simp only [affWords, words64, List.length_append, List.length_cons, List.length_nil, List.length_replicate, length_termWords]
  omega

theorem termWords_getD (terms : List (Nat × Nat)) (n i : Nat) :
    (termWords terms ++ List.replicate n 0).getD (2 * i) 0 = (terms[i]?.map fun t => BitVec.ofNat 32 t.1).getD 0
    ∧ (termWords terms ++ List.replicate n 0).getD (2 * i + 1) 0 = (terms[i]?.map fun t => BitVec.ofNat 32 t.2).getD 0 := by
  have zeros (j : Nat) : (List.replicate n (0 : Word)).getD j 0 = 0 := by
    rw [List.getD_eq_getElem?_getD, List.getElem?_replicate]
    split <;> rfl
  induction terms generalizing i with
  | nil => exact ⟨zeros _, zeros _⟩
  | cons t l ih =>
      cases i with
      | zero => exact ⟨rfl, rfl⟩
      | succ i => exact ih i

/-- The word at a place of a term. -/
theorem affWords_getD_term (c r : Nat) (terms : List (Nat × Nat)) (i : Nat) :
    (affWords c r terms).getD (4 + 2 * i) 0 = (terms[i]?.map fun t => BitVec.ofNat 32 t.1).getD 0
    ∧ (affWords c r terms).getD (5 + 2 * i) 0 = (terms[i]?.map fun t => BitVec.ofNat 32 t.2).getD 0 := by
  obtain ⟨sym, bits⟩ := termWords_getD terms (12 - (termWords terms).length) i
  rw [← sym, ← bits, Nat.add_comm 4, Nat.add_comm 5]
  exact ⟨rfl, rfl⟩

theorem filterMap_getElem? {α : Type} (l : List α) (n : Nat) : (List.range n).filterMap (fun i => l[i]?) = l.take n := by
  induction n with
  | zero => simp
  | succ n ih =>
      rw [List.range_succ, List.filterMap_append, ih, List.take_add_one]
      cases h : l[n]? <;> simp [h]

theorem affTerms_affWords (c r : Nat) {terms : List (Nat × Nat)} (few : terms.length ≤ 6)
    (each : ∀ t ∈ terms, 0 < t.1 ∧ t.1 < 65536 ∧ t.2 < 2 ^ 32) :
    affTerms (fun i => (affWords c r terms).getD i 0) = terms.map fun t => (t.1, t.2, Q.ofVal (Fp.decode Fp.f32 t.2)) := by
  have at_ (i : Nat) : (let s := ((affWords c r terms).getD (4 + 2 * i) 0).toNat % 2 ^ 16
      if s = 0 then none else some (s, ((affWords c r terms).getD (5 + 2 * i) 0).toNat,
        Q.ofVal (Fp.decode Fp.f32 ((affWords c r terms).getD (5 + 2 * i) 0).toNat)))
      = terms[i]?.map fun t => (t.1, t.2, Q.ofVal (Fp.decode Fp.f32 t.2)) := by
    obtain ⟨sym, bits⟩ := affWords_getD_term c r terms i
    rw [sym, bits]
    cases ht : terms[i]? with
    | none => rfl
    | some t =>
        obtain ⟨pos, small, word⟩ := each t (List.mem_of_getElem? ht)
        have h1 : (BitVec.ofNat 32 t.1).toNat = t.1 := by simp; omega
        have h2 : (BitVec.ofNat 32 t.2).toNat = t.2 := by simp; omega
        simp only [Option.map_some, Option.getD_some, h1, h2]
        rw [Nat.mod_eq_of_lt (show t.1 < 2 ^ 16 from small), if_neg (by omega)]
  unfold affTerms
  simp only [at_]
  rw [← List.map_filterMap, filterMap_getElem?, List.take_of_length_le few]

theorem words64_toNat {n : Nat} (h : n < 2 ^ 64) : (BitVec.ofNat 32 n).toNat + 2 ^ 32 * (BitVec.ofNat 32 (n / 2 ^ 32)).toNat = n := by
  simp only [BitVec.toNat_ofNat]
  omega

/-- Words written from finite parts are read back as those parts. -/
theorem ofWords_affWords {c r : Nat} {cv rv : Q} {terms : List (Nat × Nat)} (hc : c < 2 ^ 64)
    (hcv : Q.ofVal (Fp.decode Fp.f64 c) = some cv) (hr : r < 2 ^ 63) (hrv : Q.ofVal (Fp.decode Fp.f64 r) = some rv)
    (few : terms.length ≤ 6) (once : (terms.map (·.1)).Nodup)
    (each : ∀ t ∈ terms, 0 < t.1 ∧ t.1 < 65536 ∧ t.2 < 2 ^ 32) (finite : ∀ t ∈ terms, (Q.ofVal (Fp.decode Fp.f32 t.2)).isSome) :
    ∃ y, Aff.ofWords (fun i => (affWords c r terms).getD i 0) = some y ∧ y.c = cv ∧ y.r = rv ∧ termsOk y.q
      ∧ (∀ t ∈ terms, Fp.f32.num? t.2 = some (coefOf y.q t.1)) ∧ ∀ s, (∀ t ∈ terms, t.1 ≠ s) → coefOf y.q s = 0 := by
  have centre : affCentre (fun i => (affWords c r terms).getD i 0) = some cv := by
    rw [← hcv]
    exact congrArg (fun n => Q.ofVal (Fp.decode Fp.f64 n)) (words64_toNat hc)
  have radius : affRadius (fun i => (affWords c r terms).getD i 0) = some rv := by
    rw [← hrv]
    refine congrArg (fun n => Q.ofVal (Fp.decode Fp.f64 n)) ?_
    show (BitVec.ofNat 32 r).toNat + 2 ^ 32 * ((BitVec.ofNat 32 (r / 2 ^ 32)).toNat % 2 ^ 31) = r
    simp only [BitVec.toNat_ofNat]
    omega
  have read := affTerms_affWords c r few each
  have all : (affTerms fun i => (affWords c r terms).getD i 0).all (fun t => t.2.2.isSome) = true := by
    rw [read, List.all_map, List.all_eq_true]
    exact finite
  have dens : ∀ t ∈ (affTerms fun i => (affWords c r terms).getD i 0).map fun t => (t.1, t.2.2.getD Q.zero), 0 < t.2.den := by
    intro t ht
    obtain ⟨u, hu, rfl⟩ := List.mem_map.1 ht
    exact affTerms_den hu
  rw [Aff.ofWords_eq, centre, radius]
  dsimp only
  rw [if_pos all]
  refine ⟨_, rfl, rfl, rfl, termsOk_addTerms dens termsOk_nil, fun t ht => ?_, fun s no => ?_⟩
  · obtain ⟨v, hv⟩ := Option.isSome_iff_exists.1 (finite t ht)
    have mem : (t.1, v) ∈ (affTerms fun i => (affWords c r terms).getD i 0).map fun t => (t.1, t.2.2.getD Q.zero) := by
      rw [read, List.map_map]
      exact List.mem_map.2 ⟨t, ht, by simp [hv]⟩
    have ids : (((affTerms fun i => (affWords c r terms).getD i 0).map fun t => (t.1, t.2.2.getD Q.zero)).map (·.1)).Nodup := by
      rw [read, List.map_map, List.map_map]
      exact once
    rw [coefOf_addTerms_of_mem dens termsOk_nil ids mem, Fp.Fmt.num?, Q.num?_eq_val, hv]
    simp [coefOf, Tab.getD, Tab.find]
  · rw [coefOf_addTerms_of_absent dens termsOk_nil]
    · simp [coefOf, Tab.getD, Tab.find]
    · intro t ht
      rw [read, List.map_map] at ht
      obtain ⟨u, hu, rfl⟩ := List.mem_map.1 ht
      exact no u hu

end Sys2Proof
end

section
/-! PROOF. O29: the sixteen words of an affine result enclose the exact one (02 R74, 03 R102, R103). -/

namespace Sys2Proof

/-! ### Sums of magnitudes -/

theorem magSum_nil : magSum [] = 0 := rfl

theorem magSum_cons (x : Rat) (l : List Rat) : magSum (x :: l) = |x| + magSum l := by
  simp [magSum, ratAbs_eq_abs]

theorem magSum_append (l m : List Rat) : magSum (l ++ m) = magSum l + magSum m := by simp [magSum]

theorem magSum_filterMap {α β : Type} (f : α → Option β) (g : β → Rat) (l : List α) :
    magSum ((l.filterMap f).map g) = magSum (l.map fun a => ((f a).map g).getD 0) := by
  induction l with
  | nil => rfl
  | cons a l ih =>
      rw [List.filterMap_cons, List.map_cons, magSum_cons, ← ih]
      cases f a with
      | none => simp
      | some b => simp [magSum_cons]

theorem magSum_filter {α : Type} (p : α → Bool) (g : α → Rat) (l : List α) :
    magSum ((l.filter p).map g) = magSum (l.map fun a => if p a then g a else 0) := by
  rw [← List.filterMap_eq_filter, magSum_filterMap]
  congr 2
  funext a
  by_cases h : p a = true <;> simp [h, Option.guard]

/-- Magnitudes term by term below those of two lists together. -/
theorem magSum_le_add {α : Type} {l : List α} {f g h : α → Rat} (le : ∀ a ∈ l, |f a| ≤ |g a| + |h a|) :
    magSum (l.map f) ≤ magSum (l.map g) + magSum (l.map h) := by
  induction l with
  | nil => exact le_of_eq (add_zero _).symm
  | cons a l ih =>
      obtain ⟨first, rest⟩ := List.forall_mem_cons.1 le
      have := ih rest
      simp only [List.map_cons, magSum_cons]
      linarith

/-! ### The radius -/

/-- A sum of FP64 numbers so far: not negative and no larger than the largest of them. -/
structure Q.Partial (a : Q) : Prop where
  den : 0 < a.den
  num : 0 ≤ a.num
  most : a.val ≤ Fp.f64.maxNum

theorem Q.partial_zero : Q.zero.Partial := by
  refine ⟨Nat.one_pos, le_rfl, ?_⟩
  rw [Q.val_zero]
  unfold Fp.Fmt.maxNum
  have : (1 : Rat) ≤ 2 ^ (Fp.f64.m + 1) := one_le_pow₀ (by norm_num)
  have : (0 : Rat) ≤ 2 ^ (Fp.f64.m + 1) - 1 := by linarith
  positivity

/-- A number that is not negative, rounded upward to FP64. -/
theorem Q.roundFin_up {a v : Q} (ha : 0 < a.den) (h0 : 0 ≤ a.num) {b : Nat} (h : a.roundFin Fp.f64 .ru = some (b, v)) :
    v.Partial ∧ a.val ≤ v.val := by
  have le := Q.le_roundFin_up Fp.f64_ieee ha h0 h
  obtain ⟨w, hw, e⟩ := Option.map_eq_some_iff.1 h
  cases e
  refine ⟨⟨Q.den_ofVal hw, ?_, Q.val_le_maxNum Fp.f64_ieee hw⟩, le⟩
  rw [← Q.val_nonneg_iff (Q.den_ofVal hw)]
  exact le_trans ((Q.val_nonneg_iff ha).2 h0) le

/-- Once a sum has overflowed it stays so. -/
theorem sumUp_none (l : List Q) : l.foldl (fun acc x =>
      match acc, Q.roundFin Fp.f64 .ru x.abs with
      | some a, some u => (Q.roundFin Fp.f64 .ru (a.add u.2)).map (·.2)
      | _, _ => none) none = none := by
  induction l with
  | nil => rfl
  | cons x l ih => exact ih

/-- The upward sum of magnitudes is at least their sum. -/
theorem le_sumUp {l : List Q} {r : Q} (dens : ∀ x ∈ l, 0 < x.den) (h : sumUp l = some r) :
    r.Partial ∧ magSum (l.map Q.val) ≤ r.val := by
  suffices H : ∀ {a : Q}, a.Partial → l.foldl (fun acc x =>
      match acc, Q.roundFin Fp.f64 .ru x.abs with
      | some a, some u => (Q.roundFin Fp.f64 .ru (a.add u.2)).map (·.2)
      | _, _ => none) (some a) = some r → r.Partial ∧ a.val + magSum (l.map Q.val) ≤ r.val by
    simpa using H Q.partial_zero h
  clear h
  induction l with
  | nil =>
      intro a ha h
      obtain rfl : a = r := by simpa using h
      exact ⟨ha, by simp [magSum_nil]⟩
  | cons x l ih =>
      intro a ha h
      obtain ⟨first, rest⟩ := List.forall_mem_cons.1 dens
      rw [List.foldl_cons] at h
      cases hu : Q.roundFin Fp.f64 .ru x.abs with
      | none => rw [hu] at h; exact absurd (h.symm.trans (sumUp_none l)) nofun
      | some u =>
          obtain ⟨pu, up⟩ := Q.roundFin_up (a := x.abs) (v := u.2) first (Int.natCast_nonneg _) hu
          have den := Q.den_add ha.den pu.den
          have num : 0 ≤ (a.add u.2).num := by
            rw [← Q.val_nonneg_iff den, Q.val_add ha.den pu.den]
            exact add_nonneg ((Q.val_nonneg_iff ha.den).2 ha.num) ((Q.val_nonneg_iff pu.den).2 pu.num)
          cases hs : Q.roundFin Fp.f64 .ru (a.add u.2) with
          | none => simp only [hu, hs, Option.map_none] at h; exact absurd (h.symm.trans (sumUp_none l)) nofun
          | some v =>
              obtain ⟨pv, add⟩ := Q.roundFin_up (v := v.2) den num hs
              simp only [hu, hs, Option.map_some] at h
              obtain ⟨pr, le⟩ := ih rest pv h
              refine ⟨pr, ?_⟩
              rw [Q.val_add ha.den pu.den] at add
              rw [Q.val_abs] at up
              simp only [List.map_cons, magSum_cons]
              linarith

/-! ### The parts of a result's words, 03 R102 -/

/-- A term that has a place to ask for: its symbol, its exact and its rounded coefficient, and the bits written of it. -/
def AffExact.rounded (x : AffExact) (t : Nat × Q) : Option (Nat × Q × Q × Nat) :=
  if x.keepZero || !t.2.isZero then
    match Q.roundFin Fp.f32 .rn t.2 with
    | some (b, v) => if v.isZero && !x.keepZero then none else some (t.1, t.2, v, Tab.getD t.1 b x.bits)
    | none => none
  else none

def AffExact.candidates (x : AffExact) : List (Nat × Q × Q × Nat) := x.q.filterMap x.rounded
def AffExact.places (x : AffExact) : Nat := if x.fresh.isSome then 5 else 6

/-- Whether a symbol has one of the places. -/
def AffExact.placed (x : AffExact) (s : Nat) : Bool :=
  ((x.candidates.foldl (fun l t => insertTerm t l) []).take x.places).any fun u => u.1 == s

def AffExact.kept (x : AffExact) : List (Nat × Q × Q × Nat) := x.candidates.filter fun t => x.placed t.1

/-- Whether a term's coefficient goes into the radius. -/
def AffExact.drops (x : AffExact) (t : Nat × Q) : Bool := (x.keepZero || !t.2.isZero) && !x.kept.any fun u => u.1 == t.1

/-- What the radius is summed from, `v` being the centre written. -/
def AffExact.errors (x : AffExact) (v : Q) : List Q :=
  x.pre ++ [x.c.sub v] ++ (x.kept.map fun t => t.2.1.sub t.2.2.1) ++ ((x.q.filter x.drops).map (·.2)) ++ x.post

/-- The terms written: those kept, and the minted one in its place. -/
def AffExact.terms (x : AffExact) : List (Nat × Nat) :=
  let own := x.kept.map fun t => (t.1, t.2.2.2)
  match x.fresh with
  | some f => (own.filter fun t => decide (t.1 ≤ f.1)) ++ [f] ++ (own.filter fun t => decide (f.1 < t.1))
  | none => own

theorem AffExact.words_eq (x : AffExact) : x.words =
    match Q.roundFin Fp.f64 .rn x.c with
    | none => none
    | some (cb, cv) => (sumUp (x.errors cv)).map fun r => affWords (x.cBits.getD cb) (r.round Fp.f64 .ru) x.terms := by
  have cand : x.candidates = ((x.q.filter fun t => x.keepZero || !t.2.isZero).map fun t => (t.1, t.2, Q.roundFin Fp.f32 .rn t.2)).filterMap
      fun t => match t.2.2 with
        | some (b, v) => if v.isZero && !x.keepZero then none else some (t.1, t.2.1, v, Tab.getD t.1 b x.bits)
        | none => none := by
    rw [List.filterMap_map, List.filterMap_filter]
    rfl
  have gone : x.q.filter x.drops = (x.q.filter fun t => x.keepZero || !t.2.isZero).filter fun t => !(x.kept.any fun u => u.1 == t.1) := by
    rw [List.filter_filter]
    refine List.filter_congr fun t _ => ?_
    exact Bool.and_comm _ _
  unfold AffExact.words AffExact.errors
  rw [gone]
  unfold AffExact.terms AffExact.kept AffExact.placed AffExact.places
  rw [cand]
  cases Q.roundFin Fp.f64 .rn x.c with
  | none => rfl
  | some c =>
      have summed (e : Option Q) (g : Q → List Word) : (match e with | none => none | some r => some (g r)) = e.map g := by cases e <;> rfl
      exact summed _ _

theorem AffExact.of_words {x : AffExact} {ws : List Word} (h : x.words = some ws) : ∃ cb cv r,
    Q.roundFin Fp.f64 .rn x.c = some (cb, cv) ∧ sumUp (x.errors cv) = some r
      ∧ ws = affWords (x.cBits.getD cb) (r.round Fp.f64 .ru) x.terms := by
  rw [AffExact.words_eq] at h
  split at h
  · cases h
  · next cb cv hc =>
    obtain ⟨r, hr, rfl⟩ := Option.map_eq_some_iff.1 h
    exact ⟨cb, cv, r, hc, hr, rfl⟩

theorem AffExact.of_rounded {x : AffExact} {t : Nat × Q} {u : Nat × Q × Q × Nat} (h : x.rounded t = some u) :
    (x.keepZero || !t.2.isZero) = true ∧ ∃ b v, Q.roundFin Fp.f32 .rn t.2 = some (b, v) ∧ u = (t.1, t.2, v, Tab.getD t.1 b x.bits) := by
  unfold AffExact.rounded at h
  split at h
  · next live =>
    split at h
    · next b v hr =>
      split at h
      · cases h
      · cases h
        exact ⟨live, b, v, hr, rfl⟩
    · cases h
  · cases h

/-- A term kept comes from a term of the result. -/
theorem AffExact.of_kept {x : AffExact} {u : Nat × Q × Q × Nat} (h : u ∈ x.kept) : ∃ t ∈ x.q, x.rounded t = some u ∧ x.placed u.1 = true := by
  obtain ⟨mem, placed⟩ := List.mem_filter.1 h
  obtain ⟨t, ht, hu⟩ := List.mem_filterMap.1 mem
  exact ⟨t, ht, hu, placed⟩

theorem AffExact.terms_perm (x : AffExact) : x.terms.Perm (x.fresh.toList ++ x.kept.map fun t => (t.1, t.2.2.2)) := by
  unfold AffExact.terms
  cases x.fresh with
  | none => exact List.Perm.refl _
  | some f =>
      have parts := List.filter_append_perm (fun t : Nat × Nat => decide (t.1 ≤ f.1)) (x.kept.map fun t => (t.1, t.2.2.2))
      simp only [← decide_not, Nat.not_le] at parts
      dsimp only
      rw [List.append_assoc]
      exact List.perm_middle.trans (parts.cons f)

theorem AffExact.mem_terms (x : AffExact) {p : Nat × Nat} : p ∈ x.terms ↔ (∃ u ∈ x.kept, (u.1, u.2.2.2) = p) ∨ x.fresh = some p := by
  rw [x.terms_perm.mem_iff, List.mem_append, Option.mem_toList, List.mem_map, or_comm]

/-! ### How many terms are written -/

section
variable {x : AffExact} (once : (x.q.map (·.1)).Nodup)
include once

theorem AffExact.nodup_kept : (x.kept.map (·.1)).Nodup := by
  have sub : (x.candidates.map (·.1)).Sublist (x.q.map (·.1)) := by
    unfold AffExact.candidates
    induction x.q with
    | nil => exact .slnil
    | cons t q ih =>
        rw [List.filterMap_cons]
        cases hr : x.rounded t with
        | none => exact ih.cons _
        | some u =>
            obtain ⟨-, b, v, -, rfl⟩ := AffExact.of_rounded hr
            exact ih.cons_cons _
  exact once.sublist ((List.filter_sublist.map _).trans sub)

theorem AffExact.length_kept : x.kept.length ≤ x.places := by
  have within : x.kept.map (·.1) ⊆ ((x.candidates.foldl (fun l t => insertTerm t l) []).take x.places).map (·.1) := by
    intro s hs
    obtain ⟨u, hu, rfl⟩ := List.mem_map.1 hs
    obtain ⟨w, hw, e⟩ := List.any_eq_true.1 (List.mem_filter.1 hu).2
    exact List.mem_map.2 ⟨w, hw, by simpa using e⟩
  have := (List.subperm_of_subset (AffExact.nodup_kept once) within).length_le
  rw [List.length_map, List.length_map, List.length_take] at this
  exact this.trans (Nat.min_le_left _ _)

theorem AffExact.length_terms : x.terms.length ≤ 6 := by
  have few := AffExact.length_kept once
  rw [x.terms_perm.length_eq]
  unfold AffExact.places at few
  cases hf : x.fresh <;> simp [hf] at few ⊢ <;> omega

/-- A result has sixteen words. -/
theorem AffExact.length_words {ws : List Word} (h : x.words = some ws) : ws.length = 16 := by
  obtain ⟨cb, cv, r, -, -, rfl⟩ := AffExact.of_words h
  exact length_affWords _ _ (AffExact.length_terms once)

end

/-! ### A result that can be written -/

/-- A result as the operations give one: its fractions proper, its symbols ids, the bits it copies those of its numbers, and its
minted symbol none of its own. -/
structure AffExact.Proper (x : AffExact) : Prop where
  centre : 0 < x.c.den
  terms : termsOk x.q
  ids : ∀ t ∈ x.q, 0 < t.1 ∧ t.1 < 65536
  radii : ∀ y ∈ x.pre ++ x.post, 0 < y.den
  bits : ∀ t ∈ x.q, ∀ b, Tab.find t.1 x.bits = some b → b < 2 ^ 32 ∧ Fp.f32.num? b = some t.2.val
  cBits : ∀ b, x.cBits = some b → b < 2 ^ 64 ∧ Fp.f64.num? b = some x.c.val
  fresh : ∀ n b, x.fresh = some (n, b) → 0 < n ∧ n < 65536 ∧ (∀ t ∈ x.q, t.1 ≠ n) ∧ b < 2 ^ 32 ∧ ∃ v, Fp.f32.num? b = some v

theorem Q.ofVal_of_num? {f : Fp.Fmt} {b : Nat} {v : Rat} (h : f.num? b = some v) : ∃ w, Q.ofVal (Fp.decode f b) = some w ∧ w.val = v := by
  rw [Fp.Fmt.num?, Q.num?_eq_val] at h
  exact Option.map_eq_some_iff.1 h

namespace AffExact.Proper

variable {x : AffExact} (h : x.Proper)
include h

theorem once : (x.q.map (·.1)).Nodup := h.terms.1.imp Nat.ne_of_lt

/-- A symbol stands in one term. -/
theorem unique {t u : Nat × Q} (ht : t ∈ x.q) (hu : u ∈ x.q) (e : t.1 = u.1) : t = u := by
  obtain ⟨s, v⟩ := t
  obtain ⟨s', w⟩ := u
  obtain rfl : s = s' := e
  have := (Machine.Rising.find h.terms.1 ht).symm.trans (Machine.Rising.find h.terms.1 hu)
  simpa using this

/-- The centre's bits stand for it within the error that the radius takes up. -/
theorem centre_bits {cb : Nat} {cv : Q} (hc : Q.roundFin Fp.f64 .rn x.c = some (cb, cv)) :
    x.cBits.getD cb < 2 ^ 64 ∧ ∃ w, Q.ofVal (Fp.decode Fp.f64 (x.cBits.getD cb)) = some w ∧ |x.c.val - w.val| ≤ |(x.c.sub cv).val| := by
  cases hb : x.cBits with
  | some b =>
      obtain ⟨small, num⟩ := h.cBits b hb
      obtain ⟨w, hw, val⟩ := Q.ofVal_of_num? num
      exact ⟨small, w, hw, by rw [val, sub_self, abs_zero]; exact abs_nonneg _⟩
  | none =>
      have dv := Q.den_roundFin hc
      obtain ⟨w, hw, e⟩ := Option.map_eq_some_iff.1 hc
      cases e
      exact ⟨Q.round_lt Fp.f64_ieee .rn x.c, _, hw, by rw [Q.val_sub h.centre dv]⟩

/-- So do those of a coefficient. -/
theorem term_bits {t : Nat × Q} (ht : t ∈ x.q) {u : Nat × Q × Q × Nat} (hu : x.rounded t = some u) :
    u.1 = t.1 ∧ u.2.1 = t.2 ∧ 0 < u.2.2.1.den ∧ u.2.2.2 < 2 ^ 32
      ∧ ∃ w, Q.ofVal (Fp.decode Fp.f32 u.2.2.2) = some w ∧ |t.2.val - w.val| ≤ |(u.2.1.sub u.2.2.1).val| := by
  obtain ⟨-, b, v, hr, rfl⟩ := AffExact.of_rounded hu
  have dv := Q.den_roundFin hr
  refine ⟨rfl, rfl, dv, ?_⟩
  dsimp only
  unfold Tab.getD
  cases hb : Tab.find t.1 x.bits with
  | some b' =>
      obtain ⟨small, num⟩ := h.bits t ht b' hb
      obtain ⟨w, hw, val⟩ := Q.ofVal_of_num? num
      exact ⟨small, w, hw, by rw [val, sub_self, abs_zero]; exact abs_nonneg _⟩
  | none =>
      obtain ⟨w, hw, e⟩ := Option.map_eq_some_iff.1 hr
      cases e
      exact ⟨Q.round_lt Fp.f32_ieee .rn t.2, _, hw, by rw [Q.val_sub (h.terms.2 t ht) dv]⟩

/-- The numbers that the radius is summed from are proper fractions. -/
theorem den_errors {cv : Q} (hc : 0 < cv.den) : ∀ y ∈ x.errors cv, 0 < y.den := by
  unfold AffExact.errors
  intro y hy
  simp only [List.mem_append, List.mem_singleton, List.mem_map] at hy
  rcases hy with (((hy | rfl) | ⟨u, hu, rfl⟩) | ⟨t, ht, rfl⟩) | hy
  · exact h.radii y (List.mem_append_left _ hy)
  · exact Q.den_sub h.centre hc
  · obtain ⟨t, ht, hr, -⟩ := AffExact.of_kept hu
    obtain ⟨-, e, dv, -⟩ := h.term_bits ht hr
    exact Q.den_sub (e ▸ h.terms.2 t ht) dv
  · exact h.terms.2 t (List.mem_filter.1 ht).1
  · exact h.radii y (List.mem_append_right _ hy)

/-- The terms written have ids and finite coefficients. -/
theorem of_terms {p : Nat × Nat} (hp : p ∈ x.terms) : 0 < p.1 ∧ p.1 < 65536 ∧ p.2 < 2 ^ 32 ∧ (Q.ofVal (Fp.decode Fp.f32 p.2)).isSome := by
  rcases x.mem_terms.1 hp with ⟨u, hu, rfl⟩ | hf
  · obtain ⟨t, ht, hr, -⟩ := AffExact.of_kept hu
    obtain ⟨e, -, -, small, w, hw, -⟩ := h.term_bits ht hr
    obtain ⟨pos, below⟩ := h.ids t ht
    exact ⟨e ▸ pos, e ▸ below, small, by rw [hw]; rfl⟩
  · obtain ⟨pos, below, -, small, v, hv⟩ := h.fresh p.1 p.2 hf
    obtain ⟨w, hw, -⟩ := Q.ofVal_of_num? hv
    exact ⟨pos, below, small, by rw [hw]; rfl⟩

/-- Each symbol is written once. -/
theorem nodup_terms : (x.terms.map (·.1)).Nodup := by
  rw [(x.terms_perm.map _).nodup_iff, List.map_append, List.nodup_append]
  have own : ((x.kept.map fun t => (t.1, t.2.2.2)).map (·.1)).Nodup := by
    rw [List.map_map]
    exact AffExact.nodup_kept h.once
  refine ⟨?_, own, fun s hs s' hs' e => ?_⟩
  · cases x.fresh <;> simp
  · subst e
    obtain ⟨f, hf, rfl⟩ := List.mem_map.1 hs
    obtain ⟨p, hp, e⟩ := List.mem_map.1 hs'
    obtain ⟨u, hu, rfl⟩ := List.mem_map.1 hp
    obtain ⟨t, ht, hr, -⟩ := AffExact.of_kept hu
    obtain ⟨e', -⟩ := h.term_bits ht hr
    obtain ⟨-, -, apart, -⟩ := h.fresh f.1 f.2 (Option.mem_toList.1 hf)
    exact apart t ht (e'.symm.trans e)

/-- A term is among those kept, by its symbol, where it has a place. -/
theorem any_kept {t : Nat × Q} (ht : t ∈ x.q) : (x.kept.any fun u => u.1 == t.1) = (x.rounded t).any fun u => x.placed u.1 := by
  rw [Bool.eq_iff_iff, List.any_eq_true, Option.any_eq_true]
  constructor
  · rintro ⟨u, hu, e⟩
    obtain ⟨t', ht', hr, placed⟩ := AffExact.of_kept hu
    obtain ⟨e', -⟩ := h.term_bits ht' hr
    obtain rfl : t' = t := h.unique ht' ht (e'.symm.trans (by simpa using e))
    exact ⟨u, hr, placed⟩
  · rintro ⟨u, hr, placed⟩
    obtain ⟨e, -⟩ := h.term_bits ht hr
    exact ⟨u, List.mem_filter.2 ⟨List.mem_filterMap.2 ⟨t, ht, hr⟩, placed⟩, by simp [e]⟩

/-- The error of a coefficient goes into the radius, whether its term is kept, is dropped or was none. -/
theorem coefficient_error {q : List (Nat × Q)} (written : ∀ p ∈ x.terms, Fp.f32.num? p.2 = some (coefOf q p.1))
    (absent : ∀ s, (∀ p ∈ x.terms, p.1 ≠ s) → coefOf q s = 0) {t : Nat × Q} (ht : t ∈ x.q) :
    |t.2.val - coefOf q t.1| ≤ |(((x.rounded t).filter fun u => x.placed u.1).map fun u => (u.2.1.sub u.2.2.1).val).getD 0|
      + |if x.drops t then t.2.val else 0| := by
  have kept := h.any_kept ht
  cases any : x.kept.any fun u => u.1 == t.1 with
  | true =>
      rw [any] at kept
      obtain ⟨u, hr, placed⟩ := (Option.any_eq_true _ _).1 kept.symm
      obtain ⟨e, -, -, -, w, hw, le⟩ := h.term_bits ht hr
      have hu : u ∈ x.kept := List.mem_filter.2 ⟨List.mem_filterMap.2 ⟨t, ht, hr⟩, placed⟩
      have num := written (u.1, u.2.2.2) (x.mem_terms.2 (.inl ⟨u, hu, rfl⟩))
      rw [Fp.Fmt.num?, Q.num?_eq_val, hw, Option.map_some, Option.some.injEq] at num
      have coef : coefOf q t.1 = w.val := by rw [← e, ← num]
      rw [hr, Option.filter_some_pos (p := fun u : Nat × Q × Q × Nat => x.placed u.1) placed, coef]
      exact le_trans le (le_add_of_nonneg_right (abs_nonneg _))
  | false =>
      have none_ : coefOf q t.1 = 0 := by
        refine absent t.1 fun p hp e => ?_
        rcases x.mem_terms.1 hp with ⟨u, hu, rfl⟩ | hf
        · exact absurd (any.symm.trans (List.any_eq_true.2 ⟨u, hu, beq_iff_eq.2 e⟩)) Bool.false_ne_true
        · obtain ⟨-, -, apart, -⟩ := h.fresh p.1 p.2 hf
          exact apart t ht e.symm
      rw [none_, sub_zero]
      refine le_trans ?_ (le_add_of_nonneg_left (abs_nonneg _))
      unfold AffExact.drops
      rw [any, Bool.not_false, Bool.and_true]
      split
      · exact le_rfl
      · next dead =>
        have zero : t.2.isZero = true := by
          cases hz : t.2.isZero
          · exact absurd (by simp [hz]) dead
          · rfl
        rw [(Q.isZero_iff (h.terms.2 t ht)).1 zero]

/-- What the words stand for, with the errors of its centre and coefficients in its radius. -/
theorem encloses {ws : List Word} (hw : x.words = some ws) : ∃ y, Aff.ofWords (fun i => ws.getD i 0) = some y
    ∧ |x.c.val - y.c.val| + magSum (x.q.map fun t => t.2.val - coefOf y.q t.1) + magSum ((x.pre ++ x.post).map Q.val) ≤ y.r.val
    ∧ (∀ p ∈ x.terms, Fp.f32.num? p.2 = some (coefOf y.q p.1)) ∧ (∀ s, (∀ p ∈ x.terms, p.1 ≠ s) → coefOf y.q s = 0) ∧ termsOk y.q := by
  obtain ⟨cb, cv, r, hc, hr, rfl⟩ := AffExact.of_words hw
  obtain ⟨small, w, hwc, centre⟩ := h.centre_bits hc
  obtain ⟨pr, sum⟩ := le_sumUp (h.den_errors (Q.den_roundFin hc)) hr
  obtain ⟨v, hv⟩ := Q.roundFin_up_finite Fp.f64_ieee pr.den pr.num pr.most
  have up := Q.le_roundFin_up Fp.f64_ieee pr.den pr.num hv
  obtain ⟨v', hv', e⟩ := Option.map_eq_some_iff.1 hv
  cases e
  obtain ⟨y, read, yc, yr, ok, written, absent⟩ := ofWords_affWords small hwc (Q.round_lt_of_nonneg Fp.f64_ieee .ru pr.num) hv'
    (AffExact.length_terms h.once) h.nodup_terms (fun p hp => ⟨(h.of_terms hp).1, (h.of_terms hp).2.1, (h.of_terms hp).2.2.1⟩)
    fun p hp => (h.of_terms hp).2.2.2
  refine ⟨y, read, ?_, written, absent, ok⟩
  have terms := magSum_le_add fun t ht => h.coefficient_error written absent ht
  rw [← magSum_filterMap, ← magSum_filter] at terms
  have kept : (x.q.filterMap fun t => (x.rounded t).filter fun u => x.placed u.1) = x.kept := by
    unfold AffExact.kept AffExact.candidates
    rw [List.filter_filterMap]
  rw [kept] at terms
  simp only [AffExact.errors, List.map_append, magSum_append, List.map_map, List.map_cons, List.map_nil, magSum_cons, magSum_nil] at sum
  rw [yc, yr, List.map_append, magSum_append]
  simp only [Function.comp_def] at sum
  linarith

end AffExact.Proper

/-- Settles O29: every error of rounding and every dropped term is one of the numbers whose magnitudes the radius sums upward. -/
theorem affineEncloses : Obligations.AffineEncloses := by
  unfold Obligations.AffineEncloses
  intro x ws hw centre terms ids radii bits cBits fresh
  have h : x.Proper := ⟨centre, terms, ids, radii, bits, cBits, fresh⟩
  obtain ⟨y, read, radius, written, absent, ok⟩ := h.encloses hw
  refine ⟨AffExact.length_words h.once hw, y, read, ?_, fun n b hf => ?_, fun s hs => ?_, ok.1⟩
  · rw [ratAbs_eq_abs]
    exact radius
  · exact written (n, b) (x.mem_terms.2 (.inr hf))
  · by_contra no
    obtain ⟨own, minted⟩ := not_or.1 no
    refine hs (absent s fun p hp e => ?_)
    rcases x.mem_terms.1 hp with ⟨u, hu, rfl⟩ | hf
    · obtain ⟨t, ht, hr, -⟩ := AffExact.of_kept hu
      obtain ⟨e', -⟩ := h.term_bits ht hr
      exact own ⟨t, ht, e'.symm.trans e⟩
    · exact minted (by rw [hf, ← e]; rfl)

end Sys2Proof
end

section
/-! SUPPORT. A result of an affine instruction written to its register, whatever it drew its symbol from (02 R75, R76, 10 R267). -/

namespace Sys2Proof.Machine

/-! ### Consecutive registers written -/

/-- Registers from an index up with words put into them. -/
def putWords (g : Nat) : List Word → List (Nat × Word) → List (Nat × Word)
  | [], v => v
  | w :: ws, v => putWords (g + 1) ws (Tab.put g w v)

theorem Thread.puts_eq (t : Thread) (g : Nat) (ws : List Word) : t.puts g ws = { t with v := putWords g ws t.v } := by
  induction ws generalizing t g with
  | nil => rfl
  | cons w ws ih => exact ih _ _

/-- Registers written where the row has room for them: the thread's words change, and notes of the pool. -/
theorem State.writeVs_like {u : State} {k : Nat} {c : Convoy} (kept : Kept u k c) (g : Nat) (ws : List Word)
    (room : u.hasRoom k (List.range' g ws.length) = true) :
    Like (u.writeVs k g ws) (u.setTh k fun t => t.puts g ws) k ∧ Kept (u.writeVs k g ws) k c := by
  induction ws generalizing u g with
  | nil =>
      have same : (u.setTh k fun t => t.puts g []) = u := by
        unfold State.setTh
        rw [show (fun t : Thread => t.puts g []) = fun t => t from rfl, Tab.modify_id]
      rw [same]
      exact ⟨Like.refl _ _, kept⟩
  | cons w ws ih =>
      obtain ⟨front, there, unreserved⟩ := kept
      rw [List.length_cons, List.range'_succ] at room
      obtain ⟨R, eq, free, left⟩ := State.writeV_room unreserved room w
      have present : (Tab.find k ({ u with rows := R } : State).threads).isSome := there
      obtain ⟨like, kept⟩ := ih (u := u.writeV k g w) (by rw [eq]; exact ⟨front, State.setTh_present present _, free⟩) (g + 1)
        (by rw [eq]; exact left)
      refine ⟨like.trans ?_, kept⟩
      rw [eq]
      have self := State.th_setTh_self (s := ({ u with rows := R } : State).setTh k fun t =>
        { t.endElig g with v := Tab.put g w t.v, dropped := t.dropped.filter (· != g) }) (fun t => t.puts (g + 1) ws) (State.setTh_present present _)
      rw [State.th_setTh_self _ present] at self
      have goal := State.th_setTh_self (s := u) (fun t => t.puts g (w :: ws)) there
      refine ⟨?_, ?_, ?_, fun j hj => ?_, rfl⟩
      · rw [self, goal, Thread.puts_eq, Thread.puts_eq]; rfl
      · rw [self, goal, Thread.puts_eq, Thread.puts_eq]; rfl
      · rw [self, goal, Thread.puts_eq, Thread.puts_eq]; rfl
      · rw [State.th_setTh_ne _ hj, State.th_setTh_ne _ hj, State.th_setTh_ne _ hj]; rfl

/-- Sixteen words written to an affine register where the row has room for them. -/
def Thread.putAff (t : Thread) (n : Nat) (ws : List Word) (fl : Fp.Flags) : Thread :=
  { (({ t with fflg := t.fflg ||| fl } : Thread).puts n ws) with
    affine := if t.affine.contains (n / 16) then t.affine else t.affine ++ [n / 16] }

theorem State.setFlags_eq (s : State) (k : Nat) (fl : Fp.Flags) : s.setFlags k fl = s.setTh k fun t => { t with fflg := t.fflg ||| fl } := by
  unfold State.setFlags
  split
  · next zero =>
    subst zero
    unfold State.setTh
    rw [show (fun t : Thread => { t with fflg := t.fflg ||| 0 }) = fun t => t by funext t; simp, Tab.modify_id]
  · rfl

theorem State.writeAff_like {u : State} {k : Nat} {c : Convoy} (kept : Kept u k c) {d : Spec} {ws : List Word} (fl : Fp.Flags)
    (room : u.hasRoom k (List.range' d.vIndex ws.length) = true) :
    Like (u.writeAff k d ws fl) (u.setTh k fun t => t.putAff d.vIndex ws fl) k ∧ Kept (u.writeAff k d ws fl) k c := by
  obtain ⟨front, there, unreserved⟩ := kept
  obtain ⟨like, kept⟩ := State.writeVs_like (u := u.setTh k fun t => { t with fflg := t.fflg ||| fl })
    ⟨front, State.setTh_present there _, unreserved⟩ d.vIndex ws room
  unfold State.writeAff
  rw [State.setFlags_eq]
  dsimp only
  generalize ((u.setTh k fun t => { t with fflg := t.fflg ||| fl }).writeVs k d.vIndex ws) = w at like kept
  refine ⟨?_, kept.front, State.setTh_present kept.present _, kept.unreserved⟩
  have goal := State.th_setTh_self (fun t => t.putAff d.vIndex ws fl) there
  have now : (((u.setTh k fun t => { t with fflg := t.fflg ||| fl }).setTh k fun t => t.puts d.vIndex ws).th k)
      = ({ u.th k with fflg := (u.th k).fflg ||| fl } : Thread).puts d.vIndex ws := by
    rw [State.th_setTh_self _ (State.setTh_present there _), State.th_setTh_self _ there]
  have regs := like.regs
  have flow := like.flow
  have jump := like.jump
  rw [now, Thread.puts_eq] at regs flow jump
  have affine : (w.th k).affine = (u.th k).affine := by
    show (w.th k).regs.affine = _
    rw [regs]
    rfl
  have self := State.th_setTh_self (s := w) (fun t => { t with
    affine := if t.affine.contains (d.vIndex / 16) then t.affine else t.affine ++ [d.vIndex / 16] }) kept.present
  rw [affine] at self
  refine ⟨?_, ?_, ?_, fun j hj => ?_, like.world.trans rfl⟩
  · have set (t : Thread) (l : List Nat) : ({ t with affine := l } : Thread).regs = { t.regs with affine := l } := rfl
    rw [self, goal, Thread.putAff, Thread.puts_eq, set, set, regs]
    rfl
  · rw [self, goal, Thread.putAff, Thread.puts_eq]
    exact flow
  · rw [self, goal, Thread.putAff, Thread.puts_eq]
    exact jump
  · rw [State.th_setTh_ne _ hj, like.others j hj, State.th_setTh_ne _ hj, State.th_setTh_ne _ hj, State.th_setTh_ne _ hj]

/-! ### What an affine instruction writes -/

/-- The state with an exact result written: its words, or the NaN result with OF where it would overflow (03 R103). -/
def State.putAff (s : State) (k : Nat) (d : Spec) (x : AffExact) : State :=
  s.setTh k fun t => t.putAff d.vIndex (x.words.getD affNaN) (if x.words.isSome then 0 else Fp.OF)

/-- The effect of writing it. -/
def State.affWrite (s : State) (k : Nat) (d : Spec) (x : AffExact) : Eff :=
  .done (s.writeAff k d (x.words.getD affNaN) (if x.words.isSome then 0 else Fp.OF))

theorem length_affNaN : affNaN.length = 16 := rfl

theorem AffExact.length_written {x : AffExact} (once : (x.q.map (·.1)).Nodup) : (x.words.getD affNaN).length = 16 := by
  cases h : x.words with
  | none => rfl
  | some ws => exact AffExact.length_words once h

/-- Two states that agree but for memory and the blocks of symbols. -/
structure Drawn (s u : State) : Prop where
  threads : u.threads = s.threads
  convoys : u.convoys = s.convoys
  crews : ∀ c, (u.cr c).core = (s.cr c).core ∧ (u.cr c).place = (s.cr c).place ∧ (u.cr c).launch = (s.cr c).launch
  launches : u.launches = s.launches

theorem Drawn.refl (s : State) : Drawn s s := ⟨rfl, rfl, fun _ => ⟨rfl, rfl, rfl⟩, rfl⟩

theorem Drawn.trans {a b c : State} (h : Drawn a b) (g : Drawn b c) : Drawn a c := by
  refine ⟨g.threads.trans h.threads, g.convoys.trans h.convoys, fun q => ?_, g.launches.trans h.launches⟩
  obtain ⟨core, place, launch⟩ := g.crews q
  obtain ⟨core', place', launch'⟩ := h.crews q
  exact ⟨core.trans core', place.trans place', launch.trans launch'⟩

theorem Drawn.setCr (s : State) (c : Nat) (b : Option (Nat × Nat)) (d : Option Nat) :
    Drawn s (s.setCr c fun x => { x with block := b, draw := d }) := by
  refine ⟨rfl, rfl, fun q => ?_, rfl⟩
  rw [State.cr_setCr]
  split <;> exact ⟨rfl, rfl, rfl⟩

theorem State.crews_homeStore (s : State) (pa : Nat) (bs : List Byte) : (s.homeStore pa bs).crews = s.crews := by
  have e := congrArg State.crews (s.besideMem_homeStore pa bs)
  exact e

theorem Drawn.homeStore (s : State) (pa : Nat) (bs : List Byte) : Drawn s (s.homeStore pa bs) := by
  refine ⟨s.threads_homeStore pa bs, ?_, fun q => ?_, s.launches_homeStore pa bs⟩
  · have e := congrArg State.convoys (s.besideMem_homeStore pa bs)
    exact e
  · unfold State.cr
    rw [s.crews_homeStore]
    exact ⟨rfl, rfl, rfl⟩

theorem Drawn.hasRoom {s u : State} (h : Drawn s u) (C P R) (k : Nat) (gs : List Nat) :
    (u.noted C P R).hasRoom k gs = (s.noted C P R).hasRoom k gs :=
  State.hasRoom_congr (s := s.noted C P R) (t := u.noted C P R) rfl (fun c => (h.crews c).1) (fun c => (h.crews c).2.1) (fun c => (h.crews c).2.2)
    (fun l => by
      show (u.la l).rcd = (s.la l).rcd
      unfold State.la
      rw [h.launches]) k gs

theorem range_map_add (g n : Nat) : (List.range n).map (g + ·) = List.range' g n := by
  rw [List.range_eq_range', List.map_add_range', Nat.add_zero]

/-- A word that is ready and writes sixteen words to an affine register, from a state that has drawn its symbol. -/
theorem Ready.writesAff {s i h k c} (r : Ready s i h k c) {block : State → Nat → Bool} {eff : State → Nat → Eff} {d : Spec}
    (he : exec i s = .next (s.issueEach i block eff)) (hb : block s k = false)
    (room : s.hasRoom k ((List.range 16).map (d.vIndex + ·)) = true) {u : State} (drawn : Drawn s u) {ws : List Word} {fl : Fp.Flags}
    (sixteen : ws.length = 16) (hd : ∀ C P R, eff (s.noted C P R) k = .done ((u.noted C P R).writeAff k d ws fl)) :
    Completes s i k (u.setTh k fun t => t.putAff d.vIndex ws fl) := by
  refine r.does he hb _ fun C P R kept marks => ?_
  have kept' : Kept (u.noted C P R) k c := by
    refine ⟨?_, ?_, kept.unreserved⟩
    · unfold State.front
      rw [show (u.noted C P R).convoys = s.convoys from drawn.convoys]
      exact kept.front
    · rw [show (u.noted C P R).threads = s.threads from drawn.threads]
      exact kept.present
  have free : (u.noted C P R).hasRoom k (List.range' d.vIndex ws.length) = true := by
    rw [drawn.hasRoom, sixteen, ← range_map_add]
    exact State.noted_room room marks
  obtain ⟨like, kept''⟩ := State.writeAff_like kept' fl free
  exact ⟨_, hd C P R, like.trans (Like.setTh_noted _ _ _ _ _ _), kept''⟩

end Sys2Proof.Machine
end

section
/-! SUPPORT. Mint() as an affine instruction finds it: a symbol of the crew's block, of a block drawn from the pool, a pool that is used
up, a request to launch device 0 (02 R76); and where an operation puts its error (10 R267, R268). -/

namespace Sys2Proof.Machine

/-! ### Memory written beside the notes of the issue logic -/

theorem State.recall_noted (s : State) (C P R) (line : Nat) : (s.noted C P R).recall line = (s.recall line).noted C P R := by
  unfold State.recall
  rw [show (s.noted C P R).ownerOf line = s.ownerOf line from rfl]
  cases s.ownerOf line <;> rfl

theorem State.homeStore_noted (s : State) (C P R) (pa : Nat) (bs : List Byte) :
    (s.noted C P R).homeStore pa bs = (s.homeStore pa bs).noted C P R := by
  have all (l : List (Nat × Byte)) (u : State) : (u.noted C P R).homeWriteAll pa l = (u.homeWriteAll pa l).noted C P R := by
    induction l generalizing u with
    | nil => rfl
    | cons e l ih =>
        have one : (u.noted C P R).homeWrite (pa + e.1) [e.2] = (u.homeWrite (pa + e.1) [e.2]).noted C P R := by
          unfold State.homeWrite
          rw [State.recall_noted]
          rfl
        unfold State.homeWriteAll
        rw [one]
        exact ih _
  unfold State.homeStore
  rw [all]
  rfl

theorem State.askBlock_noted (s : State) (C P R) (k : Nat) (la : Launch) :
    (s.noted C P R).askBlock k la = (s.askBlock k la).noted C P R := by
  have send (u : State) (f : Flit) : (u.noted C P R).send f = (u.send f).noted C P R := by
    unfold State.send
    rw [show (u.noted C P R).reg 0x600 = u.reg 0x600 from rfl]
    split <;> rfl
  have remote (u : State) (id : Nat) (o : Op) (dev pa : Nat) : (u.noted C P R).sendRemote id o dev pa = (u.sendRemote id o dev pa).noted C P R := by
    have request : o.request (u.noted C P R) = o.request u := rfl
    unfold State.sendRemote
    rw [request]
    exact send { u with remote := u.remote ++
      [{ op := id, dev := dev, job := (u.la (u.cr o.crew).launch).rcd.jobid, at_ := u.ns, gen := u.gen (.peer dev) }] } _
  have ask (o : Op) (dev pa : Nat) : (s.noted C P R).ask o dev pa = (s.ask o dev pa).noted C P R := by
    unfold State.ask
    dsimp only
    split
    · exact remote ((s.newOp o).dropCopies o.core fun c => c.dev == some dev && c.line == lineOf pa && !c.kind.isRo) _ _ _ _
    · exact remote (s.newOp o) _ _ _ _
  exact congrArg (fun u : State => u.setCr (crewOf k) fun x => { x with draw := some s.seq }) (ask _ _ _)

/-! ### What Mint() comes to, 02 R76 -/

/-- The state with a symbol of the crew's block taken, the block ending at `last`. -/
def State.takeSymbol (s : State) (c n last : Nat) : State :=
  s.setCr c fun x => { x with block := if n < last then some (n + 1, last) else none, draw := none }

/-- The state in which a crew has found the pool used up. -/
def State.forgetDraw (s : State) (c : Nat) : State := s.setCr c fun x => { x with draw := none }

theorem State.mint_block {s : State} {k n last : Nat} (h : (s.cr (crewOf k)).block = some (n, last)) :
    s.mint k = .got n (s.takeSymbol (crewOf k) n last) := by
  unfold State.mint
  dsimp only
  rw [h]
  rfl

theorem State.mint_pool {s : State} {k pa : Nat} (h : (s.cr (crewOf k)).block = none) (here : (s.laTh k).dev = 0)
    (pool : (s.laTh k).poolAt = some pa) (more : leNat (s.coh pa 8) < (s.laTh k).rcd.sympool / 64) :
    s.mint k = .got (64 * leNat (s.coh pa 8) + 1) ((s.homeStore pa (leBytes 8 (leNat (s.coh pa 8) + 1))).takeSymbol (crewOf k)
      (64 * leNat (s.coh pa 8) + 1) (64 * leNat (s.coh pa 8) + 64)) := by
  unfold State.mint State.drawHere
  simp only [h, here, true_or, if_true, pool, more]
  rfl

theorem State.mint_dry {s : State} {k pa : Nat} (h : (s.cr (crewOf k)).block = none) (here : (s.laTh k).dev = 0)
    (pool : (s.laTh k).poolAt = some pa) (used : (s.laTh k).rcd.sympool / 64 ≤ leNat (s.coh pa 8)) :
    s.mint k = .dry (s.forgetDraw (crewOf k)) := by
  unfold State.mint State.drawHere
  simp only [h, here, true_or, if_true, pool, Nat.not_lt.2 used, if_false]
  rfl

theorem State.mint_asks {s : State} {k : Nat} (h : (s.cr (crewOf k)).block = none) (away : (s.laTh k).dev ≠ 0)
    (some_ : (s.laTh k).rcd.sympool / 64 ≠ 0) (first : (s.cr (crewOf k)).draw = none) (unheld : s.heldOp k = none) :
    s.mint k = .waits (s.askBlock k (s.laTh k)) := by
  unfold State.mint
  simp [h, away, some_, first, unheld]

/-! ### A request sent, its thread standing at the instruction -/

/-- An issue of a convoy of one thread that stands where it stood leaves the state as it is, but for the notes. -/
theorem State.finishIssue_stays {u : State} (hu : u.unreserved) {c : Convoy} {k : Nat} (hf : u.front = some c) (ha : c.mem = [k])
    (here : (u.th k).pc = c.pc) (still : (u.th k).jump = none) (y : Bool) : Same (u.finishIssue c.part c.lane y) u := by
  have settle (f) : (u.setPt c.part f).settleReserve c.part = u.setPt c.part f :=
    State.settleReserve_of_unreserved (s := u.setPt c.part f) hu c.part
  have stands : (c.mem.any fun j => (u.th j).pc == c.pc && (u.th j).jump.isNone) = true := by simp [ha, here, still]
  have th (j f) : (u.setPt c.part f).th j = u.th j := rfl
  unfold State.finishIssue
  simp only [settle, th]
  rw [show (u.setPt c.part fun p => { p with busy := [], ending := [] }).front = some c from hf]
  dsimp only
  rw [if_neg (by simp [Convoy.isOf]), if_pos stands]
  exact ⟨fun _ => rfl, rfl⟩

/-- A word whose effect leaves its thread where it stands, in the state `u`. -/
theorem Ready.stays {s i h k c} (r : Ready s i h k c) {block : State → Nat → Bool} {eff : State → Nat → Eff}
    (he : exec i s = .next (s.issueEach i block eff)) (hb : block s k = false) {u : State} (threads : u.threads = s.threads)
    (convoys : u.convoys = s.convoys) (hd : ∀ C P R, eff (s.noted C P R) k = .left (u.noted C P R)) : ∃ t, exec i s = .next t ∧ Same t u := by
  obtain ⟨C, P, R, begun, -, unreserved⟩ := r.begun
  refine ⟨_, he, ?_⟩
  rw [r.issueEach block hb, begun, hd]
  have th : (u.noted C P R).th k = s.th k := by
    show u.th k = s.th k
    unfold State.th
    rw [threads]
  have front : (u.noted C P R).front = some c := by
    show u.convoys.head? = some c
    rw [convoys]
    exact r.front
  exact (State.finishIssue_stays (u := u.noted C P R) unreserved front r.alone (th ▸ r.here) (th ▸ r.fresh) _).trans (Same.noted u C P R)

theorem State.kept_askBlock (s : State) (k : Nat) (la : Launch) :
    (s.askBlock k la).threads = s.threads ∧ (s.askBlock k la).convoys = s.convoys := by
  have send (u : State) (f : Flit) : (u.send f).threads = u.threads ∧ (u.send f).convoys = u.convoys := by
    unfold State.send
    split <;> exact ⟨rfl, rfl⟩
  unfold State.askBlock State.ask
  dsimp only
  split <;> exact send _ _

/-! ### A cause raised with the crew's request forgotten -/

theorem State.handled_forgetDraw (s : State) (k q : Nat) (cause : BitVec 8) : (s.forgetDraw q).handled k cause = s.handled k cause := by
  have crew : ((s.forgetDraw q).crewTh k).ctx = (s.crewTh k).ctx ∧ ((s.forgetDraw q).crewTh k).launch = (s.crewTh k).launch := by
    unfold State.crewTh State.forgetDraw
    rw [State.cr_setCr]
    split <;> exact ⟨rfl, rfl⟩
  obtain ⟨ctx, launch⟩ := crew
  have la : (s.forgetDraw q).laTh k = s.laTh k := by
    unfold State.laTh
    rw [launch]
    rfl
  have cx : (s.forgetDraw q).cx ((s.forgetDraw q).ctxTh k) = s.cx (s.ctxTh k) := by
    unfold State.ctxTh
    rw [ctx]
    rfl
  unfold State.handled State.toLevel1
  rw [la, cx]
  rfl

theorem Ready.dries {s i h k c} (r : Ready s i h k c) {block : State → Nat → Bool} {eff : State → Nat → Eff} {x : Raise}
    (he : exec i s = .next (s.issueEach i block eff)) (hb : block s k = false) (q : Nat) (hh : s.handled k x.cause = true)
    (hd : ∀ C P R, eff (s.noted C P R) k = .trap x ((s.forgetDraw q).noted C P R)) : Leaves s i k ((s.forgetDraw q).trap k x) := by
  have stands : Stands (s.forgetDraw q) i h k c :=
    ⟨r.head, r.front, r.alone, r.only, r.here, r.fresh, r.live, r.rgu, r.reserve⟩
  refine r.leaves he hb fun C P R unreserved => ?_
  rw [hd]
  exact stands.trap (by rw [State.handled_forgetDraw]; exact hh) C P R unreserved

end Sys2Proof.Machine
end

section
/-! PROOF. O30: where an affine operation puts its error, and what it raises with no symbol left (02 R76, 10 R265 to R270). -/

namespace Sys2Proof

/-! ### The errors of the operations are fractions, 10 R263 to R270 -/

/-- A result whose error is a fraction and whose terms have each their own symbol. -/
structure AffRes.Sound (r : AffRes) : Prop where
  den : 0 < r.e.den
  once : (r.x.q.map (·.1)).Nodup

theorem termsOk.once {q : List (Nat × Q)} (h : termsOk q) : (q.map (·.1)).Nodup := h.1.imp Nat.ne_of_lt

theorem Aff.ok.den_width {a : Aff} (ok : a.ok) : 0 < a.width.den := by
  obtain ⟨-, radius, -, -, dens⟩ := ok
  refine Q.den_add radius (Q.den_sum fun x hx => ?_)
  obtain ⟨t, ht, rfl⟩ := List.mem_map.1 hx
  exact dens t ht

theorem Q.sum_abs_nonneg {l : List Q} (dens : ∀ x ∈ l, 0 < x.den) : 0 ≤ (Q.sum (l.map Q.abs)).val := by
  unfold Q.sum
  have start : 0 < Q.zero.den ∧ 0 ≤ Q.zero.val := by rw [Q.val_zero]; exact ⟨Nat.one_pos, le_rfl⟩
  generalize Q.zero = z at start
  induction l generalizing z with
  | nil => exact start.2
  | cons x l ih =>
      obtain ⟨first, rest⟩ := List.forall_mem_cons.1 dens
      refine ih rest _ ⟨Q.den_add start.1 (b := x.abs) first, ?_⟩
      rw [Q.val_add start.1 (b := x.abs) first, Q.val_abs]
      exact add_nonneg start.2 (abs_nonneg _)

theorem Aff.ok.width_nonneg {a : Aff} (ok : a.ok) : 0 ≤ a.width.val := by
  obtain ⟨-, radius, sign, -, dens⟩ := ok
  have all : ∀ x ∈ a.q.map (·.2), 0 < x.den := fun x hx => by
    obtain ⟨t, ht, rfl⟩ := List.mem_map.1 hx
    exact dens t ht
  have sum : 0 ≤ (Q.sum (a.q.map fun t => t.2.abs)).val := by
    have := Q.sum_abs_nonneg all
    rwa [List.map_map] at this
  have den : 0 < (Q.sum (a.q.map fun t => t.2.abs)).den := Q.den_sum fun x hx => by
    obtain ⟨t, ht, rfl⟩ := List.mem_map.1 hx
    exact dens t ht
  unfold Aff.width
  rw [Q.val_add radius den]
  exact add_nonneg ((Q.val_nonneg_iff radius).2 sign) sum

theorem affMul_sound (mint : Bool) {a b : Aff} (ha : a.ok) (hb : b.ok) : (affMul mint a b).Sound := by
  refine ⟨Q.den_mul ha.den_width hb.den_width, ?_⟩
  obtain ⟨ca, -, -, ta⟩ := ha
  obtain ⟨cb, -, -, tb⟩ := hb
  suffices H : ∀ (l : List Nat) (q : List (Nat × Q)), termsOk q → termsOk (l.foldl (fun q s =>
      Tab.put s ((a.c.mul (Tab.getD s Q.zero b.q)).add (b.c.mul (Tab.getD s Q.zero a.q))) q) q) from (H _ [] termsOk_nil).once
  intro l
  induction l with
  | nil => exact fun q h => h
  | cons s l ih =>
      exact fun q h => ih _ (termsOk_put h s (Q.den_add (Q.den_mul ca (den_getD tb.2 s)) (Q.den_mul cb (den_getD ta.2 s))))

theorem affSqr_sound (mint : Bool) {a : Aff} (ha : a.ok) : (affSqr mint a).Sound := by
  refine ⟨Q.den_half (Q.den_mul ha.den_width ha.den_width), ?_⟩
  obtain ⟨-, -, -, terms⟩ := ha
  have once := terms.once
  unfold affSqr
  rwa [List.map_map]

/-- The bounds of an operand that does not hold 0 are not 0 (10 R266). -/
theorem affRec_sound {mint : Bool} {a : Aff} (ha : a.ok) {r : AffRes} (h : affRec mint a = some r) : r.Sound := by
  have width := ha.den_width
  have positive := ha.width_nonneg
  obtain ⟨centre, -, -, terms⟩ := ha
  have dl : 0 < (a.c.sub a.width).den := Q.den_sub centre width
  have du : 0 < (a.c.add a.width).den := Q.den_add centre width
  have below : (a.c.sub a.width).val ≤ (a.c.add a.width).val := by
    rw [Q.val_sub centre width, Q.val_add centre width]
    linarith
  unfold affRec at h
  dsimp only at h
  generalize a.c.sub a.width = l at h dl below
  generalize a.c.add a.width = u at h du below
  split at h
  · cases h
  · next apart =>
    rw [Bool.and_eq_true, Q.le_iff dl Nat.one_pos, Q.le_iff Nat.one_pos du, Q.val_zero] at apart
    have hl : l.num ≠ 0 := fun e => by
      have zero := (Q.val_eq_zero_iff dl).2 e
      exact apart ⟨le_of_eq zero, zero ▸ below⟩
    have hu : u.num ≠ 0 := fun e => by
      have zero := (Q.val_eq_zero_iff du).2 e
      exact apart ⟨zero ▸ below, ge_of_eq zero⟩
    have slope : 0 < ((if Q.lt u.abs l.abs then l else u).mul (if Q.lt u.abs l.abs then l else u)).inv.neg.den := by
      split
      · exact Q.den_inv (mul_ne_zero hl hl)
      · exact Q.den_inv (mul_ne_zero hu hu)
    cases h
    refine ⟨Q.den_half (Q.den_sub (Q.den_sub (Q.den_inv hl) (Q.den_mul slope dl)) (Q.den_sub (Q.den_inv hu) (Q.den_mul slope du))), ?_⟩
    have once := terms.once
    rwa [List.map_map]

theorem affCond_sound (mint : Bool) (n : Nat) (t : Fp.Val) {a : Aff} (ha : a.ok) : (affCond mint n t a).Sound := by
  obtain ⟨-, -, -, terms⟩ := ha
  refine ⟨Q.den_sum fun x hx => ?_, terms.once.sublist (List.filter_sublist.map _)⟩
  obtain ⟨u, hu, rfl⟩ := List.mem_map.1 hx
  exact terms.2 u (List.mem_filter.1 hu).1

theorem affIni_sound (sym cBits : Nat) (c : Q) {w : Q} (hw : 0 < w.den) : (affIni sym cBits c w).Sound := by
  unfold affIni
  split
  · exact ⟨hw, List.nodup_nil⟩
  · refine ⟨Nat.one_pos, ?_⟩
    dsimp only
    split
    · exact List.nodup_nil
    · exact List.nodup_singleton _

/-- The bits a minted symbol's coefficient is written with, if the result may mint and its error has an FP32 number above it. -/
def AffRes.coef (r : AffRes) : Option (Nat × Q) := if r.mint then Q.roundFin Fp.f32 .ru r.e else none

/-- A result whose error has to be placed. -/
theorem AffRes.not_errorless {r : AffRes} (sound : r.Sound) (h : r.e.val ≠ 0 ∨ r.always = true) : ¬(r.e.isZero && !r.always) = true := by
  rw [Bool.and_eq_true, Q.isZero_iff sound.den, Bool.not_eq_true']
  rintro ⟨zero, no⟩
  rcases h with h | h
  · exact h zero
  · rw [h] at no
    cases no

namespace Machine

/-! ### Where a result's error goes, 10 R267, R268 -/

theorem State.put_eq_affWrite (s : State) (k : Nat) (d : Spec) (x : AffExact) : (match x.words with
    | some ws => Eff.done (s.writeAff k d ws 0)
    | none => .done (s.writeAff k d affNaN Fp.OF)) = s.affWrite k d x := by
  unfold State.affWrite
  cases x.words <;> rfl

theorem State.affDone_exact (s : State) (k : Nat) (d : Spec) {r : AffRes} (sound : r.Sound) (zero : r.e.val = 0) (no : r.always = false) :
    s.affDone k d r = s.affWrite k d r.x := by
  unfold State.affDone
  simp only [(Q.isZero_iff sound.den).2 zero, no, Bool.not_false, Bool.and_true, if_true]
  exact s.put_eq_affWrite k d _

theorem State.affDone_radius (s : State) (k : Nat) (d : Spec) {r : AffRes} (sound : r.Sound) (h : r.e.val ≠ 0 ∨ r.always = true)
    (unminted : r.coef = none) : s.affDone k d r = s.affWrite k d { r.x with post := [r.e] } := by
  unfold AffRes.coef at unminted
  unfold State.affDone
  simp only [if_neg (AffRes.not_errorless sound h), unminted]
  exact s.put_eq_affWrite k d _

theorem State.affDone_mint (s : State) (k : Nat) (d : Spec) {r : AffRes} (sound : r.Sound) (h : r.e.val ≠ 0 ∨ r.always = true)
    {b : Nat × Q} (minted : r.coef = some b) :
    s.affDone k d r = (s.mint k).eff fun n u => u.affWrite k d { r.x with fresh := some (n, b.1) } := by
  unfold AffRes.coef at minted
  unfold State.affDone
  simp only [if_neg (AffRes.not_errorless sound h), minted]
  congr 1
  funext n u
  exact u.put_eq_affWrite k d _

/-- An affine instruction that is ready, has room for its register and comes to the result `x`. -/
structure Affine (s : State) (i : Instr) (h : Head) (k : Nat) (c : Convoy) (d : Spec) (x : AffRes) : Prop where
  ready : Ready s i h k c
  room : s.hasRoom k ((List.range 16).map (d.vIndex + ·)) = true
  sound : x.Sound
  does : ∃ eff, exec i s = .next (s.issueEach i noBlock eff) ∧ ∀ C P R, eff (s.noted C P R) k = (s.noted C P R).affDone k d x

section
variable {s : State} {i : Instr} {h : Head} {k : Nat} {c : Convoy} {d : Spec} {x : AffRes} (a : Affine s i h k c d x)
include a

/-- Where the result is the exact one `y`, written to the state `u` that has drawn its symbol. -/
theorem Affine.completes {u : State} (drawn : Drawn s u) {y : AffExact} (terms : y.q = x.x.q)
    (hd : ∀ C P R, (s.noted C P R).affDone k d x = (u.noted C P R).affWrite k d y) : Completes s i k (u.putAff k d y) := by
  obtain ⟨eff, he, does⟩ := a.does
  exact a.ready.writesAff he rfl a.room drawn (AffExact.length_written (terms ▸ a.sound.once)) fun C P R => (does C P R).trans (hd C P R)

theorem Affine.errorless (zero : x.e.val = 0) (no : x.always = false) : Completes s i k (s.putAff k d x.x) :=
  a.completes (Drawn.refl s) rfl fun _ _ _ => State.affDone_exact _ k d a.sound zero no

section
variable (hx : x.e.val ≠ 0 ∨ x.always = true)
include hx

theorem Affine.intoRadius (unminted : x.coef = none) : Completes s i k (s.putAff k d { x.x with post := [x.e] }) :=
  a.completes (Drawn.refl s) rfl fun _ _ _ => State.affDone_radius _ k d a.sound hx unminted

variable {b : Nat × Q} (minted : x.coef = some b)
include minted

theorem Affine.fromBlock {n last : Nat} (hb : (s.cr (crewOf k)).block = some (n, last)) :
    Completes s i k ((s.takeSymbol (crewOf k) n last).putAff k d { x.x with fresh := some (n, b.1) }) :=
  a.completes (Drawn.setCr s _ _ _) rfl fun C P R => by
    rw [State.affDone_mint _ k d a.sound hx minted, State.mint_block (s := s.noted C P R) hb]
    rfl

section
variable {pa : Nat} (hb : (s.cr (crewOf k)).block = none) (here : (s.laTh k).dev = 0) (at_ : (s.laTh k).poolAt = some pa)
include hb here at_

theorem Affine.fromPool (more : leNat (s.coh pa 8) < (s.laTh k).rcd.sympool / 64) :
    Completes s i k (((s.homeStore pa (leBytes 8 (leNat (s.coh pa 8) + 1))).takeSymbol (crewOf k) (64 * leNat (s.coh pa 8) + 1)
      (64 * leNat (s.coh pa 8) + 64)).putAff k d { x.x with fresh := some (64 * leNat (s.coh pa 8) + 1, b.1) }) :=
  a.completes ((Drawn.homeStore s _ _).trans (Drawn.setCr _ _ _ _)) rfl fun C P R => by
    have coh : (s.noted C P R).coh pa 8 = s.coh pa 8 := rfl
    rw [State.affDone_mint _ k d a.sound hx minted, State.mint_pool (s := s.noted C P R) hb here at_ more, State.homeStore_noted, coh]
    rfl

theorem Affine.dry (used : (s.laTh k).rcd.sympool / 64 ≤ leNat (s.coh pa 8)) (handled : s.handled k 0x18 = true) :
    Leaves s i k ((s.forgetDraw (crewOf k)).trap k ⟨0x18, 0, none, none⟩) := by
  obtain ⟨eff, he, does⟩ := a.does
  refine a.ready.dries he rfl (crewOf k) handled fun C P R => ?_
  rw [does, State.affDone_mint _ k d a.sound hx minted, State.mint_dry (s := s.noted C P R) hb here at_ used]
  rfl

end

theorem Affine.asks (hb : (s.cr (crewOf k)).block = none) (away : (s.laTh k).dev ≠ 0) (blocks : (s.laTh k).rcd.sympool / 64 ≠ 0)
    (first : (s.cr (crewOf k)).draw = none) : ∃ t, exec i s = .next t ∧ Same t (s.askBlock k (s.laTh k)) := by
  obtain ⟨eff, he, does⟩ := a.does
  obtain ⟨threads, convoys⟩ := s.kept_askBlock k (s.laTh k)
  refine a.ready.stays he rfl threads convoys fun C P R => ?_
  rw [does, State.affDone_mint _ k d a.sound hx minted, State.mint_asks (s := s.noted C P R) hb away blocks first a.ready.unheld]
  exact congrArg Eff.left (State.askBlock_noted s C P R k _)

end

end

/-- The NaN result of a non-finite operand (03 R103). -/
theorem Ready.affBad {s i h k c} (r : Ready s i h k c) {eff : State → Nat → Eff} {d : Spec}
    (room : s.hasRoom k ((List.range 16).map (d.vIndex + ·)) = true) (he : exec i s = .next (s.issueEach i noBlock eff))
    (hd : ∀ C P R, eff (s.noted C P R) k = (s.noted C P R).affBad k d) :
    Completes s i k (s.setTh k fun t => t.putAff d.vIndex affNaN Fp.NV) :=
  r.writesAff he rfl room (Drawn.refl s) length_affNaN hd

theorem State.aff_ok {s : State} {k : Nat} {a : Spec} {x : Aff} (h : s.aff k a = some x) : x.ok := Aff.ok_of_ofWords h

end Machine
open Machine

/-- Settles O30: Mint() is followed through the crew's block, the pool and the request to launch device 0, and the state it leaves
writes the sixteen words. -/
theorem affineErrors : Obligations.AffineErrors := by
  intro s k c h d a b kk rad sym room put bad cr la blocks takes each mint cond
  have placing {i : Instr} {r : AffRes} (sound : r.Sound) {eff : State → Nat → Eff} (he : exec i s = .next (s.issueEach i noBlock eff))
      (hd : ∀ C P R, eff (s.noted C P R) k = (s.noted C P R).affDone k d r) : each i r := by
    intro ready
    have step : Affine s i h k c d r := ⟨ready, room, sound, eff, he, hd⟩
    refine ⟨step.errorless, step.intoRadius, fun b placed minted => ⟨fun n last => step.fromBlock placed minted, ?_, step.asks placed minted⟩⟩
    exact fun pa hb here at_ => ⟨step.fromPool placed minted hb here at_, step.dry placed minted hb here at_⟩
  have nan {i : Instr} {eff : State → Nat → Eff} (he : exec i s = .next (s.issueEach i noBlock eff))
      (hd : ∀ C P R, eff (s.noted C P R) k = (s.noted C P R).affBad k d) : bad i :=
    fun ready => ready.affBad room he hd
  have of_a (x : Option Aff) (ha : s.aff k a = x) (C P R) : (s.noted C P R).aff k a = x := ha
  have of_b (x : Option Aff) (hb : s.aff k b = x) (C P R) : (s.noted C P R).aff k b = x := hb
  refine ⟨fun ha => ⟨nan rfl ?_, nan rfl ?_, nan rfl ?_, nan rfl ?_⟩, fun hb => nan rfl ?_, fun hab => nan rfl ?_,
    fun x y ha hb => placing (affMul_sound mint (State.aff_ok ha) (State.aff_ok hb)) rfl ?_,
    fun x ha => placing (affSqr_sound mint (State.aff_ok ha)) rfl ?_,
    fun x r ha hr => placing (affRec_sound (State.aff_ok ha) hr) rfl ?_,
    fun x ha hr handled ready => ready.traps rfl rfl handled ?_,
    fun x ha => placing (affCond_sound _ _ _ (State.aff_ok ha)) rfl ?_,
    fun cv w hc hw => placing (affIni_sound _ _ cv (Q.den_ofVal hw)) rfl ?_⟩
  all_goals intro C P R
  · simp only [State.affBin, of_a _ ha]
  · simp only [of_a _ ha]
  · simp only [of_a _ ha]
  · simp only [of_a _ ha]
  · unfold State.affBin
    rw [of_b _ hb]
    cases (s.noted C P R).aff k a <;> rfl
  · have same (q : Spec) : (s.noted C P R).f64Of k q = s.f64Of k q := rfl
    simp only [same]
    rcases hab with ha | hb
    · rw [ha]
    · rw [hb]
      cases Q.ofVal (Fp.decode Fp.f64 (s.f64Of k a)) <;> rfl
  · simp only [State.affBin, of_a _ ha, of_b _ hb]
    rfl
  · simp only [of_a _ ha]
    rfl
  · have here : affRec ((s.noted C P R).mayMint k) x = some r := hr
    simp only [of_a _ ha, here]
  · have here : affRec ((s.noted C P R).mayMint k) x = none := hr
    simp only [of_a _ ha, here]
  · simp only [of_a _ ha]
    rfl
  · have same (q : Spec) : (s.noted C P R).f64Of k q = s.f64Of k q := rfl
    simp only [same, hc, hw]

end Sys2Proof
end

section
/-! SUPPORT. The rules of a slice (02 R59): the scan of its words finds the first rule broken and the first word that breaks it, and
gathers what the slice reads. -/

namespace Sys2Proof.Machine

/-! ### The first rule broken -/

/-- A note of broken rules holds the first by rule, then by position, of the pairs `B`. -/
def FirstBroken (B : Nat → Nat → Prop) : Option (Nat × Nat) → Prop
  | none => ∀ rule p, ¬B rule p
  | some (rule, p) => B rule p ∧ (∀ q, B rule q → p ≤ q) ∧ ∀ r q, B r q → rule ≤ r

theorem FirstBroken.congr {A B : Nat → Nat → Prop} {o : Option (Nat × Nat)} (h : FirstBroken A o) (e : ∀ r p, A r p ↔ B r p) : FirstBroken B o := by
  obtain rfl : A = B := by funext r p; exact propext (e r p)
  exact h

/-- The first broken rule and place are those of the note. -/
theorem FirstBroken.eq_some {B : Nat → Nat → Prop} {o : Option (Nat × Nat)} (h : FirstBroken B o) {rule p : Nat} (broken : B rule p)
    (place : ∀ q, q < p → ¬B rule q) (first : ∀ r q, r < rule → ¬B r q) : o = some (rule, p) := by
  match o, h with
  | none, h => exact absurd broken (h rule p)
  | some (r, q), ⟨is, least, lowest⟩ =>
      have hr : rule = r := Nat.le_antisymm (Nat.le_of_not_lt fun lt => first r q lt is) (lowest rule p broken)
      subst hr
      have hp : p = q := Nat.le_antisymm (Nat.le_of_not_lt fun lt => place q lt is) (least p broken)
      rw [hp]

theorem FirstBroken.eq_none {B : Nat → Nat → Prop} {o : Option (Nat × Nat)} (h : FirstBroken B o) (sound : ∀ rule p, ¬B rule p) : o = none := by
  match o, h with
  | none, _ => rfl
  | some (r, q), ⟨is, _, _⟩ => exact absurd is (sound r q)

/-- A rule noted where it is broken. -/
def SliceScan.noteIf (x : SliceScan) (broken : Prop) [Decidable broken] (rule pos : Nat) : SliceScan :=
  if broken then x.note rule pos else x

/-- A rule noted at a place no earlier than those noted. -/
theorem FirstBroken.note {B : Nat → Nat → Prop} {x : SliceScan} (h : FirstBroken B x.bad) {pos : Nat} (late : ∀ r q, B r q → q ≤ pos)
    (broken : Prop) [Decidable broken] (rule : Nat) :
    FirstBroken (fun r q => B r q ∨ (q = pos ∧ r = rule ∧ broken)) (x.noteIf broken rule pos).bad := by
  unfold SliceScan.noteIf
  by_cases yes : broken
  · rw [if_pos yes]
    obtain ⟨bad, reads, written, loads⟩ := x
    match bad, h with
    | none, h =>
        refine ⟨.inr ⟨rfl, rfl, yes⟩, fun q hq => ?_, fun r q hq => ?_⟩
        · obtain hq | ⟨rfl, -⟩ := hq
          · exact absurd hq (h _ _)
          · exact le_rfl
        · obtain hq | ⟨-, rfl, -⟩ := hq
          · exact absurd hq (h _ _)
          · exact le_rfl
    | some (r0, p0), ⟨is, least, lowest⟩ =>
        by_cases lower : rule < r0
        · rw [show (SliceScan.note ⟨some (r0, p0), reads, written, loads⟩ rule pos).bad = some (rule, pos) by simp [SliceScan.note, lower]]
          refine ⟨.inr ⟨rfl, rfl, yes⟩, fun q hq => ?_, fun r q hq => ?_⟩
          · obtain hq | ⟨rfl, -⟩ := hq
            · exact absurd (lowest _ _ hq) (Nat.not_le.2 lower)
            · exact le_rfl
          · obtain hq | ⟨-, rfl, -⟩ := hq
            · exact le_of_lt (Nat.lt_of_lt_of_le lower (lowest _ _ hq))
            · exact le_rfl
        · rw [show (SliceScan.note ⟨some (r0, p0), reads, written, loads⟩ rule pos).bad = some (r0, p0) by simp [SliceScan.note, lower]]
          refine ⟨.inl is, fun q hq => ?_, fun r q hq => ?_⟩
          · obtain hq | ⟨rfl, -⟩ := hq
            · exact least _ hq
            · exact late _ _ is
          · obtain hq | ⟨-, rfl, -⟩ := hq
            · exact lowest _ _ hq
            · exact Nat.le_of_not_lt lower
  · rw [if_neg yes]
    exact h.congr fun r q => by simp [yes]

/-- A note says nothing of what the slice reads, writes or loads. -/
theorem SliceScan.noteIf_kept (x : SliceScan) (broken : Prop) [Decidable broken] (rule pos : Nat) :
    (x.noteIf broken rule pos).reads = x.reads ∧ (x.noteIf broken rule pos).written = x.written
      ∧ (x.noteIf broken rule pos).loads = x.loads := by
  unfold SliceScan.noteIf SliceScan.note
  split
  · split
    · split <;> exact ⟨rfl, rfl, rfl⟩
    · exact ⟨rfl, rfl, rfl⟩
  · exact ⟨rfl, rfl, rfl⟩

@[simp] theorem SliceScan.reads_noteIf (x : SliceScan) (broken : Prop) [Decidable broken] (rule pos : Nat) :
    (x.noteIf broken rule pos).reads = x.reads := (x.noteIf_kept broken rule pos).1
@[simp] theorem SliceScan.written_noteIf (x : SliceScan) (broken : Prop) [Decidable broken] (rule pos : Nat) :
    (x.noteIf broken rule pos).written = x.written := (x.noteIf_kept broken rule pos).2.1
@[simp] theorem SliceScan.loads_noteIf (x : SliceScan) (broken : Prop) [Decidable broken] (rule pos : Nat) :
    (x.noteIf broken rule pos).loads = x.loads := (x.noteIf_kept broken rule pos).2.2

theorem SliceScan.noteIf_of_if (x : SliceScan) (broken : Prop) [Decidable broken] (rule pos : Nat) :
    (if broken then x.note rule pos else x) = x.noteIf broken rule pos := rfl

theorem SliceScan.noteIf_of_unless (x : SliceScan) (meets : Prop) [Decidable meets] (rule pos : Nat) :
    (if meets then x else x.note rule pos) = x.noteIf (¬meets) rule pos := (ite_not _ _ _).symm

/-! ### Words without operands -/

/-- What has no head has no operands either. -/
theorem Instr.headless_bare (i : Instr) : (i.head.isSome || (i.uses.isEmpty && i.cvtnSlot.isNone && !isSliceLoad i)) = true := by
  cases i <;> rfl

theorem State.usesOf_headless (s : State) (k : Nat) {i : Instr} (h : i.head = none) : s.usesOf k i = [] ∧ isSliceLoad i = false := by
  have bare := Instr.headless_bare i
  rw [h] at bare
  simp only [Option.isSome_none, Bool.false_or, Bool.and_eq_true, List.isEmpty_iff, Option.isNone_iff_eq_none, Bool.not_eq_true'] at bare
  obtain ⟨⟨uses, slot⟩, load⟩ := bare
  unfold State.usesOf
  rw [slot]
  exact ⟨uses, load⟩

theorem eraseDups_of_nodup {α : Type} [BEq α] [LawfulBEq α] {l : List α} (h : l.Nodup) : l.eraseDups = l := by
  induction l with
  | nil => rfl
  | cons a l ih =>
      obtain ⟨new, rest⟩ := List.nodup_cons.1 h
      have all : (l.filter fun b => !b == a) = l := List.filter_eq_self.2 fun b hb => by
        have : b ≠ a := fun e => new (e ▸ hb)
        simpa using this
      rw [List.eraseDups_cons, all, ih rest]

theorem eraseDups_eraseDups_append {α : Type} [BEq α] [LawfulBEq α] (l m : List α) : (l.eraseDups ++ m).eraseDups = (l ++ m).eraseDups := by
  have same : m.removeAll l.eraseDups = m.removeAll l := List.filter_congr fun x _ => by
    have mem : l.eraseDups.contains x = l.contains x := by simp
    simp only [List.elem_eq_contains, mem]
  rw [List.eraseDups_append, List.eraseDups_append, eraseDups_of_nodup (nodup_eraseDups l), same]

/-! ### The words of a slice, 02 R59, 10 R258 -/

/-- Whether a position lies within the convoy's stretch. -/
def Convoy.holds (c : Convoy) (p : Nat) : Bool := decide (slotN c.pc - slotN c.hdr + p ≤ c.len.toNat)

/-- The instruction at a position of the slice. -/
def sliceAt (c : Convoy) (w : Nat → IWord) (p : Nat) : Option Instr := if c.holds p then wordShape (w p) else none

/-- The instructions before a position. -/
def wordsBefore (c : Convoy) (w : Nat → IWord) (p : Nat) : List Instr := (List.range (p - 1)).filterMap fun j => sliceAt c w (j + 1)

/-- What an instruction of the slice reads beside vT. -/
def State.sliceInputs (s : State) (k g : Nat) (o : Option Instr) : List Nat :=
  match o with
  | some x => (s.vReads k x).filter (· != g)
  | none => []

/-- The registers that the words up to a position read, each once. -/
def State.sliceReads (s : State) (k g : Nat) (c : Convoy) (w : Nat → IWord) (p : Nat) : List Nat := ((List.range p).flatMap fun j => s.sliceInputs k g (sliceAt c w (j + 1))).eraseDups

/-- Whether the word at a position breaks a rule; position 0 stands for SLICE itself. -/
def State.sliceBreaks (s : State) (k g : Nat) (c : Convoy) (w : Nat → IWord) (rule p : Nat) : Bool :=
  if p = 0 then rule == 1 && (s.th k).affine.any fun m => decide (16 * m ≤ g) && decide (g < 16 * m + 16)
  else if c.holds p = false then rule == 2
  else if rule = 2 then (w p).extractLsb' 16 4 != 7
  else match sliceAt c w p, (sliceAt c w p).bind Instr.head with
    | some x, some y => (match rule with
        | 3 => !s.sliceWrites k x y g
        | 4 => !isInstr (w p) || !s.slotOk k x || !sliceEligible x || (isSliceLoad x && (wordsBefore c w p).any isSliceLoad)
        | 5 => s.sliceRounds k x y
        | 6 => !(s.usesOf k x).all sliceInput || ((s.vReads k x).contains g
            && !(wordsBefore c w p).any fun z => ((s.usesOf k z).flatMap Use.writes).contains g)
        | 7 => decide (4 < (s.sliceReads k g c w p).length)
        | 8 => (s.vReads k x).any fun r => r != g && (s.th k).elig.any fun e => e.reg == r && decide (2 ≤ e.depth) && (s.th k).eligOf r == some e
        | _ => false)
    | _, _ => rule == 3

section
variable (s : State) (k g : Nat) (c : Convoy) (w : Nat → IWord)

/-- What the scan of the words up to a position has gathered. -/
structure SliceScan.Upto (x : SliceScan) (n : Nat) : Prop where
  bad : FirstBroken (fun rule p => p ≤ n ∧ s.sliceBreaks k g c w rule p = true) x.bad
  reads : x.reads = s.sliceReads k g c w n
  written : x.written = (wordsBefore c w (n + 1)).any fun z => ((s.usesOf k z).flatMap Use.writes).contains g
  loads : decide (x.loads ≥ 1) = (wordsBefore c w (n + 1)).any isSliceLoad

variable {s c w k g}

/-- Whether a register of a thread is eligible at depth 2 (02 R59, rule 8). -/
def Thread.isDeep (t : Thread) (r : Nat) : Bool :=
  match t.eligOf r with
  | some e => decide (e.depth ≥ 2)
  | none => false

theorem Thread.isDeep_eq (t : Thread) (r : Nat) :
    t.isDeep r = t.elig.any fun e => e.reg == r && decide (2 ≤ e.depth) && t.eligOf r == some e := by
  unfold Thread.isDeep
  rw [Bool.eq_iff_iff, List.any_eq_true]
  cases found : t.eligOf r with
  | none => simp
  | some e =>
      obtain ⟨is, mem⟩ : e.reg == r ∧ e ∈ t.elig := ⟨by simpa using List.find?_some found, List.mem_of_find?_eq_some found⟩
      simp only [ge_iff_le, decide_eq_true_eq, Bool.and_eq_true, beq_iff_eq, Option.some.injEq] at is ⊢
      exact ⟨fun deep => ⟨e, mem, ⟨is, deep⟩, rfl⟩, fun ⟨f, _, ⟨_, deep⟩, same⟩ => same ▸ deep⟩

/-- A word with an instruction in the stretch, scanned. -/
theorem State.sliceScan1_word {u : IWord} {i : Instr} {h : Head} (shape : wordShape u = some i) (head : i.head = some h) (pos : Nat) (x : SliceScan) :
    s.sliceScan1 k g pos true u x =
      { (((((((x.noteIf (((Guard.ofBits (u.extractLsb' 16 4)).neg || (Guard.ofBits (u.extractLsb' 16 4)).p != 7) = true) 2 pos).noteIf
            (¬s.sliceWrites k i h g = true) 3 pos).noteIf
            (¬(isInstr u && s.slotOk k i && sliceEligible i && !(isSliceLoad i && decide (x.loads ≥ 1))) = true) 4 pos).noteIf
            (s.sliceRounds k i h = true) 5 pos).noteIf
            (¬((s.usesOf k i).all sliceInput && (x.written || !(s.vReads k i).contains g)) = true) 6 pos).noteIf
            ((x.reads ++ (s.vReads k i).filter (· != g)).eraseDups.length > 4) 7 pos).noteIf
            (((s.vReads k i).any fun r => r != g && (s.th k).isDeep r) = true) 8 pos) with
        reads := (x.reads ++ (s.vReads k i).filter (· != g)).eraseDups
        written := x.written || ((s.usesOf k i).flatMap Use.writes).contains g
        loads := x.loads + (if isSliceLoad i then 1 else 0) } := by
  unfold State.sliceScan1
  simp only [Bool.not_true, Bool.false_eq_true, if_false, shape, Option.bind_some, head, SliceScan.noteIf_of_if, SliceScan.noteIf_of_unless,
    SliceScan.reads_noteIf, SliceScan.written_noteIf, SliceScan.loads_noteIf]
  rfl

theorem wordsBefore_succ (n : Nat) : wordsBefore c w (n + 1 + 1) = wordsBefore c w (n + 1) ++ (sliceAt c w (n + 1)).toList := by
  unfold wordsBefore
  rw [Nat.add_sub_cancel, Nat.add_sub_cancel, List.range_succ, List.filterMap_append]
  congr 1

theorem State.sliceReads_succ (n : Nat) :
    s.sliceReads k g c w (n + 1) = (s.sliceReads k g c w n ++ s.sliceInputs k g (sliceAt c w (n + 1))).eraseDups := by
  unfold State.sliceReads
  rw [List.range_succ, List.flatMap_append, eraseDups_eraseDups_append, List.flatMap_singleton]

theorem State.sliceReads_zero : s.sliceReads k g c w 0 = [] := rfl

/-- The note of a scan that has come to position `n + 1`, where so far the rules `D` are found broken. -/
def FirstBroken.Within (s : State) (k g : Nat) (c : Convoy) (w : Nat → IWord) (n : Nat) (D : Nat → Prop) (x : SliceScan) : Prop :=
  FirstBroken (fun r q => (q ≤ n ∧ s.sliceBreaks k g c w r q = true) ∨ (q = n + 1 ∧ D r)) x.bad

theorem SliceScan.Upto.within {x : SliceScan} {n : Nat} (h : x.Upto s k g c w n) : FirstBroken.Within s k g c w n (fun _ => False) x :=
  h.bad.congr fun _ _ => by simp

theorem FirstBroken.Within.note {n : Nat} {D : Nat → Prop} {x : SliceScan} (h : FirstBroken.Within s k g c w n D x) (broken : Prop)
    [Decidable broken] (rule : Nat) : FirstBroken.Within s k g c w n (fun r => D r ∨ (r = rule ∧ broken)) (x.noteIf broken rule (n + 1)) := by
  refine (FirstBroken.note h ?_ broken rule).congr fun r q => by simp only [or_assoc, and_or_left]
  rintro r q (⟨le, -⟩ | ⟨rfl, -⟩)
  · exact Nat.le_succ_of_le le
  · exact le_rfl

/-- Position `n + 1` done, the rules `D` being those it breaks. -/
theorem FirstBroken.Within.succ {n : Nat} {D : Nat → Prop} {x : SliceScan} (h : FirstBroken.Within s k g c w n D x)
    (here : ∀ r, s.sliceBreaks k g c w r (n + 1) = true ↔ D r) :
    FirstBroken (fun r q => q ≤ n + 1 ∧ s.sliceBreaks k g c w r q = true) x.bad := by
  refine h.congr fun r q => ?_
  rw [← here]
  constructor
  · rintro (⟨le, broken⟩ | ⟨rfl, broken⟩)
    · exact ⟨Nat.le_succ_of_le le, broken⟩
    · exact ⟨le_rfl, broken⟩
  · rintro ⟨le, broken⟩
    rcases Nat.le_succ_iff.1 le with le | rfl
    · exact .inl ⟨le, broken⟩
    · exact .inr ⟨rfl, broken⟩

theorem unmet_inputs (inputs reads written : Bool) :
    ((!inputs || (reads && !written)) = true) = ¬(inputs && (written || !reads)) = true := by
  revert inputs reads written
  decide

theorem guard_always (b : BitVec 4) : ((Guard.ofBits b).neg || (Guard.ofBits b).p != 7) = (b != 7) := by
  revert b
  decide

/-- A position past the stretch breaks rule 2. -/
theorem State.sliceBreaks_past {n : Nat} (past : c.holds (n + 1) = false) (r : Nat) : s.sliceBreaks k g c w r (n + 1) = true ↔ r = 2 := by
  unfold State.sliceBreaks
  rw [if_neg (Nat.succ_ne_zero n), if_pos past, beq_iff_eq]

/-- A word that no OP and FN makes an instruction breaks rule 3. -/
theorem State.sliceBreaks_shapeless {n : Nat} (within : c.holds (n + 1) = true) (none_ : (sliceAt c w (n + 1)).bind Instr.head = none) (r : Nat) :
    s.sliceBreaks k g c w r (n + 1) = true ↔ (r = 2 ∧ ((w (n + 1)).extractLsb' 16 4 != 7) = true) ∨ r = 3 := by
  unfold State.sliceBreaks
  rw [if_neg (Nat.succ_ne_zero n), if_neg (by rw [within]; exact nofun)]
  by_cases two : r = 2
  · rw [if_pos two]
    exact ⟨fun h => .inl ⟨two, h⟩, fun h => h.elim (·.2) fun e => by omega⟩
  · rw [if_neg two, none_]
    cases sliceAt c w (n + 1) <;> simp [two]

theorem State.sliceBreaks_word {n : Nat} (within : c.holds (n + 1) = true) {i : Instr} {h : Head} (at_ : sliceAt c w (n + 1) = some i)
    (head : i.head = some h) (r : Nat) : s.sliceBreaks k g c w r (n + 1) = true ↔
      (r = 2 ∧ ((w (n + 1)).extractLsb' 16 4 != 7) = true) ∨ (r = 3 ∧ ¬s.sliceWrites k i h g = true)
      ∨ (r = 4 ∧ ¬(isInstr (w (n + 1)) && s.slotOk k i && sliceEligible i && !(isSliceLoad i && (wordsBefore c w (n + 1)).any isSliceLoad)) = true)
      ∨ (r = 5 ∧ s.sliceRounds k i h = true)
      ∨ (r = 6 ∧ ¬((s.usesOf k i).all sliceInput && (((wordsBefore c w (n + 1)).any fun z => ((s.usesOf k z).flatMap Use.writes).contains g)
          || !(s.vReads k i).contains g)) = true)
      ∨ (r = 7 ∧ (s.sliceReads k g c w (n + 1)).length > 4)
      ∨ (r = 8 ∧ ((s.vReads k i).any fun r => r != g && (s.th k).isDeep r) = true) := by
  unfold State.sliceBreaks
  rw [if_neg (Nat.succ_ne_zero n), if_neg (by rw [within]; exact nofun), at_]
  simp only [Option.bind_some, head, Thread.isDeep_eq]
  match r with
  | 0 | 1 | 2 | 3 | 5 | 7 | 8 => simp
  | 4 => simp [imp_iff_not_or, or_assoc]
  | 6 => simp only [Nat.reduceEqDiff, reduceIte, unmet_inputs, false_and, true_and, false_or, or_false]
  | r + 9 => simp

/-- A word that is no instruction with operands adds nothing to what the slice reads, writes or loads. -/
theorem sliceAt_bare {p : Nat} (none_ : (sliceAt c w p).bind Instr.head = none) : s.sliceInputs k g (sliceAt c w p) = []
    ∧ ((sliceAt c w p).toList.any fun z => ((s.usesOf k z).flatMap Use.writes).contains g) = false
    ∧ (sliceAt c w p).toList.any isSliceLoad = false := by
  cases at_ : sliceAt c w p with
  | none => exact ⟨rfl, rfl, rfl⟩
  | some i =>
      rw [at_] at none_
      obtain ⟨uses, load⟩ := s.usesOf_headless k none_
      simp [State.sliceInputs, State.vReads, uses, load]

/-- The scan's gathering unchanged where the position adds nothing to it. -/
theorem SliceScan.Upto.bare {x y : SliceScan} {n : Nat} (h : x.Upto s k g c w n) (none_ : (sliceAt c w (n + 1)).bind Instr.head = none)
    (bad : FirstBroken (fun rule p => p ≤ n + 1 ∧ s.sliceBreaks k g c w rule p = true) y.bad) (reads : y.reads = x.reads)
    (written : y.written = x.written) (loads : y.loads = x.loads) : y.Upto s k g c w (n + 1) := by
  obtain ⟨inputs, writes, load⟩ := sliceAt_bare (s := s) (k := k) (g := g) none_
  refine ⟨bad, ?_, ?_, ?_⟩
  · rw [State.sliceReads_succ, inputs, List.append_nil, reads, h.reads]
    exact (eraseDups_of_nodup (nodup_eraseDups _)).symm
  · rw [wordsBefore_succ, List.any_append, writes, Bool.or_false, written, h.written]
  · rw [wordsBefore_succ, List.any_append, load, Bool.or_false, loads, h.loads]

/-- The next word scanned. -/
theorem SliceScan.Upto.step {x : SliceScan} {n : Nat} (h : x.Upto s k g c w n) {u : IWord} (hu : c.holds (n + 1) = true → u = w (n + 1)) :
    (s.sliceScan1 k g (n + 1) (c.holds (n + 1)) u x).Upto s k g c w (n + 1) := by
  cases within : c.holds (n + 1) with
  | false =>
      have bare : (sliceAt c w (n + 1)).bind Instr.head = none := by simp [sliceAt, within]
      have scan : s.sliceScan1 k g (n + 1) false u x = x.noteIf True 2 (n + 1) := rfl
      rw [scan]
      exact h.bare bare ((h.within.note True 2).succ fun r => by simp [State.sliceBreaks_past within]) (by simp) (by simp) (by simp)
  | true =>
      obtain rfl := hu within
      have at_ : sliceAt c w (n + 1) = wordShape (w (n + 1)) := by simp [sliceAt, within]
      cases head : (wordShape (w (n + 1))).bind Instr.head with
      | none =>
          have bare : (sliceAt c w (n + 1)).bind Instr.head = none := by rw [at_, head]
          have scan : s.sliceScan1 k g (n + 1) true (w (n + 1)) x = (x.noteIf (((w (n + 1)).extractLsb' 16 4 != 7) = true) 2 (n + 1)).noteIf
              True 3 (n + 1) := by
            rw [← guard_always]
            unfold State.sliceScan1
            simp only [Bool.not_true, Bool.false_eq_true, if_false, head]
            split
            · next e => cases e
            · rfl
          rw [scan]
          exact h.bare bare (((h.within.note _ 2).note True 3).succ fun r => by simp [State.sliceBreaks_shapeless within bare]) (by simp)
            (by simp) (by simp)
      | some y =>
          obtain ⟨i, shape, head⟩ := Option.bind_eq_some_iff.1 head
          rw [shape] at at_
          rw [State.sliceScan1_word shape head]
          refine ⟨?_, ?_, ?_, ?_⟩
          · refine FirstBroken.Within.succ (.note (.note (.note (.note (.note (.note (.note h.within _ 2) _ 3) _ 4) _ 5) _ 6) _ 7) _ 8) fun r => ?_
            rw [State.sliceBreaks_word within at_ head, guard_always, h.written, h.loads, h.reads, State.sliceReads_succ, at_]
            simp only [false_or, or_assoc]
            rfl
          · rw [State.sliceReads_succ, at_, h.reads]
            rfl
          · rw [wordsBefore_succ, List.any_append, at_, h.written]
            simp
          · rw [wordsBefore_succ, List.any_append, at_, ← h.loads]
            cases load : isSliceLoad i <;> simp [load]

end

end Sys2Proof.Machine
end

section
/-! SUPPORT. SLICE issued: what it comes to by the rules its words break (02 R59, 10 R258), and the slice its thread then runs. -/

namespace Sys2Proof.Machine

/-! ### What SLICE comes to -/

/-- A word after the instruction in issue does not depend on the notes of the issue logic. -/
theorem State.wordAfter_noted (s : State) (C P R) (k : Nat) (pc : DWord) (j : Nat) : (s.noted C P R).wordAfter k pc j = s.wordAfter k pc j := by
  have alike : Alike s (s.noted C P R) := rfl
  have fetched := alike.fetch (k := k) (code := match s.front with
    | some c => c.code
    | none => []) (pc := slotAfter pc j)
  have word := congrArg Prod.fst fetched
  exact word

theorem zip_range_map {α : Type} (n : Nat) (f : Nat → α) : (List.range n).zip ((List.range n).map f) = (List.range n).map fun j => (j, f j) := by
  simpa using List.zip_map' (f := id) (g := f) (l := List.range n)

section
variable {s : State} {k : Nat} {c : Convoy} {w : Nat → IWord} {n : Nat}

/-- The scan before the first word: SLICE itself breaks rule 1 where vT is in affine use. -/
theorem SliceScan.upto_zero (s : State) (k g : Nat) (c : Convoy) (w : Nat → IWord) :
    (SliceScan.noteIf {} (((s.th k).affine.any fun m => decide (16 * m ≤ g) && decide (g < 16 * m + 16)) = true) 1 0).Upto s k g c w 0 := by
  have start : FirstBroken (fun _ _ => False) ({} : SliceScan).bad := fun _ _ h => h
  refine ⟨(start.note (fun _ _ h => h.elim) _ 1).congr fun r q => ?_, by simp [State.sliceReads_zero], by simp [wordsBefore],
    by simp [wordsBefore]⟩
  rw [false_or, Nat.le_zero]
  refine and_congr_right fun zero => ?_
  subst zero
  rw [State.sliceBreaks, if_pos rfl, Bool.and_eq_true, beq_iff_eq]

variable (front : s.front = some c) (words : ∀ p, 1 ≤ p → p ≤ n → s.wordAfter k (s.th k).pc p = .word (w p))
include front words

/-- A word of the slice as SLICE finds it: nothing past the convoy's stretch. -/
def State.sliceWord (s : State) (k : Nat) (c : Convoy) (j : Nat) : Option Fetched :=
  if c.holds (j + 1) then some (s.wordAfter k (s.th k).pc (j + 1)) else none

omit front in
theorem State.sliceWord_cases {j : Nat} (hj : j < n) :
    (c.holds (j + 1) = false ∧ s.sliceWord k c j = none) ∨ (c.holds (j + 1) = true ∧ s.sliceWord k c j = some (.word (w (j + 1)))) := by
  unfold State.sliceWord
  cases within : c.holds (j + 1) with
  | false => exact .inl ⟨rfl, rfl⟩
  | true => exact .inr ⟨rfl, by rw [if_pos rfl, words (j + 1) (Nat.le_add_left 1 j) hj]⟩

/-- A thread that begins to run a slice. -/
def Thread.beginSlice (t : Thread) (r : SliceRun) : Thread := { t with slice := some r }

/-- The scan of SLICE over its words. -/
def State.sliceScan (s : State) (k g : Nat) (c : Convoy) (n : Nat) : SliceScan :=
  (List.range n).foldl (fun x j => s.sliceScan1 k g (j + 1) (c.holds (j + 1)) (match s.sliceWord k c j with
      | some (.word w) => w
      | _ => 0) x)
    (SliceScan.noteIf {} (((s.th k).affine.any fun m => decide (16 * m ≤ g) && decide (g < 16 * m + 16)) = true) 1 0)

omit front in
theorem SliceScan.upto_scan (g : Nat) {m : Nat} (hm : m ≤ n) : (s.sliceScan k g c m).Upto s k g c w m := by
  induction m with
  | zero => exact SliceScan.upto_zero s k g c w
  | succ m ih =>
      unfold State.sliceScan
      rw [List.range_succ, List.foldl_append]
      refine (ih (Nat.le_of_succ_le hm)).step fun within => ?_
      rcases State.sliceWord_cases words (c := c) hm with ⟨past, -⟩ | ⟨-, word⟩
      · rw [within] at past
        cases past
      · rw [word]

/-- SLICE, its words fetched, comes to a note of the rules they break: cause 0x02, or the slice begun. -/
theorem State.sliceEff_of_words (g : BitVec 8) :
    (∀ rule p, (s.sliceScan k g.toNat c n).bad = some (rule, p) →
      s.sliceEff k (.v g) n = .trap ⟨0x02, BitVec.ofNat 64 (16 * p + rule), none, none⟩ s)
    ∧ ((s.sliceScan k g.toNat c n).bad = none → s.sliceEff k (.v g) n = .done (s.setTh k fun t =>
        t.beginSlice ⟨g.toNat, nextPC (s.th k).pc, n, s.sliceReads k g.toNat c w n, n + 1⟩)) := by
  have reads := (SliceScan.upto_scan words (c := c) g.toNat le_rfl).reads
  rw [← reads]
  clear reads
  have ws : ((List.range n).map fun j => if decide (c.ofs + (j + 1) ≤ c.len.toNat) = true then
      some (s.wordAfter k (s.th k).pc (j + 1)) else none) = (List.range n).map (s.sliceWord k c) := rfl
  unfold State.sliceEff
  simp only [front, ws, zip_range_map, List.findSome?_map, List.foldl_map]
  rw [List.findSome?_eq_none_iff.2]
  swap
  · intro j hj
    rcases State.sliceWord_cases words (c := c) (List.mem_range.1 hj) with ⟨-, e⟩ | ⟨-, e⟩ <;> simp only [Function.comp_apply, e]
  refine ⟨fun rule p bad => ?_, fun bad => ?_⟩
  · dsimp only
    split
    · next r q e =>
      have same : some (r, q) = some (rule, p) := e.symm.trans bad
      cases same
      rfl
    · next e =>
      have same : none = some (rule, p) := e.symm.trans bad
      cases same
  · dsimp only
    split
    · next r q e =>
      have same : some (r, q) = none := e.symm.trans bad
      cases same
    · rfl

end

/-! ### The slice a thread runs -/

theorem Thread.slice_pass (t : Thread) (lvl : Nat) (pc : DWord) (fin : Bool) : (t.pass lvl pc fin).1.slice = t.slice := by
  unfold Thread.pass
  dsimp only
  split
  · split <;> rfl
  · rfl

/-- SLICE itself counts as the first instruction of the slice that it begins. -/
theorem Thread.slice_complete {t : Thread} {r : SliceRun} (slice : t.slice = some r) (left : 1 < r.left) (rep : t.rep = none)
    (jump : t.jump = none) (now : Nat) (fin : Bool) : (t.complete now fin).slice = some { r with left := r.left - 1 } := by
  unfold Thread.complete
  simp only [rep, jump, Thread.slice_pass]
  unfold Thread.sliceStep
  simp only [slice, gt_iff_lt, left, if_true]

/-- The end of an issue of a convoy of one thread leaves the slice it runs. -/
theorem State.slice_finishIssue {u : State} (unreserved : u.unreserved) {c : Convoy} {k : Nat} (front : u.front = some c)
    (alone : c.mem = [k]) (y : Bool) : ((u.finishIssue c.part c.lane y).th k).slice = (u.th k).slice := by
  have settle (f) : (u.setPt c.part f).settleReserve c.part = u.setPt c.part f :=
    State.settleReserve_of_unreserved (s := u.setPt c.part f) unreserved c.part
  have front' (f) : (u.setPt c.part f).front = some c := front
  have kept (v : State) (f : Thread → Thread) (same : ∀ t, (f t).slice = t.slice) : ((v.setTh k f).th k).slice = (v.th k).slice := by
    rw [State.th_setTh]
    split
    · exact same _
    · rfl
  unfold State.finishIssue
  simp only [settle, front', alone, List.foldl_cons, List.foldl_nil]
  split
  · rfl
  · split
    · rfl
    · split
      · split
        · exact kept (u.setPt c.part fun p => { p with busy := [], ending := [] }) _ fun _ => rfl
        · exact kept (u.setPt c.part fun p => { p with busy := [], ending := [] }) _ fun _ => rfl
      · rfl

end Sys2Proof.Machine
end

section
/-! SUPPORT. SLICE of a ready thread: the slice begun, or cause 0x02; and the end of a slice (02 R59, R60, R62, 10 R258). -/

namespace Sys2Proof.Machine

/-! ### SLICE, 10 R258 -/

/-- A slice has an instruction (10 R258). -/
theorem Ready.slice_length {s : State} {k : Nat} {c : Convoy} {h : Head} {g : BitVec 8} {n : BitVec 4} (r : Ready s (.slice h (.v g) n) h k c) :
    1 ≤ n.toNat := by
  obtain ⟨-, extra⟩ := Bool.and_eq_true_iff.1 (show (_ && _) = true from r.wf)
  have bounds : decide (1 ≤ n.toNat && n.toNat ≤ 8) = true := extra
  simp only [Bool.and_eq_true, decide_eq_true_eq] at bounds
  exact bounds.1

/-- A word that is ready and begins a slice for its thread, itself counted in. -/
theorem Ready.beginsSlice {s i h k c} (r : Ready s i h k c) {block : State → Nat → Bool} {eff : State → Nat → Eff}
    (he : exec i s = .next (s.issueEach i block eff)) (hb : block s k = false) (rep : (s.th k).rep = none) {run : SliceRun} (left : 1 < run.left)
    (hd : ∀ C P R, eff (s.noted C P R) k = .done ((s.noted C P R).setTh k fun t => t.beginSlice run)) :
    ∃ u, exec i s = .next u ∧ Went s u k (endHint i) ∧ (u.th k).slice = some { run with left := run.left - 1 } := by
  obtain ⟨C, P, R, begun, -, unreserved⟩ := r.begun
  have effect := hd C P R
  have th := State.th_setTh_self (s := s.noted C P R) (fun t => t.beginSlice run) r.present
  have like : Like ((s.noted C P R).setTh k fun t => t.beginSlice run) s k :=
    ⟨(congrArg Thread.regs th).trans rfl, (congrArg Thread.flow th).trans rfl, (congrArg Thread.jump th).trans rfl,
      fun j hj => State.th_setTh_ne _ hj, rfl⟩
  have kept : Kept ((s.noted C P R).setTh k fun t => t.beginSlice run) k c := ⟨r.front, State.setTh_present r.present _, unreserved⟩
  generalize ((s.noted C P R).setTh k fun t => t.beginSlice run) = v at effect th like kept
  refine ⟨_, he, ?_, ?_⟩
  · rw [r.issueEach block hb, begun, effect, r.fin]
    exact (State.went_done kept.unreserved kept.front r.alone kept.present _ _).of_like like
  · rw [r.issueEach block hb, begun, effect]
    refine (State.slice_finishIssue (u := v.setTh k fun t => t.complete v.cycle h.h.fin) kept.unreserved kept.front r.alone _).trans ?_
    rw [State.th_setTh_self _ kept.present, th]
    exact Thread.slice_complete (t := (s.th k).beginSlice run) rfl left rep r.fresh _ _

section
variable {s : State} {k : Nat} {c : Convoy} {h : Head} {g : BitVec 8} {n : BitVec 4} {w : Nat → IWord}
variable (r : Ready s (.slice h (.v g) n) h k c) (known : s.affinePending k (.v g) = false)
  (words : ∀ p, 1 ≤ p → p ≤ n.toNat → s.wordAfter k (s.th k).pc p = .word (w p))
include r known words

/-- Where no rule is broken the words that follow are the slice of vT. -/
theorem Ready.slice_begins (rep : (s.th k).rep = none) (sound : ∀ rule p, p ≤ n.toNat → s.sliceBreaks k g.toNat c w rule p = false) :
    ∃ u, exec (.slice h (.v g) n) s = .next u ∧ Went s u k (endHint (.slice h (.v g) n)) ∧ (u.th k).slice = some
      { reg := g.toNat, saddr := nextPC (s.th k).pc, len := n.toNat, pins := s.sliceReads k g.toNat c w n.toNat, left := n.toNat } := by
  refine r.beginsSlice (block := fun s k => s.affinePending k (.v g)) (eff := fun s k => s.sliceEff k (.v g) n.toNat) rfl known rep
    (run := ⟨g.toNat, nextPC (s.th k).pc, n.toNat, s.sliceReads k g.toNat c w n.toNat, n.toNat + 1⟩)
    (Nat.lt_succ_of_le r.slice_length) fun C P R => ?_
  have words' : ∀ p, 1 ≤ p → p ≤ n.toNat → (s.noted C P R).wordAfter k ((s.noted C P R).th k).pc p = .word (w p) :=
    fun p low high => (s.wordAfter_noted C P R k _ p).trans (words p low high)
  have front : (s.noted C P R).front = some c := r.front
  refine (State.sliceEff_of_words front words' g).2 ?_
  refine (SliceScan.upto_scan words' (c := c) g.toNat le_rfl).bad.eq_none fun rule p ⟨le, broken⟩ => ?_
  exact absurd ((sound rule p le).symm.trans broken) nofun

/-- The first rule broken, and the first word that breaks it, are the value of cause 0x02. -/
theorem Ready.slice_breaks {rule p : Nat} (le : p ≤ n.toNat) (broken : s.sliceBreaks k g.toNat c w rule p = true)
    (place : ∀ q, q < p → s.sliceBreaks k g.toNat c w rule q = false)
    (first : ∀ r q, r < rule → q ≤ n.toNat → s.sliceBreaks k g.toNat c w r q = false) (handled : s.handled k 0x02 = true) :
    Leaves s (.slice h (.v g) n) k (s.trap k ⟨0x02, BitVec.ofNat 64 (16 * p + rule), none, none⟩) := by
  refine r.traps (block := fun s k => s.affinePending k (.v g)) (eff := fun s k => s.sliceEff k (.v g) n.toNat) rfl known handled fun C P R => ?_
  have words' : ∀ p, 1 ≤ p → p ≤ n.toNat → (s.noted C P R).wordAfter k ((s.noted C P R).th k).pc p = .word (w p) :=
    fun p low high => (s.wordAfter_noted C P R k _ p).trans (words p low high)
  have front : (s.noted C P R).front = some c := r.front
  refine (State.sliceEff_of_words front words' g).1 rule p ?_
  refine (SliceScan.upto_scan words' (c := c) g.toNat le_rfl).bad.eq_some ⟨le, broken⟩ (fun q lt ⟨_, yes⟩ => ?_) fun r q lt ⟨le, yes⟩ => ?_
  · exact absurd ((place q lt).symm.trans yes) nofun
  · exact absurd ((first r q lt le).symm.trans yes) nofun

end

/-! ### The end of a slice, 02 R60, R62 -/

theorem Thread.sliceStep_goes_on {t : Thread} {r : SliceRun} (slice : t.slice = some r) (more : 1 < r.left) (now : Nat) :
    t.sliceStep now = { t with slice := some { r with left := r.left - 1 } } := by
  unfold Thread.sliceStep
  simp only [slice, gt_iff_lt, more, if_true]

theorem Thread.sliceStep_ends {t : Thread} {r : SliceRun} (slice : t.slice = some r) (last : r.left ≤ 1) (now : Nat) :
    (t.sliceStep now).slice = none ∧ (t.sliceStep now).elig.length ≤ max 32 t.elig.length ∧ (t.sliceStep now).elig.getLast? = some
      ⟨r.reg, r.saddr, r.len, if r.pins.any fun p => (t.eligOf p).isSome then 2 else 1, r.pins, now⟩ := by
  have deep (p : Nat) : (t.eligOf p).isSome = t.elig.any fun e => e.reg == p := by
    rw [Bool.eq_iff_iff, List.any_eq_true]
    exact List.find?_isSome
  have kept : (t.elig.filter fun e => e.reg != r.reg).length ≤ t.elig.length := List.length_filter_le _ _
  unfold Thread.sliceStep
  simp only [slice, gt_iff_lt, Nat.not_lt.2 last, if_false, deep]
  refine ⟨trivial, ?_, ?_⟩
  · rw [List.length_append, List.length_singleton]
    split
    · next full =>
      rw [List.length_drop]
      have : 32 ≤ (t.elig.filter fun e => e.reg != r.reg).length := full
      omega
    · next room =>
      have : ¬32 ≤ (t.elig.filter fun e => e.reg != r.reg).length := room
      omega
  · rw [List.getLast?_append]
    rfl

end Sys2Proof.Machine
end

section
/-! SUPPORT. RCPDROP and RCPSTAT: what dropping registers leaves of the state, and the status word (10 R260, R261). -/

namespace Sys2Proof.Machine

/-! ### Registers dropped, 10 R260 -/

/-- What dropping registers of the thread `k` leaves as it was. -/
structure Dropped (s u : State) (k : Nat) : Prop where
  flow : (u.th k).flow = (s.th k).flow
  jump : (u.th k).jump = (s.th k).jump
  tlvl : (u.th k).tlvl = (s.th k).tlvl
  others : ∀ j, j ≠ k → (u.th j).regs = (s.th j).regs
  world : u.world = s.world
  convoys : u.convoys = s.convoys
  present : (Tab.find k s.threads).isSome → (Tab.find k u.threads).isSome
  unreserved : s.unreserved → u.unreserved

theorem Dropped.refl (s : State) (k : Nat) : Dropped s s k := ⟨rfl, rfl, rfl, fun _ _ => rfl, rfl, rfl, id, id⟩

theorem Dropped.trans {a b c : State} {k : Nat} (h : Dropped a b k) (g : Dropped b c k) : Dropped a c k :=
  ⟨g.flow.trans h.flow, g.jump.trans h.jump, g.tlvl.trans h.tlvl, fun j hj => (g.others j hj).trans (h.others j hj), g.world.trans h.world,
    g.convoys.trans h.convoys, fun p => g.present (h.present p), fun p => g.unreserved (h.unreserved p)⟩

/-- A thread changed in nothing that its drops of registers show. -/
theorem Dropped.setTh (s : State) (k j : Nat) {f : Thread → Thread} (flow : ∀ t, (f t).flow = t.flow) (jump : ∀ t, (f t).jump = t.jump)
    (tlvl : ∀ t, (f t).tlvl = t.tlvl) (regs : j ≠ k → ∀ t, (f t).regs = t.regs) : Dropped s (s.setTh j f) k := by
  have th (q : Nat) : (s.setTh j f).th q = s.th q ∨ (q = j ∧ (s.setTh j f).th q = f (s.th q)) := by
    rw [State.th_setTh]
    split
    · next h => exact .inr ⟨h.1, rfl⟩
    · exact .inl rfl
  refine ⟨?_, ?_, ?_, fun q hq => ?_, rfl, rfl, fun p => by rwa [State.find_setTh_isSome], id⟩
  · rcases th k with e | ⟨-, e⟩ <;> rw [e]
    exact flow _
  · rcases th k with e | ⟨-, e⟩ <;> rw [e]
    exact jump _
  · rcases th k with e | ⟨-, e⟩ <;> rw [e]
    exact tlvl _
  · rcases th q with e | ⟨is, e⟩ <;> rw [e]
    exact regs (is ▸ hq) _

theorem Dropped.setRw (s : State) (k r : Nat) {f : Row → Row} (unreserved : s.unreserved → ∀ q ∈ (f (s.rw r)).regs, q.2.reserve = false) :
    Dropped s (s.setRw r f) k :=
  ⟨rfl, rfl, rfl, fun _ _ => rfl, rfl, rfl, id, fun h => State.unreserved_setRw h r f (unreserved h)⟩

/-- A thread for which a register no longer counts as dropped. -/
def Thread.undrop (g : Nat) (t : Thread) : Thread := { t with dropped := t.dropped.filter (· != g) }

/-- A thread that has dropped a register. -/
def Thread.drop (g : Nat) (t : Thread) : Thread :=
  { t.endElig g with v := Tab.drop g t.v
                     dropped := if t.dropped.contains g then t.dropped else t.dropped ++ [g]
                     affine := t.affine.filter fun n => 16 * n != g }

/-- A row-register freed keeps every thread's words. -/
theorem State.freeDropped_kept (s : State) (k r g : Nat) :
    Dropped s (s.freeDropped r g) k ∧ ∀ j, ((s.freeDropped r g).th j).v = (s.th j).v := by
  have all (js : List Nat) (u : State) :
      Dropped u (js.foldl (fun s j => s.setTh j (Thread.undrop g)) u) k
        ∧ ∀ j, ((js.foldl (fun s j => s.setTh j (Thread.undrop g)) u).th j).v = (u.th j).v := by
    induction js generalizing u with
    | nil => exact ⟨Dropped.refl u k, fun _ => rfl⟩
    | cons i js ih =>
        obtain ⟨kept, words⟩ := ih (u.setTh i (Thread.undrop g))
        refine ⟨(Dropped.setTh u k i (f := Thread.undrop g) (fun _ => rfl) (fun _ => rfl) (fun _ => rfl) fun _ _ => rfl).trans kept, fun j => (words j).trans ?_⟩
        rw [State.th_setTh]
        split <;> rfl
  unfold State.freeDropped
  dsimp only
  split
  · obtain ⟨kept, words⟩ := all ((s.rowThreads r).filter s.live) s
    refine ⟨kept.trans (Dropped.setRw _ k r fun h q hq => ?_), words⟩
    exact State.unreserved_rw h r q (((Tab.drop_sublist g _).subset hq))
  · exact ⟨Dropped.refl s k, fun _ => rfl⟩

theorem State.dropReg_kept (s : State) {k : Nat} (there : (Tab.find k s.threads).isSome) (g : Nat) :
    Dropped s (s.dropReg k g) k ∧ ((s.dropReg k g).th k).v = Tab.drop g (s.th k).v := by
  have eq : s.dropReg k g = ((s.setTh k (Thread.drop g)).setRw (rowKey k) fun x =>
      { x with regs := Tab.modify g (RowReg.leave (laneOf k)) x.regs }).freeDropped (rowKey k) g := rfl
  have first : Dropped s (s.setTh k (Thread.drop g)) k :=
    Dropped.setTh s k k (fun _ => rfl) (fun _ => rfl) (fun _ => rfl) fun no => absurd rfl no
  have row : Dropped (s.setTh k (Thread.drop g)) ((s.setTh k (Thread.drop g)).setRw (rowKey k) fun x =>
      { x with regs := Tab.modify g (RowReg.leave (laneOf k)) x.regs }) k :=
    Dropped.setRw _ k _ fun h q hq => by
      rcases Tab.mem_modify hq with hq | ⟨b, hb, rfl⟩
      · exact State.unreserved_rw h _ q hq
      · exact State.unreserved_rw h _ (g, b) hb
  obtain ⟨kept, words⟩ := State.freeDropped_kept ((s.setTh k (Thread.drop g)).setRw (rowKey k) fun x =>
    { x with regs := Tab.modify g (RowReg.leave (laneOf k)) x.regs }) k (rowKey k) g
  rw [eq]
  refine ⟨(first.trans row).trans kept, (words k).trans ?_⟩
  exact congrArg Thread.v (State.th_setTh_self (Thread.drop g) there)

/-- Registers of a thread dropped one after another: those read 0. -/
theorem State.dropRegs_kept (gs : List Nat) (s : State) {k : Nat} (there : (Tab.find k s.threads).isSome) :
    Dropped s (gs.foldl (fun s g => s.dropReg k g) s) k
      ∧ ∀ j, ((gs.foldl (fun s g => s.dropReg k g) s).th k).vget j = if j ∈ gs then 0 else (s.th k).vget j := by
  induction gs generalizing s with
  | nil => exact ⟨Dropped.refl s k, fun j => by simp⟩
  | cons g gs ih =>
      obtain ⟨first, words⟩ := s.dropReg_kept there g
      obtain ⟨rest, reads⟩ := ih (s.dropReg k g) (first.present there)
      refine ⟨first.trans rest, fun j => (reads j).trans ?_⟩
      have here : ((s.dropReg k g).th k).vget j = if j = g then 0 else (s.th k).vget j := by
        unfold Thread.vget Tab.getD
        rw [words, Tab.find_drop]
        split <;> rfl
      rw [here]
      by_cases e : j = g <;> simp [e]

theorem mem_rangeFrom {a n j : Nat} : j ∈ rangeFrom a n ↔ a ≤ j ∧ j < a + n := by
  induction n generalizing a with
  | zero => simp [rangeFrom]
  | succ n ih =>
      rw [rangeFrom, List.mem_cons, ih]
      omega

/-- RCPDROP leaves the registers it names reading 0 for its thread, and the device beside them as it was. -/
theorem Ready.drops {s : State} {k : Nat} {c : Convoy} {h : Head} {g : BitVec 8} (r : Ready s (.rcpdrop h (.v g)) h k c) :
    ∃ u, exec (.rcpdrop h (.v g)) s = .next u
      ∧ (∀ j, (u.th k).vget j = if g.toNat ≤ j ∧ j < g.toNat + h.ty.rw then 0 else (s.th k).vget j)
      ∧ (∀ j, j ≠ k → (u.th j).regs = (s.th j).regs) ∧ u.world = s.world
      ∧ (u.th k).flow = ((s.th k).complete s.cycle (endHint (.rcpdrop h (.v g)))).flow := by
  obtain ⟨C, P, R, begun, -, unreserved⟩ := r.begun
  obtain ⟨kept, words⟩ := State.dropRegs_kept (rangeFrom g.toNat h.ty.rw) (s.noted C P R) (k := k) r.present
  refine ⟨_, congrArg Host.Outcome.next (r.issueEach noBlock rfl fun s k =>
    .done ((regNames h.ty.rw (.v g)).foldl (fun s g => s.dropReg k g) s)), ?_⟩
  rw [begun, r.fin, show regNames h.ty.rw (.v g) = rangeFrom g.toNat h.ty.rw from rfl]
  generalize (rangeFrom g.toNat h.ty.rw).foldl (fun s g => s.dropReg k g) (s.noted C P R) = u at kept words
  have front : u.front = some c := by
    unfold State.front
    rw [kept.convoys]
    exact r.front
  have went := State.went_done (kept.unreserved unreserved) front r.alone (kept.present r.present) h.h.fin h.h.yld
  refine ⟨fun j => ?_, fun j hj => ?_, went.world.trans kept.world, went.flow.trans ?_⟩
  · have regs := congrArg (fun t : Thread => t.vget j) went.regs
    refine (Eq.trans regs (words j)).trans ?_
    simp only [mem_rangeFrom]
    rfl
  · rw [went.others j hj]
    exact kept.others j hj
  · exact Thread.flow_complete kept.flow (kept.jump.trans rfl) kept.tlvl _ _ _

end Sys2Proof.Machine
end

section
/-! PROOF. O27: SLICE, RCPMAT, RCPDROP and RCPSTAT complete with what the rules say of slices (02 R59, R60, R62, 10 R258 to R261). -/

namespace Sys2Proof
namespace Machine

/-! ### RCPSTAT, 10 R261 -/

/-- A word that is ready issues, and its meaning is that of its thread alone in the state as it began. -/
theorem Ready.issueWith {s i h k c} (r : Ready s i h k c) (block : State → Nat → Bool) (hb : block s k = false)
    (run : Head → List Nat → State → State) :
    s.issueWith i block run = (run h [k] (s.begun c k i)).finishIssue c.part c.lane h.h.yld := by
  have free : s.holdsBack c i h block k = false := by
    have := r.free
    simp only [State.holdsBack, r.unheld, noBlock, r.guard, Bool.true_and, Bool.or_eq_false_iff] at this ⊢
    exact ⟨this.1, this.2.1, hb⟩
  obtain ⟨C, P, R, begun, -, -⟩ := r.begun
  have live : (s.begun c k i).live k = true := by rw [begun]; exact r.live
  have front : (s.begun c k i).front = some c := by rw [begun]; exact r.front
  have legal : (s.begun c k i).wordFault c i h k = none := by rw [begun]; exact r.legal
  unfold State.issueWith
  simp only [r.front, r.head, r.actors, List.isEmpty_cons, Bool.false_eq_true, if_false, List.filter_cons, r.legal,
    Option.isNone_none, if_true, List.filter_nil, free, r.rgu, Option.isSome_none, List.isEmpty_nil, Bool.not_true,
    r.guard, List.findSome?_cons, r.values, Option.map_none, List.findSome?_nil, List.any_cons, r.unheld, List.any_nil,
    Bool.or_self, List.foldl_cons, List.foldl_nil, List.filterMap_cons, List.filterMap_nil]
  rw [show ((s.count (c.part / 4) 4).keep c.part [k] i).touch k i = s.begun c k i from rfl]
  simp [legal, r.begun_faults, r.begun_sound, live, front, r.alone]

/-- The form of a register in the status word. -/
def State.formCode (s : State) (k g : Nat) : Nat :=
  if (s.th k).dropped.contains g then 5 else match s.rreg (rowKey k) g with
    | none => 0
    | some x => match x.form with | .value => 1 | .recipe => 2 | .mixed => 3 | .spilled => 4

theorem State.formCode_le (s : State) (k g : Nat) : s.formCode k g ≤ 5 := by
  unfold State.formCode
  split
  · exact le_rfl
  · split
    · omega
    · split <;> omega

/-- What the eligibility of a register adds to the status word. -/
def eligCode (o : Option Elig) : Nat :=
  match o with
  | some e => e.len * 2 ^ 8 + e.depth * 2 ^ 4 + 8
  | none => 0

/-- Whether a register lies in an affine register in use, as the status word says it. -/
def Thread.affineCode (t : Thread) (g : Nat) : Nat := if t.affine.any fun m => decide (16 * m ≤ g) && decide (g < 16 * m + 16) then 128 else 0

/-- Whether a register is an input of an eligible one, as the status word says it. -/
def Thread.pinCode (t : Thread) (g : Nat) : Nat := if t.elig.any fun e => e.pins.contains g then 64 else 0

theorem State.rcpWord_eq (s : State) (k g : Nat) : s.rcpWord k g =
    (s.th k).elig.length * 2 ^ 16 + eligCode ((s.th k).eligOf g) + (s.th k).affineCode g + (s.th k).pinCode g + s.formCode k g := rfl

/-- The status word is the same for the state as the word begins. -/
theorem Marks.rcpWord {s : State} {C P R} {k : Nat} (marks : Marks s (s.noted C P R) (rowKey k)) (g : Nat) :
    (s.noted C P R).rcpWord k g = s.rcpWord k g := by
  have form : ((s.noted C P R).rreg (rowKey k) g).map (·.form) = (s.rreg (rowKey k) g).map (·.form) := marks.row.of_find g _ fun _ _ => rfl
  have code : (s.noted C P R).formCode k g = s.formCode k g := by
    unfold State.formCode
    rw [show ((s.noted C P R).th k).dropped = (s.th k).dropped from rfl]
    split
    · rfl
    · cases hx : (s.noted C P R).rreg (rowKey k) g <;> cases hy : s.rreg (rowKey k) g <;> simp_all
  rw [State.rcpWord_eq, State.rcpWord_eq, code]
  rfl

/-- Bit 3 of the status word says whether the register is eligible. -/
theorem State.rcpWord_eligible (s : State) (k g : Nat) : (s.rcpWord k g).testBit 3 = (s.th k).elig.any fun e => e.reg == g := by
  have found : ((s.th k).eligOf g).isSome = (s.th k).elig.any fun e => e.reg == g := by
    rw [Bool.eq_iff_iff, List.any_eq_true]
    exact List.find?_isSome
  have elig : eligCode ((s.th k).eligOf g) / 8 % 2 = if ((s.th k).eligOf g).isSome then 1 else 0 := by
    cases (s.th k).eligOf g with
    | none => rfl
    | some e =>
        simp only [eligCode, Option.isSome_some, if_true]
        omega
  have low : eligCode ((s.th k).eligOf g) % 8 = 0 := by
    cases (s.th k).eligOf g with
    | none => rfl
    | some e =>
        simp only [eligCode]
        omega
  have affine : (s.th k).affineCode g % 64 = 0 := by unfold Thread.affineCode; split <;> rfl
  have pin : (s.th k).pinCode g % 64 = 0 := by unfold Thread.pinCode; split <;> rfl
  have form := s.formCode_le k g
  rw [← found, State.rcpWord_eq, Nat.testBit_eq_decide_div_mod_eq]
  cases is : ((s.th k).eligOf g).isSome with
  | false =>
      rw [is] at elig
      simp only [Bool.false_eq_true, if_false] at elig
      rw [decide_eq_false_iff_not]
      omega
  | true =>
      rw [is] at elig
      simp only [if_true] at elig
      rw [decide_eq_true_eq]
      omega

/-- A result written after another change of its thread. -/
theorem Kept.setTh_regWrite {u : State} {k : Nat} {c : Convoy} (kept : Kept u k c) (f : Thread → Thread) {d : Spec} {w : Nat}
    (room : u.hasRoom k (destRegs d w) = true) (v : DWord) :
    Like ((u.setTh k f).regWrite k d w v) (u.setTh k fun t => (f t).dest d w v) k ∧ Kept ((u.setTh k f).regWrite k d w v) k c := by
  have both : (u.setTh k f).dest k d w v = u.setTh k fun t => (f t).dest d w v := by
    simp only [State.dest, State.setTh, Tab.modify_modify]
  rw [← both]
  exact State.regWrite_like (u := u.setTh k f) ⟨kept.front, State.setTh_present kept.present f, kept.unreserved⟩ room v

/-- Two changes of a thread that come to the same for it. -/
theorem Like.setTh_congr {s : State} {k : Nat} {f g : Thread → Thread} (there : (Tab.find k s.threads).isSome) (same : f (s.th k) = g (s.th k)) :
    Like (s.setTh k f) (s.setTh k g) k := by
  have th : (s.setTh k f).th k = (s.setTh k g).th k := by rw [State.th_setTh_self _ there, State.th_setTh_self _ there, same]
  exact ⟨congrArg Thread.regs th, congrArg Thread.flow th, congrArg Thread.jump th, fun j hj => by
    rw [State.th_setTh_ne _ hj, State.th_setTh_ne _ hj], rfl⟩

/-- RCPSTAT writes the status word to its destination, and whether the register is eligible to a predicate. -/
theorem Ready.status {s : State} {k : Nat} {c : Convoy} {h : Head} {d : Spec} {g : BitVec 8} (r : Ready s (.rcpstat h d (.v g)) h k c)
    (room : s.hasRoom k (destRegs d 1) = true) : Completes s (.rcpstat h d (.v g)) k (s.setTh k fun t =>
      (t.setPred (h.md.extractLsb' 0 3).toNat (t.elig.any fun e => e.reg == g.toNat)).dest d 1 (BitVec.ofNat 64 (s.rcpWord k g.toNat))) := by
  obtain ⟨C, P, R, begun, marks, unreserved⟩ := r.begun
  have front : (s.noted C P R).front = some c := r.front
  have guard : (s.noted C P R).guard k h.g = true := r.guard
  have member : (Option.any (fun c : Convoy => c.mem.contains k) (some c)) = true := by simp [r.alone]
  have free := State.noted_room room marks
  obtain ⟨like, kept⟩ := Kept.setTh_regWrite ⟨front, r.present, unreserved⟩
    (fun t => t.setPred (h.md.extractLsb' 0 3).toNat ((s.rcpWord k g.toNat).testBit 3)) free (BitVec.ofNat 64 (s.rcpWord k g.toNat))
  refine ⟨_, congrArg Host.Outcome.next (r.issueWith noBlock rfl _), ?_⟩
  rw [begun, r.fin]
  simp only [List.foldl_cons, List.foldl_nil, front, member, guard, if_true, marks.rcpWord]
  refine (State.went_done kept.unreserved kept.front r.alone kept.present _ _).of_like (like.trans ?_)
  refine (Like.setTh_noted s C P R k _).trans (Like.setTh_congr r.present ?_)
  rw [State.rcpWord_eligible]

end Machine
open Machine

/-- Settles O27: the scan of SLICE finds the first rule broken, or the registers its words read. -/
theorem slicesAndStatus : Obligations.SlicesAndStatus := by
  refine ⟨fun s k c h g n w => ?_, fun t now r slice => ⟨?_, ?_⟩, fun s k c h d a g => ⟨?_, Ready.drops, Ready.status⟩⟩
  · intro i t inside at_ before reads breaks ready known rep words
    exact ⟨ready.slice_begins known words rep, fun rule p le broken place first => ready.slice_breaks known words le broken place first⟩
  · exact fun more => Thread.sliceStep_goes_on slice more now
  · exact fun last => Thread.sliceStep_ends slice last now
  · exact fun ready => ready.does rfl rfl s fun C P R kept _ => ⟨_, rfl, Like.noted s C P R k, kept⟩

end Sys2Proof
end

section
/-! SUPPORT. What the encodings of every format stand for, sign and magnitude apart, in the order of their bits (03 R79, R80). -/

namespace Sys2Proof.Fp

/-- The value of a sign, an exponent field and a fraction field (03 R79, R80). -/
def Fmt.value (f : Fmt) (neg : Bool) (ex t : Nat) : Val :=
  if f.top = .ieee ∧ ex = 2 ^ f.e - 1 then
    if t = 0 then .inf neg else .nan (f.m > 1 && !t.testBit (f.m - 1))
  else if f.top = .oneNaN ∧ ex = 2 ^ f.e - 1 ∧ t = 2 ^ f.m - 1 then .nan false
  else if ex = 0 then .fin neg t (f.emin - f.m)
  else .fin neg (2 ^ f.m + t) ((ex : Int) - f.bias - f.m)

theorem decode_eq_value (f : Fmt) (b : Nat) :
    decode f b = f.value (b.testBit (f.e + f.m)) (b / 2 ^ f.m % 2 ^ f.e) (b % 2 ^ f.m) := rfl

theorem decode_bits_eq_value (f : Fmt) (neg : Bool) {ex t : Nat} (hex : ex < 2 ^ f.e) (ht : t < 2 ^ f.m) :
    decode f (f.bits neg ex t) = f.value neg ex t := by
  have low : f.bits false ex t < 2 ^ (f.e + f.m) := by
    calc f.bits false ex t < (ex + 1) * 2 ^ f.m := by simp [Fmt.bits, Nat.succ_mul, ht]
      _ ≤ 2 ^ f.e * 2 ^ f.m := Nat.mul_le_mul_right _ hex
      _ = 2 ^ (f.e + f.m) := (pow_add 2 f.e f.m).symm
  have split : f.bits neg ex t = (if neg then 2 ^ f.e else 0) * 2 ^ f.m + f.bits false ex t := by
    cases neg <;> simp [Fmt.bits, Fmt.signBit, pow_add]
  have field : f.bits false ex t / 2 ^ f.m = ex := by
    rw [show f.bits false ex t = t + ex * 2 ^ f.m by simp [Fmt.bits, Nat.add_comm], Nat.add_mul_div_right _ _ (Nat.two_pow_pos _),
      Nat.div_eq_of_lt ht, Nat.zero_add]
  have fraction : f.bits neg ex t % 2 ^ f.m = t := by
    rw [split, Nat.mul_add_mod_self_right]
    simp [Fmt.bits, Nat.mul_add_mod_self_right, Nat.mod_eq_of_lt ht]
  have exponent : f.bits neg ex t / 2 ^ f.m % 2 ^ f.e = ex := by
    rw [split, Nat.add_comm, Nat.add_mul_div_right _ _ (Nat.two_pow_pos _), field]
    cases neg <;> simp [Nat.mod_eq_of_lt hex]
  have sign : (f.bits neg ex t).testBit (f.e + f.m) = neg := by
    cases neg
    · exact Nat.testBit_lt_two_pow low
    · rw [split, if_pos rfl, ← pow_add, Nat.testBit_two_pow_add_eq, Nat.testBit_lt_two_pow low]
      rfl
  rw [decode_eq_value, sign, exponent, fraction]

end Sys2Proof.Fp
end

section
/-! PROOF. O1: the table of the float formats (03 R80). -/

namespace Sys2Proof
open Fp

/-- Where the exponent field is all ones: what the format's row of the table says (03 R80). -/
theorem decode_ones {f : Fmt} {t : Nat} (ht : t < 2 ^ f.m) (he : 0 < f.e) : decode f ((2 ^ f.e - 1) * 2 ^ f.m + t) =
    match f.top with
    | .ieee => if t = 0 then .inf false else .nan (f.m > 1 && !t.testBit (f.m - 1))
    | .oneNaN => if t = 2 ^ f.m - 1 then .nan false else .fin false (2 ^ f.m + t) (2 ^ f.e - 1 - f.bias - f.m)
    | .ordinary => .fin false (2 ^ f.m + t) (2 ^ f.e - 1 - f.bias - f.m) := by
  have two := Nat.one_lt_two_pow he.ne'
  have read := decode_bits_eq_value f false (ex := 2 ^ f.e - 1) (by omega) ht
  have number : ((2 ^ f.e - 1 : Nat) : Int) = 2 ^ f.e - 1 := by push_cast [Nat.one_le_two_pow]; rfl
  simp only [Fmt.bits, Bool.false_eq_true, if_false, Nat.zero_add] at read
  rw [read, Fmt.value, number]
  have ones : ¬2 ^ f.e - 1 = 0 := by omega
  cases f.top <;> simp [ones]

/-- Settles O1: the fields and encodings of each row are computed; the exponent of all ones is read for every fraction. -/
theorem formatTable : Obligations.FormatTable := by
  refine ⟨by decide, by decide, by decide, by decide, by decide, by decide, by decide, by decide, by decide, by decide, by decide, by decide +kernel, ?_, ?_⟩
  · intro f t ht ones number
    have read (kind : Top) (h : 0 < f.e ∧ f.top = kind) := h.2 ▸ decode_ones ht h.1
    refine ⟨fun hf => ?_, fun hf => ?_, fun hf => ?_⟩
    · have ieee : ∀ g ∈ [f64, f32, f19, bf16, f16, e5m2], (0 < g.e ∧ g.top = .ieee) ∧ 1 < g.m := by decide
      obtain ⟨kind, wide⟩ := ieee f hf
      simpa [wide] using read _ kind
    · have oneNaN : ∀ g ∈ [e4m3, e3m4], 0 < g.e ∧ g.top = .oneNaN := by decide
      exact read _ (oneNaN f hf)
    · have ordinary : ∀ g ∈ [e3m2, e2m3, e2m1], 0 < g.e ∧ g.top = .ordinary := by decide
      exact read _ (ordinary f hf)
  · intro s
    cases s <;> decide +kernel

end Sys2Proof
end

section
/-! SUPPORT. The magnitudes of a format in the order of their encodings, and which numbers a format has (03 R79, R80). -/

namespace Sys2Proof.Fp

/-- What the formats of 03 R80 have in common. -/
structure Fmt.Listed (f : Fmt) : Prop where
  fraction : 0 < f.m
  exponent : 2 ≤ f.e

theorem listed_of_mem {f : Fmt} (h : f ∈ allFormats) : f.Listed := by
  have all : ∀ g ∈ allFormats, 0 < g.m ∧ 2 ≤ g.e := by decide
  obtain ⟨fraction, exponent⟩ := all f h
  exact ⟨fraction, exponent⟩

/-- What an encoding without its sign stands for, the exponent field unbounded and no exponent special. -/
def Fmt.magnitude (f : Fmt) (c : Nat) : Rat :=
  (if c / 2 ^ f.m = 0 then (c % 2 ^ f.m : Nat) else (2 ^ f.m + c % 2 ^ f.m : Nat)) * 2 ^ ((max (c / 2 ^ f.m) 1 : Nat) - f.bias - f.m : Int)

theorem magnitude_fields (f : Fmt) (ex : Nat) {t : Nat} (ht : t < 2 ^ f.m) : f.magnitude (ex * 2 ^ f.m + t) =
    (if ex = 0 then t else (2 ^ f.m + t : Nat)) * 2 ^ ((max ex 1 : Nat) - f.bias - f.m : Int) := by
  have field : (ex * 2 ^ f.m + t) / 2 ^ f.m = ex := by
    rw [Nat.add_comm, Nat.add_mul_div_right _ _ (Nat.two_pow_pos _), Nat.div_eq_of_lt ht, Nat.zero_add]
  have fraction : (ex * 2 ^ f.m + t) % 2 ^ f.m = t := by rw [Nat.mul_add_mod_self_right, Nat.mod_eq_of_lt ht]
  unfold Fmt.magnitude
  rw [field, fraction]

theorem magnitude_strictMono (f : Fmt) : StrictMono f.magnitude := by
  refine strictMono_nat_of_lt_succ fun c => ?_
  have two : (0 : Rat) < 2 ^ ((max (c / 2 ^ f.m) 1 : Nat) - f.bias - f.m : Int) := by positivity
  have ht := Nat.mod_lt c (Nat.two_pow_pos f.m)
  have split := Nat.div_add_mod' c (2 ^ f.m)
  generalize c / 2 ^ f.m = ex at *
  generalize c % 2 ^ f.m = t at *
  subst split
  rw [magnitude_fields f ex ht]
  rcases Nat.lt_or_ge (t + 1) (2 ^ f.m) with inside | last
  · rw [Nat.add_assoc, magnitude_fields f ex inside]
    refine mul_lt_mul_of_pos_right ?_ two
    split <;> push_cast <;> linarith
  · obtain rfl : t = 2 ^ f.m - 1 := by omega
    have carry : ex * 2 ^ f.m + (2 ^ f.m - 1) + 1 = (ex + 1) * 2 ^ f.m + 0 := by
      rw [Nat.succ_mul]; omega
    have ones : ((2 ^ f.m - 1 : Nat) : Rat) = 2 ^ f.m - 1 := by push_cast [Nat.one_le_two_pow]; rfl
    rw [carry, magnitude_fields f (ex + 1) (Nat.two_pow_pos _), if_neg (Nat.succ_ne_zero ex), Nat.add_zero]
    rcases Nat.eq_zero_or_pos ex with rfl | pos
    · rw [if_pos rfl, ones]
      refine mul_lt_mul_of_pos_right ?_ two
      push_cast
      linarith
    · rw [if_neg pos.ne', Nat.max_eq_left pos, Nat.max_eq_left (by omega : 1 ≤ ex + 1)]
      rw [Nat.max_eq_left pos] at two
      rw [show (((ex + 1 : Nat) : Int) - f.bias - f.m) = ((ex : Int) - f.bias - f.m) + 1 by push_cast; ring,
        zpow_add_one₀ (by norm_num), Nat.cast_add, ones]
      push_cast
      linarith

theorem maxEnc_lt {f : Fmt} (listed : f.Listed) : f.maxEnc < f.signBit ∧ 2 ^ f.m ≤ f.maxEnc := by
  obtain ⟨fraction, exponent⟩ := listed
  have four : 2 ^ 2 ≤ 2 ^ f.e := Nat.pow_le_pow_right (by omega) exponent
  have two : 2 ^ 1 ≤ 2 ^ f.m := Nat.pow_le_pow_right (by omega) fraction
  have wide : 2 ^ (f.e + f.m) = (2 ^ f.e - 1) * 2 ^ f.m + 2 ^ f.m := by
    rw [pow_add, ← Nat.succ_mul]; congr 1; omega
  have least : 3 * 2 ^ f.m ≤ (2 ^ f.e - 1) * 2 ^ f.m := Nat.mul_le_mul_right _ (by omega)
  unfold Fmt.maxEnc Fmt.signBit
  cases f.top <;> dsimp only <;> omega

/-- An encoding up to the greatest finite one stands for its sign and magnitude. -/
theorem decode_of_le_maxEnc {f : Fmt} (listed : f.Listed) (neg : Bool) {c : Nat} (h : c ≤ f.maxEnc) :
    ∃ m e, decode f ((if neg then f.signBit else 0) + c) = .fin neg m e ∧ (m : Rat) * 2 ^ e = f.magnitude c := by
  have ht := Nat.mod_lt c (Nat.two_pow_pos f.m)
  have split := Nat.div_add_mod' c (2 ^ f.m)
  have below := h.trans_lt (maxEnc_lt listed).1
  have four : 2 ^ 2 ≤ 2 ^ f.e := Nat.pow_le_pow_right (by omega) listed.exponent
  generalize c / 2 ^ f.m = ex at *
  generalize c % 2 ^ f.m = t at *
  subst split
  have wide : f.signBit = 2 ^ f.e * 2 ^ f.m := pow_add 2 f.e f.m
  have hex : ex < 2 ^ f.e := by
    by_contra no
    have : 2 ^ f.e * 2 ^ f.m ≤ ex * 2 ^ f.m := Nat.mul_le_mul_right _ (not_lt.1 no)
    omega
  have ieee : ¬(f.top = .ieee ∧ ex = 2 ^ f.e - 1) := by
    rintro ⟨top, rfl⟩
    have : 0 < (2 ^ f.e - 1) * 2 ^ f.m := Nat.mul_pos (by omega) (Nat.two_pow_pos _)
    simp only [Fmt.maxEnc, top] at h
    omega
  have oneNaN : ¬(f.top = .oneNaN ∧ ex = 2 ^ f.e - 1 ∧ t = 2 ^ f.m - 1) := by
    rintro ⟨top, rfl, rfl⟩
    have : (2 ^ f.e - 1) * 2 ^ f.m + 2 ^ f.m = 2 ^ f.e * 2 ^ f.m := by rw [← Nat.succ_mul]; congr 1; omega
    have : 4 * 1 ≤ 2 ^ f.e * 2 ^ f.m := Nat.mul_le_mul four (Nat.two_pow_pos _)
    simp only [Fmt.maxEnc, top, pow_add] at h
    omega
  rw [magnitude_fields f ex ht]
  change ∃ m e, decode f (f.bits neg ex t) = _ ∧ _
  rw [decode_bits_eq_value f neg hex ht, Fmt.value, if_neg ieee, if_neg oneNaN]
  rcases Nat.eq_zero_or_pos ex with rfl | pos
  · exact ⟨_, _, if_pos rfl, by simp [Fmt.emin]⟩
  · exact ⟨_, _, if_neg pos.ne', by rw [if_neg pos.ne', Nat.max_eq_left pos]⟩

/-- A number with its sign put to it. -/
def withNeg (neg : Bool) (x : Rat) : Rat := if neg then -x else x

theorem ratOf_eq (neg : Bool) (n d : Nat) : ratOf neg n d = withNeg neg (n / d) := rfl

@[simp] theorem abs_withNeg (neg : Bool) (x : Rat) : |withNeg neg x| = |x| := by cases neg <;> simp [withNeg]

@[simp] theorem withNeg_withNeg (neg : Bool) (x : Rat) : withNeg neg (withNeg neg x) = x := by cases neg <;> simp [withNeg]

theorem abs_withNeg_sub (neg : Bool) (x y : Rat) : |withNeg neg x - y| = |x - withNeg neg y| := by
  cases neg
  · rfl
  · rw [← abs_neg]; simp [withNeg]; congr 1; ring

theorem withNeg_inj {neg : Bool} {x y : Rat} : withNeg neg x = withNeg neg y ↔ x = y := by cases neg <;> simp [withNeg]

theorem num?_fin (neg : Bool) (m : Nat) (e : Int) : (Val.fin neg m e).num? = some (withNeg neg (m * 2 ^ e)) := by
  rw [Val.num?, ratOf_eq, frac_val]

theorem num?_of_le_maxEnc {f : Fmt} (listed : f.Listed) (neg : Bool) {c : Nat} (h : c ≤ f.maxEnc) :
    f.num? ((if neg then f.signBit else 0) + c) = some (withNeg neg (f.magnitude c)) := by
  obtain ⟨m, e, read, val⟩ := decode_of_le_maxEnc listed neg h
  rw [Fmt.num?, read, num?_fin, val]

/-- A number that a format has, its range aside: at most its precision of bits, at or above its least exponent. -/
def Fmt.Represents (f : Fmt) (w : Rat) : Prop := ∃ (j : Nat) (p : Int), |w| = j * 2 ^ p ∧ j < 2 ^ (f.m + 1) ∧ f.emin - f.m ≤ p

theorem represents_of_num? {f : Fmt} {b : Nat} {w : Rat} (h : f.num? b = some w) : f.Represents w := by
  have ht := Nat.mod_lt b (Nat.two_pow_pos f.m)
  have wide : 2 ^ (f.m + 1) = 2 * 2 ^ f.m := by rw [pow_succ, Nat.mul_comm]
  have of_fin {neg : Bool} {m : Nat} {e : Int} (hd : decode f b = .fin neg m e) (hm : m < 2 ^ (f.m + 1)) (he : f.emin - f.m ≤ e) :
      f.Represents w := by
    rw [Fmt.num?, hd, num?_fin] at h
    cases h
    exact ⟨m, e, by rw [abs_withNeg, abs_of_nonneg (by positivity)], hm, he⟩
  rw [decode_eq_value, Fmt.value] at of_fin
  by_cases ieee : f.top = .ieee ∧ b / 2 ^ f.m % 2 ^ f.e = 2 ^ f.e - 1
  · rw [Fmt.num?, decode_eq_value, Fmt.value, if_pos ieee] at h
    split at h <;> cases h
  · by_cases oneNaN : f.top = .oneNaN ∧ b / 2 ^ f.m % 2 ^ f.e = 2 ^ f.e - 1 ∧ b % 2 ^ f.m = 2 ^ f.m - 1
    · rw [Fmt.num?, decode_eq_value, Fmt.value, if_neg ieee, if_pos oneNaN] at h
      cases h
    · rw [if_neg ieee, if_neg oneNaN] at of_fin
      by_cases zero : b / 2 ^ f.m % 2 ^ f.e = 0
      · exact of_fin (if_pos zero) (by omega) le_rfl
      · exact of_fin (if_neg zero) (by omega) (by unfold Fmt.emin; omega)

theorem Fmt.Represents.withNeg {f : Fmt} {w : Rat} (h : f.Represents w) (neg : Bool) : f.Represents (withNeg neg w) := by
  obtain ⟨j, p, val, most, least⟩ := h
  exact ⟨j, p, by rw [abs_withNeg, val], most, least⟩

theorem Fmt.Represents.abs {f : Fmt} {w : Rat} (h : f.Represents w) : f.Represents |w| := by
  obtain ⟨j, p, val, most, least⟩ := h
  exact ⟨j, p, by rw [abs_abs, val], most, least⟩

end Sys2Proof.Fp
end

section
/-! SUPPORT. RoundTo any format: the neighbours of a number, which of them each mode takes, and the flags (03 R90 to R92, R94). -/

namespace Sys2Proof.Fp

/-! ### The neighbours of a number -/

/-- The neighbour of n ÷ d toward zero, and the one away from zero; both are n ÷ d where the format has it. -/
def Fmt.lower (f : Fmt) (n d : Nat) : Rat :=
  let s := scale n d (f.ulp n d)
  (s.1 / s.2 : Nat) * 2 ^ f.ulp n d
def Fmt.upper (f : Fmt) (n d : Nat) : Rat :=
  let s := scale n d (f.ulp n d)
  if s.1 % s.2 = 0 then f.lower n d else ((s.1 / s.2 : Nat) + 1) * 2 ^ f.ulp n d

/-- Neighbours: no number of the format lies between them and the number. -/
structure Fmt.Between (f : Fmt) (x lo hi : Rat) : Prop where
  nonneg : 0 ≤ lo
  low : lo ≤ x
  high : x ≤ hi
  below : ∀ w, f.Represents w → w ≤ x → w ≤ lo
  above : ∀ w, f.Represents w → x ≤ w → hi ≤ w
  exact_ : lo = x ∨ x = hi → lo = hi

theorem scale_parts {n d : Nat} (hd : 0 < d) (q : Int) :
    (n / d : Rat) = (((scale n d q).1 / (scale n d q).2 : Nat) + ((scale n d q).1 % (scale n d q).2 : Nat) / (scale n d q).2) * 2 ^ q := by
  have pos : ((scale n d q).2 : Rat) ≠ 0 := by exact_mod_cast (scale_pos hd q).ne'
  have parts : ((scale n d q).2 : Rat) * ((scale n d q).1 / (scale n d q).2 : Nat) + ((scale n d q).1 % (scale n d q).2 : Nat) = (scale n d q).1 := by
    exact_mod_cast Nat.div_add_mod _ _
  have val := scale_val n d q
  rw [eq_div_iff (by positivity)] at val
  rw [← val, ← parts]
  field_simp

/-- The number lies at or above the first multiple of its unit that the format's precision does not hold below it, or the unit is
the least. -/
theorem le_lower_of_finer {f : Fmt} {n d : Nat} (hn : 0 < n) (hd : 0 < d) {w : Rat} {j : Nat} {p : Int} (hw : |w| = j * 2 ^ p)
    (most : j < 2 ^ (f.m + 1)) (least : f.emin - f.m ≤ p) (finer : p < f.ulp n d) : w < f.lower n d := by
  have fits := count_fits (f := f) hn hd .rz false
  have toward : f.count .rz false n d = (scale n d (f.ulp n d)).1 / (scale n d (f.ulp n d)).2 := by simp [Fmt.count, roundUp]
  have full : 2 ^ f.m ≤ (scale n d (f.ulp n d)).1 / (scale n d (f.ulp n d)).2 := by
    by_contra small
    have := fits.subnormal (by omega)
    omega
  have fullq : (2 : Rat) ^ f.m ≤ ((scale n d (f.ulp n d)).1 / (scale n d (f.ulp n d)).2 : Nat) := by exact_mod_cast full
  have mostq : (j : Rat) < 2 ^ (f.m + 1) := by exact_mod_cast most
  calc w ≤ j * 2 ^ p := hw ▸ le_abs_self w
    _ < 2 ^ (f.m + 1) * 2 ^ p := by gcongr
    _ = 2 ^ f.m * 2 ^ (p + 1) := by rw [zpow_add_one₀ (by norm_num)]; ring
    _ ≤ 2 ^ f.m * 2 ^ f.ulp n d := by
        gcongr
        · norm_num
        · omega
    _ ≤ f.lower n d := mul_le_mul_of_nonneg_right fullq (by positivity)

theorem between {n d : Nat} (f : Fmt) (hd : 0 < d) : f.Between (n / d) (f.lower n d) (f.upper n d) := by
  have pos := scale_pos (n := n) hd (f.ulp n d)
  have posq : (0 : Rat) < (scale n d (f.ulp n d)).2 := by exact_mod_cast pos
  have parts := scale_parts (n := n) hd (f.ulp n d)
  have finer {w : Rat} (j : Nat) (p : Int) := le_lower_of_finer (f := f) (n := n) (d := d) (w := w) (j := j) (p := p)
  have restq : (((scale n d (f.ulp n d)).1 % (scale n d (f.ulp n d)).2 : Nat) : Rat) < (scale n d (f.ulp n d)).2 := by
    exact_mod_cast Nat.mod_lt (scale n d (f.ulp n d)).1 pos
  have two : (0 : Rat) < 2 ^ f.ulp n d := by positivity
  have zero (h : n = 0) : (scale n d (f.ulp n d)).1 = 0 := by
    subst h
    unfold scale
    split <;> simp
  unfold Fmt.upper
  dsimp only
  -- a number of the format is a multiple of the unit, or lies below the first
  have multiple {w : Rat} (h : f.Represents w) (hw : 0 ≤ w) (hn : 0 < n) : w < f.lower n d ∨ ∃ J : Nat, w = J * 2 ^ f.ulp n d := by
    obtain ⟨j, p, val, most, least⟩ := h
    rcases lt_or_ge p (f.ulp n d) with small | large
    · exact .inl (finer j p hn hd val most least small)
    · refine .inr ⟨j * 2 ^ (p - f.ulp n d).toNat, ?_⟩
      rw [abs_of_nonneg hw] at val
      rw [val, Nat.cast_mul, mul_assoc, Nat.cast_pow, Nat.cast_ofNat, ← zpow_natCast, ← zpow_add₀ (by norm_num),
        Int.toNat_of_nonneg (by omega), sub_add_cancel]
  unfold Fmt.lower at *
  dsimp only at *
  generalize f.ulp n d = q at *
  generalize hk : (scale n d q).1 / (scale n d q).2 = k at *
  generalize hr : (scale n d q).1 % (scale n d q).2 = r at *
  generalize (scale n d q).2 = D at *
  have part : (0 : Rat) ≤ r / D ∧ (r / D : Rat) < 1 := ⟨by positivity, (div_lt_one posq).2 restq⟩
  obtain ⟨part0, part1⟩ := part
  rw [parts]
  refine ⟨by positivity, by gcongr; linarith, ?_, fun w hw le => ?_, fun w hw le => ?_, ?_⟩
  · split
    · next h => simp [h]
    · gcongr
  · by_contra above
    have hw0 : 0 ≤ w := le_of_lt (lt_of_le_of_lt (by positivity) (not_le.1 above))
    rcases Nat.eq_zero_or_pos n with h0 | hn
    · rw [zero h0] at hk hr
      simp at hk hr
      subst hk hr
      simp at le above
      linarith
    · rcases multiple hw hw0 hn with small | ⟨J, rfl⟩
      · linarith
      · have lt : (J : Rat) < k + 1 := by nlinarith
        have gt : (k : Rat) < J := by nlinarith
        have : J < k + 1 := by exact_mod_cast lt
        have : k < J := by exact_mod_cast gt
        omega
  · have start : (0 : Rat) ≤ (k + r / D) * 2 ^ q := by positivity
    split
    · next h => simpa [h] using le
    · next h =>
      have hn : 0 < n := Nat.pos_of_ne_zero fun h0 => h (by rw [← hr, zero h0, Nat.zero_mod])
      have more : (0 : Rat) < r / D := by
        have : (0 : Rat) < r := by exact_mod_cast Nat.pos_of_ne_zero h
        positivity
      rcases multiple hw (start.trans le) hn with small | ⟨J, rfl⟩
      · nlinarith
      · have gt : (k : Rat) < J := by nlinarith
        have : k + 1 ≤ J := by exact_mod_cast gt
        have : (k : Rat) + 1 ≤ J := by exact_mod_cast this
        gcongr
  · split
    · exact fun _ => rfl
    · next h =>
      have more : (0 : Rat) < r / D := by
        have : (0 : Rat) < r := by exact_mod_cast Nat.pos_of_ne_zero h
        positivity
      rintro (e | e)
      · nlinarith
      · nlinarith

/-! ### What a mode takes -/

/-- The neighbour a mode takes of the number x, of sign `neg`; `odd` tells of the one toward zero (03 R90, R94). -/
def Rnd.take (mode : Rnd) (neg odd : Bool) (x lo hi : Rat) : Rat :=
  match mode with
  | .rn => if hi - x < x - lo ∨ hi - x = x - lo ∧ odd = true then hi else lo
  | .rz => lo
  | .ru => if neg then lo else hi
  | .rd => if neg then hi else lo
  | .rna => if hi - x ≤ x - lo then hi else lo
  | .sr r => if ((r : Rat) + 1) * (hi - lo) ≤ (x - lo) * 65536 then hi else lo

theorem take_self (mode : Rnd) (neg odd : Bool) (x lo : Rat) : mode.take neg odd x lo lo = lo := by
  cases mode <;> simp [Rnd.take]

/-- Rounding k + r ÷ D units. -/
theorem roundUp_take (mode : Rnd) (neg : Bool) (k : Nat) {r D : Nat} (hr : r < D) {u : Rat} (hu : 0 < u) :
    ((if roundUp mode neg k r D then k + 1 else k : Nat) : Rat) * u
      = mode.take neg (k % 2 == 1) ((k + r / D) * u) (k * u) (if r = 0 then k * u else (k + 1) * u) := by
  have posq : (0 : Rat) < D := by exact_mod_cast Nat.zero_lt_of_lt hr
  rcases Nat.eq_zero_or_pos r with rfl | some_
  · have stays : roundUp mode neg k 0 D = false := by cases mode <;> simp [roundUp]; omega
    rw [stays, if_pos rfl, take_self]
    rfl
  · have pick (b : Bool) : ((if b then k + 1 else k : Nat) : Rat) * u = if b then ((k : Rat) + 1) * u else k * u := by
      cases b <;> simp
    have up : (k + 1) * u - (k + r / D) * u = (D - r) * (u / D) := by field_simp; ring
    have down : (k + r / D) * u - k * u = r * (u / D) := by field_simp; ring
    have unit : 0 < u / D := by positivity
    have less (a b : Rat) : a * (u / D) < b * (u / D) ↔ a < b := mul_lt_mul_iff_of_pos_right unit
    have same (a b : Rat) : a * (u / D) = b * (u / D) ↔ a = b := mul_left_inj' unit.ne'
    have atMost (a b : Rat) : a * (u / D) ≤ b * (u / D) ↔ a ≤ b := mul_le_mul_iff_of_pos_right unit
    have lt : ((D : Rat) - r < r) ↔ D < 2 * r := by
      rw [sub_lt_iff_lt_add, ← two_mul]; exact_mod_cast Iff.rfl
    have eq : ((D : Rat) - r = r) ↔ 2 * r = D := by
      rw [sub_eq_iff_eq_add, ← two_mul, eq_comm]; exact_mod_cast Iff.rfl
    have le : ((D : Rat) - r ≤ r) ↔ D ≤ 2 * r := by
      rw [sub_le_iff_le_add, ← two_mul]; exact_mod_cast Iff.rfl
    rw [pick, if_neg some_.ne']
    cases mode with
    | rn => simp only [Rnd.take, up, down, less, same, lt, eq, roundUp, Bool.or_eq_true, Bool.and_eq_true, decide_eq_true_eq, beq_iff_eq]
    | rz => simp [Rnd.take, roundUp]
    | ru => cases neg <;> simp [Rnd.take, roundUp, some_.ne']
    | rd => cases neg <;> simp [Rnd.take, roundUp, some_.ne']
    | rna => simp [Rnd.take, up, down, atMost, le, roundUp, some_.ne']
    | sr q =>
        have draw : ((q : Rat) + 1) * ((k + 1) * u - k * u) ≤ r * (u / D) * 65536 ↔ q < r * 65536 / D := by
          rw [show ((q : Rat) + 1) * ((k + 1) * u - k * u) = ((q + 1) * D) * (u / D) by field_simp; ring,
            show (r : Rat) * (u / D) * 65536 = (r * 65536) * (u / D) by ring, atMost, ← Nat.succ_le_iff,
            Nat.le_div_iff_mul_le (Nat.zero_lt_of_lt hr)]
          exact_mod_cast Iff.rfl
        simp only [Rnd.take, down, draw, roundUp, decide_eq_true_eq]

/-- Whether the neighbour toward zero has an odd encoding. -/
def Fmt.odd (f : Fmt) (n d : Nat) : Bool :=
  let s := scale n d (f.ulp n d)
  s.1 / s.2 % 2 == 1

theorem count_eq_take (f : Fmt) (mode : Rnd) (neg : Bool) {n d : Nat} (hd : 0 < d) :
    (f.count mode neg n d : Rat) * 2 ^ f.ulp n d = mode.take neg (f.odd n d) (n / d) (f.lower n d) (f.upper n d) := by
  rw [scale_parts hd (f.ulp n d)]
  exact roundUp_take mode neg _ (Nat.mod_lt _ (scale_pos hd _)) (by positivity)

/-- At a tie RN takes an even multiple. -/
theorem count_even {f : Fmt} {neg : Bool} {n d : Nat} (hd : 0 < d) (tie : f.upper n d - n / d = n / d - f.lower n d)
    (rest : f.lower n d ≠ n / d) : f.count .rn neg n d % 2 = 0 := by
  have pos := scale_pos (n := n) hd (f.ulp n d)
  have posq : ((scale n d (f.ulp n d)).2 : Rat) ≠ 0 := by exact_mod_cast pos.ne'
  have parts := scale_parts (n := n) hd (f.ulp n d)
  have two : (2 : Rat) ^ f.ulp n d ≠ 0 := by positivity
  unfold Fmt.count
  unfold Fmt.upper Fmt.lower at tie
  unfold Fmt.lower at rest
  dsimp only at *
  rw [parts] at tie rest
  generalize (scale n d (f.ulp n d)).1 / (scale n d (f.ulp n d)).2 = k at *
  generalize (scale n d (f.ulp n d)).1 % (scale n d (f.ulp n d)).2 = r at *
  generalize (scale n d (f.ulp n d)).2 = D at *
  split at tie
  · next h => exact absurd (by simp [h]) rest
  · have half : (D : Rat) = 2 * r := by
      field_simp at tie
      linarith
    have half : D = 2 * r := by exact_mod_cast half
    simp only [roundUp, half, lt_self_iff_false, decide_false, Bool.false_or, beq_self_eq_true, Bool.true_and, beq_iff_eq]
    split <;> omega

end Sys2Proof.Fp
end

section
/-! SUPPORT. The encoding RoundTo makes of a number, and its flags (03 R90 to R92). -/

namespace Sys2Proof.Fp

theorem magnitude_encOf {f : Fmt} {k : Nat} {q : Int} (fits : f.Fits k q) : f.magnitude (f.encOf k q) = k * 2 ^ q := by
  obtain ⟨least, subnormal, most⟩ := fits
  have wide : 2 ^ (f.m + 1) = 2 * 2 ^ f.m := by rw [pow_succ, Nat.mul_comm]
  have start : f.emin = 1 - (f.bias : Int) := rfl
  unfold Fmt.encOf
  split
  · next small =>
    have read := magnitude_fields f 0 small
    rw [Nat.zero_mul, Nat.zero_add, if_pos rfl] at read
    rw [read, subnormal small, start]
    rfl
  · next large =>
    obtain ⟨ex, hex⟩ := Int.eq_ofNat_of_zero_le (a := q + f.m + f.bias) (by omega)
    have pos : 1 ≤ ex := by omega
    rw [hex, Int.toNat_natCast]
    rcases Nat.lt_or_ge (k - 2 ^ f.m) (2 ^ f.m) with inside | carry
    · rw [magnitude_fields f ex inside, if_neg (by omega), Nat.max_eq_left pos, show 2 ^ f.m + (k - 2 ^ f.m) = k by omega,
        show (ex : Int) - f.bias - f.m = q by omega]
    · obtain rfl : k = 2 ^ f.m + 2 ^ f.m := by omega
      have next_ : ex * 2 ^ f.m + (2 ^ f.m + 2 ^ f.m - 2 ^ f.m) = (ex + 1) * 2 ^ f.m + 0 := by rw [Nat.succ_mul]; omega
      rw [next_, magnitude_fields f (ex + 1) (Nat.two_pow_pos _), if_neg (by omega), Nat.max_eq_left (by omega),
        show ((ex + 1 : Nat) : Int) - f.bias - f.m = q + 1 by push_cast; omega, zpow_add_one₀ (by norm_num)]
      push_cast
      ring

theorem encOf_mod_two {f : Fmt} (fraction : 0 < f.m) (k : Nat) (q : Int) : f.encOf k q % 2 = k % 2 := by
  obtain ⟨m, hm⟩ := Nat.exists_eq_succ_of_ne_zero fraction.ne'
  unfold Fmt.encOf
  rw [hm, pow_succ, ← Nat.mul_assoc]
  split <;> omega

theorem encOf_mono {f : Fmt} {j k : Nat} {q : Int} (least : f.emin - f.m ≤ q) (h : j ≤ k) : f.encOf j q ≤ f.encOf k q := by
  unfold Fmt.encOf
  have start : f.emin = 1 - (f.bias : Int) := rfl
  have one : 1 * 2 ^ f.m ≤ (q + f.m + f.bias).toNat * 2 ^ f.m := Nat.mul_le_mul_right _ (by omega)
  split <;> split <;> omega

/-- The encoding RoundTo makes of n ÷ d, sign aside, before its range is looked at. -/
def Fmt.enc (f : Fmt) (mode : Rnd) (neg : Bool) (n d : Nat) : Nat := f.encOf (f.count mode neg n d) (f.ulp n d)

section
variable (f : Fmt) (mode : Rnd) (neg : Bool)

theorem count_zero {d : Nat} (hd : 0 < d) : f.count mode neg 0 d = 0 := by
  have none_ (q : Int) : (scale 0 d q).1 = 0 := by unfold scale; split <;> simp
  have pos := scale_pos (n := 0) hd (f.ulp 0 d)
  unfold Fmt.count
  dsimp only
  rw [none_, Nat.zero_div, Nat.zero_mod]
  have stays : roundUp mode neg 0 0 (scale 0 d (f.ulp 0 d)).2 = false := by cases mode <;> simp [roundUp]
  rw [stays]
  rfl

theorem lower_zero (d : Nat) : f.lower 0 d = 0 := by
  have none_ (q : Int) : (scale 0 d q).1 = 0 := by unfold scale; split <;> simp
  unfold Fmt.lower
  dsimp only
  rw [none_, Nat.zero_div, Nat.cast_zero, zero_mul]

theorem enc_zero {d : Nat} (hd : 0 < d) : f.enc mode neg 0 d = 0 := by
  simp [Fmt.enc, count_zero f mode neg hd, Fmt.encOf]

theorem magnitude_enc (n : Nat) {d : Nat} (hd : 0 < d) :
    f.magnitude (f.enc mode neg n d) = mode.take neg (f.odd n d) (n / d) (f.lower n d) (f.upper n d) := by
  rw [← count_eq_take f mode neg hd]
  rcases Nat.eq_zero_or_pos n with rfl | hn
  · rw [enc_zero f mode neg hd, count_zero f mode neg hd]
    simp [Fmt.magnitude]
  · exact magnitude_encOf (count_fits hn hd mode neg)

theorem rest_eq_zero_iff {n d : Nat} (hd : 0 < d) : (scale n d (f.ulp n d)).1 % (scale n d (f.ulp n d)).2 = 0 ↔ f.lower n d = n / d := by
  have posq : ((scale n d (f.ulp n d)).2 : Rat) ≠ 0 := by exact_mod_cast (scale_pos hd _).ne'
  have two : (2 : Rat) ^ f.ulp n d ≠ 0 := by positivity
  rw [scale_parts hd (f.ulp n d), Fmt.lower, mul_left_inj' two, left_eq_add, div_eq_zero_iff, or_iff_left posq, Nat.cast_eq_zero]

theorem floorLog2_lt_iff {n d : Nat} (hn : 0 < n) (hd : 0 < d) (l : Int) : floorLog2 n d < l ↔ (n / d : Rat) < 2 ^ l := by
  obtain ⟨lo, hi⟩ := floorLog2_spec hn hd
  have two : (1 : Rat) < 2 := by norm_num
  constructor
  · exact fun h => hi.trans_le (zpow_le_zpow_right₀ two.le (by omega))
  · intro h
    exact (zpow_lt_zpow_iff_right₀ two).1 (lo.trans_lt h)

/-- The flags of a number in range (03 R92). -/
def Fmt.flags (f : Fmt) (n d : Nat) : Flags :=
  if f.lower n d = n / d then 0 else if (n / d : Rat) < 2 ^ f.emin then UF ||| NX else NX

theorem flags_overflow (n d : Nat) : f.flags n d &&& OF = 0 := by
  unfold Fmt.flags
  split
  · rfl
  · split <;> rfl

theorem flags_inexact (n d : Nat) : f.flags n d &&& NX ≠ 0 ↔ f.lower n d ≠ n / d := by
  unfold Fmt.flags
  split
  · next same => exact iff_of_false (by decide) (not_not.2 same)
  · next apart => split <;> exact iff_of_true (by decide) apart

theorem flags_underflow (n d : Nat) : f.flags n d &&& UF ≠ 0 ↔ f.lower n d ≠ n / d ∧ (n / d : Rat) < 2 ^ f.emin := by
  unfold Fmt.flags
  split
  · next same => exact iff_of_false (by decide) fun h => h.1 same
  · next apart =>
    split
    · next small => exact iff_of_true (by decide) ⟨apart, small⟩
    · next large => exact iff_of_false (by decide) fun h => large h.2

theorem take_mem (neg odd : Bool) (x lo hi : Rat) : mode.take neg odd x lo hi = lo ∨ mode.take neg odd x lo hi = hi := by
  cases mode with
  | rz => exact .inl rfl
  | rn | rna | sr r => exact (ite_eq_or_eq _ _ _).symm
  | ru | rd => cases neg <;> simp [Rnd.take]

variable {f mode neg}

theorem roundTo_of_le {n d : Nat} (hd : 0 < d) (h : f.enc mode neg n d ≤ f.maxEnc) :
    roundTo f mode false ⟨.num neg n d, 0⟩ = ((if neg then f.signBit else 0) + f.enc mode neg n d, f.flags n d) := by
  rcases Nat.eq_zero_or_pos n with rfl | hn
  · simp [roundTo, roundNum, Fmt.flags, enc_zero f mode neg hd, lower_zero]
  · unfold Fmt.flags
    rw [if_congr (rest_eq_zero_iff f hd).symm rfl (if_congr (floorLog2_lt_iff hn hd f.emin).symm rfl rfl)]
    have num : roundNum f mode false neg n d = if f.maxEnc < f.enc mode neg n d then _ else
        ((if neg then f.signBit else 0) + f.enc mode neg n d,
          if (scale n d (f.ulp n d)).1 % (scale n d (f.ulp n d)).2 = 0 then 0 else if floorLog2 n d < f.emin then UF ||| NX else NX) :=
      if_neg hn.ne'
    rw [if_neg (not_lt.2 h)] at num
    simp [roundTo, num]

theorem roundTo_of_lt {n d : Nat} (hd : 0 < d) (h : f.maxEnc < f.enc mode neg n d) :
    (roundTo f mode false ⟨.num neg n d, 0⟩).2 = OF ||| NX := by
  rcases Nat.eq_zero_or_pos n with rfl | hn
  · rw [enc_zero f mode neg hd] at h
    omega
  · have num : roundNum f mode false neg n d = if f.maxEnc < f.enc mode neg n d then
        (let o := overflowEnc f mode false neg
         if f.top = .oneNaN ∧ some o = f.nan then o else (if neg then f.signBit else 0) + o, OF ||| NX) else _ := if_neg hn.ne'
    rw [if_pos h] at num
    simp [roundTo, num]

/-- OF tells that the rounded magnitude is past the largest finite one. -/
theorem no_overflow_iff {n d : Nat} (hd : 0 < d) :
    (roundTo f mode false ⟨.num neg n d, 0⟩).2 &&& OF = 0 ↔ f.enc mode neg n d ≤ f.maxEnc := by
  rcases Nat.lt_or_ge f.maxEnc (f.enc mode neg n d) with past | inside
  · rw [roundTo_of_lt hd past]
    exact iff_of_false (by decide) (by omega)
  · rw [roundTo_of_le hd inside]
    exact iff_of_true (flags_overflow f n d) inside

end

end Sys2Proof.Fp
end

section
/-! PROOF. O2: a rounded number is the neighbour its mode names, with the flags of the rules (03 R90, R92, R94). -/

namespace Sys2Proof
open Fp

namespace Fp

/-! ### The neighbour a mode takes among the numbers of the format -/

section
variable {f : Fmt} {x lo hi : Rat} (b : f.Between x lo hi) (neg odd : Bool)
include b

theorem Fmt.Between.le : lo ≤ hi := b.low.trans b.high

theorem Fmt.Between.le_take (mode : Rnd) : lo ≤ mode.take neg odd x lo hi ∧ mode.take neg odd x lo hi ≤ hi := by
  rcases take_mem mode neg odd x lo hi with e | e <;> rw [e]
  · exact ⟨le_rfl, b.le⟩
  · exact ⟨b.le, le_rfl⟩

/-- The number itself is taken only where the format has it. -/
theorem Fmt.Between.take_eq_iff (mode : Rnd) : mode.take neg odd x lo hi = x ↔ lo = x := by
  constructor
  · intro e
    rcases take_mem mode neg odd x lo hi with h | h
    · exact h ▸ e
    · exact (b.exact_ (.inr (h ▸ e).symm)).trans (h ▸ e)
  · intro e
    rw [← b.exact_ (.inl e), take_self, e]

/-- The neighbours are the numbers nearest on either side. -/
theorem Fmt.Between.min_le {w : Rat} (hw : f.Represents w) : min (x - lo) (hi - x) ≤ |w - x| := by
  rcases le_total w x with below | above
  · rw [abs_of_nonpos (sub_nonpos.2 below)]
    exact (min_le_left _ _).trans (by linarith [b.below w hw below])
  · rw [abs_of_nonneg (sub_nonneg.2 above)]
    exact (min_le_right _ _).trans (by linarith [b.above w hw above])

theorem Fmt.Between.abs_lo : |lo - x| = x - lo := by rw [abs_sub_comm, abs_of_nonneg (sub_nonneg.2 b.low)]
theorem Fmt.Between.abs_hi : |hi - x| = hi - x := abs_of_nonneg (sub_nonneg.2 b.high)

/-- RN and RNA take the nearer neighbour. -/
theorem Fmt.Between.nearest {mode : Rnd} (near : mode = .rn ∨ mode = .rna) {w : Rat} (hw : f.Represents w) :
    |mode.take neg odd x lo hi - x| ≤ |w - x| := by
  refine le_trans ?_ (b.min_le hw)
  rcases near with rfl | rfl
  all_goals
    unfold Rnd.take
    dsimp only
    split
    · next h => rw [b.abs_hi]; exact le_min (by grind) le_rfl
    · next h => rw [b.abs_lo]; exact le_min le_rfl (by grind)

/-- Another number as near as the one RN takes: a tie of the neighbours. -/
theorem Fmt.Between.tie_rn {w : Rat} (hw : f.Represents w) (same : |Rnd.rn.take neg odd x lo hi - x| = |w - x|) :
    Rnd.rn.take neg odd x lo hi = w ∨ (hi - x = x - lo ∧ lo ≠ x) := by
  have low := b.low
  have high := b.high
  have below := b.below w hw
  have above := b.above w hw
  have exact_ := b.exact_
  unfold Rnd.take at same ⊢
  dsimp only at same ⊢
  rcases le_total w x with smaller | larger
  · rw [abs_of_nonpos (sub_nonpos.2 smaller)] at same
    split at same
    · rw [b.abs_hi] at same; grind
    · rw [b.abs_lo] at same; grind
  · rw [abs_of_nonneg (sub_nonneg.2 larger)] at same
    split at same
    · rw [b.abs_hi] at same; grind
    · rw [b.abs_lo] at same; grind

/-- Another number as near as the one RNA takes is no larger. -/
theorem Fmt.Between.tie_rna {w : Rat} (hw : f.Represents w) (same : |Rnd.rna.take neg odd x lo hi - x| = |w - x|) :
    |w| ≤ |Rnd.rna.take neg odd x lo hi| := by
  have zero : f.Represents 0 := ⟨0, f.emin - f.m, by simp, by positivity, le_rfl⟩
  have least := b.nearest neg odd (.inr rfl) zero
  obtain ⟨low, -⟩ := b.le_take neg odd .rna
  have x0 : 0 ≤ x := b.nonneg.trans b.low
  have w0 : 0 ≤ w := by
    rw [same, zero_sub, abs_neg, abs_of_nonneg x0] at least
    linarith [(abs_le.1 least).1]
  rw [abs_of_nonneg w0, abs_of_nonneg (b.nonneg.trans low)]
  rcases le_total w x with smaller | larger
  · exact (b.below w hw smaller).trans low
  · have above := b.above w hw larger
    rw [abs_of_nonneg (sub_nonneg.2 larger)] at same
    unfold Rnd.take at same ⊢
    dsimp only at same ⊢
    split at same
    · next h => rw [b.abs_hi] at same; rw [if_pos h]; linarith
    · next h => rw [b.abs_lo] at same; linarith [not_le.1 h]

end

/-! ### RoundTo of a number, without overflow -/

section
variable {f : Fmt} (listed : f.Listed) {mode : Rnd} {neg : Bool} {n d : Nat} (hd : 0 < d)
include listed hd

/-- The number the encoding stands for. -/
theorem num?_roundTo (h : f.enc mode neg n d ≤ f.maxEnc) : f.num? (roundTo f mode false ⟨.num neg n d, 0⟩).1
    = some (withNeg neg (mode.take neg (f.odd n d) (n / d) (f.lower n d) (f.upper n d))) := by
  rw [roundTo_of_le hd h, num?_of_le_maxEnc listed neg h, magnitude_enc f mode neg n hd]

theorem roundTo_lt (h : f.enc mode neg n d ≤ f.maxEnc) : (roundTo f mode false ⟨.num neg n d, 0⟩).1 < 2 ^ f.width := by
  have wide : 2 ^ f.width = f.signBit + f.signBit := by
    unfold Fmt.width Fmt.signBit
    rw [Nat.add_assoc, Nat.add_comm, pow_succ]
    omega
  have most := (maxEnc_lt listed).1
  rw [roundTo_of_le hd h, wide]
  dsimp only
  split <;> omega

theorem testBit_roundTo (h : f.enc mode neg n d ≤ f.maxEnc) :
    (roundTo f mode false ⟨.num neg n d, 0⟩).1.testBit (f.e + f.m) = neg := by
  have small : (f.enc mode neg n d).testBit (f.e + f.m) = false := Nat.testBit_lt_two_pow (h.trans_lt (maxEnc_lt listed).1)
  rw [roundTo_of_le hd h]
  cases neg
  · simpa using small
  · simp [Fmt.signBit, Nat.testBit_two_pow_add_eq, small]

/-- A number within the range of the format does not overflow. -/
theorem enc_le_maxEnc {m : Rat} (top : f.num? f.maxEnc = some m) (h : (n / d : Rat) ≤ m) : f.enc mode neg n d ≤ f.maxEnc := by
  have read := num?_of_le_maxEnc listed false le_rfl
  rw [if_neg Bool.false_ne_true, Nat.zero_add, top] at read
  have most : m = f.magnitude f.maxEnc := Option.some.inj read
  have b := between (n := n) f hd
  rw [← (magnitude_strictMono f).le_iff_le, magnitude_enc f mode neg n hd, ← most]
  exact (b.le_take neg (f.odd n d) mode).2.trans (b.above m (represents_of_num? top) h)

/-- At a tie RN makes an even encoding. -/
theorem roundTo_even (h : f.enc .rn neg n d ≤ f.maxEnc) (tie : f.upper n d - n / d = n / d - f.lower n d) (rest : f.lower n d ≠ n / d) :
    (roundTo f .rn false ⟨.num neg n d, 0⟩).1 % 2 = 0 := by
  obtain ⟨fraction, -⟩ := listed
  have even : f.enc .rn neg n d % 2 = 0 := by
    rw [Fmt.enc, encOf_mod_two fraction, count_even hd tie rest]
  have sign : f.signBit % 2 = 0 := by
    obtain ⟨m, hm⟩ := Nat.exists_eq_succ_of_ne_zero fraction.ne'
    rw [Fmt.signBit, hm, Nat.add_succ, pow_succ, Nat.mul_mod_left]
  rw [roundTo_of_le hd h]
  dsimp only
  split <;> omega

omit listed in
/-- No mode takes more than the one away from zero. -/
theorem enc_le_enc_away (hn : 0 < n) : f.enc mode neg n d ≤ f.enc (if neg then .rd else .ru) neg n d := by
  refine encOf_mono (count_fits hn hd mode neg).least ?_
  have pos := scale_pos (n := n) hd (f.ulp n d)
  have two : (0 : Rat) < 2 ^ f.ulp n d := by positivity
  have le : (f.count mode neg n d : Rat) * 2 ^ f.ulp n d ≤ f.count (if neg then .rd else .ru) neg n d * 2 ^ f.ulp n d := by
    rw [count_eq_take f mode neg hd, count_eq_take f _ neg hd]
    refine ((between f hd).le_take neg (f.odd n d) mode).2.trans (le_of_eq ?_)
    cases neg <;> rfl
  exact_mod_cast le_of_mul_le_mul_right le two

end

theorem num?_least_normal {f : Fmt} (listed : f.Listed) : f.num? (2 ^ f.m) = some (2 ^ f.emin) := by
  have read := num?_of_le_maxEnc listed false (maxEnc_lt listed).2
  rw [if_neg Bool.false_ne_true, Nat.zero_add] at read
  have val := magnitude_fields f 1 (Nat.two_pow_pos f.m)
  rw [Nat.one_mul, Nat.add_zero, if_neg one_ne_zero, max_self, Nat.cast_pow, Nat.cast_ofNat, ← zpow_natCast,
    ← zpow_add₀ (by norm_num)] at val
  rw [read, val, show (f.m : Int) + ((1 : Nat) - f.bias - f.m) = f.emin by unfold Fmt.emin; push_cast; ring]
  rfl

end Fp

/-- Settles O2: the number lies between its neighbours in the format, and each mode takes the one that the rule names. -/
theorem roundingModes : Obligations.RoundingModes := by
  refine ⟨?_, ?_, fun x => rfl, by decide +kernel⟩
  · intro f mode neg n d mem hd plain x o other
    have listed := listed_of_mem mem
    have x_eq : x = withNeg neg (n / d) := rfl
    have abs_x : ratAbs x = n / d := by rw [ratAbs_eq_abs, x_eq, abs_withNeg, abs_of_nonneg (by positivity)]
    refine ⟨fun m top le => (no_overflow_iff hd).2 (enc_le_maxEnc listed hd top (abs_x ▸ le)), fun inside => ?_⟩
    have inside := (no_overflow_iff hd).1 inside
    have b := between (n := n) f hd
    have flags : o.2 = f.flags n d := congrArg Prod.snd (roundTo_of_le hd inside)
    have apart : withNeg neg (mode.take neg (f.odd n d) (n / d) (f.lower n d) (f.upper n d)) ≠ x ↔ f.lower n d ≠ n / d := by
      rw [x_eq, ne_eq, withNeg_inj]
      exact not_congr (b.take_eq_iff neg (f.odd n d) mode)
    refine ⟨roundTo_lt listed hd inside, testBit_roundTo listed hd inside, _, num?_roundTo listed hd inside, ?_, ?_, ?_⟩
    · -- distances and bounds, the sign taken off
      have distance (w : Rat) : ratAbs (w - x) = |withNeg neg w - n / d| := by
        rw [ratAbs_eq_abs, x_eq, abs_withNeg_sub]
      have own (v : Rat) : ratAbs (withNeg neg v - x) = |v - n / d| := by rw [distance, withNeg_withNeg]
      cases mode with
      | rz =>
        have size : ratAbs (withNeg neg (f.lower n d)) = f.lower n d := by rw [ratAbs_eq_abs, abs_withNeg, abs_of_nonneg b.nonneg]
        rw [abs_x]
        refine ⟨size.trans_le b.low, fun c w _ hw le => ?_⟩
        rw [ratAbs_eq_abs] at le ⊢
        exact (b.below _ (represents_of_num? hw).abs le).trans_eq size.symm
      | ru =>
        cases neg
        · exact ⟨b.high, fun c w _ hw le => b.above w (represents_of_num? hw) le⟩
        · exact ⟨neg_le_neg b.low, fun c w _ hw le => neg_le.1 (b.below (-w) ((represents_of_num? hw).withNeg true) (neg_le.1 le))⟩
      | rd =>
        cases neg
        · exact ⟨b.low, fun c w _ hw le => b.below w (represents_of_num? hw) le⟩
        · exact ⟨neg_le_neg b.high, fun c w _ hw le => le_neg.1 (b.above (-w) ((represents_of_num? hw).withNeg true) (le_neg.1 le))⟩
      | rn =>
        intro c w _ hw
        have hw := (represents_of_num? hw).withNeg neg
        rw [own, distance]
        refine ⟨b.nearest neg _ (.inl rfl) hw, fun same => ?_⟩
        rcases b.tie_rn neg _ hw same with e | ⟨tie, rest⟩
        · exact .inl (by rw [e, withNeg_withNeg])
        · exact .inr (roundTo_even listed hd inside tie rest)
      | rna =>
        intro c w _ hw
        have hw := (represents_of_num? hw).withNeg neg
        rw [own, distance, ratAbs_eq_abs, ratAbs_eq_abs, abs_withNeg, ← abs_withNeg neg w]
        exact ⟨b.nearest neg _ (.inr rfl) hw, b.tie_rna neg _ hw⟩
      | sr r => trivial
    · rw [flags, flags_inexact, apart]
    · rw [flags, flags_underflow, apart, abs_x, num?_least_normal listed]
      simp
  · intro f neg n d r lo hi mem hd draw x res away inside low high y
    have listed := listed_of_mem mem
    have inside : f.enc (if neg then .rd else .ru) neg n d ≤ f.maxEnc := (no_overflow_iff hd).1 inside
    have within (m : Rnd) : f.enc m neg n d ≤ f.maxEnc := by
      rcases Nat.eq_zero_or_pos n with rfl | hn
      · rw [enc_zero f m neg hd]
        exact Nat.zero_le _
      · exact (enc_le_enc_away hd hn).trans inside
    have num (m : Rnd) := num?_roundTo listed hd (within m)
    have b := between (n := n) f hd
    have x_eq : x = withNeg neg (n / d) := rfl
    have lo_eq : lo = withNeg neg (f.lower n d) := Option.some.inj (low.symm.trans (num .rz))
    have hi_eq : hi = withNeg neg (f.upper n d) := by
      refine (Option.some.inj (high.symm.trans (num _))).trans (congrArg _ ?_)
      cases neg <;> rfl
    refine ⟨fun same => ?_, fun _ => ?_⟩
    · rw [lo_eq, x_eq, withNeg_inj] at same
      rw [show y = _ from num (.sr r), (b.take_eq_iff neg _ _).2 same, x_eq]
    · have size {v : Rat} (h : 0 ≤ v) : ratAbs (withNeg neg v) = v := by rw [ratAbs_eq_abs, abs_withNeg, abs_of_nonneg h]
      rw [show y = _ from num (.sr r), lo_eq, hi_eq, x_eq, size b.nonneg, size (b.nonneg.trans b.le), size (by positivity)]
      exact congrArg some (apply_ite (withNeg neg) _ _ _)

end Sys2Proof
end

section
/-! PROOF. O11: FMIN, FMAX, the sign instructions and FCLASS (03 R97, 09 R236, R237). -/

namespace Sys2Proof.Machine

/-- The number taken of two encodings, by the rows of the table of 03 R97. -/
theorem minMax_eq (f : Fp.Fmt) (greater nanForm : Bool) (m n : Nat) : Fp.minMax f greater nanForm m n =
    (if (Fp.decode f m).isNaN ∧ (Fp.decode f n).isNaN then f.nan.getD 0
      else if (Fp.decode f m).isNaN then (if nanForm then f.nan.getD 0 else n)
      else if (Fp.decode f n).isNaN then (if nanForm then f.nan.getD 0 else m)
      else if (if greater then Fp.ltZ (Fp.decode f m) (Fp.decode f n) else Fp.ltZ (Fp.decode f n) (Fp.decode f m)) then n else m,
      Fp.sigFl (Fp.decode f m) ||| Fp.sigFl (Fp.decode f n)) := by
  unfold Fp.minMax
  dsimp only
  cases hm : (Fp.decode f m).isNaN <;> cases hn : (Fp.decode f n).isNaN
  case false.false => cases greater <;> simp only [Bool.and_self, Bool.false_eq_true, false_and, if_false, if_true]
  all_goals simp only [Bool.false_eq_true, Bool.and_false, Bool.false_and, Bool.and_self, and_self, and_false, false_and, if_false, if_true]

/-- FMIN and FMAX take one of their operands, or the NaN (09 R236). -/
theorem fminmax_eq (h : Head) (greater : Bool) (a b : DWord) : fminmax h greater a b =
    { v := fput h.ty (Fp.minMax h.ty.fmt greater (h.md.getLsbD 0) (fget h.ty a) (fget h.ty b)).1,
      fl := (Fp.minMax h.ty.fmt greater (h.md.getLsbD 0) (fget h.ty a) (fget h.ty b)).2 } := rfl

/-- Below the sign, an encoding of no exponent is one of the fraction alone. -/
theorem mod_signBit_lt_iff (f : Fp.Fmt) (b : Nat) : b % f.signBit < 2 ^ f.m ↔ b / 2 ^ f.m % 2 ^ f.e = 0 := by
  have field : b % f.signBit / 2 ^ f.m = b / 2 ^ f.m % 2 ^ f.e := by
    rw [Fp.Fmt.signBit, Nat.add_comm, pow_add, Nat.mod_mul_right_div_self]
  rw [← field, Nat.div_eq_zero_iff_lt (Nat.two_pow_pos _)]

/-- The class of an encoding, its subnormals told by the bits below the sign (09 R237). -/
theorem classOf_eq (f : Fp.Fmt) (b : Nat) : Fp.classOf f b =
    match Fp.decode f b with
    | .inf s => if s then 0 else 7
    | .nan sig => if sig then 8 else 9
    | .fin s m _ =>
        if m = 0 then (if s then 3 else 4)
        else if b % f.signBit < 2 ^ f.m then (if s then 2 else 5)
        else (if s then 1 else 6) := by
  unfold Fp.classOf
  cases hd : Fp.decode f b with
  | nan s => rfl
  | inf s => rfl
  | fin s m e =>
      by_cases zero : m = 0
      · simp only [if_pos zero]
      · have sub : Fp.isSub f b = true ↔ b % f.signBit < 2 ^ f.m := by
          rw [mod_signBit_lt_iff, Fp.isSub, Bool.and_eq_true, beq_iff_eq, bne_iff_ne, and_iff_left_iff_imp]
          intro none_ fraction
          rw [Fp.decode_eq_value, Fp.Fmt.value, none_, fraction] at hd
          split at hd
          · cases hd
          · split at hd
            · cases hd
            · rw [if_pos rfl] at hd
              cases hd
              exact zero rfl
        simp only [if_neg zero, sub]

/-- Settles O11: the table's rows are compared case by case, and the class by the bits below the sign. -/
theorem minMaxAndSigns : Obligations.MinMaxAndSigns := by
  refine ⟨fun h d a b x => ?_, fun h d a b mask => ?_⟩
  · intro t A B X pick
    have gives {i : Instr} {p q : Rd → DWord} {greater : Bool} (he : ∀ s, exec i s = .next (s.issueValue i d t.rw fun r => fminmax h greater (p r) (q r))) :
        Gives i h d t.rw fun r => pick greater (fget t (p r)) (fget t (q r)) :=
      Gives.of_value he fun _ r => ⟨rfl, rfl, by rw [fminmax_eq, minMax_eq]; rfl⟩
    exact ⟨gives fun s => rfl, gives (q := fun _ => immX t x) fun s => rfl, gives fun s => rfl, gives (q := fun _ => immX t x) fun s => rfl⟩
  · intro t sgn mag neg put cls
    refine ⟨Gives.of_value (fun s => rfl) fun _ r => ⟨rfl, rfl, rfl⟩, Gives.of_value (fun s => rfl) fun _ r => ⟨rfl, rfl, rfl⟩,
      Gives.of_value (fun s => rfl) fun _ r => ⟨rfl, rfl, rfl⟩, Gives.of_value (fun s => rfl) fun _ r => ⟨rfl, rfl, ?_⟩⟩
    have class_ : Fp.classOf t.fmt (fget t (r.src t a)) = cls r := (classOf_eq _ _).trans rfl
    unfold valFclass
    rw [class_]
    cases d.isPred
    · rfl
    · show ({ v := truth (mask.getLsbD (cls r)) } : Out) = bitsOut (mask.getLsbD (cls r)).toNat
      cases mask.getLsbD (cls r) <;> rfl

end Sys2Proof.Machine
end

section
/-! SUPPORT. The exact results of the float operations on finite values (09 R235, 03 R90, R92). -/

namespace Sys2Proof.Fp

theorem finite_of_num? {a : Val} {x : Rat} (h : a.num? = some x) : ∃ s m e, a = .fin s m e ∧ x = withNeg s (m * 2 ^ e) := by
  cases a with
  | nan s => cases h
  | inf s => cases h
  | fin s m e => exact ⟨s, m, e, rfl, Option.some.inj (h.symm.trans (num?_fin s m e))⟩

theorem num?_frac (s : Bool) (m : Nat) (e : Int) : (Ex.num s (frac m e).1 (frac m e).2).num? = some (withNeg s (m * 2 ^ e)) :=
  num?_fin s m e

@[simp] theorem withNeg_zero (s : Bool) : withNeg s 0 = 0 := by cases s <;> simp [withNeg]

theorem withNeg_eq_zero {s : Bool} {x : Rat} : withNeg s x = 0 ↔ x = 0 := by cases s <;> simp [withNeg]

theorem withNeg_mul_right (s : Bool) (x y : Rat) : withNeg s (x * y) = withNeg s x * y := by cases s <;> simp [withNeg]

theorem withNeg_mul (s t : Bool) (x y : Rat) : withNeg s x * withNeg t y = withNeg (s != t) (x * y) := by
  cases s <;> cases t <;> simp [withNeg]

theorem withNeg_div (s t : Bool) (x y : Rat) : withNeg s x / withNeg t y = withNeg (s != t) (x / y) := by
  cases s <;> cases t <;> simp [withNeg, neg_div, div_neg]

theorem withNeg_natAbs (v : Int) : withNeg (decide (v < 0)) (v.natAbs : Rat) = v := by
  rw [Nat.cast_natAbs, Int.cast_abs]
  by_cases neg : v < 0
  · rw [abs_of_neg (by exact_mod_cast neg)]
    simp [withNeg, neg]
  · rw [abs_of_nonneg (by exact_mod_cast not_lt.1 neg)]
    simp [withNeg, neg]

theorem magnitude_eq_zero {m : Nat} {e : Int} {s : Bool} : withNeg s ((m : Rat) * 2 ^ e) = 0 ↔ m = 0 := by
  have two : (2 : Rat) ^ e ≠ 0 := by positivity
  rw [withNeg_eq_zero, mul_eq_zero, or_iff_left two, Nat.cast_eq_zero]

/-- A numerator over a power of two at or below the exponent. -/
theorem signedAt_val (s : Bool) (m : Nat) {e t : Int} (h : t ≤ e) : (signedAt s m e t : Rat) * 2 ^ t = withNeg s (m * 2 ^ e) := by
  have scaled : ((m * 2 ^ (e - t).toNat : Nat) : Rat) * 2 ^ t = m * 2 ^ e := by
    rw [Nat.cast_mul, mul_assoc, Nat.cast_pow, Nat.cast_ofNat, ← zpow_natCast, ← zpow_add₀ (by norm_num), Int.toNat_of_nonneg (by omega),
      sub_add_cancel]
  unfold signedAt
  cases s
  · simpa [withNeg] using scaled
  · simp only [if_true, withNeg, Int.cast_neg, neg_mul, Int.cast_natCast, scaled]

/-- A signed numerator and a power of two, taken apart again. -/
theorem num?_signed (v t : Int) : (Ex.num (decide (v < 0)) (frac v.natAbs t).1 (frac v.natAbs t).2).num? = some ((v : Rat) * 2 ^ t) := by
  rw [num?_frac, withNeg_mul_right, withNeg_natAbs]

section
variable (rd s : Bool) (m : Nat) (e : Int) (t : Bool) (n : Nat) (g : Int)

/-- The common exponent, and the numerators' sum over it. -/
theorem sumEx_numerators : ((signedAt s m e (if e ≤ g then e else g) + signedAt t n g (if e ≤ g then e else g) : Int) : Rat)
    * 2 ^ (if e ≤ g then e else g) = withNeg s (m * 2 ^ e) + withNeg t (n * 2 ^ g) := by
  rw [Int.cast_add, add_mul, signedAt_val s m (by split <;> omega), signedAt_val t n (by split <;> omega)]

theorem num?_sumEx : (sumEx rd s m e t n g).num? = some (withNeg s (m * 2 ^ e) + withNeg t (n * 2 ^ g)) := by
  have sum := sumEx_numerators s m e t n g
  unfold sumEx
  split
  · next zero =>
    obtain ⟨rfl, rfl⟩ := zero
    simp [Ex.num?, ratOf_eq]
  · dsimp only
    rw [← sum]
    generalize signedAt s m e (if e ≤ g then e else g) + signedAt t n g (if e ≤ g then e else g) = v
    by_cases zero : v = 0
    · simp [zero, Ex.num?, ratOf_eq]
    · rw [if_neg zero]
      exact num?_signed _ _

/-- A zero sum of opposite signs has the sign that the mode gives it (03 R90). -/
theorem sumEx_zero (zero : withNeg s (m * 2 ^ e) + withNeg t (n * 2 ^ g) = 0) (apart : s ≠ t) : sumEx rd s m e t n g = .num rd 0 1 := by
  have sum := sumEx_numerators s m e t n g
  rw [zero, mul_eq_zero, or_iff_left (by positivity)] at sum
  have none_ : signedAt s m e (if e ≤ g then e else g) + signedAt t n g (if e ≤ g then e else g) = 0 := by exact_mod_cast sum
  unfold sumEx
  dsimp only
  rw [none_, if_neg apart, if_pos rfl, ite_self]

theorem num?_div (hn : n ≠ 0) : (div (.fin s m e) (.fin t n g)).x.num? = some (withNeg s (m * 2 ^ e) / withNeg t (n * 2 ^ g)) := by
  have two : (2 : Rat) ^ g ≠ 0 := by positivity
  have nq : (n : Rat) ≠ 0 := by exact_mod_cast hn
  simp only [div, if_neg hn, Ex.num?, ratOf_eq, withNeg_div]
  rw [Nat.cast_mul, ← div_div, frac_val, zpow_sub₀ (by norm_num)]
  congr 2
  field_simp

end

theorem num?_scaleB (s : Bool) (m : Nat) (e : Int) {b : Int} (lo : -4096 ≤ b) (hi : b ≤ 4096) :
    (scaleB (.fin s m e) b).x.num? = some (withNeg s (m * 2 ^ e) * 2 ^ b) := by
  unfold scaleB
  dsimp only
  rw [if_neg (by omega), if_neg (by omega), num?_frac, zpow_add₀ (by norm_num), ← mul_assoc, withNeg_mul_right]

end Sys2Proof.Fp
end

section
/-! SUPPORT. The fraction that stands for a square root: which numbers of a format lie below and above it (09 R235). -/

namespace Sys2Proof

/-! ### The integer root -/

theorem isqrtAux_spec (k n r : Nat) (lo : r * r ≤ n) (hi : n < (r + 2 ^ k) * (r + 2 ^ k)) :
    isqrtAux k n r * isqrtAux k n r ≤ n ∧ n < (isqrtAux k n r + 1) * (isqrtAux k n r + 1) := by
  induction k generalizing r with
  | zero => exact ⟨lo, hi⟩
  | succ k ih =>
      unfold isqrtAux
      split
      · next up => exact ih _ up (by rwa [Nat.add_assoc, ← Nat.two_mul, ← Nat.pow_succ'])
      · next down => exact ih _ lo (not_le.1 down)

theorem isqrt_eq_sqrt (n : Nat) : isqrt n = n.sqrt := by
  have wide : n < (0 + 2 ^ (bitLen n / 2 + 1)) * (0 + 2 ^ (bitLen n / 2 + 1)) := by
    rw [Nat.zero_add, ← pow_add]
    have digits : n < 2 ^ bitLen n := by
      unfold bitLen
      split
      · next h => simp [h]
      · exact Nat.lt_log2_self
    exact digits.trans_le (Nat.pow_le_pow_right (by omega) (by omega))
  obtain ⟨lo, hi⟩ := isqrtAux_spec _ n 0 (by omega) wide
  exact Nat.eq_sqrt.2 ⟨lo, hi⟩

namespace Fp

/-! ### The fraction for a root -/

/-- A fraction that stands for the square root of x among the numbers of a format. -/
structure Fmt.Roots (f : Fmt) (x y : Rat) : Prop where
  below : ∀ w, f.Represents w → 0 ≤ w → (w * w ≤ x ↔ w ≤ y)
  above : ∀ w, f.Represents w → 0 ≤ w → (x ≤ w * w ↔ y ≤ w)

theorem roots_of_square (f : Fmt) {x y : Rat} (hy : 0 ≤ y) (h : y * y = x) : f.Roots x y := by
  subst h
  exact ⟨fun w _ hw => mul_self_le_mul_self_iff hw hy |>.symm, fun w _ hw => mul_self_le_mul_self_iff hy hw |>.symm⟩

/-- Between two multiples of 2^−p with the root between them, any fraction stands for it. -/
theorem roots_of_between {f : Fmt} {x y : Rat} {p r : Nat} (full : 2 ^ f.m ≤ r) (lo : (r * r : Rat) < x * (2 ^ p * 2 ^ p))
    (hi : x * (2 ^ p * 2 ^ p) < (r + 1) * (r + 1)) (above : (r : Rat) < y * 2 ^ p) (below : y * 2 ^ p < r + 1) : f.Roots x y := by
  have two : (0 : Rat) < 2 ^ p := by positivity
  have square : (0 : Rat) < 2 ^ p * 2 ^ p := by positivity
  have fullq : (2 : Rat) ^ f.m ≤ r := by exact_mod_cast full
  -- a number of the format, scaled, is at most r or at least r + 1
  have apart {w : Rat} (hw : f.Represents w) (w0 : 0 ≤ w) : w * 2 ^ p ≤ r ∨ (r : Rat) + 1 ≤ w * 2 ^ p := by
    obtain ⟨j, q, val, most, -⟩ := hw
    rw [abs_of_nonneg w0] at val
    rcases le_or_gt 0 (q + p) with whole | tiny
    · have multiple : w * 2 ^ p = ((j * 2 ^ (q + p).toNat : Nat) : Rat) := by
        rw [val, mul_assoc, Nat.cast_mul, Nat.cast_pow, Nat.cast_ofNat, ← zpow_natCast (2 : Rat) p, ← zpow_natCast (2 : Rat) (q + p).toNat,
          ← zpow_add₀ (by norm_num), Int.toNat_of_nonneg whole]
      rw [multiple]
      rcases Nat.lt_or_ge r (j * 2 ^ (q + p).toNat) with more | less
      · exact .inr (by exact_mod_cast more)
      · exact .inl (by exact_mod_cast less)
    · left
      have mostq : (j : Rat) ≤ 2 ^ (f.m + 1) := by exact_mod_cast most.le
      calc w * 2 ^ p = j * 2 ^ (q + p) := by rw [val, zpow_add₀ (by norm_num), zpow_natCast, mul_assoc]
        _ ≤ 2 ^ (f.m + 1) * 2 ^ (-1 : Int) := by
            gcongr
            · norm_num
            · omega
        _ = 2 ^ f.m := by rw [pow_succ, zpow_neg_one, mul_assoc, mul_inv_cancel₀ (by norm_num), mul_one]
        _ ≤ r := fullq
  have squares (w : Rat) : w * w * (2 ^ p * 2 ^ p) = (w * 2 ^ p) * (w * 2 ^ p) := by ring
  constructor
  all_goals
    intro w hw w0
    have v0 : 0 ≤ w * 2 ^ p := by positivity
  · rw [← mul_le_mul_iff_of_pos_right square, squares, ← mul_le_mul_iff_of_pos_right (b := w) two]
    rcases apart hw w0 with small | large
    · exact iff_of_true ((mul_self_le_mul_self v0 small).trans lo.le) (small.trans above.le)
    · exact iff_of_false (not_le.2 (hi.trans_le (mul_self_le_mul_self (by positivity) large))) (not_le.2 (below.trans_le large))
  · rw [← mul_le_mul_iff_of_pos_right square, squares, ← mul_le_mul_iff_of_pos_right (b := y) two]
    rcases apart hw w0 with small | large
    · exact iff_of_false (not_le.2 ((mul_self_le_mul_self v0 small).trans_lt lo)) (not_le.2 (small.trans_lt above))
    · exact iff_of_true (hi.le.trans (mul_self_le_mul_self (by positivity) large)) (below.le.trans large)

/-- The fraction that RoundTo is given for √(n ÷ d) stands for it in every format of at most 60 fraction bits. -/
theorem sqrtFrac_roots {f : Fmt} (narrow : f.m ≤ 60) {n d : Nat} (hn : 0 < n) (hd : 0 < d) :
    0 < (sqrtFrac n d).2 ∧ f.Roots (n / d) ((sqrtFrac n d).1 / (sqrtFrac n d).2) := by
  have dq : (0 : Rat) < d := by exact_mod_cast hd
  have nq : (0 : Rat) < n := by exact_mod_cast hn
  unfold sqrtFrac
  dsimp only
  rw [isqrt_eq_sqrt]
  generalize hp : 64 + ((floorLog2 d n).toNat + 1) = p
  have two : (0 : Rat) < 2 ^ p := by positivity
  have square : (n / d : Rat) * (2 ^ p * 2 ^ p) = (n * 2 ^ (2 * p) : Nat) / d := by
    push_cast
    rw [two_mul, pow_add]
    field_simp
  generalize hN : n * 2 ^ (2 * p) = N at square
  have big : 2 ^ f.m ≤ (N / d).sqrt := by
    have digits := (floorLog2_spec hd hn).2
    have small : (d : Rat) < n * 2 ^ ((floorLog2 d n).toNat + 1) := by
      rw [div_lt_iff₀ nq] at digits
      calc (d : Rat) < 2 ^ (floorLog2 d n + 1) * n := digits
        _ ≤ 2 ^ (((floorLog2 d n).toNat + 1 : Nat) : Int) * n := by
            gcongr
            · norm_num
            · omega
        _ = n * 2 ^ ((floorLog2 d n).toNat + 1) := by rw [zpow_natCast, mul_comm]
    have small : d < n * 2 ^ ((floorLog2 d n).toNat + 1) := by exact_mod_cast small
    rw [Nat.le_sqrt, Nat.le_div_iff_mul_le hd, ← hN]
    calc 2 ^ f.m * 2 ^ f.m * d ≤ 2 ^ f.m * 2 ^ f.m * (n * 2 ^ ((floorLog2 d n).toNat + 1)) := Nat.mul_le_mul_left _ small.le
      _ = n * 2 ^ (f.m + f.m + ((floorLog2 d n).toNat + 1)) := by rw [pow_add, pow_add]; ring
      _ ≤ n * 2 ^ (2 * p) := Nat.mul_le_mul_left _ (Nat.pow_le_pow_right (by omega) (by omega))
  have divides : (((N / d : Nat) : Rat) ≤ N / d) ∧ (N / d : Rat) < (N / d : Nat) + 1 := by
    rw [le_div_iff₀ dq, div_lt_iff₀ dq]
    exact ⟨by exact_mod_cast Nat.div_mul_le_self N d, by rw [mul_comm]; exact_mod_cast Nat.lt_mul_div_succ N hd⟩
  have lo : ((N / d).sqrt * (N / d).sqrt : Rat) ≤ N / d := le_trans (by exact_mod_cast Nat.sqrt_le (N / d)) divides.1
  have hi : (N / d : Rat) < ((N / d).sqrt + 1) * ((N / d).sqrt + 1) := by
    have next_ : (N / d + 1 : Nat) ≤ ((N / d).sqrt + 1) * ((N / d).sqrt + 1) := Nat.lt_succ_sqrt (N / d)
    exact divides.2.trans_le (by exact_mod_cast next_)
  generalize (N / d).sqrt = r at *
  split
  · next square_ =>
    refine ⟨Nat.two_pow_pos p, roots_of_square f (by positivity) ?_⟩
    have whole : (r * r * d : Rat) = N := by exact_mod_cast square_
    rw [← whole, mul_div_assoc, div_self dq.ne', mul_one] at square
    have p0 := two.ne'
    rw [← mul_left_inj' (mul_ne_zero p0 p0), square]
    push_cast
    field_simp
  · next rest =>
    have middle : ((2 * r + 1 : Nat) : Rat) / (2 ^ (p + 1) : Nat) * 2 ^ p = r + 1 / 2 := by
      push_cast
      rw [pow_succ]
      field_simp
    have strict : (r * r : Rat) < N / d := by
      refine lt_of_le_of_ne lo fun e => rest ?_
      rw [eq_div_iff dq.ne'] at e
      exact_mod_cast e
    refine ⟨Nat.two_pow_pos _, roots_of_between big (square ▸ strict) (square ▸ hi) ?_ ?_⟩
    all_goals
      dsimp only
      rw [middle]
      linarith

end Fp
end Sys2Proof
end

section
/-! PROOF. O3: sums, products, quotients and scalings are exact before they are rounded (09 R235, 03 R90, R92). -/

namespace Sys2Proof
open Fp

namespace Fp

/-! ### Square roots rounded down and up -/

/-- The greatest finite encoding of an IEEE format stands for its largest number. -/
theorem num?_maxEnc {f : Fmt} (ieee : f.Ieee) (listed : f.Listed) : f.num? f.maxEnc = some f.maxNum := by
  obtain ⟨top, bias, normal⟩ := ieee
  have pos := Nat.two_pow_pos f.m
  have read := num?_of_le_maxEnc listed false le_rfl
  rw [if_neg Bool.false_ne_true, Nat.zero_add] at read
  have fields : f.maxEnc = (2 * f.bias) * 2 ^ f.m + (2 ^ f.m - 1) := by
    have : (2 * f.bias + 1) * 2 ^ f.m = (2 * f.bias) * 2 ^ f.m + 2 ^ f.m := Nat.succ_mul _ _
    simp only [Fmt.maxEnc, top, bias]
    rw [show 2 * f.bias + 2 - 1 = 2 * f.bias + 1 by omega]
    omega
  rw [read, fields, magnitude_fields f _ (by omega), if_neg (by omega), Nat.max_eq_left (by omega), Fmt.maxNum,
    show ((2 * f.bias : Nat) : Int) - f.bias - f.m = f.bias - f.m by push_cast; ring]
  rw [Nat.cast_add, Nat.cast_sub pos, pow_succ]
  simp only [withNeg, Bool.false_eq_true, if_false]
  push_cast
  ring_nf

/-- The square of 1 lies below a number above 1, and the square of a number below 1 below itself. -/
theorem exists_below_root {f : Fmt} (ieee : f.Ieee) {x : Rat} (hx : f.Represents x) (pos : 0 < x) : ∃ w, f.Represents w ∧ 0 < w ∧ w * w ≤ x := by
  obtain ⟨-, -, normal⟩ := ieee
  rcases le_total x 1 with small | large
  · exact ⟨x, hx, pos, mul_le_of_le_one_left pos.le small⟩
  · refine ⟨1, ⟨1, 0, by simp, Nat.one_lt_two_pow (by omega), ?_⟩, one_pos, by simpa using large⟩
    rw [Fmt.emin]
    omega

section
variable {f : Fmt} (ieee : f.Ieee) (listed : f.Listed) (narrow : f.m ≤ 60)
include ieee listed narrow

/-- A square root of a positive number of an IEEE format, rounded down and up. -/
theorem sqrt_between {b m : Nat} {e : Int} (hd : decode f b = .fin false m e) (hm : 0 < m) :
    ∃ y lo hi, f.Roots (m * 2 ^ e) y ∧ f.Between y lo hi ∧ f.Represents lo ∧ f.Represents hi
      ∧ f.num? (roundTo f .rd false (sqrt (decode f b))).1 = some lo ∧ f.num? (roundTo f .ru false (sqrt (decode f b))).1 = some hi := by
  have dpos : 0 < (frac m e).2 := by
    unfold frac
    split
    · exact Nat.one_pos
    · exact Nat.two_pow_pos _
  have npos : 0 < (frac m e).1 := by
    unfold frac
    split
    · exact Nat.mul_pos hm (Nat.two_pow_pos _)
    · exact hm
  obtain ⟨ypos, roots⟩ := sqrtFrac_roots narrow npos dpos
  rw [frac_val] at roots
  have root : sqrt (decode f b) = ⟨.num false (sqrtFrac (frac m e).1 (frac m e).2).1 (sqrtFrac (frac m e).1 (frac m e).2).2, 0⟩ := by
    rw [hd]
    simp [sqrt, hm.ne']
  generalize sqrtFrac (frac m e).1 (frac m e).2 = y at *
  have top := num?_maxEnc ieee listed
  have one : 1 ≤ f.maxNum := by
    have wide : (2 : Rat) ^ f.m * 2 ^ ((f.bias : Int) - f.m) = 2 ^ f.bias := by
      rw [← zpow_natCast, ← zpow_natCast, ← zpow_add₀ (by norm_num), add_sub_cancel]
    calc (1 : Rat) ≤ 2 ^ f.bias := one_le_pow₀ (by norm_num)
      _ ≤ f.maxNum := by
        rw [← wide, Fmt.maxNum, pow_succ]
        have : (1 : Rat) ≤ 2 ^ f.m := one_le_pow₀ (by norm_num)
        gcongr
        linarith
  have within : (y.1 / y.2 : Rat) ≤ f.maxNum := by
    rw [← roots.above _ (represents_of_num? top) (by linarith)]
    calc (m : Rat) * 2 ^ e ≤ f.maxNum := decode_fin_le ieee hd
      _ ≤ f.maxNum * f.maxNum := le_mul_of_one_le_left (by linarith) one
  have down := num?_roundTo listed (mode := .rd) (neg := false) ypos (enc_le_maxEnc listed ypos top within)
  have up := num?_roundTo listed (mode := .ru) (neg := false) ypos (enc_le_maxEnc listed ypos top within)
  rw [root]
  exact ⟨_, _, _, roots, between f ypos, represents_of_num? down, represents_of_num? up, down, up⟩

end

/-- The formats whose square roots are taken. -/
theorem rooted {f : Fmt} (h : f ∈ [f16, bf16, f32, f64]) : f.Ieee ∧ f.Listed ∧ f.m ≤ 60 := by
  have listed : ∀ g ∈ [f16, bf16, f32, f64], g ∈ allFormats := by decide
  have ieee : f.Ieee := by
    simp only [List.mem_cons, List.not_mem_nil, or_false] at h
    rcases h with rfl | rfl | rfl | rfl
    · exact ⟨rfl, rfl, by decide⟩
    · exact ⟨rfl, rfl, by decide⟩
    · exact f32_ieee
    · exact f64_ieee
  have narrow : ∀ g ∈ [f16, bf16, f32, f64], g.m ≤ 60 := by decide
  exact ⟨ieee, listed_of_mem (listed f h), narrow f h⟩

/-- A NaN among the operands gives a NaN (03 R92). -/
theorem nan_operand {a b : Val} (nan : a.isNaN = true ∨ b.isNaN = true) (rd : Bool) :
    add rd a b = ⟨.nan, sigFl a ||| sigFl b⟩ ∧ mulVal a b = (.nan false, sigFl a ||| sigFl b) ∧ div a b = ⟨.nan, sigFl a ||| sigFl b⟩ := by
  rcases nan with nan | nan
  · cases a with
    | nan s => cases b <;> exact ⟨rfl, rfl, rfl⟩
    | inf s => cases nan
    | fin s m e => cases nan
  · cases b with
    | nan s => cases a <;> exact ⟨rfl, rfl, rfl⟩
    | inf s => cases nan
    | fin s m e => cases nan

end Fp

/-- Settles O3: the operations are followed on sign, integer and exponent; a number of the format lies below the root exactly if it
lies below the fraction that is rounded for it. -/
theorem exactArithmetic : Obligations.ExactArithmetic := by
  refine ⟨fun a b c x y z rd ha hb hc => ?_, fun s t rd a x ha => ?_, fun a b c rd nan => ?_, fun f b x hf _ hx pos => ?_⟩
  · obtain ⟨s, m, e, rfl, rfl⟩ := finite_of_num? ha
    obtain ⟨t, n, g, rfl, rfl⟩ := finite_of_num? hb
    obtain ⟨u, l, i, rfl, rfl⟩ := finite_of_num? hc
    have product : withNeg (s != t) ((m * n : Nat) * 2 ^ (e + g)) = withNeg s (m * 2 ^ e) * withNeg t (n * 2 ^ g) := by
      rw [withNeg_mul, zpow_add₀ (by norm_num)]
      push_cast
      congr 1
      ring
    refine ⟨by simp [add, sigFl], num?_sumEx rd s m e t n g, by simp [mul, mulVal, sigFl], ?_, by simp [fma, mulVal, add, sigFl], ?_,
      fun hy => ⟨?_, num?_div s m e t n g (mt magnitude_eq_zero.2 hy)⟩, fun hx hy => ?_, fun hx hy => ?_,
      fun zero apart => ⟨1, sumEx_zero rd s m e t n g zero apart⟩, fun k hk => ⟨?_, ?_⟩⟩
    · exact (num?_fin _ _ _).trans (congrArg some product)
    · rw [← product]
      exact num?_sumEx rd _ _ _ u l i
    · simp [div, mt magnitude_eq_zero.2 hy, sigFl]
    · simp [div, mt magnitude_eq_zero.2 hx, magnitude_eq_zero.1 hy, sigFl, signOf]
    · simp [div, magnitude_eq_zero.1 hx, magnitude_eq_zero.1 hy, sigFl]
    · simpa using num?_scaleB s m e (b := k) (by omega) (by omega)
    · rw [num?_scaleB s m e (by omega) (by omega), zpow_neg, zpow_natCast]
      rfl
  · obtain ⟨u, m, e, rfl, rfl⟩ := finite_of_num? ha
    have zero : withNeg u ((m : Rat) * 2 ^ e) = 0 ↔ m = 0 := magnitude_eq_zero
    refine ⟨by simp [add, sigFl], by simp [add, sigFl], by simp [add, sigFl], ?_, by simp [mul, mulVal, sigFl, Val.ex],
      by simp [div, sigFl], by simp [div, sigFl, signOf], by simp [div, sigFl, signOf]⟩
    · rw [if_congr zero rfl rfl]
      by_cases none_ : m = 0 <;> simp [mul, mulVal, none_, sigFl, signOf, Val.ex]
  · obtain ⟨sum, product, quotient⟩ := nan_operand nan rd
    refine ⟨sum, by rw [mul, product]; rfl, quotient, ?_⟩
    rw [fma, product]
    exact congrArg Res.x (nan_operand (.inl rfl) rd).1
  · obtain ⟨ieee, listed, narrow⟩ := rooted hf
    obtain ⟨s, m, e, hd, rfl⟩ := finite_of_num? hx
    have hm : m ≠ 0 := fun zero => pos.ne' (magnitude_eq_zero.2 zero)
    have plus : s = false := by
      cases s
      · rfl
      · have : (0 : Rat) ≤ m * 2 ^ e := by positivity
        simp only [withNeg, if_true] at pos
        linarith
    subst plus
    obtain ⟨y, lo, hi, roots, near, repLo, repHi, down, up⟩ := sqrt_between ieee listed narrow hd (Nat.pos_of_ne_zero hm)
    obtain ⟨w, repW, wpos, wlow⟩ := exists_below_root ieee (represents_of_num? hx) pos
    have lopos : 0 < lo := wpos.trans_le (near.below w repW ((roots.below w repW wpos.le).1 wlow))
    have hipos : 0 < hi := lopos.trans_le (near.low.trans near.high)
    refine ⟨lo, hi, down, up, lopos, (roots.below lo repLo lopos.le).2 near.low, (roots.above hi repHi hipos.le).2 near.high, hipos,
      fun c v _ hv v0 => ⟨fun low => ?_, fun high => ?_⟩⟩
    · exact near.below v (represents_of_num? hv) ((roots.below v (represents_of_num? hv) v0).1 low)
    · exact near.above v (represents_of_num? hv) ((roots.above v (represents_of_num? hv) v0).1 high)

end Sys2Proof
end

section
/-! SUPPORT. The terms of AFCOND ranked by magnitude, and which of them it keeps (10 R268). -/

namespace Sys2Proof

/-! ### The ranking -/

/-- A term that ranks above another: of greater magnitude, or of the same and a lower symbol. -/
def rankedAbove (p q : Nat × Q) : Prop := |q.2.val| < |p.2.val| ∨ (|q.2.val| = |p.2.val| ∧ p.1 < q.1)

theorem rankedAbove.abs_le {p q : Nat × Q} (h : rankedAbove p q) : |q.2.val| ≤ |p.2.val| := by
  rcases h with less | ⟨same, -⟩
  · exact less.le
  · exact same.le

theorem rankedAbove.of_lt {p q r : Nat × Q} (h : rankedAbove q r) (less : |q.2.val| < |p.2.val|) : rankedAbove p r :=
  .inl (h.abs_le.trans_lt less)

/-- A term put into its place in a ranking. -/
def rankIn (p : Nat × Q) : List (Nat × Q) → List (Nat × Q)
  | [] => [p]
  | q :: l => if Q.lt q.2.abs p.2.abs then p :: q :: l else q :: rankIn p l

/-- The terms in the order of their rank. -/
def ranking (l : List (Nat × Q)) : List (Nat × Q) := l.foldl (fun r p => rankIn p r) []

/-- A term as `insertTerm` ranks it, its coefficient exact. -/
def termEntry (t : Nat × Q) : Nat × Q × Q × Nat := (t.1, t.2, t.2, 0)

theorem insertTerm_entry (p : Nat × Q) (l : List (Nat × Q)) : insertTerm (termEntry p) (l.map termEntry) = (rankIn p l).map termEntry := by
  induction l with
  | nil => rfl
  | cons q l ih =>
      rw [List.map_cons, insertTerm, rankIn, ih, apply_ite (List.map termEntry)]
      rfl

theorem foldl_insertTerm (l : List (Nat × Q)) : (l.map termEntry).foldl (fun r x => insertTerm x r) [] = (ranking l).map termEntry := by
  unfold ranking
  rw [show ([] : List (Nat × Q × Q × Nat)) = ([] : List (Nat × Q)).map termEntry from rfl]
  generalize ([] : List (Nat × Q)) = r
  induction l generalizing r with
  | nil => rfl
  | cons p l ih => rw [List.map_cons, List.foldl_cons, insertTerm_entry, ih]; rfl

theorem rankIn_perm (p : Nat × Q) (l : List (Nat × Q)) : (rankIn p l).Perm (p :: l) := by
  induction l with
  | nil => exact .refl _
  | cons q l ih =>
      rw [rankIn]
      split
      · exact .refl _
      · exact (ih.cons q).trans (.swap p q l)

/-- A term of a higher symbol than those of a ranking, put into it. -/
theorem rankIn_ordered {p : Nat × Q} (hp : 0 < p.2.den) {l : List (Nat × Q)} (dens : ∀ q ∈ l, 0 < q.2.den) (last : ∀ q ∈ l, q.1 < p.1)
    (ordered : l.Pairwise rankedAbove) : (rankIn p l).Pairwise rankedAbove := by
  induction l with
  | nil => exact List.pairwise_singleton _ _
  | cons q l ih =>
      obtain ⟨first, rest⟩ := List.pairwise_cons.1 ordered
      have less := Q.lt_iff (a := q.2.abs) (b := p.2.abs) (dens q List.mem_cons_self) hp
      rw [Q.val_abs, Q.val_abs] at less
      rw [rankIn]
      split
      · next above =>
        rw [less] at above
        refine ordered.cons fun r hr => ?_
        rcases List.mem_cons.1 hr with rfl | hr
        · exact .inl above
        · exact (first r hr).of_lt above
      · next below =>
        rw [less, not_lt] at below
        refine (ih (fun r hr => dens r (List.mem_cons_of_mem q hr)) (fun r hr => last r (List.mem_cons_of_mem q hr)) rest).cons fun r hr => ?_
        rcases List.mem_cons.1 ((rankIn_perm p l).mem_iff.1 hr) with rfl | hr
        · exact below.lt_or_eq.imp id fun same => ⟨same, last q List.mem_cons_self⟩
        · exact first r hr

/-- The ranking of terms with rising symbols. -/
theorem ranking_spec {l : List (Nat × Q)} (ok : termsOk l) : (ranking l).Perm l ∧ (ranking l).Pairwise rankedAbove := by
  suffices H : ∀ (l r : List (Nat × Q)), termsOk (r ++ l) → ∀ m : List (Nat × Q), m.Perm r → m.Pairwise rankedAbove →
      (l.foldl (fun r p => rankIn p r) m).Perm (r ++ l) ∧ (l.foldl (fun r p => rankIn p r) m).Pairwise rankedAbove from
    H l [] ok [] (.refl _) .nil
  intro l
  induction l with
  | nil => exact fun r _ m perm ordered => ⟨by simpa using perm, ordered⟩
  | cons p l ih =>
      intro r ok m perm ordered
      obtain ⟨rising, dens⟩ := ok
      have low : ∀ q ∈ r, q.1 < p.1 := fun q hq => by
        rw [List.map_append, List.pairwise_append] at rising
        obtain ⟨-, -, across⟩ := rising
        exact across _ (List.mem_map_of_mem hq) _ (by simp)
      rw [List.append_cons]
      refine ih (r ++ [p]) ⟨by rwa [← List.append_cons], by rwa [← List.append_cons]⟩ (rankIn p m) ?_ ?_
      · exact (rankIn_perm p m).trans ((perm.cons p).trans (List.perm_append_singleton p r).symm)
      · exact rankIn_ordered (dens p (by simp)) (fun q hq => dens q (by simp [perm.mem_iff.1 hq])) (fun q hq => low q (perm.mem_iff.1 hq)) ordered

/-! ### The terms kept -/

/-- The error of the terms gone. -/
theorem Q.val_sum_abs {α : Type} (f : α → Q) {l : List α} (dens : ∀ x ∈ l, 0 < (f x).den) :
    (Q.sum (l.map fun x => (f x).abs)).val = magSum (l.map fun x => (f x).val) := by
  suffices H : ∀ z : Q, 0 < z.den → ((l.map fun x => (f x).abs).foldl Q.add z).val = z.val + magSum (l.map fun x => (f x).val) by
    exact (H Q.zero Nat.one_pos).trans (by rw [Q.val_zero, zero_add])
  induction l with
  | nil => exact fun z _ => (add_zero _).symm
  | cons x l ih =>
      intro z hz
      obtain ⟨first, rest⟩ := List.forall_mem_cons.1 dens
      rw [List.map_cons, List.foldl_cons, ih rest _ (Q.den_add hz (b := (f x).abs) first), Q.val_add hz (b := (f x).abs) first, Q.val_abs,
        List.map_cons, magSum_cons]
      exact add_assoc _ _ _

/-- A threshold that a coefficient does not reach. -/
theorem not_reaches {t : Fp.Val} {q : Q} (hq : 0 < q.den) (h : ¬reaches t q = true) : t = .inf false
    ∨ ∃ n m e, t = .fin n m e ∧ |q.val| < ratOf n (Fp.frac m e).1 (Fp.frac m e).2 := by
  cases t with
  | nan s => exact absurd rfl h
  | inf s =>
      cases s
      · exact .inl rfl
      · exact absurd rfl h
  | fin n m e =>
      obtain ⟨w, hw, val⟩ := Option.map_eq_some_iff.1 (Q.num?_eq_val (.fin n m e)).symm
      refine .inr ⟨n, m, e, rfl, ?_⟩
      rw [← val]
      simpa [reaches, hw, Q.le_iff (Q.den_ofVal hw) (b := q.abs) hq] using h

theorem reaches_fin {n : Bool} {m : Nat} {e : Int} {q : Q} (hq : 0 < q.den) (h : reaches (.fin n m e) q = true) :
    ratOf n (Fp.frac m e).1 (Fp.frac m e).2 ≤ |q.val| := by
  obtain ⟨w, hw, val⟩ := Option.map_eq_some_iff.1 (Q.num?_eq_val (.fin n m e)).symm
  rw [← val]
  simpa [reaches, hw, Q.le_iff (Q.den_ofVal hw) (b := q.abs) hq] using h

/-- A coefficient no smaller reaches what the other does. -/
theorem reaches_mono {t : Fp.Val} {p q : Q} (hp : 0 < p.den) (hq : 0 < q.den) (le : |q.val| ≤ |p.val|) (h : reaches t q = true) :
    reaches t p = true := by
  by_contra no
  rcases not_reaches hp no with rfl | ⟨n, m, e, rfl, less⟩
  · cases h
  · exact absurd (reaches_fin hq h) (not_le.2 (le.trans_lt less))

/-- Whether AFCOND gives a term one of its `k` places. -/
def Aff.placed (a : Aff) (k : Nat) (t : Nat × Q) : Prop := t ∈ (ranking a.q).take k

section
variable {a : Aff} (terms : termsOk a.q) (k : Nat) (t : Fp.Val)
include terms

theorem Aff.unique {p q : Nat × Q} (hp : p ∈ a.q) (hq : q ∈ a.q) (e : p.1 = q.1) : p = q :=
  List.inj_on_of_nodup_map terms.once hp hq e

theorem Aff.placed_iff {p : Nat × Q} (hp : p ∈ a.q) :
    (((ranking a.q).map termEntry).take k).any (fun u => u.1 == p.1) = true ↔ a.placed k p := by
  rw [← List.map_take, List.any_map, List.any_eq_true]
  refine ⟨fun ⟨q, hq, e⟩ => ?_, fun h => ⟨p, h, beq_self_eq_true _⟩⟩
  have mem := (ranking_spec terms).1.mem_iff.1 (List.mem_of_mem_take hq)
  exact Aff.unique terms mem hp (by simpa [termEntry] using e) ▸ hq

/-- A term with a place ranks above one without. -/
theorem Aff.placed.above {p q : Nat × Q} (hp : a.placed k p) (hq : q ∈ a.q) (no : ¬a.placed k q) : rankedAbove p q := by
  obtain ⟨perm, ordered⟩ := ranking_spec terms
  rw [← List.take_append_drop k (ranking a.q), List.pairwise_append] at ordered
  have mem := perm.mem_iff.2 hq
  rw [← List.take_append_drop k (ranking a.q), List.mem_append] at mem
  obtain ⟨-, -, across⟩ := ordered
  exact across p hp q (mem.resolve_left no)

/-- Where a term has no place, all places are taken. -/
theorem Aff.length_placed {q : Nat × Q} (hq : q ∈ a.q) (no : ¬a.placed k q) : ((ranking a.q).take k).length = k := by
  rw [List.length_take]
  refine Nat.min_eq_left (not_lt.1 fun few => no ?_)
  rw [Aff.placed, List.take_of_length_le few.le]
  exact (ranking_spec terms).1.mem_iff.2 hq

theorem mem_affCond {mint : Bool} {q : Nat × Q} : q ∈ (affCond mint k t a).x.q ↔ q ∈ a.q ∧ a.placed k q ∧ reaches t q.2 = true := by
  have sorted : (a.q.map fun x => (x.1, x.2, x.2, 0)).foldl (fun l x => insertTerm x l) [] = (ranking a.q).map termEntry :=
    foldl_insertTerm a.q
  unfold affCond
  simp only [sorted, List.mem_filter, Bool.and_eq_true]
  exact and_congr_right fun hq => and_congr_left fun _ => Aff.placed_iff terms k hq

theorem length_affCond (mint : Bool) : (affCond mint k t a).x.q.length ≤ k := by
  have once : ((affCond mint k t a).x.q).Nodup := terms.once.of_map.filter _
  have sub : (affCond mint k t a).x.q ⊆ (ranking a.q).take k := fun q hq => by
    obtain ⟨-, place, -⟩ := (mem_affCond terms k t).1 hq
    exact place
  exact ((List.subperm_of_subset once sub).length_le).trans (List.length_take_le _ _)

/-- A term that reaches the threshold and is not kept finds as many kept as there are places. -/
theorem length_affCond_full (mint : Bool) {q : Nat × Q} (hq : q ∈ a.q) (no : ¬a.placed k q) (reach : reaches t q.2 = true) :
    (affCond mint k t a).x.q.length = k := by
  obtain ⟨perm, -⟩ := ranking_spec terms
  have dens := terms.2
  have once : ((ranking a.q).take k).Nodup := (perm.nodup_iff.2 terms.once.of_map).sublist (List.take_sublist _ _)
  have sub : (ranking a.q).take k ⊆ (affCond mint k t a).x.q := fun p hp => by
    have mem := perm.mem_iff.1 (List.mem_of_mem_take hp)
    exact (mem_affCond terms k t).2 ⟨mem, hp, reaches_mono (dens p mem) (dens q hq) (Aff.placed.above terms k hp hq no).abs_le reach⟩
  have le := (List.subperm_of_subset once sub).length_le
  rw [Aff.length_placed terms k hq no] at le
  exact le_antisymm (length_affCond terms k t mint) le

end
end Sys2Proof
end

section
/-! PROOF. O31: the terms AFCOND keeps, the bounds AFBND writes, the symbol AFSYM hands out (10 R268 to R270). -/

namespace Sys2Proof

/-- What AFCOND makes of an operand whose symbols stand once. -/
theorem affCond_spec {x : Aff} (terms : termsOk x.q) (k : Nat) (t : Fp.Val) :
    let r := affCond true k t x
    let kept (q : Nat × Q) : Prop := q ∈ r.x.q
    (∀ q, kept q → q ∈ x.q) ∧ r.x.q.length ≤ k ∧ r.x.c = x.c ∧ r.x.cBits = some x.cBits
      ∧ (∀ q, kept q → (∀ n m e, t = .fin n m e → ratOf n (Fp.frac m e).1 (Fp.frac m e).2 ≤ |q.2.val|))
      ∧ (∀ p q, kept p → q ∈ x.q → ¬kept q → rankedAbove p q)
      ∧ (∀ q, q ∈ x.q → ¬kept q → r.x.q.length = k ∨ t = .inf false
          ∨ ∃ n m e, t = .fin n m e ∧ |q.2.val| < ratOf n (Fp.frac m e).1 (Fp.frac m e).2)
      ∧ r.e.val = magSum ((x.q.filter fun q => !(r.x.q.any fun y => y.1 == q.1)).map fun q => q.2.val) := by
  have dens := terms.2
  intro r kept
  have kept_iff (q : Nat × Q) : kept q ↔ q ∈ x.q ∧ x.placed k q ∧ reaches t q.2 = true := mem_affCond terms k t
  refine ⟨fun q hq => ((kept_iff q).1 hq).1, length_affCond terms k t true, rfl, rfl, fun q hq n m e ht => ?_, fun p q hp hq no => ?_,
    fun q hq no => ?_, ?_⟩
  · obtain ⟨mem, -, reach⟩ := (kept_iff q).1 hq
    exact reaches_fin (dens q mem) (ht ▸ reach)
  · obtain ⟨mem, place, reach⟩ := (kept_iff p).1 hp
    by_cases placed : x.placed k q
    · -- q misses the threshold that p reaches
      refine .inl (not_le.1 fun le => no ((kept_iff q).2 ⟨hq, placed, reaches_mono (dens q hq) (dens p mem) le reach⟩))
    · exact Aff.placed.above terms k place hq placed
  · by_cases reach : reaches t q.2 = true
    · exact .inl (length_affCond_full terms k t true hq (fun placed => no ((kept_iff q).2 ⟨hq, placed, reach⟩)) reach)
    · exact .inr (not_reaches (dens q hq) reach)
  · exact Q.val_sum_abs (fun q : Nat × Q => q.2) fun q hq => dens q (List.mem_filter.1 hq).1

namespace Machine

/-! ### The bounds, R269 -/

/-- The two registers of a 64-bit encoding. -/
theorem words64_eq (n : Nat) : words64 n = [(BitVec.ofNat 64 n).setWidth 32, (BitVec.ofNat 64 n >>> 32).setWidth 32] := by
  have low : BitVec.ofNat 32 n = (BitVec.ofNat 64 n).setWidth 32 := by bv_omega
  have high : BitVec.ofNat 32 (n / 2 ^ 32) = (BitVec.ofNat 64 n >>> 32).setWidth 32 := by
    apply BitVec.eq_of_toNat_eq
    simp only [BitVec.toNat_ofNat, BitVec.toNat_setWidth, BitVec.toNat_ushiftRight, Nat.shiftRight_eq_div_pow]
    omega
  rw [words64, low, high]

/-- The bounds of an operand: those of its value, or both infinities. -/
def affBounds : Option Aff → Nat × Nat
  | some x => ((x.c.sub x.width).roundDown, (x.c.add x.width).round Fp.f64 .ru)
  | none => (Fp.f64.inf + Fp.f64.signBit, Fp.f64.inf)

theorem Ready.writesBounds {s h d a k c} (r : Ready s (.afbnd h d a) h k c) (room : s.hasRoom k ((List.range 4).map (d.vIndex + ·)) = true) :
    Completes s (.afbnd h d a) k
      (s.setTh k fun t => t.puts d.vIndex (words64 (affBounds (s.aff k a)).1 ++ words64 (affBounds (s.aff k a)).2)) := by
  refine r.does rfl rfl _ fun C P R kept marks =>
    ⟨(s.noted C P R).writeVs k d.vIndex (words64 (affBounds (s.aff k a)).1 ++ words64 (affBounds (s.aff k a)).2), ?_, ?_⟩
  · have same : (s.noted C P R).aff k a = s.aff k a := rfl
    dsimp only
    rw [same]
    unfold affBounds
    cases s.aff k a <;> rfl
  · obtain ⟨like, kept'⟩ := State.writeVs_like kept d.vIndex (words64 (affBounds (s.aff k a)).1 ++ words64 (affBounds (s.aff k a)).2)
      (by rw [range_map_add] at room; exact State.noted_room room marks)
    exact ⟨like.trans (Like.setTh_noted _ _ _ _ _ _), kept'⟩

/-- A lower bound is the difference rounded down, −0 where it is zero. -/
theorem Q.toNat_roundDown {q : Q} (den : 0 < q.den) : (BitVec.ofNat 64 q.roundDown).toNat = if q.val = 0 then 2 ^ 63 else q.round Fp.f64 .rd := by
  have lt := Q.round_lt Fp.f64_ieee .rd q
  rw [Q.roundDown, if_congr (Q.isZero_iff den) rfl rfl, BitVec.toNat_ofNat]
  refine Nat.mod_eq_of_lt ?_
  split
  · decide
  · exact lt

theorem Q.toNat_roundUp (q : Q) : (BitVec.ofNat 64 (q.round Fp.f64 .ru)).toNat = q.round Fp.f64 .ru :=
  (BitVec.toNat_ofNat _ _).trans (Nat.mod_eq_of_lt (Q.round_lt Fp.f64_ieee .ru q))

/-! ### The symbol, R270 -/

theorem Drawn.kept {s u : State} (drawn : Drawn s u) {k : Nat} {c : Convoy} {C P R} (kept : Kept (s.noted C P R) k c) :
    Kept (u.noted C P R) k c := by
  obtain ⟨front, present, unreserved⟩ := kept
  refine ⟨?_, ?_, unreserved⟩
  · unfold State.front
    rw [show (u.noted C P R).convoys = s.convoys from drawn.convoys]
    exact front
  · rw [show (u.noted C P R).threads = s.threads from drawn.threads]
    exact present

/-- AFSYM writes the symbol it has minted. -/
theorem Ready.writesSymbol {s h d k c} (r : Ready s (.afsym h d) h k c) (room : s.hasRoom k (destRegs d 1) = true) {u : State} {n : Nat}
    (drawn : Drawn s u) (minted : ∀ C P R, (s.noted C P R).mint k = .got n (u.noted C P R)) :
    Completes s (.afsym h d) k (u.dest k d 1 (BitVec.ofNat 64 n)) := by
  refine r.does rfl rfl _ fun C P R kept marks => ⟨(u.noted C P R).regWrite k d 1 (BitVec.ofNat 64 n), ?_, ?_⟩
  · simp only [minted]
    rfl
  · obtain ⟨like, kept'⟩ := State.regWrite_like (drawn.kept kept) (by rw [drawn.hasRoom]; exact State.noted_room room marks)
      (BitVec.ofNat 64 n)
    exact ⟨like.trans (Like.setTh_noted _ _ _ _ _ _), kept'⟩

end Machine
open Machine

/-- Settles O31: AFCOND's terms are ranked as its places are given, the other two write what they read or mint. -/
theorem affineBounds : Obligations.AffineBounds := by
  intro s k c h d a cr la blocks takes
  refine ⟨fun ready room => ?_, fun n last ready room hb => ?_, fun pa ready hb here at_ => ⟨fun more room => ?_, fun used handled => ?_⟩,
    fun x kk t ok => ?_⟩
  · refine ⟨BitVec.ofNat 64 (affBounds (s.aff k a)).1, BitVec.ofNat 64 (affBounds (s.aff k a)).2, ?_, ?_⟩
    · have written := ready.writesBounds room
      rwa [words64_eq, words64_eq] at written
    · cases hx : s.aff k a with
      | none => exact ⟨rfl, rfl⟩
      | some x =>
          have ok := State.aff_ok hx
          have width := ok.den_width
          obtain ⟨centre, -, -, -⟩ := ok
          exact ⟨Q.toNat_roundDown (Q.den_sub centre width), Q.toNat_roundUp _⟩
  · exact ready.writesSymbol room (Drawn.setCr s _ _ _) fun C P R => State.mint_block (s := s.noted C P R) hb
  · refine ready.writesSymbol room ((Drawn.homeStore s _ _).trans (Drawn.setCr _ _ _ _)) fun C P R => ?_
    have coh : (s.noted C P R).coh pa 8 = s.coh pa 8 := rfl
    rw [State.mint_pool (s := s.noted C P R) hb here at_ more, State.homeStore_noted, coh]
    rfl
  · refine ready.dries rfl rfl cr handled fun C P R => ?_
    rw [State.mint_dry (s := s.noted C P R) hb here at_ used]
    rfl
  · obtain ⟨-, -, -, terms⟩ := ok
    simpa only [ratAbs_eq_abs, rankedAbove] using affCond_spec terms kk t

end Sys2Proof
end

section
/-! SUPPORT. The arithmetic of a pass: groups, their exact sums, and the accumulators they are added to (03 R98 to R101). -/

namespace Sys2Proof

namespace Fp

/-- The product of two finite values is finite and exact. -/
theorem num?_mulVal {a b : Val} {x y : Rat} (ha : a.num? = some x) (hb : b.num? = some y) : (mulVal a b).1.num? = some (x * y) := by
  obtain ⟨s, m, e, rfl, rfl⟩ := finite_of_num? ha
  obtain ⟨t, n, g, rfl, rfl⟩ := finite_of_num? hb
  rw [withNeg_mul, mulVal, num?_fin, zpow_add₀ (by norm_num)]
  push_cast
  congr 2
  ring

end Fp

namespace Machine
open Fp

/-! ### The sum of a group, R99 -/

/-- The lesser of an exponent and a value's. -/
def lowerExp (t : Int) : Fp.Val → Int
  | .fin _ _ e => if e < t then e else t
  | _ => t

/-- The least exponent of values, and 0. -/
def leastExp (ps : List Fp.Val) : Int := ps.foldl lowerExp 0

/-- The signed integer of a value at an exponent, added. -/
def addAt (t x : Int) : Fp.Val → Int
  | .fin g m e => x + Fp.signedAt g m e t
  | _ => x

/-- The sum of signed integers of values at one exponent. -/
def sumAt (t : Int) (ps : List Fp.Val) : Int := ps.foldl (addAt t) 0

theorem lowerExp_le (t : Int) (p : Fp.Val) : lowerExp t p ≤ t := by
  cases p with
  | nan s => exact le_rfl
  | inf s => exact le_rfl
  | fin s n k => rw [lowerExp]; split <;> omega

theorem lowerExp_fin_le (t : Int) (g : Bool) (m : Nat) (e : Int) : lowerExp t (.fin g m e) ≤ e := by rw [lowerExp]; split <;> omega

theorem foldl_lowerExp_le (ps : List Fp.Val) (t : Int) : ps.foldl lowerExp t ≤ t := by
  induction ps generalizing t with
  | nil => exact le_rfl
  | cons p ps ih => exact (ih _).trans (lowerExp_le t p)

theorem leastExp_le {ps : List Fp.Val} {g : Bool} {m : Nat} {e : Int} (h : Fp.Val.fin g m e ∈ ps) : leastExp ps ≤ e := by
  unfold leastExp
  generalize (0 : Int) = t
  induction ps generalizing t with
  | nil => cases h
  | cons p ps ih =>
      rw [List.foldl_cons]
      rcases List.mem_cons.1 h with rfl | h
      · exact (foldl_lowerExp_le ps _).trans (lowerExp_fin_le t g m e)
      · exact ih h _

/-- The numbers of values, 0 for one that has none. -/
def ratsOf (ps : List Fp.Val) : List Rat := ps.map fun p => p.num?.getD 0

theorem sumAt_val {t : Int} {ps : List Fp.Val} (low : ∀ g m e, Fp.Val.fin g m e ∈ ps → t ≤ e) : (sumAt t ps : Rat) * 2 ^ t = (ratsOf ps).sum := by
  suffices H : ∀ x : Int, ((ps.foldl (addAt t) x : Int) : Rat) * 2 ^ t = x * 2 ^ t + (ratsOf ps).sum by
    exact (H 0).trans (by simp)
  induction ps with
  | nil => exact fun x => (add_zero _).symm
  | cons p ps ih =>
      intro x
      have first : ((addAt t x p : Int) : Rat) * 2 ^ t = x * 2 ^ t + p.num?.getD 0 := by
        cases p with
        | nan s => exact (add_zero _).symm
        | inf s => exact (add_zero _).symm
        | fin g m e =>
            rw [num?_fin, addAt, Int.cast_add, add_mul, signedAt_val g m (low g m e List.mem_cons_self)]
            rfl
      rw [List.foldl_cons, ih fun g m e h => low g m e (List.mem_cons_of_mem p h), first, add_assoc]
      rfl

theorem sumFin_eq (ps : List Fp.Val) : sumFin ps = if sumAt (leastExp ps) ps = 0 then .fin (ps.all fun p => match p with
    | .fin g m _ => g && m == 0
    | _ => false) 0 0 else .fin (decide (sumAt (leastExp ps) ps < 0)) (sumAt (leastExp ps) ps).natAbs (leastExp ps) := rfl

theorem num?_sumFin (ps : List Fp.Val) : (sumFin ps).num? = some (ratsOf ps).sum := by
  rw [sumFin_eq, ← sumAt_val fun g m e h => leastExp_le h]
  split
  · next zero => simp [num?_fin, zero]
  · rw [num?_fin, withNeg_mul_right, withNeg_natAbs]

/-- Pairs of finite values. -/
def FinitePairs (g : List (Fp.Val × Fp.Val)) : Prop := ∀ p ∈ g, p.1.num?.isSome = true ∧ p.2.num?.isSome = true

/-- The sum of the products of pairs. -/
def dotOf (g : List (Fp.Val × Fp.Val)) : Rat := (g.map fun p => p.1.num?.getD 0 * p.2.num?.getD 0).sum

/-- The products of a group of finite values are added exactly. -/
theorem groupSum_finite {g : List (Fp.Val × Fp.Val)} (fin : FinitePairs g) : (groupSum g).1 = sumFin (g.map fun p => (mulVal p.1 p.2).1)
    ∧ ratsOf (g.map fun p => (mulVal p.1 p.2).1) = g.map fun p => p.1.num?.getD 0 * p.2.num?.getD 0 := by
  have product (p) (hp : p ∈ g) : (mulVal p.1 p.2).1.num? = some (p.1.num?.getD 0 * p.2.num?.getD 0) := by
    obtain ⟨left, right⟩ := fin p hp
    obtain ⟨x, hx⟩ := Option.isSome_iff_exists.1 left
    obtain ⟨y, hy⟩ := Option.isSome_iff_exists.1 right
    rw [num?_mulVal hx hy, hx, hy]
    rfl
  have ordinary (v) (hv : v ∈ g.map fun p => (mulVal p.1 p.2).1) : ∃ s m e, v = .fin s m e := by
    obtain ⟨p, hp, rfl⟩ := List.mem_map.1 hv
    obtain ⟨s, m, e, eq, -⟩ := finite_of_num? (product p hp)
    exact ⟨s, m, e, eq⟩
  refine ⟨?_, ?_⟩
  · have no_inf (s : Bool) : (g.map fun p => (mulVal p.1 p.2).1).contains (.inf s) = false := by
      rw [List.contains_eq_mem, decide_eq_false_iff_not]
      intro mem
      obtain ⟨_, _, _, eq⟩ := ordinary _ mem
      cases eq
    have no_nan : (g.map fun p => (mulVal p.1 p.2).1).any Fp.Val.isNaN = false := by
      rw [List.any_eq_false]
      intro v hv
      obtain ⟨_, _, _, rfl⟩ := ordinary v hv
      exact Bool.false_ne_true
    unfold groupSum
    simp only [List.map_map, Function.comp_def, no_inf, no_nan, Bool.false_eq_true, if_false, Bool.false_and]
  · rw [ratsOf, List.map_map]
    exact List.map_congr_left fun p hp => by simp [product p hp]

theorem num?_groupSum {g : List (Fp.Val × Fp.Val)} (fin : FinitePairs g) : (groupSum g).1.num? = some (dotOf g) := by
  obtain ⟨sum, products⟩ := groupSum_finite fin
  rw [sum, num?_sumFin, products, dotOf]

/-! ### Groups, R99 -/

/-- The values of a row and a column, without their block numbers. -/
def valuePairs (l : List ((Fp.Val × Nat) × (Fp.Val × Nat))) : List (Fp.Val × Fp.Val) := l.map fun p => (p.1.1, p.2.1)

/-- The group under way as a group of its own. -/
def endGroup (cur : List (Fp.Val × Fp.Val)) : List (List (Fp.Val × Fp.Val)) := if cur.isEmpty then [] else [cur.reverse]

section
variable (lim i j n : Nat) (cur : List (Fp.Val × Fp.Val))

theorem mxGroups_nil : mxGroups lim i j n cur [] = endGroup cur := rfl

theorem mxGroups_cons (p : (Fp.Val × Nat) × (Fp.Val × Nat)) (l : List ((Fp.Val × Nat) × (Fp.Val × Nat))) :
    mxGroups lim i j n cur (p :: l) = if n < lim ∧ (n = 0 ∨ (p.1.2 = i ∧ p.2.2 = j))
      then mxGroups lim p.1.2 p.2.2 (n + 1) ((p.1.1, p.2.1) :: cur) l
      else endGroup cur ++ mxGroups lim p.1.2 p.2.2 1 [(p.1.1, p.2.1)] l := rfl

theorem flatten_endGroup : (endGroup cur).flatten = cur.reverse := by cases cur <;> simp [endGroup]

end

/-- The groups hold all pairs in order. -/
theorem flatten_mxGroups (lim : Nat) (l : List ((Fp.Val × Nat) × (Fp.Val × Nat))) (i j n : Nat) (cur : List (Fp.Val × Fp.Val)) :
    (mxGroups lim i j n cur l).flatten = cur.reverse ++ valuePairs l := by
  induction l generalizing i j n cur with
  | nil => rw [mxGroups_nil, flatten_endGroup]; exact (List.append_nil _).symm
  | cons p l ih =>
      rw [mxGroups_cons]
      split
      · rw [ih, List.reverse_cons, List.append_assoc]
        rfl
      · rw [List.flatten_append, flatten_endGroup, ih]
        rfl

/-- A group begun takes the pairs of its block that it has room for. -/
theorem mxGroups_block {lim i j : Nat} (l : List (Fp.Val × Fp.Val)) {n : Nat} {cur : List (Fp.Val × Fp.Val)} (some_ : cur ≠ [])
    (room : n + l.length ≤ lim) : mxGroups lim i j n cur (l.map fun p => ((p.1, i), (p.2, j))) = [cur.reverse ++ l] := by
  induction l generalizing n cur with
  | nil => rw [List.map_nil, mxGroups_nil, endGroup, if_neg (by simpa using some_), List.append_nil]
  | cons p l ih =>
      rw [List.length_cons] at room
      rw [List.map_cons, mxGroups_cons, if_pos ⟨by omega, .inr ⟨rfl, rfl⟩⟩, ih (List.cons_ne_nil _ _) (by omega), List.reverse_cons,
        List.append_assoc]
      rfl

/-- Where a block begins a group ends. -/
theorem mxGroups_cut {lim : Nat} (one : 0 < lim) (l : List ((Fp.Val × Nat) × (Fp.Val × Nat))) {p q : (Fp.Val × Nat) × (Fp.Val × Nat)}
    (cut : p.1.2 ≠ q.1.2 ∨ p.2.2 ≠ q.2.2) (r : List ((Fp.Val × Nat) × (Fp.Val × Nat))) (i j n : Nat) (cur : List (Fp.Val × Fp.Val)) :
    mxGroups lim i j n cur (l ++ p :: q :: r) = mxGroups lim i j n cur (l ++ [p]) ++ mxGroups lim 0 0 0 [] (q :: r) := by
  have after (k : Nat) (k0 : k ≠ 0) (c : List (Fp.Val × Fp.Val)) :
      mxGroups lim p.1.2 p.2.2 k c (q :: r) = endGroup c ++ mxGroups lim 0 0 0 [] (q :: r) := by
    rw [mxGroups_cons, if_neg, mxGroups_cons lim 0, if_pos ⟨one, .inl rfl⟩]
    rintro ⟨-, zero | ⟨left, right⟩⟩
    · exact k0 zero
    · exact cut.elim (fun h => h left.symm) fun h => h right.symm
  induction l generalizing i j n cur with
  | nil =>
      rw [List.nil_append, List.nil_append, mxGroups_cons lim i, mxGroups_cons lim i, mxGroups_nil, mxGroups_nil]
      split
      · exact after _ (Nat.succ_ne_zero n) _
      · rw [after 1 one_ne_zero, ← List.append_assoc]
  | cons v l ih =>
      rw [List.cons_append, List.cons_append, mxGroups_cons lim i, mxGroups_cons lim i]
      split
      · exact ih _ _ _ _
      · rw [ih, List.append_assoc]

/-! ### An accumulator through a pass -/

/-- The format of an accumulator class of floats. -/
def accFmt (cls : MxClass) : Fp.Fmt := if cls = .f64 then Fp.f64 else Fp.f32

/-- A group added to an accumulator of floats. -/
def addGroup (f : Fp.Fmt) (acc : Nat) (g : List (Fp.Val × Fp.Val)) : Nat :=
  (Fp.roundTo f .rn false (Fp.add false (Fp.decode f acc) (groupSum g).1)).1

theorem mxDot_float {cls : MxClass} (float : cls ≠ .i32) (imode : Bool) (acc : Nat) (a b : MxRow) :
    (mxDot cls imode acc a b).v = (mxGroups (if cls = .f64 then 1 else 32) 0 0 0 [] (a.zip b)).foldl (addGroup (accFmt cls)) acc := by
  have fst (f : Fp.Fmt) (gs : List (List (Fp.Val × Fp.Val))) (x : Nat × Fp.Flags) :
      (gs.foldl (fun (x : Nat × Fp.Flags) g =>
        let p := groupSum g
        let o := Fp.roundTo f .rn false (Fp.add false (Fp.decode f x.1) p.1)
        (o.1, x.2 ||| p.2 ||| o.2)) x).1 = gs.foldl (addGroup f) x.1 := by
    induction gs generalizing x with
    | nil => rfl
    | cons g gs ih => exact ih _
  cases cls with
  | i32 => exact absurd rfl float
  | f64 => exact fst _ _ _
  | f32 => exact fst _ _ _

/-- A single group within the limit. -/
theorem mxDot_group {cls : MxClass} (float : cls ≠ .i32) (acc : Nat) (a b : List Fp.Val) (i j : Nat) (same : a.length = b.length)
    (some_ : 0 < a.length) (few : a.length ≤ (if cls = .f64 then 1 else 32)) :
    (mxDot cls false acc (a.map (·, i)) (b.map (·, j))).v = addGroup (accFmt cls) acc (a.zip b) := by
  have pairs : (a.map (·, i)).zip (b.map (·, j)) = (a.zip b).map fun p => ((p.1, i), (p.2, j)) := List.zip_map ..
  have length : (a.zip b).length = a.length := by rw [List.length_zip, same, Nat.min_self]
  rw [mxDot_float float, pairs]
  cases hz : a.zip b with
  | nil => rw [hz] at length; exact absurd length (by simp; omega)
  | cons p l =>
      rw [hz, List.length_cons] at length
      rw [List.map_cons, mxGroups_cons, if_pos ⟨by omega, .inl rfl⟩, mxGroups_block l (List.cons_ne_nil _ _) (by omega)]
      rfl

theorem mxDot_cut (imode : Bool) (acc : Nat) {a b : MxRow} (same : a.length = b.length) {x y z w : Fp.Val × Nat}
    (cut : x.2 ≠ z.2 ∨ y.2 ≠ w.2) (a' b' : MxRow) : (mxDot .f32 imode acc (a ++ [x] ++ z :: a') (b ++ [y] ++ w :: b')).v
      = (mxDot .f32 imode (mxDot .f32 imode acc (a ++ [x]) (b ++ [y])).v (z :: a') (w :: b')).v := by
  have float : MxClass.f32 ≠ .i32 := nofun
  rw [mxDot_float float, mxDot_float float, mxDot_float float, List.zip_append (by simpa using same), List.zip_append same,
    List.append_assoc, ← List.foldl_append]
  exact congrArg (List.foldl _ acc) (mxGroups_cut (by decide) _ cut _ _ _ _ _)

/-! ### INT32 accumulators, R101 -/

/-- An integer as the value of an element. -/
def intVal (v : Int) : Fp.Val := .fin (decide (v < 0)) v.natAbs 0

theorem num?_intVal (v : Int) : (intVal v).num? = some (v : Rat) := by
  rw [intVal, num?_fin, zpow_zero, mul_one, withNeg_natAbs]

/-- The integer a group of integers comes to. -/
def groupInt (g : List (Fp.Val × Fp.Val)) : Int :=
  match (groupSum g).1 with
  | .fin sg m e => Fp.signedAt sg m e 0
  | _ => 0

/-- The integers of a row and a column as pairs of values. -/
def intPairs (l : List (Int × Int)) : List (Fp.Val × Fp.Val) := l.map fun p => (intVal p.1, intVal p.2)

theorem groupInt_intPairs (l : List (Int × Int)) : groupInt (intPairs l) = (l.map fun p => p.1 * p.2).sum := by
  have fin : FinitePairs (intPairs l) := fun p hp => by
    obtain ⟨q, -, rfl⟩ := List.mem_map.1 hp
    exact ⟨by rw [num?_intVal]; rfl, by rw [num?_intVal]; rfl⟩
  have flat (ps : List Fp.Val) (zero : ∀ p ∈ ps, ∃ s m, p = .fin s m 0) : leastExp ps = 0 := by
    induction ps with
    | nil => rfl
    | cons p ps ih =>
        obtain ⟨s, m, rfl⟩ := zero p List.mem_cons_self
        exact ih fun q hq => zero q (List.mem_cons_of_mem _ hq)
  obtain ⟨sum, -⟩ := groupSum_finite fin
  have number := num?_groupSum fin
  have whole : ∃ s m, (groupSum (intPairs l)).1 = .fin s m 0 := by
    rw [sum, sumFin_eq, flat _ fun p hp => ?_]
    · split <;> exact ⟨_, _, rfl⟩
    · obtain ⟨q, hq, rfl⟩ := List.mem_map.1 hp
      obtain ⟨r, -, rfl⟩ := List.mem_map.1 hq
      exact ⟨_, _, rfl⟩
  obtain ⟨s, m, eq⟩ := whole
  have dot : dotOf (intPairs l) = ((l.map fun p => p.1 * p.2).sum : Int) := by
    rw [dotOf, intPairs, List.map_map, Int.cast_list_sum, List.map_map]
    exact congrArg List.sum (List.map_congr_left fun p _ => by simp [num?_intVal])
  unfold groupInt
  rw [eq] at number ⊢
  rw [num?_fin, dot, ← signedAt_val s m le_rfl, zpow_zero, mul_one, Option.some_inj, Int.cast_inj] at number
  exact number

/-- Groups of integers, wrapped group by group, come to their sum wrapped once. -/
theorem wrapped_fold (gs : List (List (Int × Int))) (x : Int) :
    BitVec.ofInt 32 (gs.foldl (fun x g => (BitVec.ofInt 32 (x + (g.map fun p => p.1 * p.2).sum)).toInt) x)
      = BitVec.ofInt 32 (x + (gs.flatten.map fun p => p.1 * p.2).sum) := by
  induction gs generalizing x with
  | nil => simp
  | cons g gs ih =>
      rw [List.foldl_cons, ih, List.flatten_cons, List.map_append, List.sum_append, BitVec.ofInt_add, BitVec.ofInt_toInt, ← BitVec.ofInt_add,
        add_assoc]

/-- Groups of pairs of integers are those of the integers. -/
theorem exists_intPairs {gs : List (List (Fp.Val × Fp.Val))} {l : List (Int × Int)} (h : gs.flatten = intPairs l) :
    ∃ hs : List (List (Int × Int)), gs = hs.map intPairs ∧ hs.flatten = l := by
  induction gs generalizing l with
  | nil =>
      rw [List.flatten_nil] at h
      exact ⟨[], rfl, (List.map_eq_nil_iff.1 h.symm).symm⟩
  | cons g gs ih =>
      rw [List.flatten_cons] at h
      obtain ⟨l₁, l₂, rfl, hg, hgs⟩ := List.map_eq_append_iff.1 h.symm
      obtain ⟨hs, rfl, flat⟩ := ih hgs.symm
      exact ⟨l₁ :: hs, by rw [List.map_cons, ← hg]; rfl, by rw [List.flatten_cons, flat]⟩

/-- An INT32 accumulator through groups of integers. -/
theorem foldl_groupInt (hs : List (List (Int × Int))) (x : Int × Bool) :
    ((hs.map intPairs).foldl (fun (x : Int × Bool) g => ((BitVec.ofInt 32 (x.1 + groupInt g)).toInt, x.2)) x).1
      = hs.foldl (fun x g => (BitVec.ofInt 32 (x + (g.map fun p => p.1 * p.2).sum)).toInt) x.1 := by
  induction hs generalizing x with
  | nil => rfl
  | cons g hs ih =>
      rw [List.map_cons, List.foldl_cons, List.foldl_cons, groupInt_intPairs]
      exact ih _

theorem mxDot_int (acc : Nat) {a b : MxRow} {l : List (Int × Int)} (pairs : valuePairs (a.zip b) = intPairs l) :
    (mxDot .i32 false acc a b).v = (BitVec.ofInt 32 ((BitVec.ofNat 32 acc).toInt + (l.map fun p => p.1 * p.2).sum)).toNat := by
  have flat := flatten_mxGroups 32 (a.zip b) 0 0 0 []
  rw [List.reverse_nil, List.nil_append, pairs] at flat
  obtain ⟨hs, groups, rfl⟩ := exists_intPairs flat
  have run : (mxDot .i32 false acc a b).v = (BitVec.ofInt 32 ((mxGroups 32 0 0 0 [] (a.zip b)).foldl
      (fun (x : Int × Bool) g => ((BitVec.ofInt 32 (x.1 + groupInt g)).toInt, x.2)) ((BitVec.ofNat 32 acc).toInt, false)).1).toNat := rfl
  rw [run, groups, foldl_groupInt, wrapped_fold]

/-! ### The order of passes -/

/-- The number of a pass in order. -/
def passNumber (cd : Card) (l : List Nat) : Nat :=
  (((l.getD 0 0 * (cd.level 1).count + l.getD 1 0) * (cd.level 2).count + l.getD 2 0) * (cd.level 3).count + l.getD 3 0) * (cd.level 4).count
    + l.getD 4 0

theorem passNumber_stepIdx (cd : Card) {idx : List Nat} (within : ∀ i, i < 5 → idx.getD i 0 < (cd.level i).count) :
    passNumber cd (stepIdx cd idx) = passNumber cd idx + 1 := by
  have full {i : Nat} (hi : i < 5) (last : (cd.level i).count ≤ idx.getD i 0 + 1) : (cd.level i).count = idx.getD i 0 + 1 :=
    le_antisymm last (within i hi)
  unfold stepIdx
  simp only [Bool.not_eq_true', decide_eq_false_iff_not, ge_iff_le]
  split
  · rfl
  · next h4 =>
    have f4 := full (i := 4) (by omega) (not_not.1 h4)
    split
    · simp only [passNumber, List.getD_cons_zero, List.getD_cons_succ, f4]
      ring
    · next h3 =>
      have f3 := full (i := 3) (by omega) (not_not.1 h3)
      split
      · simp only [passNumber, List.getD_cons_zero, List.getD_cons_succ, f3, f4]
        ring
      · next h2 =>
        have f2 := full (i := 2) (by omega) (not_not.1 h2)
        split
        · simp only [passNumber, List.getD_cons_zero, List.getD_cons_succ, f2, f3, f4]
          ring
        · next h1 =>
          have f1 := full (i := 1) (by omega) (not_not.1 h1)
          simp only [passNumber, List.getD_cons_zero, List.getD_cons_succ, f1, f2, f3, f4]
          ring

end Machine
end Sys2Proof
end

section
/-! SUPPORT. What is first in the orders of passes and of reservations, and what writing a card leaves of the clusters (12 R316, 22 R431). -/

namespace Sys2Proof.Machine

/-! ### The first of a list -/

/-- What an order must satisfy for the first of a list to be found from its end. -/
structure Ranks {α : Type} (before : α → α → Bool) : Prop where
  asymm : ∀ a b, before a b = true → before b a = false
  trans : ∀ a b c, before a b = false → before b c = false → before a c = false

theorem Ranks.refl {α : Type} {before : α → α → Bool} (h : Ranks before) (a : α) : before a a = false := by
  cases ha : before a a with
  | false => rfl
  | true => exact ha.symm.trans (h.asymm a a ha)

/-- An order by age first, then by a rank. -/
def agedBefore {α : Type} (aged : α → Bool) (since : α → Nat) (other : α → α → Bool) (a b : α) : Bool :=
  if aged a != aged b then aged a else if aged a then decide (since a < since b) else other a b

theorem Ranks.aged {α : Type} (aged : α → Bool) (since : α → Nat) {other : α → α → Bool} (h : Ranks other) :
    Ranks (agedBefore aged since other) := by
  obtain ⟨asymm, trans⟩ := h
  constructor
  · intro a b
    have := asymm a b
    unfold agedBefore
    cases aged a <;> cases aged b <;> simp <;> omega
  · intro a b c
    have := trans a b c
    unfold agedBefore
    cases aged a <;> cases aged b <;> cases aged c <;> simp <;> omega

/-- An order by priority, higher first, then by a number, lower first. -/
def priBefore {α : Type} (pri num : α → Nat) (a b : α) : Bool :=
  decide (pri a > pri b) || (pri a == pri b && decide (num a < num b))

theorem Ranks.pri {α : Type} (pri num : α → Nat) : Ranks (priBefore pri num) := by
  constructor
  · intro a b
    simp [priBefore]
    omega
  · intro a b c
    simp [priBefore]
    omega

theorem MxJob.ranks : Ranks MxJob.before := .aged MxJob.aged MxJob.since (.pri (fun j : MxJob => j.c.pri) MxJob.seq)
theorem Resv.ranks : Ranks Resv.before := .aged Resv.aged Resv.since (.pri Resv.pri Resv.since)

/-- The first of a list in an order. -/
def firstBy {α : Type} (before : α → α → Bool) : List α → Option α
  | [] => none
  | r :: t => match firstBy before t with
    | some b => if before b r then some b else some r
    | none => some r

theorem firstJob_eq (l : List MxJob) : firstJob l = firstBy MxJob.before l := by
  induction l with
  | nil => rfl
  | cons r t ih => cases h : firstBy MxJob.before t <;> simp [firstJob, firstBy, ih, h]

theorem firstResv_eq (l : List Resv) : firstResv l = firstBy Resv.before l := by
  induction l with
  | nil => rfl
  | cons r t ih => cases h : firstBy Resv.before t <;> simp [firstResv, firstBy, ih, h]

theorem firstBy_eq_none {α : Type} {before : α → α → Bool} {l : List α} : firstBy before l = none ↔ l = [] := by
  cases l with
  | nil => exact iff_of_true rfl rfl
  | cons r t =>
      refine iff_of_false ?_ (List.cons_ne_nil r t)
      rw [firstBy]
      cases firstBy before t with
      | none => exact Option.some_ne_none r
      | some b => dsimp only; split <;> exact Option.some_ne_none _

/-- The first of a list stands in it, and nothing of it before the first. -/
theorem firstBy_spec {α : Type} {before : α → α → Bool} (ranks : Ranks before) {l : List α} {b : α} (h : firstBy before l = some b) :
    b ∈ l ∧ ∀ y ∈ l, before y b = false := by
  induction l generalizing b with
  | nil => cases h
  | cons r t ih =>
      rw [firstBy] at h
      cases hf : firstBy before t with
      | none =>
          rw [hf] at h
          cases h
          rw [firstBy_eq_none.1 hf]
          exact ⟨List.mem_cons_self, fun y hy => by rw [List.mem_singleton.1 hy]; exact ranks.refl _⟩
      | some a =>
          obtain ⟨mem, least⟩ := ih hf
          rw [hf] at h
          dsimp only at h
          split at h
          · next earlier =>
            cases h
            refine ⟨List.mem_cons_of_mem r mem, fun y hy => ?_⟩
            rcases List.mem_cons.1 hy with rfl | hy
            · exact ranks.asymm _ _ earlier
            · exact least y hy
          · next later =>
            cases h
            refine ⟨List.mem_cons_self, fun y hy => ?_⟩
            rcases List.mem_cons.1 hy with rfl | hy
            · exact ranks.refl _
            · exact ranks.trans _ _ _ (least y hy) (Bool.eq_false_iff.2 later)

/-! ### The reservation granted, R431 -/

theorem Cluster.nextGrant_spec {c : Cluster} {fuel : Nat} {l : List Resv} {r : Resv} (h : c.nextGrant fuel l = some r) :
    r ∈ l ∧ c.fits r = true ∧ ∀ y ∈ l, y.before r = true → c.fits y = false ∧ y.aged = false := by
  induction fuel generalizing l with
  | zero => cases h
  | succ fuel ih =>
      rw [Cluster.nextGrant, firstResv_eq] at h
      cases hf : firstBy Resv.before l with
      | none => rw [hf] at h; cases h
      | some a =>
          obtain ⟨mem, least⟩ := firstBy_spec Resv.ranks hf
          rw [hf] at h
          dsimp only at h
          split at h
          · next fit =>
            cases h
            exact ⟨mem, fit, fun y hy early => absurd early (by rw [least y hy]; exact Bool.false_ne_true)⟩
          · next unfit =>
            split at h
            · cases h
            · next young =>
              obtain ⟨mem', fit, others⟩ := ih h
              refine ⟨(List.mem_filter.1 mem').1, fit, fun y hy early => ?_⟩
              by_cases same : y = a
              · rw [same]
                exact ⟨Bool.eq_false_iff.2 unfit, Bool.eq_false_iff.2 young⟩
              · exact others y (List.mem_filter.2 ⟨hy, by simpa using same⟩) early

/-- The units of a cluster that holds one reservation more. -/
theorem Cluster.units_of_held {c d : Cluster} {r : Resv} (held : d.held = c.held ++ [r]) (clk : d.clk = c.clk) :
    d.units = c.units + costAt c.clk r.cost := by
  rw [Cluster.units, Cluster.units, held, clk, List.foldl_append]
  rfl

/-! ### Clusters and the clock -/

/-- What writing a card leaves as it was. -/
def State.engines (s : State) : List (Nat × Cluster) × Nat := (s.clusters, s.cycle)

theorem State.engines_of_looked {s t : State} (h : t.looked = s.looked) : t.engines = s.engines := by
  have e := congrArg State.engines h
  exact e

theorem State.engines_of_still {s t : State} (h : t.still = s.still) : t.engines = s.engines := by
  have e := congrArg State.engines h
  exact e

theorem engGlobal_keeps_engines (e : Eng) (nd : Need) (fuel va n : Nat) : EngM.Keeps State.engines (engGlobal e nd fuel va n) := by
  induction fuel generalizing nd va n with
  | zero => exact .pure _
  | succ fuel ih =>
      intro s
      unfold engGlobal
      split
      · rfl
      · dsimp only
        have kept := State.engines_of_looked (s.looked_translate (some e.master) e.ctx e.master e.plain (BitVec.ofNat 64 va)
          { nd with size := if n < 4096 - va % 4096 then n else 4096 - va % 4096, sys := (s.cx e.ctx).sys, remote := s.fabricOk e.launch })
        split
        · next h => rw [h] at kept; exact kept
        · next h => rw [h] at kept; exact (State.engines_of_still (State.still_knock _ _ _)).trans kept
        · next w u h =>
          rw [h] at kept
          exact Eq.trans (EngM.Keeps.bind (ih _ _ _) (fun r => .pure _) u) kept

theorem State.engines_send (s : State) (f : Flit) : (s.send f).engines = s.engines := by
  unfold State.send
  split <;> rfl

theorem State.engines_engPut (s : State) (e : Eng) (va : Nat) (w : Where) (bs : List Byte) : (s.engPut e va w bs).engines = s.engines := by
  unfold State.engPut
  split
  · exact State.engines_send _ _
  · split
    · exact State.engines_of_still ((State.still_probe _ _).trans (State.still_newOp _ _))
    · exact State.engines_of_still (State.still_locWrite _ _ _ _)

theorem State.engines_cardPut (s : State) (e : Eng) (addr : Nat) (bs : List Byte) : (s.cardPut e addr bs).engines = s.engines := by
  have kept := engGlobal_keeps_engines e { w := true, rtype := .own } (bs.length / 4096 + 2) (addr % 2 ^ 64) bs.length s
  unfold State.cardPut engUpdate
  split
  · next ps u h =>
    rw [h] at kept
    exact (foldl_keeps State.engines _ (fun u (p : Put) => u.engines_engPut e p.va p.w p.bs) _ u).trans kept
  · next u h =>
    rw [h] at kept
    exact kept

theorem State.engines_cardState (s : State) (n : Nat) (j : MxJob) (code : Nat) : (s.cardState n j code).engines = s.engines :=
  s.engines_cardPut _ _ _

theorem State.cl_of_engines {s t : State} (h : t.engines = s.engines) (n : Nat) : t.cl n = s.cl n := by
  have e := congrArg (fun x : List (Nat × Cluster) × Nat => Tab.getD n {} x.1) h
  exact e

theorem State.cycle_of_engines {s t : State} (h : t.engines = s.engines) : t.cycle = s.cycle := congrArg Prod.snd h

@[simp] theorem State.cl_setCl_self (s : State) (n : Nat) (f : Cluster → Cluster) : (s.setCl n f).cl n = f (s.cl n) := by
  rw [State.cl_setCl, if_pos rfl]

/-- A job's entry changed in its cluster. -/
theorem State.table_setJob (s : State) (n seq : Nat) (f : MxJob → MxJob) :
    ((s.setJob n seq f).cl n).table = (s.cl n).table.map fun j => if j.seq = seq then f j else j := by
  rw [State.setJob, State.cl_setCl_self]

theorem State.mem_table_setJob {s : State} {n : Nat} {j : MxJob} (h : j ∈ (s.cl n).table) (f : MxJob → MxJob) :
    f j ∈ ((s.setJob n j.seq f).cl n).table := by
  rw [State.table_setJob]
  exact List.mem_map.2 ⟨j, h, if_pos rfl⟩

theorem State.cl_setJob (s : State) (n seq : Nat) (f : MxJob → MxJob) : (s.setJob n seq f).cl n =
    { s.cl n with table := (s.cl n).table.map fun j => if j.seq = seq then f j else j } := by
  rw [State.setJob, State.cl_setCl_self]

/-! ### A pass granted, R316 -/

/-- An entry whose pass is granted. -/
def MxJob.choose (j : MxJob) (now : Nat) (kept : Option (List (Nat × Tile))) : MxJob :=
  { j with st := 2, chosen := true, since := now, aged := false, kept := kept }

/-- The state with a pass granted and its reservation asked for. -/
def State.choose (s : State) (n : Nat) (j : MxJob) : State :=
  (s.setJob n j.seq fun y => y.choose s.cycle (if j.c.asrc = 3 then some (s.cl n).tiles else none)).setCl n fun x => x.request (s.passResv j)

theorem Cluster.table_request (c : Cluster) (r : Resv) : (c.request r).table = c.table := by
  unfold Cluster.request
  split <;> rfl

/-- A request made stands among those waiting or held. -/
theorem Cluster.exists_request (c : Cluster) (r : Resv) :
    ∃ q ∈ (c.request r).waiting ++ (c.request r).held, q.who = r.who ∧ q.job = r.job := by
  unfold Cluster.request
  split
  · next already =>
    obtain ⟨q, hq, same⟩ := List.any_eq_true.1 already
    exact ⟨q, hq, by simpa using same⟩
  · exact ⟨r, by simp, rfl, rfl⟩

theorem State.choose_spec (s : State) (n : Nat) {j y : MxJob} (mem : y ∈ (s.cl n).table) (seq : y.seq = j.seq) :
    (∃ z ∈ ((s.choose n j).cl n).table, z.seq = j.seq ∧ z.chosen = true ∧ z.st = 2 ∧ z.since = s.cycle ∧ z.aged = false)
      ∧ ∃ q ∈ ((s.choose n j).cl n).waiting ++ ((s.choose n j).cl n).held, q.who = 4 ∧ q.job = j.seq := by
  unfold State.choose
  rw [State.cl_setCl_self, Cluster.table_request]
  refine ⟨⟨y.choose s.cycle (if j.c.asrc = 3 then some (s.cl n).tiles else none), ?_, seq, rfl, rfl, rfl, rfl⟩, Cluster.exists_request _ _⟩
  rw [← seq]
  exact State.mem_table_setJob mem _

theorem State.grantFirst_ok {s : State} {n fuel : Nat} {l : List MxJob} {j : MxJob} (first : firstJob l = some j) {o : PassOut} {u : State}
    (ok : s.runPass n j = (.ok o, u)) :
    s.grantFirst n (fuel + 1) l = (if j.st = 1 then s.cardState n { j with st := 2 } 0 else s).choose n j := by
  rw [State.grantFirst, first]
  dsimp only
  rw [ok]
  rfl

theorem State.grantPass_busy {s : State} {n : Nat} {j : MxJob} (hj : j ∈ (s.cl n).table) (busy : j.running = true ∨ j.chosen = true) :
    s.grantPass n = s := by
  unfold State.grantPass
  exact if_pos (List.any_eq_true.2 ⟨j, hj, by simpa using busy⟩)

/-- Where every pass that is ready can be made, the first in order is granted. -/
theorem State.grantPass_spec {s : State} {n : Nat} (idle : ∀ j ∈ (s.cl n).table, j.running = false ∧ j.chosen = false)
    (some_ : ∃ j ∈ (s.cl n).table, s.mxReady n j = true)
    (runs : ∀ j ∈ (s.cl n).table, s.mxReady n j = true → ∃ o u, s.runPass n j = (.ok o, u)) :
    ∃ j ∈ (s.cl n).table, s.mxReady n j = true
      ∧ s.grantPass n = (if j.st = 1 then s.cardState n { j.asOf s.cycle with st := 2 } 0 else s).choose n (j.asOf s.cycle)
      ∧ ∀ i ∈ (s.cl n).table, s.mxReady n i = true → (i.asOf s.cycle).before (j.asOf s.cycle) = false := by
  have quiet : (s.cl n).table.any (fun j => j.running || j.chosen) = false := by
    rw [List.any_eq_false]
    intro j hj
    obtain ⟨running, chosen⟩ := idle j hj
    simp [running, chosen]
  obtain ⟨j0, mem0, ready0⟩ := some_
  have listed {i : MxJob} (hi : i ∈ (s.cl n).table) (ready : s.mxReady n i = true) :
      i.asOf s.cycle ∈ ((s.cl n).table.filter (s.mxReady n)).map (MxJob.asOf s.cycle) :=
    List.mem_map_of_mem (List.mem_filter.2 ⟨hi, ready⟩)
  cases hf : firstJob (((s.cl n).table.filter (s.mxReady n)).map (MxJob.asOf s.cycle)) with
  | none =>
      rw [firstJob_eq, firstBy_eq_none] at hf
      exact absurd (listed mem0 ready0) (by rw [hf]; exact List.not_mem_nil)
  | some b =>
      obtain ⟨mem, least⟩ := firstBy_spec MxJob.ranks ((firstJob_eq _).symm.trans hf)
      obtain ⟨j, hj, rfl⟩ := List.mem_map.1 mem
      obtain ⟨inTab, ready⟩ := List.mem_filter.1 hj
      obtain ⟨o, u, ok⟩ := runs j inTab ready
      obtain ⟨m, hm⟩ := Nat.exists_eq_succ_of_ne_zero (List.length_pos_of_mem mem0).ne'
      refine ⟨j, inTab, ready, ?_, fun i hi hr => least _ (listed hi hr)⟩
      unfold State.grantPass
      dsimp only
      rw [if_neg (by rw [quiet]; exact Bool.false_ne_true), hm]
      exact State.grantFirst_ok hf (j := j.asOf s.cycle) ok

/-- What it means that one entry is not before another. -/
theorem MxJob.not_before {now : Nat} {i j : MxJob} (h : (i.asOf now).before (j.asOf now) = false) :
    (((i.asOf now).aged = true) → (j.asOf now).aged = true ∧ j.since ≤ i.since)
      ∧ ((j.asOf now).aged = false → i.c.pri < j.c.pri ∨ (i.c.pri = j.c.pri ∧ j.seq ≤ i.seq)) := by
  have rule : agedBefore MxJob.aged MxJob.since (priBefore (fun j => j.c.pri) MxJob.seq) (i.asOf now) (j.asOf now) = false := h
  have since (j : MxJob) : (j.asOf now).since = j.since := rfl
  have seq (j : MxJob) : (j.asOf now).seq = j.seq := rfl
  have card (j : MxJob) : (j.asOf now).c = j.c := rfl
  rw [agedBefore, priBefore] at rule
  simp only [since, seq, card] at rule
  cases hi : (i.asOf now).aged <;> cases hj : (j.asOf now).aged <;> simp [hi, hj] at rule ⊢ <;> omega

end Sys2Proof.Machine
end

section
/-! SUPPORT. A pass that adds to its accumulator tile and writes nothing else (12 R312, R313). -/

namespace Sys2Proof.Machine

theorem EngM.bind_ok {α β : Type} {m : EngM α} {f : α → EngM β} {s t : State} {a : α} (h : m s = (.ok a, t)) : EngM.bind m f s = f a t := by
  rw [EngM.bind, h]

/-! ### What a pass comes to -/

/-- The accumulators of a pass. -/
def passOuts (cls : MxClass) (imode : Bool) (acc : List (List Nat)) (a b : List MxRow) : List (List AccOut) :=
  (acc.zip a).map fun (row, ra) => (row.zip b).map fun (y, cb) => mxDot cls imode y ra cb

/-- Their encodings. -/
def passRows (cls : MxClass) (imode : Bool) (acc : List (List Nat)) (a b : List MxRow) : List (List Nat) :=
  (passOuts cls imode acc a b).map fun r => r.map AccOut.v

/-- The rows a pass leaves in its tile. -/
def tileRowsOf (cls : MxClass) (imode : Bool) (acc : List (List Nat)) (a b : List MxRow) : List (List Word) :=
  (passRows cls imode acc a b).map fun r => r.map (BitVec.ofNat 32)

theorem getD_tileRowsOf (cls : MxClass) (imode : Bool) {acc : List (List Nat)} {a b : List MxRow} (hacc : acc.length = 128) (ha : a.length = 128)
    (hb : b.length = 128) (wide : ∀ r ∈ acc, r.length = 128) {i q : Nat} (hi : i < 128) (hq : q < 128) :
    ((tileRowsOf cls imode acc a b).getD i []).getD q 0
      = BitVec.ofNat 32 (mxDot cls imode ((acc.getD i []).getD q 0) (a.getD i []) (b.getD q [])).v := by
  have row : acc[i].length = 128 := wide _ (List.getElem_mem _)
  simp [tileRowsOf, passRows, passOuts, List.getD_eq_getElem?_getD, hacc, ha, hb, hi, hq, row]

/-- A job whose pass reads its tile, A and B as the operands say, and writes only its tile. -/
structure PlainPass (s : State) (n : Nat) (j : MxJob) (x : MxSlots) (acc : List (List Nat)) (a b : List MxRow) (t : State) : Prop where
  slots : s.mxSlots j.launch j.c = some x
  one : mxClass x.a.fmt ≠ .f64
  rowsOfA : j.c.asrc ≠ 3
  adds : j.i 4 ≠ 0 ∨ j.c.acc = 1
  stays : j.lastPass = false ∨ (j.c.wout = false ∧ j.c.epi.testBit 1 = false)
  reads : ∃ s0 s1, readTile n (j.c.dtile + j.lin) (mxClass x.a.fmt) s = (.ok acc, s0)
    ∧ operandRows (jobEng n j) (mxSpace j.c.asrc) x.a (wrapAt (mxSpace j.c.asrc) ((j.c.abase : Int) + j.sum 5 MxLevel.a)) s0 = (.ok a, s1)
    ∧ operandRows (jobEng n j) (mxSpace j.c.bsrc) x.b (wrapAt (mxSpace j.c.bsrc) ((j.c.bbase : Int) + j.sum 5 MxLevel.b)) s1 = (.ok b, t)

theorem MxClass.tiles_of_ne {cls : MxClass} (h : cls ≠ .f64) : cls.tiles = 1 := by
  cases cls with
  | f64 => exact absurd rfl h
  | f32 => rfl
  | i32 => rfl

section
variable {s t : State} {n : Nat} {j : MxJob} {x : MxSlots} {acc : List (List Nat)} {a b : List MxRow} (h : PlainPass s n j x acc a b t)
include h

theorem PlainPass.mxPass : ∃ fl sat, mxPass n (jobEng n j) x j s = (.ok ⟨passRows (mxClass x.a.fmt) j.c.imode acc a b, [], fl, sat, j.rng⟩, t) := by
  obtain ⟨-, one, rowsOfA, adds, stays, s0, s1, tile, hA, hB⟩ := h
  have rowsA : EngM.bind (operandRows (jobEng n j) (mxSpace j.c.asrc) x.a (wrapAt (mxSpace j.c.asrc) ((j.c.abase : Int) + j.sum 5 MxLevel.a)))
      (fun r => EngM.pure (r, (0 : Fp.Flags), j.rng)) s0 = (.ok (a, 0, j.rng), s1) := EngM.bind_ok hA
  unfold Machine.mxPass
  dsimp only
  rw [if_pos adds, if_neg rowsOfA, MxClass.tiles_of_ne one, Nat.one_mul, EngM.bind_ok tile, EngM.bind_ok rowsA, EngM.bind_ok hB]
  rcases stays with more | ⟨noOut, noBias⟩
  · rw [more]
    exact ⟨_, _, rfl⟩
  · rw [noOut, noBias]
    cases j.lastPass <;> exact ⟨_, _, rfl⟩

theorem PlainPass.runPass : ∃ fl sat, s.runPass n j = (.ok ⟨passRows (mxClass x.a.fmt) j.c.imode acc a b, [], fl, sat, j.rng⟩, t) := by
  obtain ⟨fl, sat, run⟩ := h.mxPass
  refine ⟨fl, sat, ?_⟩
  unfold State.runPass
  dsimp only
  rw [h.slots]
  dsimp only
  rw [run]
  rfl

end

theorem Cluster.putTile_of_ne {cls : MxClass} (h : cls ≠ .f64) (x : Cluster) (ctx t : Nat) (rows : List (List Nat)) :
    x.putTile ctx t cls rows = { x with tiles := Tab.put (t % 64) (.words (rows.map fun r => r.map (BitVec.ofNat 32))) x.tiles
                                        tileCtx := Tab.put (t % 64) ctx x.tileCtx } := by
  cases cls with
  | f64 => exact absurd rfl h
  | f32 => rfl
  | i32 => rfl

/-- An entry whose pass has been made. -/
def MxJob.passed (j : MxJob) (fl : Fp.Flags) (sat : Bool) (rng : Word) : MxJob :=
  { j with fl := j.fl ||| fl, sat := j.sat || sat, rng := rng, idx := stepIdx j.c j.idx, running := false, kept := none }

theorem State.engines_dropEngReads (s : State) (owner : Nat) : (s.dropEngReads owner).engines = s.engines :=
  foldl_keeps State.engines State.dropOp (fun _ _ => rfl) _ s

/-- The cluster after a pass that writes nothing else. -/
theorem PlainPass.cluster {s t : State} {n : Nat} {j : MxJob} {x : MxSlots} {acc : List (List Nat)} {a b : List MxRow}
    (h : PlainPass s n j x acc a b t) (first : (s.cl n).table.find? (fun j => j.running) = some j) (kept : t.clusters = s.clusters) :
    ∃ fl sat, ((s.completePass n).cl n).tiles
        = Tab.put ((j.c.dtile + j.lin) % 64) (.words (tileRowsOf (mxClass x.a.fmt) j.c.imode acc a b)) (s.cl n).tiles
      ∧ ((s.completePass n).cl n).table = (s.cl n).table.map fun y => if y.seq = j.seq then j.passed fl sat j.rng else y := by
  obtain ⟨fl, sat, run⟩ := h.runPass
  refine ⟨fl, sat, ?_⟩
  have same : t.cl n = s.cl n := by rw [State.cl, kept]; rfl
  -- the tile put, the entry changed, its card written
  let put : State := t.setCl n fun y =>
    (y.putTile j.ctx (j.c.dtile + (mxClass x.a.fmt).tiles * j.lin) (mxClass x.a.fmt) (passRows (mxClass x.a.fmt) j.c.imode acc a b)).unreserve 4 j.seq
  have done : s.completePass n = ((((put.dropEngReads (jobEng n j).owner).release (jobEng n j).owner).setJob n j.seq
      fun _ => j.passed fl sat j.rng)).cardState n (j.passed fl sat j.rng) 0 := by
    unfold State.completePass
    rw [first]
    dsimp only
    rw [run, h.slots]
    rfl
  have released : ((put.dropEngReads (jobEng n j).owner).release (jobEng n j).owner).cl n = put.cl n :=
    State.cl_of_engines ((put.engines_dropEngReads _).trans rfl) n
  have tiled : put.cl n = ((s.cl n).putTile j.ctx (j.c.dtile + j.lin) (mxClass x.a.fmt)
      (passRows (mxClass x.a.fmt) j.c.imode acc a b)).unreserve 4 j.seq := by
    rw [State.cl_setCl_self, same, MxClass.tiles_of_ne h.one, Nat.one_mul]
  rw [Cluster.putTile_of_ne h.one] at tiled
  rw [done, State.cl_of_engines (State.engines_cardState _ _ _ _), State.cl_setJob, released, tiled]
  exact ⟨rfl, rfl⟩

end Sys2Proof.Machine
end

section
/-! SUPPORT. The end of a job of the matrix engine, and a reservation granted (12 R318, 22 R431). -/

namespace Sys2Proof.Machine

/-! ### A card's word written at once -/

/-- An engine with nothing pending has no access of its own. -/
theorem State.no_ops_of_engIdle {s : State} {owner : Nat} (idle : s.engIdle owner = true) {p : Nat × Op} (hp : p ∈ s.ops) :
    p.2.th ≠ engKey owner := by
  intro own
  have mem : p.1 ∈ s.opsOf (engKey owner) fun _ => true := List.mem_map_of_mem (List.mem_filter.2 ⟨hp, by simp [own]⟩)
  rw [List.isEmpty_iff.1 idle] at mem
  cases mem

/-- An idle engine writes a word of a card at the place its page has, where nothing holds the line. -/
theorem State.cardPut_at {s : State} {e : Eng} {addr pa : Nat} {bs : List Byte}
    (here : engUpdate e (addr % 2 ^ 64) bs.length s = (.ok [(.mem pa, bs.length)], s)) (idle : s.engIdle e.owner = true)
    (free : s.putWaits (.mem pa) = false) : s.cardPut e addr bs = s.homeStore pa bs := by
  have alone : (s.ops.any fun (_, p) => p.th == engKey e.owner && p.kind.writes && overlaps p.loc p.size (.mem pa) bs.length) = false := by
    rw [List.any_eq_false]
    intro p hp
    simp [State.no_ops_of_engIdle idle hp]
  have one : alongSpans addr [(.mem pa, bs.length)] bs = [⟨.mem pa, bs.length, addr + 0, bs⟩] := by simp [alongSpans]
  unfold State.cardPut
  rw [here]
  dsimp only
  rw [one, List.foldl_cons, List.foldl_nil]
  unfold State.engPut
  dsimp only
  rw [if_neg (by rw [free, alone]; exact Bool.false_ne_true)]
  rfl

/-! ### A job that leaves -/

/-- What the end of a job leaves of memory, its caches and the barriers. -/
structure Settles (s t : State) : Prop where
  mem : t.mem = s.mem
  cores : t.cores = s.cores
  bar : ∀ q, (t.cr q).bar = (s.cr q).bar

theorem Settles.refl (s : State) : Settles s s := ⟨rfl, rfl, fun _ => rfl⟩

theorem Settles.trans {s t u : State} (h : Settles s t) (g : Settles t u) : Settles s u :=
  ⟨g.mem.trans h.mem, g.cores.trans h.cores, fun q => (g.bar q).trans (h.bar q)⟩

theorem Settles.cohByte {s t : State} (h : Settles s t) : t.cohByte = s.cohByte := State.cohByte_congr h.mem h.cores

theorem Settles.setCr (s : State) (c : Nat) (f : Crew → Crew) (keep : ∀ x, (f x).bar = x.bar) : Settles s (s.setCr c f) := by
  refine ⟨rfl, rfl, fun q => ?_⟩
  rw [State.cr_setCr]
  split
  · exact keep _
  · rfl

theorem Settles.setCl (s : State) (n : Nat) (f : Cluster → Cluster) : Settles s (s.setCl n f) := ⟨rfl, rfl, fun _ => rfl⟩

/-- A crew that ends keeps its barriers, and no cluster changes. -/
theorem State.settleCrew_spec (s : State) (c : Nat) : Settles s (s.settleCrew c) ∧ (s.settleCrew c).clusters = s.clusters := by
  have cleared (l : List Nat) (u : State) : Settles u (l.foldl (fun s v => s.setCr v fun x => { x with scratch := [] }) u)
      ∧ (l.foldl (fun s v => s.setCr v fun x => { x with scratch := [] }) u).clusters = u.clusters := by
    induction l generalizing u with
    | nil => exact ⟨.refl u, rfl⟩
    | cons v l ih =>
        obtain ⟨settles, clusters⟩ := ih (u.setCr v fun x => { x with scratch := [] })
        exact ⟨(Settles.setCr u v (fun x => { x with scratch := [] }) fun _ => rfl).trans settles, clusters⟩
  have ended : Settles s { s.setCr c fun x => { x with ended := true } with rows := s.rows.filter fun (r, _) => r / 128 != c } :=
    (Settles.setCr s c (fun x => { x with ended := true }) fun _ => rfl).trans ⟨rfl, rfl, fun _ => rfl⟩
  unfold State.settleCrew
  split
  · dsimp only
    split
    · obtain ⟨settles, clusters⟩ := cleared _ _
      exact ⟨ended.trans settles, clusters⟩
    · exact ⟨ended, rfl⟩
  · exact ⟨.refl s, rfl⟩

/-- What an engine's end of work leaves as it was. -/
def State.works (s : State) := (s.mem, s.cores, s.crews, s.clusters, s.records)

theorem State.works_dropEngReads (s : State) (owner : Nat) : (s.dropEngReads owner).works = s.works :=
  foldl_keeps State.works State.dropOp (fun _ _ => rfl) _ s

theorem State.cr_of_crews {s t : State} (h : t.crews = s.crews) (q : Nat) : t.cr q = s.cr q := by rw [State.cr, h]; rfl

/-- A job with no record that waits leaves the table. -/
theorem State.leaveTable_spec {s : State} {n : Nat} {j : MxJob} (unrecorded : s.recordWaits (jobEng n j).owner = false) :
    Settles s (s.leaveTable n j) ∧ ∀ y ∈ ((s.leaveTable n j).cl n).table, y.seq ≠ j.seq := by
  have works : ((s.dropEngReads (jobEng n j).owner).release (jobEng n j).owner).works = s.works := s.works_dropEngReads _
  unfold State.leaveTable
  dsimp only
  generalize (s.dropEngReads (jobEng n j).owner).release (jobEng n j).owner = u at works
  simp only [State.works, Prod.mk.injEq] at works
  obtain ⟨mem, cores, crews, -, records⟩ := works
  have unrecorded' : u.recordWaits (jobEng n j).owner = false := by rw [← unrecorded, State.recordWaits, records]; rfl
  rw [unrecorded']
  obtain ⟨settles, clusters⟩ := State.settleCrew_spec (u.setCl n fun x => { x.unreserve 4 j.seq with
    table := x.table.filterMap fun y => if y.seq = j.seq then (if false = true then some j else none) else some y }) j.crew
  have base : Settles s u := ⟨mem, cores, fun q => congrArg Crew.bar (State.cr_of_crews crews q)⟩
  refine ⟨base.trans ((Settles.setCl u n _).trans settles), fun y hy => ?_⟩
  rw [State.cl, clusters, ← State.cl, State.cl_setCl_self] at hy
  obtain ⟨z, -, hz⟩ := List.mem_filterMap.1 hy
  split at hz
  · rw [if_neg Bool.false_ne_true] at hz
    cases hz
  · next other =>
    cases hz
    exact other

theorem State.recordWaits_homeStore (s : State) (pa : Nat) (bs : List Byte) (owner : Nat) :
    (s.homeStore pa bs).recordWaits owner = s.recordWaits owner := by rw [State.recordWaits, State.records_homeStore]; rfl

theorem State.engIdle_homeStore (s : State) (pa : Nat) (bs : List Byte) (owner : Nat) :
    (s.homeStore pa bs).engIdle owner = s.engIdle owner := by
  rw [State.engIdle, State.opsOf, State.ops_homeStore]
  rfl

theorem State.recordWaits_setJob (s : State) (n seq : Nat) (f : MxJob → MxJob) (owner : Nat) :
    (s.setJob n seq f).recordWaits owner = s.recordWaits owner := rfl

theorem State.engIdle_setJob (s : State) (n seq : Nat) (f : MxJob → MxJob) (owner : Nat) :
    (s.setJob n seq f).engIdle owner = s.engIdle owner := rfl

theorem State.crews_setJob (s : State) (n seq : Nat) (f : MxJob → MxJob) : (s.setJob n seq f).crews = s.crews := rfl

theorem State.cohByte_setJob (s : State) (n seq : Nat) (f : MxJob → MxJob) : (s.setJob n seq f).cohByte = s.cohByte :=
  State.cohByte_congr rfl rfl

theorem State.recordWaits_arriveBar (s : State) (c n owner : Nat) : (s.arriveBar c n).recordWaits owner = s.recordWaits owner := rfl

theorem State.cohByte_arriveBar (s : State) (c n : Nat) : (s.arriveBar c n).cohByte = s.cohByte := State.cohByte_congr rfl rfl

/-! ### The end of a job, R318 -/

/-- A job that may end: its passes made, nothing of its engine pending, no memory barrier and no record. -/
structure Ends (s : State) (n : Nat) (j : MxJob) (pa : Nat) : Prop where
  isOpen : j.open_ = true
  allMade : j.left = false
  still : j.running = false
  idle : s.engIdle (jobEng n j).owner = true
  released : s.engReleasing (jobEng n j).owner (bits j.c.cmpl 24 22) = false
  first : j.closing = false
  noBarrier : j.c.cmpl.testBit 26 = false
  noRecord : j.c.cmpl.testBit 25 = false
  unrecorded : s.recordWaits (jobEng n j).owner = false
  place : engUpdate (jobEng n j) ((j.card.toNat + 0xB4) % 2 ^ 64) 4 s = (.ok [(.mem pa, 4)], s)
  unheld : s.linesHeld (jobEng n j).owner (spanLines [(.mem pa, 4)]) = false
  free : s.putWaits (.mem pa) = false

/-- STATE of a job that is done. -/
def MxJob.doneWord (j : MxJob) : List Byte := leBytes 4 ((if j.sat then 2 ^ 21 else 0) + j.fl.toNat * 2 ^ 16 + 0x104)

theorem MxJob.length_doneWord (j : MxJob) : j.doneWord.length = 4 := rfl

section
variable {s : State} {n : Nat} {j : MxJob} {pa : Nat} (h : Ends s n j pa)
include h

theorem Ends.jobClose : s.jobClose n j = (s.homeStore pa j.doneWord).setJob n j.seq fun y => { y with closing := true } := by
  have word : ({ j with st := 4 } : MxJob).word 1 = (if j.sat then 2 ^ 21 else 0) + j.fl.toNat * 2 ^ 16 + 0x104 := Nat.add_assoc _ _ _
  have put : s.cardPut (jobEng n j) (j.card.toNat + 0xB4) j.doneWord = s.homeStore pa j.doneWord := State.cardPut_at h.place h.idle h.free
  unfold State.jobClose State.cardState
  rw [word]
  exact congrArg (fun u : State => u.setJob n j.seq fun y => { y with closing := true }) put

theorem Ends.completeJob {i : Nat} (hi : (s.cl n).table[i]? = some j) : s.completeJob n i =
    ((if j.c.cmpl.testBit 31 then (s.jobClose n j).arriveBar j.crew (bits j.c.cmpl 30 27) else s.jobClose n j).leaveTable n { j with st := 4 }) := by
  have idle : (s.jobClose n j).engIdle (jobEng n j).owner = true := by
    rw [h.jobClose, State.engIdle_setJob, State.engIdle_homeStore, h.idle]
  have silent (u : State) : u.jobRecord n { j with st := 4 } 3 1 = u := by
    have bit : ({ j with st := 4 } : MxJob).c.cmpl.testBit 25 = false := h.noRecord
    unfold State.jobRecord State.engRecord
    rw [bit]
    rfl
  have noClose : (if j.closing = true then s else s.jobClose n j) = s.jobClose n j := if_neg (by rw [h.first]; exact Bool.false_ne_true)
  have may : ¬(!j.open_ || j.left || j.running || !s.engIdle (jobEng n j).owner
      || s.engReleasing (jobEng n j).owner (bits j.c.cmpl 24 22)) = true := by
    simp [h.isOpen, h.allMade, h.still, h.idle, h.released]
  unfold State.completeJob
  rw [hi]
  dsimp only
  rw [if_neg may, h.place]
  dsimp only
  rw [if_neg (by rw [h.unheld]; exact Bool.false_ne_true), if_neg (by rw [h.noBarrier]; exact Bool.false_ne_true),
    noClose, if_pos idle]
  unfold State.jobDone
  dsimp only
  rw [silent]
  rfl

theorem Ends.leaves {i : Nat} (hi : (s.cl n).table[i]? = some j) : (∀ y ∈ ((s.completeJob n i).cl n).table, y.seq ≠ j.seq)
    ∧ ((s.completeJob n i).cr j.crew).bar
      = (if j.c.cmpl.testBit 31 then ((s.arriveBar j.crew (bits j.c.cmpl 30 27)).cr j.crew).bar else (s.cr j.crew).bar)
    ∧ (s.completeJob n i).cohByte = (s.homeStore pa j.doneWord).cohByte := by
  have crews : (s.jobClose n j).crews = s.crews := by
    rw [h.jobClose, State.crews_setJob, State.crews_homeStore]
  have records : (s.jobClose n j).recordWaits (jobEng n j).owner = false := by
    rw [h.jobClose, State.recordWaits_setJob, State.recordWaits_homeStore, h.unrecorded]
  have bytes : (s.jobClose n j).cohByte = (s.homeStore pa j.doneWord).cohByte := by
    rw [h.jobClose, State.cohByte_setJob]
  rw [h.completeJob hi]
  generalize s.jobClose n j = u at crews records bytes
  split
  · obtain ⟨settles, gone⟩ := State.leaveTable_spec (s := u.arriveBar j.crew (bits j.c.cmpl 30 27)) (n := n)
      (j := { j with st := 4 }) ((u.recordWaits_arriveBar _ _ _).trans records)
    have same : (u.arriveBar j.crew (bits j.c.cmpl 30 27)).crews = (s.arriveBar j.crew (bits j.c.cmpl 30 27)).crews := by
      unfold State.arriveBar State.setCr
      rw [crews]
    exact ⟨gone, (settles.bar _).trans (congrArg Crew.bar (State.cr_of_crews same _)),
      settles.cohByte.trans ((u.cohByte_arriveBar _ _).trans bytes)⟩
  · obtain ⟨settles, gone⟩ := State.leaveTable_spec (s := u) (n := n) (j := { j with st := 4 }) records
    exact ⟨gone, (settles.bar _).trans (congrArg Crew.bar (State.cr_of_crews crews _)), settles.cohByte.trans bytes⟩

end

/-- A job with passes left, one under way, or that is not open, does not end. -/
theorem State.completeJob_stays {s : State} {n i : Nat} {j : MxJob} (hi : (s.cl n).table[i]? = some j)
    (h : j.left = true ∨ j.running = true ∨ j.open_ = false) : s.completeJob n i = s := by
  unfold State.completeJob
  rw [hi]
  dsimp only
  rw [if_pos]
  rcases h with h | h | h <;> simp [h]

/-! ### Reservations, 22 R431 -/

/-- The state with a request granted. -/
def State.takeResv (s : State) (n : Nat) (r : Resv) : State :=
  s.setCl n fun x => { x with waiting := x.waiting.filter (!r.same ·), held := x.held ++ [r] }

/-- The requests that can start, as they stand. -/
def State.readyResv (s : State) (n : Nat) : List Resv := ((s.cl n).waiting.filter (s.resvReady n)).map (Resv.asOf s.cycle)

theorem State.grantResv_none {s : State} {n : Nat} (no : ∀ r ∈ s.readyResv n, (s.cl n).fits r = false) : s.grantResv n = s := by
  unfold State.grantResv
  dsimp only
  cases hg : (s.cl n).nextGrant (s.cl n).waiting.length (((s.cl n).waiting.filter (s.resvReady n)).map (Resv.asOf s.cycle)) with
  | none => rfl
  | some r =>
      obtain ⟨mem, fit, -⟩ := Cluster.nextGrant_spec hg
      exact absurd fit (by rw [no r mem]; exact Bool.false_ne_true)

section
variable {s : State} {n : Nat} {r : Resv} (granted : (s.cl n).nextGrant (s.cl n).waiting.length (s.readyResv n) = some r)
include granted

theorem State.grantResv_burst (burst : r.who < 4) : s.grantResv n = s.takeResv n r := by
  unfold State.readyResv at granted
  unfold State.grantResv
  dsimp only
  rw [granted]
  dsimp only
  rw [if_pos burst]
  rfl

theorem State.grantResv_pass (pass : r.who = 4) : s.grantResv n = (s.takeResv n r).issuePass n r.job := by
  unfold State.readyResv at granted
  unfold State.grantResv
  dsimp only
  rw [granted]
  dsimp only
  rw [if_neg (by omega), if_pos pass]
  rfl

/-- The units held with a request granted. -/
theorem State.units_granted : ((s.takeResv n r).cl n).units ≤ 32 := by
  obtain ⟨-, fit, -⟩ := Cluster.nextGrant_spec granted
  have held : ((s.takeResv n r).cl n).units = (s.cl n).units + costAt (s.cl n).clk r.cost :=
    Cluster.units_of_held (by rw [State.takeResv, State.cl_setCl_self]) (by rw [State.takeResv, State.cl_setCl_self])
  rw [held]
  exact of_decide_eq_true fit

end

/-- A pass that issues. -/
def MxJob.issue (j : MxJob) : MxJob := { j with chosen := false, running := true }

/-- A pass that can be made runs once its reservation is granted. -/
theorem State.issuePass_ok {s u : State} {n seq : Nat} {j : MxJob} {o : PassOut} (found : (s.cl n).table.find? (fun j => j.seq == seq) = some j)
    (ok : s.runPass n j = (.ok o, u)) (kept : u.clusters = s.clusters) : j.issue ∈ ((s.issuePass n seq).cl n).table := by
  have engines (ls : List Nat) (v : State) : (ls.foldl State.recall v).engines = v.engines :=
    foldl_keeps State.engines State.recall (fun v l => State.engines_of_still (v.still_recall l)) ls v
  have number : j.seq = seq := by simpa using List.find?_some found
  have same (ls : List Nat) (owner : Nat) : (u.takeLines owner ls).cl n = s.cl n := by
    have taken : (u.takeLines owner ls).engines = u.engines := engines ls u
    rw [State.cl_of_engines taken, State.cl, kept]
    rfl
  unfold State.issuePass
  rw [found]
  dsimp only
  rw [ok]
  dsimp only
  subst number
  exact State.mem_table_setJob (by rw [same]; exact List.mem_of_find?_eq_some found) MxJob.issue

end Sys2Proof.Machine
end

section
/-! PROOF. O49: the passes of the matrix engine, their order and what each leaves; reservations (03 R98 to R101, 12 R312 to R318, 22 R430,
R431). -/

namespace Sys2Proof
open Machine Fp

/-- Settles O49: the arithmetic group by group, the orders by the first of a list, a pass and the end of a job by following each state. -/
theorem matrixEvents : Obligations.MatrixEvents := by
  intro s n tab aged old _
  refine ⟨fun imode acc row ba bb wraps => ?_, fun cls acc a b i j float same some_ few finite => ?_,
    fun imode acc a a' b b' x y z w same cut => mxDot_cut imode acc same cut a' b', fun cd idx _ within => passNumber_stepIdx cd within,
    fun idle some_ runs => ?_, fun ⟨j, hj, busy⟩ => ?_, fun i j hi => ?_, fun j x acc a b s0 s1 s2 first slots float rowsOfA adds stays tile hA hB
      kept hacc ha hb wide => ?_, fun i j hi h => ?_, fun i j pa hi isOpen allMade still idle released closing noBarrier noRecord unrecorded place
      unheld free ok => ?_, fun i r hi old_ => ?_, fun no => ?_, fun r granted => ?_⟩
  · -- INT32 accumulators
    subst wraps
    refine mxDot_int acc (l := row) ?_
    rw [List.zip_map']
    refine List.ext_getElem (by simp [valuePairs, intPairs]) fun k hk _ => ?_
    have within : k < row.length := by simpa [valuePairs] using hk
    simp [valuePairs, intPairs, intVal, within]
  · -- one group of floats
    have finite' : FinitePairs (a.zip b) := finite
    exact ⟨_, num?_groupSum finite', mxDot_group float acc a b i j same some_ few⟩
  · -- the pass granted
    obtain ⟨j, hj, ready, eq, least⟩ := State.grantPass_spec idle some_ runs
    have engines : (if j.st = 1 then s.cardState n { j.asOf s.cycle with st := 2 } 0 else s).engines = s.engines := by
      split
      · exact s.engines_cardState _ _ _
      · rfl
    rw [← State.cycle_of_engines engines]
    obtain ⟨entry, asked⟩ := State.choose_spec (if j.st = 1 then s.cardState n { j.asOf s.cycle with st := 2 } 0 else s) n (j := j.asOf s.cycle)
      (y := j) (by rw [State.cl_of_engines engines]; exact hj) rfl
    refine ⟨s.grantPass n, rfl, j, hj, ready, ?_, ?_, fun i hi ready' => MxJob.not_before (least i hi ready')⟩
    · rw [eq]
      exact entry
    · rw [eq]
      exact asked
  · exact congrArg Host.Outcome.next (State.grantPass_busy hj busy)
  · have found : (s.cl n).table[i]? = some j := hi
    show execMatrixEntryAged n i s = _
    unfold execMatrixEntryAged
    rw [found]
    exact congrArg Host.Outcome.next (if_congr (and_congr_left fun _ => decide_eq_true_iff.symm) rfl rfl)
  · -- a pass
    have plain : PlainPass s n j x acc a b s2 := ⟨slots, float, rowsOfA, adds, stays, s0, s1, tile, hA, hB⟩
    obtain ⟨fl, sat, tiles, table⟩ := plain.cluster first kept
    refine ⟨s.completePass n, _, rfl, by rw [tiles, Tab.find_put_self], fun i q hi hq => ?_, ⟨j.passed fl sat j.rng, ?_, rfl, rfl, rfl⟩, fun q hq => ?_⟩
    · exact getD_tileRowsOf _ _ hacc ha hb wide hi hq
    · rw [table]
      exact List.mem_map.2 ⟨j, List.mem_of_find?_eq_some first, if_pos rfl⟩
    · rw [tiles, Tab.find_put, if_neg hq]
  · exact congrArg Host.Outcome.next (State.completeJob_stays hi h)
  · -- the end of a job
    have ends : Ends s n j pa := ⟨isOpen, allMade, still, idle, released, closing, noBarrier, noRecord, unrecorded, place, unheld, free⟩
    obtain ⟨gone, bar, bytes⟩ := ends.leaves hi
    refine ⟨s.completeJob n i, rfl, ?_, gone, bar, fun z hz => ?_⟩
    · rw [State.coh_of_cohByte pa 4 fun x _ _ => congrFun bytes x]
      exact State.L1Ok.coh_homeStore_self ok pa j.doneWord rfl
    · rw [bytes, State.L1Ok.cohByte_homeStore ok, MxJob.length_doneWord, if_neg (by omega)]
  · -- a request aged
    refine ⟨s.setCl n fun x => { x with waiting := x.waiting.map fun y => if y == r then { y with aged := true } else y }, ?_, ?_, ?_⟩
    · show execReservationAged n i s = _
      unfold execReservationAged
      rw [hi]
      exact congrArg Host.Outcome.next (if_pos (of_decide_eq_true old_))
    · rw [State.cl_setCl_self]
      exact List.map_congr_left fun y _ => if_congr beq_iff_eq rfl rfl
    · rw [State.cl_setCl_self]
  · exact congrArg Host.Outcome.next (State.grantResv_none fun r hr => decide_eq_false (no r hr))
  · -- the request granted, and what it starts
    obtain ⟨mem, fit, others⟩ := Cluster.nextGrant_spec granted
    refine ⟨mem, of_decide_eq_true fit, fun y hy early => ?_, fun burst => ?_, fun j o u pass found run kept => ?_⟩
    · obtain ⟨unfit, young⟩ := others y hy early
      exact ⟨of_decide_eq_false unfit, young⟩
    · refine ⟨s.grantResv n, rfl, ?_, ?_, ?_⟩
      all_goals rw [State.grantResv_burst granted burst]
      · rw [State.takeResv, State.cl_setCl_self]
      · rw [State.takeResv, State.cl_setCl_self]
      · exact State.units_granted granted
    · have number : j.seq = r.job := by simpa using List.find?_some found
      refine ⟨s.grantResv n, rfl, j.issue, ?_, number, rfl, rfl⟩
      rw [State.grantResv_pass granted pass]
      refine State.issuePass_ok ?_ run kept
      rw [State.takeResv, State.cl_setCl_self]
      exact found

end Sys2Proof
end

section
/-! PROOF. O57: a lease granted to a thread that waits at LEASE.age for a number that is no line's address. -/

namespace Sys2Proof.Machine

/-- A thread that waits at LEASE.age for address 5, where no line begins. -/
def crookedWait : Thread := { pc := 0, hdr := 0, src := 0, status := .waiting, wait := .leaseAge 5 100 .crew }

/-- A device just reset that holds the thread; the grant of its lease is the first thing that may move. -/
def crookedGrant : State := { State.reset with threads := [(0, crookedWait)] }

/-- What the wait of a thread names is of no concern to the rules of the L1s. -/
theorem crookedGrant_l1Ok : crookedGrant.L1Ok :=
  ⟨List.Pairwise.nil, fun _ hx => absurd hx List.not_mem_nil, fun _ hx => absurd hx List.not_mem_nil⟩

/-- The grant takes the number into the L1 as the address of a line. -/
theorem step_crookedGrant : (match step crookedGrant with
    | .next t => t.cores.any fun x => x.2.owned.any fun o => o.1 % 128 != 0
    | _ => false) = true := by
  decide +kernel

/-- Refutes O57: the statement speaks of every state, and a state may hold a thread that waits at LEASE.age for a number that
no line has as its address; the step that grants the lease puts that number among the lines of the L1. -/
theorem not_stepKeepsMemory : ¬ Obligations.StepKeepsMemory := by
  intro h
  have owned := step_crookedGrant
  cases taken : step crookedGrant with
  | fault f => simp [taken] at owned
  | refused r => simp [taken] at owned
  | next t =>
      obtain ⟨-, ok⟩ := h crookedGrant t rfl crookedGrant_l1Ok taken
      simp only [taken, List.any_eq_true, bne_iff_ne, ne_eq] at owned
      obtain ⟨x, hx, o, ho, off⟩ := owned
      obtain ⟨-, aligned⟩ := ok.lines x hx
      exact off (aligned o ho).1

end Sys2Proof.Machine
end

section
/-! SUPPORT. Translating and placing an access: the same beside other notes of the issue logic; where the access has a place,
nothing but the caches of the cores has changed. -/

namespace Sys2Proof.Machine

/-! ### Translated, R382 -/

/-- A result in a state with other notes of the issue logic. -/
def onNotes {α : Type} (C : List (Nat × Nat)) (P : List (Nat × Part)) (R : List (Nat × Row)) (r : α × State) : α × State :=
  (r.1, r.2.noted C P R)

theorem State.translate_noted (s : State) (C P R) (core : Option Nat) (ctx master plain : Nat) (va : DWord) (n : Need) :
    (s.noted C P R).translate core ctx master plain va n = onNotes C P R (s.translate core ctx master plain va n) := by
  have pool := Alike.translate (s := s) (x := s.noted C P R) rfl core ctx master plain va n
  have threads := congrArg State.threads (s.looked_translate core ctx master plain va n)
  refine pool.trans ?_
  generalize s.translate core ctx master plain va n = r at threads
  obtain ⟨w, u⟩ := r
  show (w, { u with threads := s.threads, rows := R, parts := P, counters := C }) = _
  rw [show s.threads = u.threads from threads.symm]
  rfl

theorem State.denied_noted (s : State) (C P R) (q : Nat) (x : Option Nat) : (s.noted C P R).denied q x = (s.denied q x).noted C P R := by
  have threads := congrArg State.threads (s.looked_denied q x)
  refine (s.withPool_denied (s.noted C P R) q x).trans ?_
  generalize s.denied q x = u at threads
  show { u with threads := s.threads, rows := R, parts := P, counters := C } = _
  rw [show s.threads = u.threads from threads.symm]
  rfl

/-- Finding a leaf changes nothing but the caches of a core. -/
theorem State.leafFor_cores (s : State) (core : Option Nat) (ctx master va : Nat) :
    (s.leafFor core ctx master va).2 = { s with cores := (s.leafFor core ctx master va).2.cores } := by
  unfold State.leafFor
  split
  · rfl
  · split
    · rfl
    · split
      · rfl
      · split <;> rfl

/-- An access that translates changes nothing but the caches of a core. -/
theorem State.translate_at {s t : State} {core : Option Nat} {ctx master plain : Nat} {va : DWord} {n : Need} {w : Where}
    (found : s.translate core ctx master plain va n = (.at_ w, t)) : t = { s with cores := t.cores } := by
  have leaf := s.leafFor_cores core ctx master va.toNat
  unfold State.translate at found
  split at found
  · cases found
  · generalize s.leafFor core ctx master va.toNat = r at leaf found
    obtain ⟨x, u⟩ := r
    cases x with
    | fault => cases found
    | deny q => cases found
    | absent => cases found
    | busy l => cases found
    | leaf e b =>
        suffices t = u by rw [this]; exact leaf
        dsimp only at found
        generalize (if n.w = true then replOrder plain e (va.toNat % 2 ^ b) else (replOrder plain e (va.toNat % 2 ^ b)).take 1) = need at found
        grind

/-! ### Placed, R275 -/

/-- A translated access as the place of a thread's: `va` is the address translated, `tva` the one computed. -/
def asPlaced (va tva : DWord) : Xlat × State → Placed × State
  | (.at_ w, s) => (.at_ w, s)
  | (.fault cz t, s) => (.fault cz tva (if t then some va else none), s)
  | (.busy l, s) => (.busy l, s)

theorem asPlaced_onNotes (va tva : DWord) (C P R) (r : Xlat × State) : asPlaced va tva (onNotes C P R r) = onNotes C P R (asPlaced va tva r) := by
  obtain ⟨x, u⟩ := r
  cases x <;> rfl

theorem asPlaced_state (va tva : DWord) (r : Xlat × State) : (asPlaced va tva r).2 = r.2 := by
  obtain ⟨x, u⟩ := r
  cases x <;> rfl

theorem asPlaced_at {va tva : DWord} {r : Xlat × State} {w : Where} {t : State} (found : asPlaced va tva r = (.at_ w, t)) : r = (.at_ w, t) := by
  obtain ⟨x, u⟩ := r
  cases x with
  | at_ v => cases found; rfl
  | fault cz f => cases found
  | busy l => cases found

section
variable (s : State) (k : Nat) (addr align : Nat) (n : Need)

/-- What a thread's access needs of its page. -/
def State.needOf : Need := { n with sys := s.isSys k, remote := s.fabricOk (s.crewTh k).launch }

/-- An access of a thread translated. -/
def State.xlat (va : DWord) (n : Need) : Xlat × State := s.translate (some (s.coreTh k)) (s.ctxTh k) (s.coreTh k) (s.plainTh k) va n

theorem State.place_misaligned (sp : Space) (h : addr % align ≠ 0) :
    s.place k sp addr align n = (.fault 0x12 (BitVec.ofNat 64 addr) none, s) := by
  unfold State.place
  exact if_pos h

theorem State.place_g (h : addr % align = 0) : s.place k .g addr align n =
    asPlaced (BitVec.ofNat 64 addr) (BitVec.ofNat 64 addr) (s.xlat k (BitVec.ofNat 64 addr) (s.needOf k n)) := by
  unfold State.place
  exact (if_neg (not_not.2 h)).trans rfl

theorem State.place_l (h : addr % align = 0) : s.place k .l addr align n =
    if addr + n.size > (s.laTh k).rcd.lstack then (.fault 0x11 (BitVec.ofNat 64 addr) none, s)
    else asPlaced (BitVec.ofNat 64 (s.frameBase k + addr)) (BitVec.ofNat 64 addr)
      (s.xlat k (BitVec.ofNat 64 (s.frameBase k + addr)) { s.needOf k n with frame := true, rtype := .own }) := by
  unfold State.place
  exact (if_neg (not_not.2 h)).trans rfl

theorem State.place_p (h : addr % align = 0) : s.place k .p addr align n =
    if addr + n.size > (s.laTh k).rcd.pscr then (.fault 0x11 (BitVec.ofNat 64 addr) none, s)
    else if s.admits (16 + s.plainTh k) (s.coreTh k) addr n.size n.w then (.at_ (.plainScratch (s.crewTh k).launch (s.plainTh k) addr), s)
    else (.fault 0x11 (BitVec.ofNat 64 addr) (some (BitVec.ofNat 64 addr)), s.denied (s.plainTh k) (some (s.ctxTh k))) := by
  unfold State.place
  exact (if_neg (not_not.2 h)).trans rfl

/-- The scratches of crews are placed without a look at memory. -/
theorem State.place_scratch (sp : Space) (scratch : sp = .s ∨ sp = .v) : (s.place k sp addr align n).2 = s := by
  unfold State.place
  rcases scratch with rfl | rfl
  · dsimp only
    split
    · rfl
    · split <;> rfl
  · dsimp only
    split
    · rfl
    · split
      · rfl
      · split
        · split
          · split <;> rfl
          · rfl
        · rfl

variable (sp : Space)

theorem State.place_noted (C P R) : (s.noted C P R).place k sp addr align n = onNotes C P R (s.place k sp addr align n) := by
  by_cases h : addr % align = 0
  · have global (va tva : DWord) (n : Need) : asPlaced va tva ((s.noted C P R).xlat k va n) = onNotes C P R (asPlaced va tva (s.xlat k va n)) :=
      (congrArg (asPlaced va tva) (s.translate_noted C P R _ _ _ _ va n)).trans (asPlaced_onNotes va tva C P R _)
    cases sp with
    | g =>
        rw [State.place_g _ _ _ _ _ h, State.place_g _ _ _ _ _ h]
        exact global _ _ _
    | l =>
        rw [State.place_l _ _ _ _ _ h, State.place_l _ _ _ _ _ h, apply_ite (onNotes C P R)]
        exact if_congr Iff.rfl rfl (global _ _ _)
    | s =>
        unfold State.place
        rw [apply_ite (onNotes C P R)]
        refine if_congr Iff.rfl rfl ?_
        dsimp only
        rw [apply_ite (onNotes C P R)]
        rfl
    | v =>
        unfold State.place
        dsimp only
        rw [if_neg (not_not.2 h), if_neg (not_not.2 h), apply_ite (onNotes C P R)]
        refine if_congr Iff.rfl rfl ?_
        rw [show (s.noted C P R).valleyMate (crewOf k) (addr / 2 ^ 21) = s.valleyMate (crewOf k) (addr / 2 ^ 21) from rfl]
        cases s.valleyMate (crewOf k) (addr / 2 ^ 21) with
        | none => rfl
        | some m =>
            dsimp only
            rw [apply_ite (onNotes C P R), apply_ite (onNotes C P R)]
            rfl
    | p =>
        rw [State.place_p _ _ _ _ _ h, State.place_p _ _ _ _ _ h, apply_ite (onNotes C P R), apply_ite (onNotes C P R)]
        exact if_congr Iff.rfl rfl (if_congr Iff.rfl rfl (congrArg (Prod.mk _) (s.denied_noted C P R _ _)))
  · rw [State.place_misaligned _ _ _ _ _ _ h, State.place_misaligned _ _ _ _ _ _ h]
    rfl

theorem State.looked_place : (s.place k sp addr align n).2.looked = s.looked := by
  by_cases h : addr % align = 0
  · cases sp with
    | g =>
        rw [State.place_g _ _ _ _ _ h, asPlaced_state]
        exact s.looked_translate _ _ _ _ _ _
    | l =>
        rw [State.place_l _ _ _ _ _ h]
        split
        · rfl
        · rw [asPlaced_state]
          exact s.looked_translate _ _ _ _ _ _
    | s => rw [State.place_scratch _ _ _ _ _ _ (.inl rfl)]
    | v => rw [State.place_scratch _ _ _ _ _ _ (.inr rfl)]
    | p =>
        rw [State.place_p _ _ _ _ _ h]
        split
        · rfl
        · split
          · rfl
          · exact s.looked_denied _ _
  · rw [State.place_misaligned _ _ _ _ _ _ h]

end

/-- An access that has a place has changed nothing but the caches of a core. -/
theorem State.place_at {s t : State} {k addr align : Nat} {n : Need} {sp : Space} {w : Where}
    (found : s.place k sp addr align n = (.at_ w, t)) : t = { s with cores := t.cores } := by
  have same (h : (s.place k sp addr align n).2 = s) : t = { s with cores := t.cores } := by
    rw [found] at h
    rw [show t = s from h]
  by_cases h : addr % align = 0
  · cases sp with
    | g =>
        rw [State.place_g _ _ _ _ _ h] at found
        exact State.translate_at (asPlaced_at found)
    | l =>
        rw [State.place_l _ _ _ _ _ h] at found
        split at found
        · cases found
        · exact State.translate_at (asPlaced_at found)
    | s => exact same (s.place_scratch k addr align n _ (.inl rfl))
    | v => exact same (s.place_scratch k addr align n _ (.inr rfl))
    | p =>
        rw [State.place_p _ _ _ _ _ h] at found
        split at found
        · cases found
        · split at found
          · cases found; rfl
          · cases found
  · rw [State.place_misaligned _ _ _ _ _ _ h] at found
    cases found

/-! ### Quarters, 05 R123, 10 R271 -/

/-- What is found of an access of 64 bytes, in a state with other notes of the issue logic. -/
def onNotes₂ {α β : Type} (C : List (Nat × Nat)) (P : List (Nat × Part)) (R : List (Nat × Row)) (r : α × β × State) : α × β × State :=
  (r.1, r.2.1, r.2.2.noted C P R)

/-- One more quarter placed, where those before it have been. -/
def quarterStep (k : Nat) (sp : Space) (addr : Nat) (n : Need) (acc : Placed × List Where × State) (i : Nat) : Placed × List Where × State :=
  match acc.1 with
  | .at_ _ => (match acc.2.2.place k sp (addr + 16 * i) 16 { n with size := 16 } with
      | (.at_ w, s) => (.at_ w, acc.2.1 ++ [w], s)
      | (.fault c _ t, s) => (.fault c (BitVec.ofNat 64 addr) t, acc.2.1, s)
      | (x, s) => (x, acc.2.1, s))
  | _ => acc

/-- The quarters of an access that is placed as a whole. -/
def wholeQuarters : Placed × State → Placed × List Where × State
  | (.at_ w, s) => (.at_ w, (List.range 4).map fun i => w.shift (16 * i), s)
  | (x, s) => (x, [], s)

section
variable (s : State) (k : Nat) (addr : Nat) (n : Need) (sp : Space)

theorem State.quarters_l : s.quarters k .l addr n =
    if addr % 64 ≠ 0 then (.fault 0x12 (BitVec.ofNat 64 addr) none, [], s)
    else if addr + 64 > (s.laTh k).rcd.lstack then (.fault 0x11 (BitVec.ofNat 64 addr) none, [], s)
    else [0, 1, 2, 3].foldl (quarterStep k .l addr n) (.at_ (.mem 0), [], s) := rfl

theorem State.quarters_whole (h : sp ≠ .l) : s.quarters k sp addr n = wholeQuarters (s.place k sp addr 64 n) := by
  cases sp with
  | l => exact absurd rfl h
  | g | s | v | p => rfl

theorem State.quarters_misaligned (h : addr % 64 ≠ 0) : s.quarters k sp addr n = (.fault 0x12 (BitVec.ofNat 64 addr) none, [], s) := by
  by_cases hl : sp = .l
  · subst hl
    rw [State.quarters_l, if_pos h]
  · rw [State.quarters_whole _ _ _ _ _ hl, State.place_misaligned _ _ _ _ _ _ h]
    rfl

theorem quarterStep_noted (C P R) (acc : Placed × List Where × State) (i : Nat) :
    quarterStep k sp addr n (onNotes₂ C P R acc) i = onNotes₂ C P R (quarterStep k sp addr n acc i) := by
  obtain ⟨x, ws, u⟩ := acc
  cases x with
  | at_ w =>
      unfold quarterStep
      dsimp only [onNotes₂]
      rw [State.place_noted]
      generalize u.place k sp (addr + 16 * i) 16 { n with size := 16 } = r
      obtain ⟨y, v⟩ := r
      cases y <;> rfl
  | fault | wait | busy => rfl

theorem looked_quarterStep (acc : Placed × List Where × State) (i : Nat) : (quarterStep k sp addr n acc i).2.2.looked = acc.2.2.looked := by
  obtain ⟨x, ws, u⟩ := acc
  cases x with
  | at_ w =>
      have placed := u.looked_place k (addr + 16 * i) 16 { n with size := 16 } sp
      unfold quarterStep
      dsimp only
      generalize u.place k sp (addr + 16 * i) 16 { n with size := 16 } = r at placed
      obtain ⟨y, v⟩ := r
      cases y <;> exact placed
  | fault | wait | busy => rfl

theorem State.quarters_noted (C P R) : (s.noted C P R).quarters k sp addr n = onNotes₂ C P R (s.quarters k sp addr n) := by
  by_cases hl : sp = .l
  · subst hl
    have steps (l : List Nat) (acc : Placed × List Where × State) :
        l.foldl (quarterStep k .l addr n) (onNotes₂ C P R acc) = onNotes₂ C P R (l.foldl (quarterStep k .l addr n) acc) := by
      induction l generalizing acc with
      | nil => rfl
      | cons i l ih => rw [List.foldl_cons, List.foldl_cons, quarterStep_noted, ih]
    rw [State.quarters_l, State.quarters_l, apply_ite (onNotes₂ C P R), apply_ite (onNotes₂ C P R)]
    exact if_congr Iff.rfl rfl (if_congr Iff.rfl rfl (steps _ (.at_ (.mem 0), [], s)))
  · rw [State.quarters_whole _ _ _ _ _ hl, State.quarters_whole _ _ _ _ _ hl, State.place_noted]
    generalize s.place k sp addr 64 n = r
    obtain ⟨y, v⟩ := r
    cases y <;> rfl

theorem State.looked_quarters : (s.quarters k sp addr n).2.2.looked = s.looked := by
  by_cases hl : sp = .l
  · subst hl
    rw [State.quarters_l]
    split
    · rfl
    · split
      · rfl
      · exact foldl_keeps (fun acc : Placed × List Where × State => acc.2.2.looked) _ (looked_quarterStep k addr n .l) _ _
  · have placed := s.looked_place k addr 64 n sp
    rw [State.quarters_whole _ _ _ _ _ hl]
    generalize s.place k sp addr 64 n = r at placed
    obtain ⟨y, v⟩ := r
    cases y <;> exact placed

end

theorem quarterStep_at {k addr i : Nat} {n : Need} {sp : Space} {acc : Placed × List Where × State} {w : Where}
    (found : (quarterStep k sp addr n acc i).1 = .at_ w) : (∃ v, acc.1 = .at_ v)
      ∧ (quarterStep k sp addr n acc i).2.1.length = acc.2.1.length + 1
      ∧ (quarterStep k sp addr n acc i).2.2 = { acc.2.2 with cores := (quarterStep k sp addr n acc i).2.2.cores } := by
  obtain ⟨x, ws, u⟩ := acc
  cases x with
  | at_ v =>
      unfold quarterStep at found ⊢
      dsimp only at found ⊢
      cases placed : u.place k sp (addr + 16 * i) 16 { n with size := 16 } with
      | mk y t =>
          rw [placed] at found
          cases y with
          | at_ z => exact ⟨⟨v, rfl⟩, List.length_append, State.place_at placed⟩
          | fault | wait | busy => cases found
  | fault | wait | busy => cases found

/-- An access of 64 bytes that has its places has four, and has changed nothing but the caches of a core. -/
theorem State.quarters_at {s t : State} {k addr : Nat} {n : Need} {sp : Space} {w : Where} {ws : List Where}
    (found : s.quarters k sp addr n = (.at_ w, ws, t)) : ws.length = 4 ∧ t = { s with cores := t.cores } := by
  by_cases hl : sp = .l
  · subst hl
    have steps (l : List Nat) (acc : Placed × List Where × State) (h : (l.foldl (quarterStep k .l addr n) acc).1 = .at_ w) :
        (l.foldl (quarterStep k .l addr n) acc).2.1.length = acc.2.1.length + l.length
          ∧ (l.foldl (quarterStep k .l addr n) acc).2.2
            = { acc.2.2 with cores := (l.foldl (quarterStep k .l addr n) acc).2.2.cores } ∧ ∃ v, acc.1 = .at_ v := by
      induction l generalizing acc with
      | nil => exact ⟨rfl, rfl, w, h⟩
      | cons i l ih =>
          obtain ⟨length, state, v, placed⟩ := ih _ h
          obtain ⟨before, one, cores⟩ := quarterStep_at placed
          refine ⟨?_, ?_, before⟩
          · rw [List.foldl_cons, length, one, List.length_cons, Nat.add_assoc, Nat.add_comm 1]
          · rw [List.foldl_cons, state, cores]
    rw [State.quarters_l] at found
    split at found
    · cases found
    · split at found
      · cases found
      · obtain ⟨length, state, -⟩ := steps [0, 1, 2, 3] (.at_ (.mem 0), [], s) (by rw [found])
        rw [found] at length state
        exact ⟨length, state⟩
  · rw [State.quarters_whole _ _ _ _ _ hl] at found
    cases placed : s.place k sp addr 64 n with
    | mk y u =>
        rw [placed] at found
        cases y with
        | at_ z =>
            cases found
            exact ⟨rfl, State.place_at placed⟩
        | fault | wait | busy => cases found

end Sys2Proof.Machine
end

section
/-! SUPPORT. A word that makes an access: what it comes to by what is found at its place (11 R275), and the accesses issued (01 R32). -/

namespace Sys2Proof.Machine

/-! ### Causes raised after a look at memory -/

/-- A cause with a handler, raised in a state that a look at memory has left. -/
theorem Ready.trapsAt {s i h k c} (r : Ready s i h k c) {block : State → Nat → Bool} {eff : State → Nat → Eff} {x : Raise} {u : State}
    (he : exec i s = .next (s.issueEach i block eff)) (hb : block s k = false) (looked : u.looked = s.looked)
    (hh : s.handled k x.cause = true) (hd : ∀ C P R, eff (s.noted C P R) k = .trap x (u.noted C P R)) : Leaves s i k (u.trap k x) := by
  have same {α : Type} (f : State → α) (ff : ∀ y : State, f y.looked = f y := by intro y; rfl) : f u = f s := by
    rw [← ff u, looked, ff s]
  have stands : Stands u i h k c :=
    ⟨r.head, (same State.front).trans r.front, r.alone,
      (same fun y => (y.convoys.drop 1).all fun d => !d.isOf c.part c.lane && !d.mem.contains k).trans r.only,
      (same fun y => (y.th k).pc).trans r.here, (same fun y => (y.th k).jump).trans r.fresh, (same fun y => y.live k).trans r.live,
      (same fun y => (y.pt c.part).rgu).trans r.rgu, (same fun y => y.rows.all fun x => x.2.regs.all fun z => !z.2.reserve).trans r.reserve⟩
  have unreserved' (C P) {R} (h : (s.noted C P R).unreserved) : (u.noted C P R).unreserved := h
  refine r.leaves he hb fun C P R unreserved => ?_
  rw [hd]
  exact stands.trap ((same fun y => y.handled k x.cause).trans hh) C P R unreserved

theorem poisoned_of_looked {s t : State} (looked : t.looked = s.looked) (w : Where) (n : Nat) : w.poisoned t n = w.poisoned s n := by
  have same (y : State) : w.poisoned y.looked n = w.poisoned y n := by cases w <;> rfl
  rw [← same t, looked, same s]

theorem Where.poisoned_noted (w : Where) (s : State) (C P R) (n : Nat) : w.poisoned (s.noted C P R) n = w.poisoned s n := by
  cases w <;> rfl

/-! ### One access -/

/-- A word makes one access, of the thread's to its address, and goes on by what `go` says where it has a place; nothing but
a remote place holds it back. -/
structure Accesses (s : State) (i : Instr) (h : Head) (k : Nat) (c : Convoy) (sp : Space) (addr : Nat) (need : Need)
    (go : Where → State → Eff) : Prop extends Ready s i h k c where
  issues : ∃ block eff, exec i s = .next (s.issueEach i block eff)
    ∧ ((∀ d p, (s.place k sp addr need.size need).1 ≠ .at_ (.remote d p)) → block s k = false)
    ∧ ∀ C P R, eff (s.noted C P R) k = (s.noted C P R).accessEff k sp addr need.r need go

section
variable {s t : State} {i : Instr} {h : Head} {k : Nat} {c : Convoy} {sp : Space} {addr : Nat} {need : Need} {go : Where → State → Eff}
  (x : Accesses s i h k c sp addr need go)
include x

theorem Accesses.completes {w : Where} (found : s.place k sp addr need.size need = (.at_ w, t)) (near : ∀ d p, w ≠ .remote d p)
    (sound : need.r = true → w.poisoned s need.size = false) {u : State}
    (does : ∀ C P R, Kept (t.noted C P R) k c → ∃ v, go w (t.noted C P R) = .done v ∧ Like v u k ∧ Kept v k c) : Completes s i k u := by
  obtain ⟨block, eff, he, hb, heff⟩ := x.issues
  refine x.toReady.does he (hb fun d p e => near d p ?_) u fun C P R kept _ => ?_
  · rw [found] at e
    exact Placed.at_.inj e
  · have cores := State.place_at found
    have looked := s.looked_place k addr need.size need sp
    rw [found] at looked
    have bad : w.poisoned (t.noted C P R) need.size = w.poisoned s need.size := by
      rw [Where.poisoned_noted, poisoned_of_looked looked]
    have kept' : Kept (t.noted C P R) k c := by
      rw [cores]
      exact ⟨kept.front, kept.present, kept.unreserved⟩
    obtain ⟨v, done, like⟩ := does C P R kept'
    refine ⟨v, ?_, like⟩
    rw [heff, State.accessEff, State.place_noted, found]
    simp only [onNotes, bad]
    rw [if_neg (by simpa using sound), done]

theorem Accesses.refused {cz : BitVec 8} {tva : DWord} {tf : Option DWord} (found : s.place k sp addr need.size need = (.fault cz tva tf, t))
    (handled : s.handled k cz = true) : Leaves s i k (t.trap k ⟨cz, tva, tf, none⟩) := by
  obtain ⟨block, eff, he, hb, heff⟩ := x.issues
  have looked := s.looked_place k addr need.size need sp
  rw [found] at looked
  refine x.toReady.trapsAt he (hb fun d p e => ?_) looked handled fun C P R => ?_
  · rw [found] at e
    cases e
  · rw [heff, State.accessEff, State.place_noted, found]
    rfl

theorem Accesses.misaligned (off : addr % need.size ≠ 0) (handled : s.handled k 0x12 = true) :
    Leaves s i k (s.trap k ⟨0x12, BitVec.ofNat 64 addr, none, none⟩) :=
  x.refused (s.place_misaligned k addr need.size need sp off) handled

theorem Accesses.poisoned {w : Where} (found : s.place k sp addr need.size need = (.at_ w, t)) (reads : need.r = true)
    (bad : w.poisoned s need.size = true) (handled : s.handled k 0x30 = true) :
    Leaves s i k (t.trap k ⟨0x30, BitVec.ofNat 64 addr, none, none⟩) := by
  obtain ⟨block, eff, he, hb, heff⟩ := x.issues
  have looked := s.looked_place k addr need.size need sp
  rw [found] at looked
  refine x.toReady.trapsAt he (hb fun d p e => ?_) looked handled fun C P R => ?_
  · rw [found] at e
    rw [Placed.at_.inj e] at bad
    cases bad
  · rw [heff, State.accessEff, State.place_noted, found]
    refine if_pos ?_
    rw [reads, Where.poisoned_noted, poisoned_of_looked looked, bad]
    rfl

end

/-! ### An access issued, 01 R32 -/

/-- A thread with other eligible registers. -/
def Thread.withElig (t : Thread) (e : List Elig) : Thread := { t with elig := e }

theorem Thread.endElig_foldl (gs : List Nat) (t : Thread) : ∃ e, gs.foldl Thread.endElig t = t.withElig e := by
  induction gs generalizing t with
  | nil => exact ⟨t.elig, rfl⟩
  | cons g gs ih =>
      obtain ⟨e, he⟩ := ih (t.endElig g)
      exact ⟨e, he⟩

/-- The thread of an access that is issued: its flag up, the bytes of its frame that it stores its own (04 R104). -/
def Op.begun (o : Op) (t : Thread) : Thread :=
  match o.kind, o.frame with
  | .store, some f => (t.cfUp o.flag).wroteFrame f o.size
  | _, _ => t.cfUp o.flag

/-- An access of a thread to a line that none but the thread has leased. -/
def Op.unleased (o : Op) (s : State) : Prop := ∀ l j, o.loc.line = some l → s.leaseHolder l = some j → j = o.th

theorem State.probe_unleased {s : State} {id : Nat} {o : Op} (there : Tab.find id s.ops = some o) (own : o.unleased s) : s.probe id = s := by
  unfold State.probe
  rw [there]
  cases hl : o.loc.line with
  | none => simp [hl]
  | some l =>
      cases hj : s.leaseHolder l with
      | none => simp [hl, hj]
      | some j => simp [hl, hj, own l j hl hj]

theorem Thread.wroteFrame_of_fresh {t : Thread} (h : t.fresh = []) (f n : Nat) : t.wroteFrame f n = t := by
  unfold Thread.wroteFrame
  rw [h, List.flatMap_nil, ← h]

theorem State.leaseHolder_setTh (s : State) (k line : Nat) (f : Thread → Thread) (hf : ∀ t, (f t).leases = t.leases) :
    (s.setTh k f).leaseHolder line = s.leaseHolder line := by
  have leases (l : List (Nat × Thread)) : (l.findSome? fun (k, t) => if t.leases.any fun y => y.line == line then some k else none)
      = (mapTab Thread.leases l).findSome? fun (k, ls) => if ls.any fun y => y.line == line then some k else none := by
    rw [mapTab, List.findSome?_map]
    rfl
  exact (leases _).trans ((congrArg _ (mapTab_modify Thread.leases k f hf s.threads)).trans (leases _).symm)

theorem Thread.cfUp_leases (t : Thread) (f : Option Nat) : (t.cfUp f).leases = t.leases := by cases f <;> rfl

/-- An access is pending: its flag and what was eligible of its registers aside, nothing of its thread has changed. -/
structure Begun (o : Op) (f : Thread → Thread) : Prop where
  regs : ∀ t, (f t).regs = (o.begun t).regs
  flow : ∀ t, (f t).flow = (o.begun t).flow
  jump : ∀ t, (f t).jump = (o.begun t).jump

theorem Begun.like {o : Op} {f : Thread → Thread} (begun : Begun o f) {u : State} {c : Convoy} (kept : Kept u o.th c) :
    Like (u.setTh o.th f) (u.setTh o.th o.begun) o.th ∧ Kept (u.setTh o.th f) o.th c := by
  refine ⟨⟨?_, ?_, ?_, fun j hj => ?_, rfl⟩, kept.front, State.setTh_present kept.present f, kept.unreserved⟩
  · rw [State.th_setTh_self _ kept.present, State.th_setTh_self _ kept.present, begun.regs]
  · rw [State.th_setTh_self _ kept.present, State.th_setTh_self _ kept.present, begun.flow]
  · rw [State.th_setTh_self _ kept.present, State.th_setTh_self _ kept.present, begun.jump]
  · rw [State.th_setTh_ne _ hj, State.th_setTh_ne _ hj]

theorem State.setTh_setTh (s : State) (k : Nat) (f g : Thread → Thread) : (s.setTh k f).setTh k g = s.setTh k fun t => g (f t) := by
  simp only [State.setTh, Tab.modify_modify]

/-- The last of what an issued access does to its thread, after its flag has gone up. -/
theorem State.noteFrame_begun (u : State) (gs : List Nat) (o : Op) :
    ∃ f, ((u.setTh o.th fun t => (gs.foldl Thread.endElig t).cfUp o.flag).noteFrame o) = u.setTh o.th f ∧ Begun o f := by
  have up (t : Thread) : ∃ e, (gs.foldl Thread.endElig t).cfUp o.flag = (t.cfUp o.flag).withElig e := by
    obtain ⟨e, he⟩ := Thread.endElig_foldl gs t
    rw [he]
    cases o.flag <;> exact ⟨e, rfl⟩
  have plain (h : o.begun = fun t => t.cfUp o.flag) : Begun o fun t => (gs.foldl Thread.endElig t).cfUp o.flag := by
    refine ⟨fun t => ?_, fun t => ?_, fun t => ?_⟩
    all_goals
      obtain ⟨e, he⟩ := up t
      rw [he, h]
      rfl
  unfold State.noteFrame
  split
  · next f hk hf =>
    have begun (t : Thread) : o.begun t = (t.cfUp o.flag).wroteFrame f o.size := by
      unfold Op.begun
      rw [hk, hf]
    refine ⟨_, State.setTh_setTh _ _ _ _, fun t => ?_, fun t => ?_, fun t => ?_⟩
    all_goals
      obtain ⟨e, he⟩ := up t
      rw [he, begun]
      split
      · next empty => rw [Thread.wroteFrame_of_fresh (t := t.cfUp o.flag) (List.isEmpty_iff.1 empty)]; rfl
      · rfl
  · next no =>
    refine ⟨_, rfl, plain (funext fun t => ?_)⟩
    unfold Op.begun
    split
    · next f hk hf => exact absurd hf (no f hk)
    · rfl

/-- A local access begun. -/
theorem State.beginAccess_like {v : State} {c : Convoy} (gs : List Nat) (o : Op) (kept : Kept v o.th c) (near : ∀ d p, o.loc ≠ .remote d p)
    (own : o.unleased v) : ∃ w, v.beginAccess gs o = .done w
      ∧ Like w (State.setTh { v with ops := Tab.put v.seq { o with pend := gs, cyc := v.cycle } v.ops, seq := v.seq + 1 } o.th o.begun) o.th
      ∧ Kept w o.th c := by
  let u : State := { v with ops := Tab.put v.seq { o with pend := gs, cyc := v.cycle } v.ops, seq := v.seq + 1 }
  have issued : (v.claim o.th gs).issueOp { o with pend := gs } = u.setTh o.th fun t => (gs.foldl Thread.endElig t).cfUp o.flag := by
    refine (State.probe_unleased (o := { o with pend := gs, cyc := v.cycle }) ?_ fun l j hl hj => own l j hl ?_).trans (u.setTh_setTh o.th _ _)
    · exact (Tab.find_put _ _ _ _).trans (if_pos rfl)
    · have elig (t : Thread) : (gs.foldl Thread.endElig t).leases = t.leases := by
        obtain ⟨e, he⟩ := Thread.endElig_foldl gs t
        rw [he]
        rfl
      rw [← hj]
      exact ((v.leaseHolder_setTh o.th l _ elig).symm.trans ((v.claim o.th gs).leaseHolder_setTh o.th l _ fun t => t.cfUp_leases o.flag).symm)
  obtain ⟨f, hf, begun⟩ := u.noteFrame_begun gs o
  refine ⟨u.setTh o.th f, ?_, begun.like ⟨kept.front, kept.present, kept.unreserved⟩⟩
  rw [← hf, ← issued]
  unfold State.beginAccess
  split
  · next d p hloc => exact absurd hloc (near d p)
  · rfl

/-! ### What an atomic zeroes of a fresh frame, 04 R104 -/

/-- What an access that is issued reads of a state. -/
def State.queue (s : State) : List (Nat × Op) × Nat × Nat × List Convoy × List (Nat × Row) × (Nat → Option Nat) × (Nat → Bool) :=
  (s.ops, s.seq, s.cycle, s.convoys, s.rows, s.leaseHolder, fun j => (Tab.find j s.threads).isSome)

theorem State.queue_homeStore (s : State) (pa : Nat) (bs : List Byte) : (s.homeStore pa bs).queue = s.queue := by
  have beside := congrArg State.queue (s.besideMem_homeStore pa bs)
  exact beside

theorem State.queue_locWrite (s : State) (w : Where) (bs : List Byte) : (s.locWrite none w bs).queue = s.queue := by
  cases w with
  | mem a => exact s.queue_homeStore a bs
  | repl l => exact foldl_keeps State.queue _ (fun u a => u.queue_homeStore a bs) l s
  | host | remote | crewScratch | plainScratch => rfl

theorem State.queue_setTh (s : State) (k : Nat) (f : Thread → Thread) (hf : ∀ t, (f t).leases = t.leases) : (s.setTh k f).queue = s.queue := by
  have leases : (s.setTh k f).leaseHolder = s.leaseHolder := funext fun l => s.leaseHolder_setTh k l f hf
  have there : (fun j => (Tab.find j (s.setTh k f).threads).isSome) = fun j => (Tab.find j s.threads).isSome :=
    funext fun j => s.find_setTh_isSome k j f
  unfold State.queue
  rw [leases, there]
  rfl

theorem State.queue_zeroNow (s : State) (k : Nat) (m : MemF) (addr n : Nat) (w : Where) : (s.zeroNow k m addr n w).queue = s.queue := by
  unfold State.zeroNow
  split
  · rfl
  · exact foldl_keeps State.queue _ (fun u i => (State.queue_setTh _ k (fun t => t.wroteFrame (addr + i) 1) fun _ => rfl).trans (u.queue_locWrite _ _)) _ s

theorem State.locWrite_noted (s : State) (C P R) (w : Where) (bs : List Byte) :
    (s.noted C P R).locWrite none w bs = (s.locWrite none w bs).noted C P R := by
  cases w with
  | mem a => exact s.homeStore_noted C P R a bs
  | repl l =>
      have each (l : List Nat) (u : State) : l.foldl (fun s a => s.homeStore a bs) (u.noted C P R) = (l.foldl (fun s a => s.homeStore a bs) u).noted C P R := by
        induction l generalizing u with
        | nil => rfl
        | cons a l ih => rw [List.foldl_cons, List.foldl_cons, State.homeStore_noted, ih]
      exact each l s
  | host | remote | crewScratch | plainScratch => rfl

theorem State.zeroNow_noted (s : State) (C P R) (k : Nat) (m : MemF) (addr n : Nat) (w : Where) :
    (s.noted C P R).zeroNow k m addr n w = (s.zeroNow k m addr n w).noted C P R := by
  have each (l : List Nat) (u : State) :
      l.foldl (fun s i => (s.locWrite none (w.shift i) [0]).setTh k fun t => t.wroteFrame (addr + i) 1) (u.noted C P R)
        = (l.foldl (fun s i => (s.locWrite none (w.shift i) [0]).setTh k fun t => t.wroteFrame (addr + i) 1) u).noted C P R := by
    induction l generalizing u with
    | nil => rfl
    | cons i l ih =>
        rw [List.foldl_cons, List.foldl_cons, State.locWrite_noted]
        exact ih ((u.locWrite none (w.shift i) [0]).setTh k fun t => t.wroteFrame (addr + i) 1)
  cases w with
  | remote => rfl
  | mem | repl | host | crewScratch | plainScratch => exact each _ s

/-! ### LD, ST and ATOM, R276 to R282 -/

/-- An access pending beside other notes of the issue logic. -/
theorem Like.pending_noted (y : State) (C P R) (ops : List (Nat × Op)) (n k : Nat) (f : Thread → Thread) :
    Like (State.setTh { y.noted C P R with ops := ops, seq := n } k f) (State.setTh { y with ops := ops, seq := n } k f) k :=
  ⟨rfl, rfl, rfl, fun _ _ => rfl, rfl⟩

section
variable {s t : State} {i : Instr} {h : Head} {k : Nat} {c : Convoy} {sp : Space} {addr : Nat} {need : Need} {go : Where → State → Eff}

/-- A word whose access is found at a near place of its own, where nothing is poisoned, leaves it pending; `pre` is what it does to
the state before, to nothing that an access pending reads. -/
theorem Accesses.issued (x : Accesses s i h k c sp addr need go) (gs : List Nat) (o : Op) (pre : State → State) {w : Where}
    (found : s.place k sp addr need.size need = (.at_ w, t)) (near : ∀ d p, w ≠ .remote d p)
    (sound : need.r = true → w.poisoned s need.size = false) (own : ∀ l j, w.line = some l → s.leaseHolder l = some j → j = k)
    (th : o.th = k) (loc : o.loc = w) (keeps : ∀ u, (pre u).queue = u.queue) (noted : ∀ u C P R, pre (u.noted C P R) = (pre u).noted C P R)
    (goes : ∀ C P R, go w (t.noted C P R) = (pre (t.noted C P R)).beginAccess gs o) :
    Completes s i k (State.setTh { pre { s with cores := t.cores } with
      ops := Tab.put s.seq { o with pend := gs, cyc := s.cycle } s.ops, seq := s.seq + 1 } k o.begun) := by
  refine x.completes found near sound fun C P R kept => ?_
  have cores := State.place_at found
  obtain ⟨ops, seq, cycle, convoys, rows, leases, there⟩ :
      (pre t).ops = s.ops ∧ (pre t).seq = s.seq ∧ (pre t).cycle = s.cycle ∧ (pre t).convoys = s.convoys ∧ (pre t).rows = s.rows
        ∧ (pre t).leaseHolder = s.leaseHolder ∧ (fun j => (Tab.find j (pre t).threads).isSome) = fun j => (Tab.find j s.threads).isSome := by
    have queue : (pre t).queue = s.queue := by rw [keeps, cores]; rfl
    simpa only [State.queue, Prod.mk.injEq] using queue
  subst th
  have kept' : Kept ((pre t).noted C P R) o.th c := by
    refine ⟨?_, ?_, kept.unreserved⟩
    · show (pre t).convoys.head? = _
      rw [convoys]
      exact x.front
    · show (Tab.find o.th (pre t).threads).isSome = true
      rw [congrFun there]
      exact x.toReady.present
  obtain ⟨v, done, like, rest⟩ := State.beginAccess_like gs o kept' (by rw [loc]; exact near) (by
    intro l j hl hj
    rw [loc] at hl
    exact own l j hl ((congrFun leases l).symm.trans hj))
  refine ⟨v, ?_, like.trans ?_, rest⟩
  · rw [goes, noted, done]
  · rw [show pre { s with cores := t.cores } = pre t by rw [← cores], ← ops, ← seq, ← cycle]
    exact Like.pending_noted (pre t) C P R _ _ _ _

end

end Sys2Proof.Machine
end

section
/-! SUPPORT. AFLD and AFST issued: four accesses of 16 bytes, checked as a whole (10 R271, 05 R123). -/

namespace Sys2Proof.Machine

/-! ### Four accesses of one, 05 R123 -/

/-- The quarter `n` of an access of 64 bytes, at its place; `g` is the first one's number. -/
def Op.quarter (o : Op) (g n : Nat) (w : Where) : Op :=
  { o with loc := w, size := 16, data := (o.data.drop (16 * n)).take 16, dst := o.dst.map (· + 4 * n), group := o.flag.map fun _ => g
           frame := o.frame.map (· + 16 * n)
           zero := (o.zero.filter fun i => decide (16 * n ≤ i) && decide (i < 16 * n + 16)).map (· - 16 * n) }

/-- The part of an access of 64 bytes that a run of its quarters is. -/
def Op.part (o : Op) (g : Nat) (x : Where × Nat × Nat) : Op :=
  { o with loc := x.1, size := x.2.2, data := (o.data.drop x.2.1).take x.2.2, dst := o.dst.map (· + x.2.1 / 4), group := o.flag.map fun _ => g
           frame := o.frame.map (· + x.2.1)
           zero := (o.zero.filter fun i => decide (x.2.1 ≤ i) && decide (i < x.2.1 + x.2.2)).map (· - x.2.1) }

theorem Op.part_quarter (o : Op) (g n : Nat) (w : Where) : o.part g (w, 16 * n, 16) = o.quarter g n w := by
  have words : 16 * n / 4 = 4 * n := by omega
  unfold Op.part Op.quarter
  rw [words]

/-- The accesses pending with the quarters, numbered from `g`. -/
def Op.quartered (o : Op) (gs : List Nat) (g cycle : Nat) (ws : List Where) (ops : List (Nat × Op)) : List (Nat × Op) :=
  (List.range 4).foldl (fun l n => Tab.put (g + n) { o.quarter g n (ws.getD n (.mem 0)) with pend := gs, cyc := cycle } l) ops

/-- Whether a place is on another device. -/
def Where.far : Where → Bool
  | .remote _ _ => true
  | _ => false

theorem Where.far_eq_false {w : Where} : w.far = false ↔ ∀ d p, w ≠ .remote d p := by
  cases w <;> simp [Where.far]

theorem Where.follows_near {v : Where} (near : v.far = false) (w : Where) (n : Nat) : w.follows v n = false := by
  cases v with
  | remote => cases near
  | mem | repl | host | crewScratch | plainScratch => rfl

theorem quarterRuns_near {a b c d : Where} (ha : a.far = false) (hb : b.far = false) (hc : c.far = false) :
    quarterRuns [a, b, c, d] = [(a, 16 * 0, 16), (b, 16 * 1, 16), (c, 16 * 2, 16), (d, 16 * 3, 16)] := by
  simp [quarterRuns, List.range_succ, Where.follows_near, ha, hb, hc]

/-- Accesses of a thread to lines that none but the thread has leased probe nothing. -/
theorem State.newOps_unleased (f : Op → Op) (l : List Op) (u : State) (own : ∀ o ∈ l, (f o).unleased u) :
    l.foldl (fun s o => (s.newOp (f o)).probe s.seq) u = l.foldl (fun s o => s.newOp (f o)) u := by
  induction l generalizing u with
  | nil => rfl
  | cons o l ih =>
      have first : (u.newOp (f o)).probe u.seq = u.newOp (f o) :=
        State.probe_unleased (o := { f o with cyc := u.cycle }) ((Tab.find_put _ _ _ _).trans (if_pos rfl)) (own o List.mem_cons_self)
      rw [List.foldl_cons, List.foldl_cons, first]
      exact ih (u.newOp (f o)) fun p hp => own p (List.mem_cons_of_mem o hp)

/-- The quarters of an access that has its places near, where nothing is poisoned, begun. -/
theorem State.beginQuarters_near {v : State} {c : Convoy} {a b p q : Where} (gs : List Nat) (o : Op) (kept : Kept v o.th c)
    (near : ∀ w ∈ [a, b, p, q], ∀ d x, w ≠ .remote d x)
    (own : ∀ w ∈ [a, b, p, q], ∀ l j, w.line = some l → v.leaseHolder l = some j → j = o.th) {nd : Need} {addr : Nat} {x : Where}
    {u : State} (found : u.quarters o.th o.space addr nd = (.at_ x, [a, b, p, q], v))
    (sound : (nd.r && [a, b, p, q].any fun w => w.poisoned v 16) = false) :
    ∃ w, u.beginQuarters o.th gs addr nd o = .done w
      ∧ Like w (State.setTh { v with ops := o.quartered gs v.seq v.cycle [a, b, p, q] v.ops, seq := v.seq + 4 } o.th o.begun) o.th
      ∧ Kept w o.th c := by
  have far (w : Where) (hw : w ∈ [a, b, p, q]) : w.far = false := Where.far_eq_false.2 (near w hw)
  have runs : quarterRuns [a, b, p, q] = [(a, 16 * 0, 16), (b, 16 * 1, 16), (p, 16 * 2, 16), (q, 16 * 3, 16)] :=
    quarterRuns_near (far a (by simp)) (far b (by simp)) (far p (by simp))
  let y : State := { v with ops := o.quartered gs v.seq v.cycle [a, b, p, q] v.ops, seq := v.seq + 4 }
  obtain ⟨f, hf, begun⟩ := y.noteFrame_begun gs o
  refine ⟨y.setTh o.th f, ?_, begun.like ⟨kept.front, kept.present, kept.unreserved⟩⟩
  have leases : (v.claim o.th gs).leaseHolder = v.leaseHolder := funext fun l => v.leaseHolder_setTh o.th l _ fun t => by
    obtain ⟨e, he⟩ := Thread.endElig_foldl gs t
    rw [he]
    rfl
  have issued : [o.quarter v.seq 0 a, o.quarter v.seq 1 b, o.quarter v.seq 2 p, o.quarter v.seq 3 q].foldl
      (fun s x => (s.newOp { x with pend := gs }).probe s.seq) (v.claim o.th gs) = y.claim o.th gs := by
    rw [State.newOps_unleased (fun x => { x with pend := gs })]
    · rfl
    · have free (n : Nat) (w : Where) (hw : w ∈ [a, b, p, q]) : Op.unleased { o.quarter v.seq n w with pend := gs } (v.claim o.th gs) :=
        fun l j hl hj => own w hw l j hl ((congrFun leases l).symm.trans hj)
      simp only [List.forall_mem_cons]
      exact ⟨free 0 a (by simp), free 1 b (by simp), free 2 p (by simp), free 3 q (by simp), List.forall_mem_nil _⟩
  have parts : [(a, 16 * 0, 16), (b, 16 * 1, 16), (p, 16 * 2, 16), (q, 16 * 3, 16)].map (o.part v.seq)
      = [o.quarter v.seq 0 a, o.quarter v.seq 1 b, o.quarter v.seq 2 p, o.quarter v.seq 3 q] := by
    simp only [List.map_cons, List.map_nil, Op.part_quarter]
  rw [← parts] at issued
  unfold State.beginQuarters
  rw [found]
  simp only [sound, runs]
  refine (if_neg (by decide)).trans ((if_neg ?_).trans ?_)
  · show ¬ (a.far || (b.far || (p.far || (q.far || false)))) = true
    simp [far]
  · refine (congrArg (fun z => Eff.done ((z.setTh o.th fun t => t.cfUp o.flag).noteFrame o)) issued).trans ?_
    rw [← hf, State.claim, y.setTh_setTh]

/-! ### A word that makes an access of 64 bytes -/

/-- A word makes an access of 64 bytes, of the thread's to its address; nothing holds it back. -/
structure AccessesWhole (s : State) (i : Instr) (h : Head) (k : Nat) (c : Convoy) (sp : Space) (addr : Nat) (need : Need)
    (gs : List Nat) (o : Op) : Prop extends Ready s i h k c where
  th : o.th = k
  space : o.space = sp
  issues : ∃ block eff, exec i s = .next (s.issueEach i block eff) ∧ block s k = false
    ∧ ∀ C P R, eff (s.noted C P R) k = (s.noted C P R).beginQuarters k gs addr need o

section
variable {s t : State} {i : Instr} {h : Head} {k : Nat} {c : Convoy} {sp : Space} {addr : Nat} {need : Need} {gs : List Nat} {o : Op}
  (x : AccessesWhole s i h k c sp addr need gs o)
include x

theorem AccessesWhole.issued {w : Where} {ws : List Where} (found : s.quarters k sp addr need = (.at_ w, ws, t))
    (near : ∀ q ∈ ws, ∀ d p, q ≠ .remote d p) (sound : need.r = true → ∀ q ∈ ws, q.poisoned s 16 = false)
    (own : ∀ q ∈ ws, ∀ l j, q.line = some l → s.leaseHolder l = some j → j = k) :
    Completes s i k (State.setTh { s with cores := t.cores, ops := o.quartered gs s.seq s.cycle ws s.ops, seq := s.seq + 4 } k o.begun) := by
  obtain ⟨rfl, rfl, block, eff, he, hb, heff⟩ := And.intro x.th (And.intro x.space x.issues)
  refine x.toReady.does he hb _ fun C P R kept _ => ?_
  obtain ⟨length, cores⟩ := State.quarters_at found
  have looked := s.looked_quarters o.th addr need o.space
  rw [found] at looked
  obtain ⟨q₀, q₁, q₂, q₃, rfl⟩ : ∃ a b p q, ws = [a, b, p, q] := by
    match ws, length with
    | [a, b, p, q], _ => exact ⟨a, b, p, q, rfl⟩
  have noted : (s.noted C P R).quarters o.th o.space addr need = (.at_ w, [q₀, q₁, q₂, q₃], t.noted C P R) := by
    rw [State.quarters_noted, found]
    rfl
  have kept' : Kept (t.noted C P R) o.th c := by
    rw [cores]
    exact ⟨kept.front, kept.present, kept.unreserved⟩
  have leases : (t.noted C P R).leaseHolder = s.leaseHolder := by
    rw [cores]
    rfl
  have sound' : (need.r && [q₀, q₁, q₂, q₃].any fun w => w.poisoned (t.noted C P R) 16) = false := by
    rw [Bool.and_eq_false_iff, or_iff_not_imp_left, Bool.not_eq_false, List.any_eq_false]
    intro reads q hq
    rw [Where.poisoned_noted, poisoned_of_looked looked, sound reads q hq]
    exact Bool.false_ne_true
  obtain ⟨v, done, like, rest⟩ := State.beginQuarters_near gs o kept' near (by rw [leases]; exact own) noted sound'
  refine ⟨v, (heff C P R).trans done, like.trans ?_, rest⟩
  rw [cores]
  exact Like.pending_noted { s with cores := t.cores } C P R _ _ _ _

theorem AccessesWhole.refused {cz : BitVec 8} {tva : DWord} {tf : Option DWord} {ws : List Where}
    (found : s.quarters k sp addr need = (.fault cz tva tf, ws, t)) (handled : s.handled k cz = true) :
    Leaves s i k (t.trap k ⟨cz, tva, tf, none⟩) := by
  obtain ⟨rfl, rfl, block, eff, he, hb, heff⟩ := And.intro x.th (And.intro x.space x.issues)
  have looked := s.looked_quarters o.th addr need o.space
  rw [found] at looked
  refine x.toReady.trapsAt he hb looked handled fun C P R => ?_
  rw [heff, State.beginQuarters, State.quarters_noted, found]
  rfl

theorem AccessesWhole.misaligned (off : addr % 64 ≠ 0) (handled : s.handled k 0x12 = true) :
    Leaves s i k (s.trap k ⟨0x12, BitVec.ofNat 64 addr, none, none⟩) :=
  x.refused (s.quarters_misaligned k addr need sp off) handled

theorem AccessesWhole.poisoned {w : Where} {ws : List Where} (found : s.quarters k sp addr need = (.at_ w, ws, t)) (reads : need.r = true)
    (bad : ∃ q ∈ ws, q.poisoned s 16 = true) (handled : s.handled k 0x30 = true) :
    Leaves s i k (t.trap k ⟨0x30, BitVec.ofNat 64 addr, none, none⟩) := by
  obtain ⟨rfl, rfl, block, eff, he, hb, heff⟩ := And.intro x.th (And.intro x.space x.issues)
  have looked := s.looked_quarters o.th addr need o.space
  rw [found] at looked
  refine x.toReady.trapsAt he hb looked handled fun C P R => ?_
  obtain ⟨q, hq, poison⟩ := bad
  rw [heff, State.beginQuarters, State.quarters_noted, found]
  refine if_pos ?_
  rw [reads, Bool.true_and, List.any_eq_true]
  refine ⟨q, hq, ?_⟩
  rw [Where.poisoned_noted, poisoned_of_looked looked, poison]

end

end Sys2Proof.Machine
end

section
/-! SUPPORT. The memory words: LD, ST, ATOM, AFLD, AFST and PREF (11 R275 to R282, 10 R271). -/

namespace Sys2Proof.Machine

/-! ### The address, 06 R162 -/

theorem State.effAddr_indexed (s : State) (k : Nat) (m : MemF) (a b : Spec) : s.effAddr k m a (some b) =
    if m.space = .g then (((s.r64 k a).toNat + (m.ofs.toInt + (s.r32 k b).toInt * 2 ^ m.scale.toNat)) % (2 ^ 64 : Int)).toNat
    else (((s.r32 k a).toNat + (m.ofs.toInt + (s.r32 k b).toInt * 2 ^ m.scale.toNat)) % (2 ^ 32 : Int)).toNat := rfl

theorem State.effAddr_plain (s : State) (k : Nat) (m : MemF) (a : Spec) : s.effAddr k m a none =
    if m.space = .g then (((s.r64 k a).toNat + (m.ofs.toInt + 0)) % (2 ^ 64 : Int)).toNat
    else (((s.r32 k a).toNat + (m.ofs.toInt + 0)) % (2 ^ 32 : Int)).toNat := by
  simp [State.effAddr]

/-! ### What an access comes to -/

theorem State.remoteAcq_near {s : State} {k : Nat} {h : Head} {m : MemF} {addr : Nat} {n : Need}
    (near : ∀ d p, (s.place k m.space addr n.size n).1 ≠ .at_ (.remote d p)) : s.remoteAcq k h m addr n = false := by
  unfold State.remoteAcq
  split
  · next d p found => exact absurd found (near d p)
  · exact Bool.and_false _

theorem State.accessWith_unheld {s : State} {k : Nat} (unheld : s.heldOp k = none) (gs : List Nat) (go : State → Eff) :
    s.accessWith k gs go = go s := by
  unfold State.accessWith
  rw [unheld]

theorem State.relWait_of {s : State} {k : Nat} {h : Head} {m : MemF} (released : ordOf h.md = 2 → s.releasing k m.scope = false) :
    s.relWait k h m = false := by
  unfold State.relWait
  by_cases o : ordOf h.md = 2
  · simp [released o]
  · simp [o]

/-- The thread of an access that is issued, as far as its frame is concerned. -/
theorem Op.begun_eq {o : Op} {sp : Space} {addr : Nat} (frame : o.kind = .store → o.frame = if sp = .l then some addr else none) (t : Thread) :
    o.begun t = if (o.kind == .store) = true ∧ sp = .l then (t.cfUp o.flag).wroteFrame addr o.size else t.cfUp o.flag := by
  unfold Op.begun
  by_cases hk : o.kind = .store
  · rw [frame hk, hk]
    by_cases hl : sp = .l
    · simp [hl]
    · simp [hl]
  · have other : (o.kind == .store) = false := by simpa using hk
    rw [other]
    split
    · next e _ => exact absurd e hk
    · simp

section
variable {s t : State} {i : Instr} {h : Head} {k : Nat} {c : Convoy} {sp : Space} {addr : Nat} {need : Need} {go : Where → State → Eff}

/-- All that a word of one access may come to where its place is not on another device: the access pending, or a cause. -/
theorem Accesses.spec (x : Accesses s i h k c sp addr need go) (gs : List Nat) (o : Where → Op) (pre : State → Where → State)
    (f : Where → Thread → Thread) (th : ∀ w, (o w).th = k) (loc : ∀ w, (o w).loc = w) (begun : ∀ w t, f w t = (o w).begun t)
    (keeps : ∀ u w, (pre u w).queue = u.queue) (noted : ∀ u w C P R, pre (u.noted C P R) w = (pre u w).noted C P R)
    (goes : ∀ w cs C P R, go w ({ s with cores := cs }.noted C P R) = (pre ({ s with cores := cs }.noted C P R) w).beginAccess gs (o w)) :
    (∀ w, s.place k sp addr need.size need = (.at_ w, t) → (∀ dev p, w ≠ .remote dev p) →
        (need.r = true → w.poisoned s need.size = false) → (∀ l j, w.line = some l → s.leaseHolder l = some j → j = k) →
        Completes s i k (State.setTh { pre { s with cores := t.cores } w with
          ops := Tab.put s.seq { o w with pend := gs, cyc := s.cycle } s.ops, seq := s.seq + 1 } k (f w)))
    ∧ (addr % need.size ≠ 0 → s.handled k 0x12 = true → Leaves s i k (s.trap k ⟨0x12, BitVec.ofNat 64 addr, none, none⟩))
    ∧ (∀ cz tva tf, s.place k sp addr need.size need = (.fault cz tva tf, t) → s.handled k cz = true →
        Leaves s i k (t.trap k ⟨cz, tva, tf, none⟩))
    ∧ (∀ w, s.place k sp addr need.size need = (.at_ w, t) → need.r = true → w.poisoned s need.size = true →
        s.handled k 0x30 = true → Leaves s i k (t.trap k ⟨0x30, BitVec.ofNat 64 addr, none, none⟩)) := by
  refine ⟨fun w found near sound own => ?_, x.misaligned, fun cz tva tf found => x.refused found, fun w found => x.poisoned found⟩
  rw [show f w = (o w).begun from funext (begun w)]
  refine x.issued gs (o w) (fun u => pre u w) found near sound own (th w) (loc w) (fun u => keeps u w) (fun u => noted u w) fun C P R => ?_
  rw [State.place_at found]
  exact goes w _ C P R

end

/-! ### LD, R276, R277 -/

section
variable (s : State) (k : Nat) (h : Head) (m : MemF) (addr : Nat)

/-- The access of a word of the thread to a place. -/
def State.opAt (kind : OpKind) (size : Nat) (w : Where) : Op :=
  { th := k, crew := crewOf k, core := s.coreTh k, kind := kind, loc := w, va := BitVec.ofNat 64 addr, size := size
    space := m.space, rtype := m.rtype, ty := h.ty }

/-- The scope at which an access acquires. -/
def acqOf : Option Scope := if ordOf h.md = 1 then some m.scope else none

def State.ldOp (d : Spec) (w : Where) : Op :=
  { s.opAt k h m addr .load (ldNeed h m).size w with
    dst := some d.vIndex, flag := s.flagNow h, acq := acqOf h m, zero := s.frameZeros k m addr (ldNeed h m).size }

def State.stOp (bs : List Byte) (w : Where) : Op :=
  { s.opAt k h m addr .store (stNeed h m).size w with data := bs, frame := frameAt m addr }

def State.atomOp (fn : Nat) (ret : Bool) (d : Spec) (bs : List Byte) (w : Where) : Op :=
  { s.opAt k h m addr (.atom fn ret) (atomNeed h m).size w with
    data := bs, dst := if ret then some d.vIndex else none, flag := if ret then s.flagNow h else none, acq := acqOf h m }

end

section
variable {s : State} {k : Nat} {c : Convoy} {h : Head} {d a b : Spec} {m : MemF} {addr : Nat}

theorem Accesses.ld (ready : Ready s (.ld h d a b m) h k c) (at_ : s.effAddr k m a (some b) = addr)
    (apart : s.remoteBusy k m.space addr (ldNeed h m) = false) :
    Accesses s (.ld h d a b m) h k c m.space addr (ldNeed h m)
      fun w u => u.beginAccess (rangeFrom d.vIndex (cntOf h.md * h.ty.rw)) (u.ldOp k h m addr d w) := by
  subst at_
  refine ⟨ready, _, _, rfl, fun near => Bool.or_eq_false_iff.2 ⟨apart, State.remoteAcq_near near⟩, fun C P R => ?_⟩
  unfold State.ldEff
  rw [State.accessWith_unheld (s := s.noted C P R) ready.unheld]
  rfl

theorem Accesses.st (ready : Ready s (.st h d a b m) h k c) (at_ : s.effAddr k m a (some b) = addr)
    (released : ordOf h.md = 2 → s.releasing k m.scope = false) (apart : s.remoteBusy k m.space addr (stNeed h m) = false) :
    Accesses s (.st h d a b m) h k c m.space addr (stNeed h m)
      fun w u => u.beginAccess [] (u.stOp k h m addr (s.stBytes k h d) w) := by
  subst at_
  refine ⟨ready, _, _, rfl, fun near => Bool.or_eq_false_iff.2 ⟨State.relWait_of released, apart⟩, fun C P R => ?_⟩
  unfold State.stEff
  rw [State.accessWith_unheld (s := s.noted C P R) ready.unheld]
  rfl

theorem Accesses.atom {i : Instr} {fn : Nat} (ready : Ready s i h k c) (he : exec i s = .next (s.issueAtom i fn h d a b m))
    (at_ : s.effAddr k m a none = addr) (released : ordOf h.md = 2 → s.releasing k m.scope = false)
    (apart : s.remoteBusy k m.space addr (atomNeed h m) = false) :
    Accesses s i h k c m.space addr (atomNeed h m) fun w u =>
      (u.zeroNow k m addr (atomNeed h m).size w).beginAccess (if decide (d ≠ .imm 0) then rangeFrom d.vIndex h.ty.rw else [])
        (u.atomOp k h m addr fn (decide (d ≠ .imm 0)) d (s.atomData k h fn b) w) := by
  subst at_
  rw [← show (d != .imm 0) = decide (d ≠ .imm 0) by rw [bne, beq_eq_decide, decide_not]]
  refine ⟨ready, _, _, he, fun near => ?_, fun C P R => ?_⟩
  · exact Bool.or_eq_false_iff.2 ⟨Bool.or_eq_false_iff.2 ⟨State.relWait_of released, apart⟩, State.remoteAcq_near near⟩
  · unfold State.atomEff
    rw [State.accessWith_unheld (s := s.noted C P R) ready.unheld]
    rfl

end

/-! ### AFLD and AFST, 10 R271 -/

def State.afldOp (s : State) (k : Nat) (h : Head) (m : MemF) (addr : Nat) (d : Spec) : Op :=
  { s.opAt k h m addr .load 64 (.mem 0) with
    ty := .b32, dst := some d.vIndex, flag := s.flagNow h, acq := acqOf h m, affine := some (d.vIndex / 16), zero := s.frameZeros k m addr 64 }

def State.afstOp (s : State) (k : Nat) (h : Head) (m : MemF) (addr : Nat) (d : Spec) : Op :=
  { s.opAt k h m addr .store 64 (.mem 0) with
    data := (rangeFrom d.vIndex 16).flatMap fun g => leBytes 4 ((s.th k).vget g).toNat, frame := frameAt m addr }

/-- The quarter `n` of an AFLD, which loads four of the sixteen registers. -/
def State.afldPart (s : State) (k : Nat) (h : Head) (m : MemF) (addr : Nat) (d : Spec) (n : Nat) (w : Where) : Op :=
  { s.opAt k h m addr .load 16 w with
    ty := .b32, dst := some (d.vIndex + 4 * n), flag := s.flagNow h, acq := acqOf h m, group := (s.flagNow h).map fun _ => s.seq
    pend := rangeFrom d.vIndex 16, affine := some (d.vIndex / 16), cyc := s.cycle
    zero := ((s.frameZeros k m addr 64).filter fun i => decide (16 * n ≤ i) && decide (i < 16 * n + 16)).map (· - 16 * n) }

/-- The quarter `n` of an AFST, which stores four of the sixteen registers. -/
def State.afstPart (s : State) (k : Nat) (h : Head) (m : MemF) (addr : Nat) (d : Spec) (n : Nat) (w : Where) : Op :=
  { s.opAt k h m addr .store 16 w with
    data := (rangeFrom (d.vIndex + 4 * n) 4).flatMap fun g => leBytes 4 ((s.th k).vget g).toNat
    frame := (frameAt m addr).map (· + 16 * n), cyc := s.cycle }

theorem State.afldPart_eq {s : State} {k : Nat} {h : Head} {m : MemF} {addr : Nat} {d : Spec} (n : Nat) (w : Where) :
    s.afldPart k h m addr d n w = { (s.afldOp k h m addr d).quarter s.seq n w with pend := rangeFrom d.vIndex 16, cyc := s.cycle } := by
  have none_ : (([] : List Byte).drop (16 * n)).take 16 = [] := by simp
  unfold Op.quarter
  dsimp only [State.afldOp, State.opAt]
  rw [none_]
  rfl

theorem State.afstPart_eq {s : State} {k : Nat} {h : Head} {m : MemF} {addr : Nat} {d : Spec} {n : Nat} (hn : n < 4) (w : Where) :
    s.afstPart k h m addr d n w = { (s.afstOp k h m addr d).quarter s.seq n w with pend := [], cyc := s.cycle } := by
  have bytes : (((rangeFrom d.vIndex 16).flatMap fun g => leBytes 4 ((s.th k).vget g).toNat).drop (16 * n)).take 16
      = (rangeFrom (d.vIndex + 4 * n) 4).flatMap fun g => leBytes 4 ((s.th k).vget g).toNat := by
    interval_cases n <;> rfl
  unfold Op.quarter
  dsimp only [State.afstOp, State.opAt]
  rw [bytes]
  rfl

section
variable {s t : State} {i : Instr} {k : Nat} {c : Convoy} {h : Head} {d a b : Spec} {m : MemF} {sp : Space} {addr : Nat} {need : Need}

theorem AccessesWhole.afld (ready : Ready s (.afld h d a b m) h k c) (at_ : s.effAddr k m a (some b) = addr)
    (apart : s.remoteBusy k m.space addr (affNeed false m) = false) (near : s.remoteAcq k h m addr (affNeed false m) = false) :
    AccessesWhole s (.afld h d a b m) h k c m.space addr (affNeed false m) (rangeFrom d.vIndex 16) (s.afldOp k h m addr d) := by
  subst at_
  refine ⟨ready, rfl, rfl, _, _, rfl, Bool.or_eq_false_iff.2 ⟨apart, near⟩, fun C P R => ?_⟩
  unfold State.afldEff
  rw [State.accessWith_unheld (s := s.noted C P R) ready.unheld]
  rfl

theorem AccessesWhole.afst (ready : Ready s (.afst h d a b m) h k c) (at_ : s.effAddr k m a (some b) = addr)
    (released : ordOf h.md = 2 → s.releasing k m.scope = false) (apart : s.remoteBusy k m.space addr (affNeed true m) = false) :
    AccessesWhole s (.afst h d a b m) h k c m.space addr (affNeed true m) [] (s.afstOp k h m addr d) := by
  subst at_
  refine ⟨ready, rfl, rfl, _, _, rfl, Bool.or_eq_false_iff.2 ⟨State.relWait_of released, apart⟩, fun C P R => ?_⟩
  unfold State.afstEff
  rw [State.accessWith_unheld (s := s.noted C P R) ready.unheld]
  rfl

/-- All that a word of an access of 64 bytes may come to where it is not on another device: its quarters pending, or a cause. -/
theorem AccessesWhole.spec {gs : List Nat} {o : Op} (x : AccessesWhole s i h k c sp addr need gs o) (part : Nat → Where → Op)
    (f : Thread → Thread) (begun : ∀ t, f t = o.begun t)
    (parts : ∀ n < 4, ∀ w, part n w = { o.quarter s.seq n w with pend := gs, cyc := s.cycle }) :
    (∀ w ws, s.quarters k sp addr need = (.at_ w, ws, t) → (∀ q ∈ ws, ∀ dev p, q ≠ .remote dev p) →
        (need.r = true → ∀ q ∈ ws, q.poisoned s 16 = false) → (∀ q ∈ ws, ∀ l j, q.line = some l → s.leaseHolder l = some j → j = k) →
        ws.length = 4 ∧ Completes s i k (State.setTh { s with
          cores := t.cores
          ops := (List.range 4).foldl (fun l n => Tab.put (s.seq + n) (part n (ws.getD n (.mem 0))) l) s.ops
          seq := s.seq + 4 } k f))
    ∧ (addr % 64 ≠ 0 → s.handled k 0x12 = true → Leaves s i k (s.trap k ⟨0x12, BitVec.ofNat 64 addr, none, none⟩))
    ∧ (∀ cz tva tf ws, s.quarters k sp addr need = (.fault cz tva tf, ws, t) → s.handled k cz = true →
        Leaves s i k (t.trap k ⟨cz, tva, tf, none⟩))
    ∧ (∀ w ws, s.quarters k sp addr need = (.at_ w, ws, t) → need.r = true → (∃ q ∈ ws, q.poisoned s 16 = true) →
        s.handled k 0x30 = true → Leaves s i k (t.trap k ⟨0x30, BitVec.ofNat 64 addr, none, none⟩)) := by
  refine ⟨fun w ws found near sound own => ⟨(State.quarters_at found).1, ?_⟩, x.misaligned, fun cz tva tf ws found => x.refused found,
    fun w ws found => x.poisoned found⟩
  have ops : (List.range 4).foldl (fun l n => Tab.put (s.seq + n) (part n (ws.getD n (.mem 0))) l) s.ops
      = o.quartered gs s.seq s.cycle ws s.ops :=
    List.foldl_ext _ _ _ fun l n hn => by rw [parts n (List.mem_range.1 hn)]
  rw [ops, show f = o.begun from funext begun]
  exact x.issued found near sound own

end

/-! ### PREF, R279 -/

theorem State.prefetch_noted (s : State) (C P R) (k addr : Nat) (rt : RType) :
    (s.noted C P R).prefetch k addr rt = (s.prefetch k addr rt).noted C P R := by
  unfold State.prefetch
  rw [State.place_noted]
  generalize s.place k .g addr 1 { r := true, rtype := rt, size := 1 } = r
  obtain ⟨x, u⟩ := r
  cases x with
  | fault | wait | busy => rfl
  | at_ w =>
      cases w with
      | repl | host | remote | crewScratch | plainScratch => rfl
      | mem pa =>
          refine Eq.trans ?_ (apply_ite (fun u : State => u.noted C P R) _ _ _).symm
          refine if_congr Iff.rfl rfl ?_
          cases rt with
          | own | wt | uc => rfl
          | si | ro =>
              dsimp only
              refine Eq.trans ?_ (apply_ite (fun u : State => u.noted C P R) _ _ _).symm
              exact if_congr Iff.rfl rfl rfl

/-- A state that owns what another does, and differs from it in its cores at most. -/
def State.OwnsAs (t s : State) : Prop := t = { s with cores := t.cores } ∧ ∀ n, (t.co n).owned = (s.co n).owned

theorem State.ownsAs_refl (s : State) : s.OwnsAs s := ⟨rfl, fun _ => rfl⟩

theorem State.ownsAs_addCopy (s : State) (core : Nat) (x : Copy) : (s.addCopy core x).OwnsAs s := by
  refine ⟨rfl, fun n => ?_⟩
  rw [State.addCopy, State.co_setCo]
  split
  · next h => rw [h]
  · rfl

theorem State.prefetch_ownsAs {s : State} {k addr : Nat} {rt : RType}
    (found : ∀ cz tva tf, (s.place k .g addr 1 { r := true, rtype := rt, size := 1 }).1 ≠ .fault cz tva tf) :
    (s.prefetch k addr rt).OwnsAs s := by
  unfold State.prefetch
  generalize s.place k .g addr 1 { r := true, rtype := rt, size := 1 } = r at found
  obtain ⟨x, u⟩ := r
  cases x with
  | fault cz tva tf => exact absurd rfl (found cz tva tf)
  | wait | busy => exact s.ownsAs_refl
  | at_ w =>
      cases w with
      | repl | host | remote | crewScratch | plainScratch => exact s.ownsAs_refl
      | mem pa =>
          dsimp only
          split
          · exact s.ownsAs_refl
          · cases rt with
            | own | wt | uc => exact s.ownsAs_refl
            | si | ro =>
                dsimp only
                split
                · exact s.ownsAs_refl
                · exact s.ownsAs_addCopy _ _

theorem State.looked_prefetch (s : State) (k addr : Nat) (rt : RType) : (s.prefetch k addr rt).looked = s.looked := by
  have placed := s.looked_place k addr 1 { r := true, rtype := rt, size := 1 } .g
  by_cases found : ∃ cz tva tf, (s.place k .g addr 1 { r := true, rtype := rt, size := 1 }).1 = .fault cz tva tf
  · obtain ⟨cz, tva, tf, at_⟩ := found
    unfold State.prefetch
    generalize s.place k .g addr 1 { r := true, rtype := rt, size := 1 } = r at at_ placed
    obtain ⟨x, u⟩ := r
    cases at_
    exact placed
  · rw [(State.prefetch_ownsAs fun cz tva tf at_ => found ⟨cz, tva, tf, at_⟩).1]
    rfl

theorem Ready.pref {s : State} {k : Nat} {c : Convoy} {h : Head} {a b : Spec} {m : MemF} {addr : Nat}
    (ready : Ready s (.pref h a b m) h k c) (at_ : s.effAddr k m a (some b) = addr) :
    Completes s (.pref h a b m) k (s.prefetch k addr m.rtype) := by
  subst at_
  refine ready.does rfl rfl _ fun C P R kept _ => ⟨_, rfl, ?_, ?_⟩
  · rw [show (s.noted C P R).effAddr k m a (some b) = s.effAddr k m a (some b) from rfl, State.prefetch_noted]
    exact Like.noted _ C P R k
  · have looked := s.looked_prefetch k (s.effAddr k m a (some b)) m.rtype
    rw [show (s.noted C P R).effAddr k m a (some b) = s.effAddr k m a (some b) from rfl, State.prefetch_noted]
    exact ⟨(congrArg State.front looked).trans ready.front,
      (congrArg (fun l => (Tab.find k l).isSome) (congrArg State.threads looked)).trans ready.present, kept.unreserved⟩

end Sys2Proof.Machine
end

section
/-! PROOF. O32: the memory words check their access and issue it. -/

namespace Sys2Proof

open Machine

/-- Settles O32: each word goes through one look at its place, which finds it a cause, or a place where it leaves its accesses pending. -/
theorem memoryAccesses : Obligations.MemoryAccesses := by
  intro s k c h d a b m s' addr op acq framed each quarters n stored atom
  have indexed : s.effAddr k m a (some b) = addr true := rfl
  refine ⟨?_, ?_, ?_, ?_, ?_, ?_⟩
  · intro ready released busy
    exact (Accesses.ld ready indexed busy).spec _ (s.ldOp k h m (addr true) d) (fun u _ => u) _ (fun _ => rfl) (fun _ => rfl)
      (fun w t => (Op.begun_eq (fun no => by cases no) t).symm) (fun _ _ => rfl) (fun _ _ _ _ _ => rfl) fun w cs C P R => rfl
  · intro ready released busy
    exact (Accesses.st ready indexed released busy).spec _ (s.stOp k h m (addr true) (s.stBytes k h d)) (fun u _ => u) _ (fun _ => rfl) (fun _ => rfl)
      (fun w t => (Op.begun_eq (fun no => rfl) t).symm) (fun _ _ => rfl) (fun _ _ _ _ _ => rfl) fun w cs C P R => rfl
  · intro ready released busy near
    exact (AccessesWhole.afld ready indexed busy near).spec (s.afldPart k h m (addr true) d) (fun t => framed true false 64 (t.cfUp (s.flagNow h)))
      (fun t => (Op.begun_eq (o := s.afldOp k h m (addr true) d) (fun no => OpKind.noConfusion no) t).symm) fun n _ w => State.afldPart_eq n w
  · intro ready released busy near
    exact (AccessesWhole.afst ready indexed released busy).spec (s.afstPart k h m (addr true) d) (fun t => framed true true 64 (t.cfUp none))
      (fun t => (Op.begun_eq (o := s.afstOp k h m (addr true) d) (fun _ => rfl) t).symm) fun n hn w => State.afstPart_eq hn w
  · have plain : s.effAddr k m a none = addr false := s.effAddr_plain k m a
    have one (i : Instr) (fn : Nat) (he : exec i s = .next (s.issueAtom i fn h d a b m)) : atom i fn := by
      intro ready released busy
      exact (Accesses.atom ready he plain released busy).spec _
        (s.atomOp k h m (addr false) fn (decide (d ≠ .imm 0)) d (s.atomData k h fn b))
        (fun u w => u.zeroNow k m (addr false) (atomBytes h.ty) w)
        (fun w t => framed false ((.atom fn (decide (d ≠ .imm 0)) : OpKind) == .store) (atomBytes h.ty)
          (t.cfUp (if decide (d ≠ .imm 0) then s.flagNow h else none)))
        (fun _ => rfl) (fun _ => rfl)
        (fun w t => (Op.begun_eq (o := s.atomOp k h m (addr false) fn (decide (d ≠ .imm 0)) d (s.atomData k h fn b) w)
          (fun no => OpKind.noConfusion no) t).symm)
        (fun u w => u.queue_zeroNow _ _ _ _ _)
        (fun u w C P R => u.zeroNow_noted C P R _ _ _ _ _) fun w cs C P R => rfl
    exact ⟨one _ _ rfl, one _ _ rfl, one _ _ rfl, one _ _ rfl, one _ _ rfl, one _ _ rfl, one _ _ rfl, one _ _ rfl, one _ _ rfl, one _ _ rfl,
      one _ _ rfl, one _ _ rfl, one _ _ rfl⟩
  · intro ready found
    have done := ready.pref indexed
    refine ⟨fun cz tva tf at_ => ?_, fun no => ?_⟩
    · change s.place k .g (addr true) 1 { r := true, rtype := m.rtype, size := 1 } = _ at at_
      rwa [State.prefetch, at_] at done
    · obtain ⟨cores, owned⟩ := State.prefetch_ownsAs no
      rw [cores] at done
      exact ⟨_, done, owned⟩

end Sys2Proof
end

section
/-! SUPPORT. The lines of one core's own L1 changed: written back, kept clean, dropped (04 R111, R112). -/

namespace Sys2Proof.Machine

/-! ### The table of one L1 -/

theorem Tab.mem_keys {α : Type} {t : List (Nat × α)} {k : Nat} : k ∈ t.map (·.1) ↔ (Tab.find k t).isSome := by
  induction t with
  | nil => simp
  | cons e t ih =>
      obtain ⟨j, a⟩ := e
      rw [List.map_cons, List.mem_cons, ih, Tab.find]
      by_cases h : k = j <;> simp [h]

theorem State.listed_of_owned {s : State} {c l : Nat} (held : (Tab.find l (s.co c).owned).isSome) : (c, s.co c) ∈ s.cores := by
  unfold State.co Tab.getD at held ⊢
  cases hc : Tab.find c s.cores with
  | none => simp [hc] at held
  | some co => exact Tab.mem_of_find hc

/-- A table of lines held exclusive: in order, each aligned, with dirty bytes of it alone. -/
structure LinesOk (owned : List (Nat × List (Nat × Byte))) : Prop where
  rising : Rising owned
  lines : ∀ o ∈ owned, o.1 % 128 = 0 ∧ Rising o.2 ∧ ∀ d ∈ o.2, d.1 < 128

theorem LinesOk.drop {owned : List (Nat × List (Nat × Byte))} (ok : LinesOk owned) (l : Nat) : LinesOk (Tab.drop l owned) :=
  ⟨ok.rising.sublist ((Tab.drop_sublist l owned).map _), fun o ho => ok.lines o ((Tab.drop_sublist l owned).subset ho)⟩

theorem LinesOk.clean {owned : List (Nat × List (Nat × Byte))} (ok : LinesOk owned) {l : Nat} (aligned : l % 128 = 0) :
    LinesOk (Tab.put l [] owned) := by
  refine ⟨ok.rising.put l [], fun o ho => ?_⟩
  rcases Tab.mem_put ho with rfl | ho
  · exact ⟨aligned, List.Pairwise.nil, fun d hd => absurd hd List.not_mem_nil⟩
  · exact ok.lines o ho

section
variable {s : State} (h : s.L1Ok)
include h

theorem State.L1Ok.linesOk (c : Nat) : LinesOk (s.co c).owned := by
  unfold State.co Tab.getD
  cases hc : Tab.find c s.cores with
  | none => exact ⟨List.Pairwise.nil, fun o ho => absurd ho List.not_mem_nil⟩
  | some co =>
      obtain ⟨rising, lines⟩ := h.lines (c, co) (Tab.mem_of_find hc)
      exact ⟨rising, lines⟩

/-- One core's L1 changed, without a line that it did not hold. -/
theorem State.L1Ok.setCo (c : Nat) (f : Core → Core) (ok : LinesOk (f (s.co c)).owned)
    (fewer : ∀ l, (Tab.find l (f (s.co c)).owned).isSome → (Tab.find l (s.co c).owned).isSome) : (s.setCo c f).L1Ok := by
  have origin {x : Nat × Core} (hx : x ∈ Tab.put c (f (s.co c)) s.cores) {l : Nat} (held : (Tab.find l x.2.owned).isSome) :
      ∃ y ∈ s.cores, y.1 = x.1 ∧ (Tab.find l y.2.owned).isSome := by
    rcases Tab.mem_put hx with rfl | hx
    · exact ⟨_, State.listed_of_owned (fewer l held), rfl, fewer l held⟩
    · exact ⟨x, hx, rfl, held⟩
  refine ⟨Rising.put h.sorted _ _, fun x hx y hy l hl hm => ?_, fun x hx => ?_⟩
  · obtain ⟨x', hx', ex, fx⟩ := origin hx hl
    obtain ⟨y', hy', ey, fy⟩ := origin hy hm
    rw [← ex, ← ey]
    exact h.one x' hx' y' hy' l fx fy
  · rcases Tab.mem_put hx with rfl | hx
    · exact ⟨ok.rising, ok.lines⟩
    · exact h.lines x hx

/-- What the coherent agents read of a line that an L1 holds. -/
theorem State.L1Ok.cohByte_owned {c x : Nat} {d : List (Nat × Byte)} (held : Tab.find (lineOf x) (s.co c).owned = some d) :
    s.cohByte x = (Tab.find (x % 128) d).getD (readByte s.mem x) := by
  unfold State.cohByte
  rw [h.ownerOf_iff.2 held]

/-- What the coherent agents read of a line that no L1 holds. -/
theorem State.L1Ok.cohByte_unowned {x : Nat} (free : ∀ n, Tab.find (lineOf x) (s.co n).owned = none) : s.cohByte x = readByte s.mem x := by
  unfold State.cohByte
  cases owner : s.ownerOf (lineOf x) with
  | none => rfl
  | some o =>
      have held := h.ownerOf_iff.1 owner
      rw [free] at held
      cases held

/-- What the coherent agents read of a line depends on memory and on what the L1s hold of the line alone. -/
theorem State.L1Ok.cohByte_congr {t : State} (ht : t.L1Ok) {x : Nat} (mem : readByte t.mem x = readByte s.mem x)
    (owned : ∀ n, Tab.find (lineOf x) (t.co n).owned = Tab.find (lineOf x) (s.co n).owned) : t.cohByte x = s.cohByte x := by
  have owner : t.ownerOf (lineOf x) = s.ownerOf (lineOf x) := Option.ext fun ⟨n, d⟩ => by rw [h.ownerOf_iff, ht.ownerOf_iff, owned]
  unfold State.cohByte
  rw [owner, mem]

end

/-! ### Lines of one L1 acted on -/

/-- One core's L1 has acted on lines: it keeps them clean (`keep`) or holds them no more, and their dirty bytes are written back, but
those of the lines of `lose`. -/
structure ActedOn (s t : State) (core : Nat) (ls : List Nat) (keep : Bool) (lose : Nat → Bool) : Prop where
  ok : t.L1Ok
  beside : t = { s with mem := t.mem, cores := t.cores }
  others : ∀ n, n ≠ core → t.co n = s.co n
  owned : ∀ l, Tab.find l (t.co core).owned =
    if l ∈ ls then (if keep then (Tab.find l (s.co core).owned).map fun _ => [] else none) else Tab.find l (s.co core).owned
  copies : (t.co core).copies = (s.co core).copies
  mem : ∀ x, lineOf x ∉ ls ∨ lose (lineOf x) = true → readByte t.mem x = readByte s.mem x
  bytes : ∀ x, t.cohByte x =
    if lose (lineOf x) = true ∧ lineOf x ∈ ls ∧ (Tab.find (lineOf x) (s.co core).owned).isSome then readByte s.mem x else s.cohByte x

section
variable {s t u : State} {core l : Nat} {ls : List Nat} {keep : Bool} {lose : Nat → Bool}

theorem ActedOn.none (ok : s.L1Ok) : ActedOn s s core [] keep lose :=
  ⟨ok, rfl, fun _ _ => rfl, fun _ => rfl, rfl, fun _ _ => rfl, fun x => by simp⟩

/-- A line acted on, then others. -/
theorem ActedOn.cons (first : ActedOn s t core [l] keep lose) (rest : ActedOn t u core ls keep lose) (apart : l ∉ ls) :
    ActedOn s u core (l :: ls) keep lose := by
  refine ⟨rest.ok, ?_, fun n hn => (rest.others n hn).trans (first.others n hn), fun m => ?_, rest.copies.trans first.copies,
    fun x hx => ?_, fun x => ?_⟩
  · rw [rest.beside, first.beside]
  · rw [rest.owned, first.owned]
    by_cases hm : m = l
    · subst hm
      simp [apart]
    · simp [hm]
  · rw [rest.mem x, first.mem x]
    · simp only [List.mem_cons, not_or] at hx
      exact hx.imp (fun h => by simp [h.1]) id
    · simp only [List.mem_cons, not_or] at hx
      exact hx.imp (fun h => h.2) id
  · rw [rest.bytes, first.bytes, first.owned]
    by_cases hm : lineOf x = l
    · subst hm
      simp [apart]
    · rw [first.mem x (.inl (by simpa using hm))]
      simp [hm]

end

/-- A line of one L1 written back, and kept clean there. -/
theorem State.L1Ok.cleanLine {s : State} (h : s.L1Ok) (core l : Nat) : ActedOn s (s.cleanLine core l) core [l] true fun _ => false := by
  unfold State.cleanLine
  cases held : Tab.find l (s.co core).owned with
  | none =>
      refine ⟨h, rfl, fun _ _ => rfl, fun m => ?_, rfl, fun _ _ => rfl, fun x => by simp⟩
      show Tab.find m (s.co core).owned = _
      by_cases hm : m = l
      · simp [hm, held]
      · simp [hm]
  | some d =>
      obtain ⟨aligned, rising, inside⟩ := h.dirty (h.ownerOf_iff.2 held)
      let v : State := { s with mem := mergeDirty s.mem l d }
      have ok : v.L1Ok := h.of_cores rfl
      have owned (m : Nat) : Tab.find m (Tab.put l [] (s.co core).owned) = if m = l then some [] else Tab.find m (s.co core).owned :=
        Tab.find_put _ _ _ _
      have ok' : (v.setCo core fun c => { c with owned := Tab.put l [] c.owned }).L1Ok := by
        refine ok.setCo core _ ((ok.linesOk core).clean aligned) fun m hm => ?_
        rw [show Tab.find m (Tab.put l [] (v.co core).owned) = _ from owned m] at hm
        split at hm
        · next e =>
          rw [e, show v.co core = s.co core from rfl, held]
          rfl
        · exact hm
      have co (n : Nat) : (v.setCo core fun c => { c with owned := Tab.put l [] c.owned }).co n =
          if n = core then { s.co core with owned := Tab.put l [] (s.co core).owned } else s.co n := State.co_setCo v core n _
      have mem (x : Nat) := readByte_mergeDirty s.mem l aligned d rising inside x
      refine ⟨ok', rfl, fun n hn => ?_, fun m => ?_, ?_, fun x hx => ?_, fun x => ?_⟩
      · rw [co, if_neg hn]
      · rw [co, if_pos rfl, owned]
        by_cases hm : m = l
        · simp [hm, held]
        · simp [hm]
      · rw [co, if_pos rfl]
      · exact (mem x).trans (if_neg (by simpa using hx))
      · rw [if_neg (by simp)]
        by_cases hx : lineOf x = l
        · have now : Tab.find (lineOf x) ((v.setCo core fun c => { c with owned := Tab.put l [] c.owned }).co core).owned = some [] := by
            rw [co, if_pos rfl, owned, if_pos hx]
          rw [ok'.cohByte_owned now, h.cohByte_owned (by rw [hx]; exact held)]
          exact (mem x).trans (if_pos hx)
        · refine h.cohByte_congr ok' ((mem x).trans (if_neg hx)) fun n => ?_
          rw [co]
          split
          · next e => rw [owned, if_neg hx, e]
          · rfl

/-- A line of one L1 held no more, its dirty bytes lost. -/
theorem State.L1Ok.dropLine {s : State} (h : s.L1Ok) (core l : Nat) :
    ActedOn s (s.setCo core fun c => { c with owned := Tab.drop l c.owned }) core [l] false fun _ => true := by
  have owned (m : Nat) : Tab.find m (Tab.drop l (s.co core).owned) = if m = l then none else Tab.find m (s.co core).owned :=
    Tab.find_drop _ _ _
  have ok' : (s.setCo core fun c => { c with owned := Tab.drop l c.owned }).L1Ok := by
    refine h.setCo core _ ((h.linesOk core).drop l) fun m hm => ?_
    rw [owned] at hm
    split at hm
    · cases hm
    · exact hm
  have co (n : Nat) : (s.setCo core fun c => { c with owned := Tab.drop l c.owned }).co n =
      if n = core then { s.co core with owned := Tab.drop l (s.co core).owned } else s.co n := State.co_setCo s core n _
  refine ⟨ok', rfl, fun n hn => ?_, fun m => ?_, ?_, fun _ _ => rfl, fun x => ?_⟩
  · rw [co, if_neg hn]
  · rw [co, if_pos rfl, owned]
    simp
  · rw [co, if_pos rfl]
  · by_cases hx : lineOf x = l ∧ (Tab.find (lineOf x) (s.co core).owned).isSome
    · obtain ⟨d, held⟩ := Option.isSome_iff_exists.1 hx.2
      rw [if_pos ⟨rfl, by simpa using hx.1, hx.2⟩]
      refine ok'.cohByte_unowned fun n => ?_
      rw [co]
      split
      · rw [owned, if_pos hx.1]
      · next hn =>
        refine Option.eq_none_iff_forall_ne_some.2 fun e he => hn ?_
        have same := (h.ownerOf_iff.2 he).symm.trans (h.ownerOf_iff.2 held)
        exact (Prod.mk.inj (Option.some.inj same)).1
    · rw [if_neg (by simpa using hx)]
      refine h.cohByte_congr ok' rfl fun n => ?_
      rw [co]
      split
      · next e =>
        rw [owned, e]
        split
        · next hl =>
          rw [not_and, Bool.not_eq_true, Option.isSome_eq_false_iff, Option.isNone_iff_eq_none] at hx
          exact (hx hl).symm
        · rfl
      · rfl

/-- A line written back and then dropped keeps its bytes. -/
theorem ActedOn.clean_drop {s t u : State} {core l : Nat} (clean : ActedOn s t core [l] true fun _ => false)
    (drop : ActedOn t u core [l] false fun _ => true) : ActedOn s u core [l] false fun _ => false := by
  refine ⟨drop.ok, ?_, fun n hn => (drop.others n hn).trans (clean.others n hn), fun m => ?_, drop.copies.trans clean.copies,
    fun x hx => ?_, fun x => ?_⟩
  · rw [drop.beside, clean.beside]
  · rw [drop.owned, clean.owned]
    by_cases hm : m ∈ [l] <;> simp [hm]
  · rw [drop.mem x (.inr rfl), clean.mem x hx]
  · have same : t.cohByte x = s.cohByte x := by simp [clean.bytes x]
    rw [drop.bytes, ← same]
    simp only [true_and, Bool.false_eq_true, false_and, if_false]
    split
    · next held =>
      obtain ⟨hx, there⟩ := held
      rw [clean.owned, if_pos hx, if_pos rfl, Option.isSome_map] at there
      obtain ⟨d, hd⟩ := Option.isSome_iff_exists.1 there
      rw [clean.ok.cohByte_owned (c := core) (d := []) (by rw [clean.owned, if_pos hx, if_pos rfl, hd]; rfl)]
      rfl
    · rfl

/-- Only what is lost of the line itself matters. -/
theorem ActedOn.lose_congr {s t : State} {core l : Nat} {keep : Bool} {lose lose' : Nat → Bool} (acted : ActedOn s t core [l] keep lose)
    (same : lose' l = lose l) : ActedOn s t core [l] keep lose' := by
  have here (x : Nat) (hx : lineOf x ∈ [l]) : lose' (lineOf x) = lose (lineOf x) := by rw [List.mem_singleton.1 hx, same]
  refine ⟨acted.ok, acted.beside, acted.others, acted.owned, acted.copies, fun x hx => acted.mem x ?_, fun x => ?_⟩
  · by_cases hl : lineOf x ∈ [l]
    · rw [← here x hl]
      exact hx
    · exact .inl hl
  · rw [acted.bytes]
    by_cases hl : lineOf x ∈ [l]
    · rw [here x hl]
    · simp [hl]

/-! ### Cache control, R289, R290 -/

/-- What cache control does to one line that the L1 holds. -/
def State.cacheLine (s : State) (core : Nat) (op : CacheOp) (ps : List Piece) (l : Nat) : State :=
  match op with
  | .clean => s.cleanLine core l
  | .inv => (s.cleanLine core l).setCo core fun c => { c with owned := Tab.drop l c.owned }
  | .discard =>
      (if ps.any fun p => p.hits none l && p.covers l then s else s.cleanLine core l).setCo core fun c => { c with owned := Tab.drop l c.owned }

theorem State.cacheOp_eq (s : State) (core : Nat) (op : CacheOp) (ps : List Piece) : s.cacheOp core op ps =
    if op = .clean then (s.heldLines core ps).foldl (fun s l => s.cacheLine core op ps l) s
    else ((s.heldLines core ps).foldl (fun s l => s.cacheLine core op ps l) s).dropCopies core fun c => ps.any fun p => p.hits c.dev c.line := by
  cases op <;> rfl

/-- Whether the dirty bytes of a line are lost. -/
def CacheOp.loses (op : CacheOp) (ps : List Piece) (l : Nat) : Bool := op == .discard && ps.any fun p => p.hits none l && p.covers l

theorem State.L1Ok.cacheLine {s : State} (h : s.L1Ok) (core : Nat) (op : CacheOp) (ps : List Piece) (l : Nat) :
    ActedOn s (s.cacheLine core op ps l) core [l] (op == .clean) (op.loses ps) := by
  have clean := h.cleanLine core l
  have both := clean.clean_drop (clean.ok.dropLine core l)
  cases op with
  | clean => exact clean.lose_congr rfl
  | inv => exact both.lose_congr rfl
  | discard =>
      unfold State.cacheLine
      cases whole : ps.any fun p => p.hits none l && p.covers l with
      | true => exact (h.dropLine core l).lose_congr whole
      | false => exact both.lose_congr whole

theorem State.L1Ok.cacheLines {s : State} (h : s.L1Ok) (core : Nat) (op : CacheOp) (ps : List Piece) (ls : List Nat) (once : ls.Nodup) :
    ActedOn s (ls.foldl (fun s l => s.cacheLine core op ps l) s) core ls (op == .clean) (op.loses ps) := by
  induction ls generalizing s with
  | nil => exact .none h
  | cons l ls ih =>
      obtain ⟨apart, once⟩ := List.nodup_cons.1 once
      have first := h.cacheLine core op ps l
      exact first.cons (ih first.ok once) apart

theorem State.L1Ok.nodup_heldLines {s : State} (h : s.L1Ok) (core : Nat) (ps : List Piece) : (s.heldLines core ps).Nodup :=
  ((h.linesOk core).rising.imp Nat.ne_of_lt).filter _

theorem State.mem_heldLines {s : State} {core : Nat} {ps : List Piece} {l : Nat} :
    l ∈ s.heldLines core ps ↔ (Tab.find l (s.co core).owned).isSome ∧ (ps.any fun p => p.hits none l) = true := by
  rw [State.heldLines, List.mem_filter, Tab.mem_keys]

/-- Copies of a core dropped change nothing of what the coherent agents read. -/
theorem State.L1Ok.cohByte_dropCopies {s : State} (h : s.L1Ok) (core : Nat) (p : Copy → Bool) (x : Nat) :
    (s.dropCopies core p).cohByte x = s.cohByte x := by
  have owned (n : Nat) : ((s.dropCopies core p).co n).owned = (s.co n).owned := by
    rw [State.dropCopies, State.co_setCo]
    split
    · next e => rw [e]
    · rfl
  exact h.cohByte_congr (h.setCo core _ (h.linesOk core) fun _ hl => hl) rfl fun n => congrArg (Tab.find (lineOf x)) (owned n)

/-- What cache control leaves of a core's L1 and of memory. -/
structure CacheDone (s u : State) (core : Nat) (op : CacheOp) (ps : List Piece) : Prop where
  beside : u = { s with mem := u.mem, cores := u.cores }
  others : ∀ n, n ≠ core → u.co n = s.co n
  owned : ∀ l, Tab.find l (u.co core).owned =
    if (ps.any fun p => p.hits none l) = true then (if op = .clean then (Tab.find l (s.co core).owned).map fun _ => [] else none)
    else Tab.find l (s.co core).owned
  copies : (u.co core).copies = (s.co core).copies.filter fun x => op == .clean || !(ps.any fun p => p.hits x.dev x.line)
  bytes : ∀ x, u.cohByte x = if op.loses ps (lineOf x) = true ∧ (ps.any fun p => p.hits none (lineOf x)) = true
    ∧ (Tab.find (lineOf x) (s.co core).owned).isSome then readByte s.mem x else s.cohByte x

theorem State.L1Ok.cacheOp {s : State} (h : s.L1Ok) (core : Nat) (op : CacheOp) (ps : List Piece) :
    CacheDone s (s.cacheOp core op ps) core op ps := by
  have acted := h.cacheLines core op ps _ (h.nodup_heldLines core ps)
  rw [State.cacheOp_eq]
  generalize (s.heldLines core ps).foldl (fun s l => s.cacheLine core op ps l) s = t at acted
  have owned (l : Nat) : Tab.find l (t.co core).owned =
      if (ps.any fun p => p.hits none l) = true then (if op = .clean then (Tab.find l (s.co core).owned).map fun _ => [] else none)
      else Tab.find l (s.co core).owned := by
    simp only [acted.owned, State.mem_heldLines]
    cases held : Tab.find l (s.co core).owned with
    | none => simp
    | some d => simp
  have bytes (x : Nat) : t.cohByte x = if op.loses ps (lineOf x) = true ∧ (ps.any fun p => p.hits none (lineOf x)) = true
      ∧ (Tab.find (lineOf x) (s.co core).owned).isSome then readByte s.mem x else s.cohByte x := by
    rw [acted.bytes]
    refine if_congr ?_ rfl rfl
    rw [State.mem_heldLines]
    tauto
  by_cases clean : op = .clean
  · rw [if_pos clean]
    refine ⟨acted.beside, acted.others, owned, ?_, bytes⟩
    rw [acted.copies, clean]
    exact (List.filter_eq_self.2 fun _ _ => rfl).symm
  · rw [if_neg clean]
    have co (n : Nat) : (t.dropCopies core fun c => ps.any fun p => p.hits c.dev c.line).co n =
        if n = core then { t.co core with copies := (t.co core).copies.filter fun c => !ps.any fun p => p.hits c.dev c.line } else t.co n :=
      State.co_setCo t core n _
    refine ⟨?_, fun n hn => ?_, fun l => ?_, ?_, fun x => ?_⟩
    · rw [State.dropCopies, State.setCo, acted.beside]
    · rw [co, if_neg hn, acted.others n hn]
    · rw [co, if_pos rfl, owned]
    · rw [co, if_pos rfl, acted.copies, beq_eq_false_iff_ne.2 clean]
      rfl
    · rw [acted.ok.cohByte_dropCopies, bytes]

/-! ### Cache control beside other notes of the issue logic -/

theorem State.cacheLine_noted (s : State) (C P R) (core : Nat) (op : CacheOp) (ps : List Piece) (l : Nat) :
    (s.noted C P R).cacheLine core op ps l = (s.cacheLine core op ps l).noted C P R := by
  have clean : (s.noted C P R).cleanLine core l = (s.cleanLine core l).noted C P R := by
    unfold State.cleanLine
    rw [show (s.noted C P R).co core = s.co core from rfl]
    cases Tab.find l (s.co core).owned <;> rfl
  cases op with
  | clean => exact clean
  | inv =>
      unfold State.cacheLine
      dsimp only
      rw [clean]
      rfl
  | discard =>
      unfold State.cacheLine
      dsimp only
      split
      · rfl
      · rw [clean]
        rfl

theorem State.cacheOp_noted (s : State) (C P R) (core : Nat) (op : CacheOp) (ps : List Piece) :
    (s.noted C P R).cacheOp core op ps = (s.cacheOp core op ps).noted C P R := by
  have each (ls : List Nat) (u : State) : ls.foldl (fun s l => s.cacheLine core op ps l) (u.noted C P R)
      = (ls.foldl (fun s l => s.cacheLine core op ps l) u).noted C P R := by
    induction ls generalizing u with
    | nil => rfl
    | cons l ls ih => rw [List.foldl_cons, List.foldl_cons, State.cacheLine_noted, ih]
  rw [State.cacheOp_eq, State.cacheOp_eq, show (s.noted C P R).heldLines core ps = s.heldLines core ps from rfl, each]
  split <;> rfl

theorem State.walk_noted (s : State) (C P R) (ctx master va : Nat) : (s.noted C P R).walk ctx master va = s.walk ctx master va :=
  if_congr Iff.rfl (Alike.walkFrom (s := s) (x := s.noted C P R) rfl ctx master va 4 0 _) rfl

theorem State.pieces_noted (s : State) (C P R) (k base len : Nat) : (s.noted C P R).pieces k base len = s.pieces k base len := by
  unfold State.pieces
  simp only [State.walk_noted]
  rfl

/-! ### CWB, CINV and CINV.DISCARD issued -/

section
variable {s : State} {i : Instr} {h : Head} {k : Nat} {c : Convoy} {a b : Spec} {op : CacheOp}

/-- A word that waits for no line takes no entry of a probe queue. -/
theorem Ready.knocks (r : Ready s i h k c) {lines : State → Nat → List Nat} (none_ : lines s k = []) : s.knocks i lines = s := by
  unfold State.knocks
  simp only [r.front, r.head, r.actors]
  rw [List.filter_cons]
  split
  · simp [none_, State.knockAll]
  · rfl

theorem State.cacheLines_of_free {base len : Nat} (free : s.cacheWait k base len = false) : s.cacheLines k base len = [] := by
  unfold State.cacheWait at free
  dsimp only at free
  rw [Bool.or_eq_false_iff, Bool.or_eq_false_iff, Bool.or_eq_false_iff] at free
  obtain ⟨⟨⟨-, leased⟩, -⟩, walk⟩ := free
  unfold State.cacheLines
  rw [Option.isSome_eq_false_iff, Option.isNone_iff_eq_none] at walk
  rw [walk, Option.toList_none, List.append_nil, List.flatMap_eq_nil_iff]
  rintro ⟨j, t⟩ ht
  rw [List.any_eq_false] at leased
  have own := leased (j, t) ht
  dsimp only at own ⊢
  split
  · next other =>
    rw [other, Bool.true_and, Bool.not_eq_true, List.any_eq_false] at own
    rw [List.filter_eq_nil_iff]
    intro l hl
    obtain ⟨x, hx, rfl⟩ := List.mem_map.1 hl
    exact own x hx
  · rfl

theorem Ready.issueCache (r : Ready s i h k c) (he : exec i s = .next (s.issueCache i a b op))
    (free : s.cacheWait k (s.r64 k a).toNat (s.r32 k b).toNat = false) :
    exec i s = .next (s.issueEach i (fun s k => s.cacheBlock k a b) fun s k => s.cacheEff k a b op) := by
  rw [he, State.issueCache, r.knocks (State.cacheLines_of_free free)]

/-- Cache control done for a thread that holds no lease, where all of a discarded range may be written. -/
theorem Ready.caches (r : Ready s i h k c) (he : exec i s = .next (s.issueCache i a b op))
    (free : s.cacheWait k (s.r64 k a).toNat (s.r32 k b).toNat = false) (unleased : (s.th k).leases = [])
    (writable : op = .discard → ∀ p ∈ s.pieces k (s.r64 k a).toNat (s.r32 k b).toNat, p.writable = true) (ok : s.L1Ok) :
    Completes s i k (s.cacheOp (s.coreTh k) op (s.pieces k (s.r64 k a).toNat (s.r32 k b).toNat)) := by
  refine r.does (r.issueCache he free) free _ fun C P R kept _ => ⟨_, ?_, Like.noted _ C P R k, ?_⟩
  · have none_ : (if op = .discard then (s.pieces k (s.r64 k a).toNat (s.r32 k b).toNat).find? fun p => !p.writable else none) = none := by
      split
      · next discard => exact List.find?_eq_none.2 fun p hp => by simp [writable discard p hp]
      · rfl
    have unbroken (ps : List Piece) : (s.noted C P R).cacheBreak k ps = s.noted C P R := by
      unfold State.cacheBreak
      rw [show ((s.noted C P R).th k).leases = [] from unleased]
      rfl
    unfold State.cacheEff
    dsimp only
    rw [State.pieces_noted, show (s.noted C P R).r64 k a = s.r64 k a from rfl, show (s.noted C P R).r32 k b = s.r32 k b from rfl, none_]
    dsimp only
    rw [unbroken, State.cacheOp_noted]
    rfl
  · have beside := (ok.cacheOp (s.coreTh k) op (s.pieces k (s.r64 k a).toNat (s.r32 k b).toNat)).beside
    rw [beside]
    exact ⟨r.front, r.present, kept.unreserved⟩

/-- CINV.DISCARD of a range that the thread may not write throughout. -/
theorem Ready.discardDenied (r : Ready s i h k c) (he : exec i s = .next (s.issueCache i a b .discard))
    (free : s.cacheWait k (s.r64 k a).toNat (s.r32 k b).toNat = false) {p : Piece}
    (denied : (s.pieces k (s.r64 k a).toNat (s.r32 k b).toNat).find? (fun x => !x.writable) = some p) (handled : s.handled k 0x11 = true) :
    Leaves s i k (s.trap k ⟨0x11, BitVec.ofNat 64 p.va, some (BitVec.ofNat 64 p.va), none⟩) := by
  refine r.traps (r.issueCache he free) free handled fun C P R => ?_
  unfold State.cacheEff
  dsimp only
  rw [State.pieces_noted, show (s.noted C P R).r64 k a = s.r64 k a from rfl, show (s.noted C P R).r32 k b = s.r32 k b from rfl, if_pos rfl, denied]

end

end Sys2Proof.Machine
end

section
/-! SUPPORT. The fences and ROINV (11 R287, R288). -/

namespace Sys2Proof.Machine

section
variable {s : State} {i : Instr} {h : Head} {k : Nat} {c : Convoy} {block : State → Nat → Bool} {eff : State → Nat → Eff}

/-- A word that its own wait holds back waits. -/
theorem Ready.waits (r : Ready s i h k c) (he : exec i s = .next (s.issueEach i block eff)) (hb : block s k = true) : Waits s i := by
  have free := r.free
  simp only [State.holdsBack, r.unheld, noBlock, r.guard, Bool.true_and, Bool.or_eq_false_iff] at free
  obtain ⟨pending, ⟨⟨interlocked, -⟩, -⟩, -⟩ := free
  have held : s.holdsBack c i h block k = true := by
    simp [State.holdsBack, r.unheld, r.guard, hb]
  refine ⟨s, ?_, rfl, fun _ => ⟨rfl, rfl⟩⟩
  rw [he]
  unfold State.issueEach State.issueWith
  simp [r.front, r.head, r.actors, r.legal, held, r.rgu, pending, interlocked]

/-- A word that drops copies of its thread's core. -/
theorem Ready.dropsCopies (r : Ready s i h k c) (he : exec i s = .next (s.issueEach i block eff)) (hb : block s k = false) (p : Copy → Bool)
    (hd : ∀ C P R, eff (s.noted C P R) k = .done ((s.noted C P R).dropCopies (s.coreTh k) p)) :
    ∃ cs, Completes s i k { s with cores := cs } ∧ ∀ n, Tab.getD n {} cs =
      if n = s.coreTh k then { s.co n with copies := (s.co n).copies.filter fun x => !p x } else s.co n := by
  refine ⟨(s.dropCopies (s.coreTh k) p).cores, r.does he hb _ fun C P R kept _ =>
    ⟨_, hd C P R, Like.noted (s.dropCopies (s.coreTh k) p) C P R k, ⟨kept.front, kept.present, kept.unreserved⟩⟩, fun n => ?_⟩
  refine (State.co_setCo s (s.coreTh k) n _).trans ?_
  split
  · next e => rw [e]
  · rfl

/-- A word that changes nothing but its thread's place in the program. -/
theorem Ready.nothing (r : Ready s i h k c) (he : exec i s = .next (s.issueEach i block eff)) (hb : block s k = false)
    (hd : ∀ C P R, eff (s.noted C P R) k = .done (s.noted C P R)) : Completes s i k s :=
  r.does he hb s fun C P R kept _ => ⟨_, hd C P R, Like.noted s C P R k, kept⟩

end

/-! ### What an acquire drops, 05 R125 -/

theorem State.acquire_wide (s : State) (core : Nat) {sc : Scope} (wide : sc ≠ .crew ∧ sc ≠ .valley) :
    s.acquire core sc = s.dropCopies core fun x => x.kind == .si := by
  have same : (fun x : Copy => x.kind.isSi) = fun x => x.kind == .si := by
    funext x
    cases x.kind <;> rfl
  rw [← same]
  obtain ⟨crew, valley⟩ := wide
  cases sc with
  | crew => exact absurd rfl crew
  | valley => exact absurd rfl valley
  | _ => rfl

theorem State.acquire_narrow (s : State) (core : Nat) {sc : Scope} (narrow : ¬(sc ≠ .crew ∧ sc ≠ .valley)) : s.acquire core sc = s := by
  cases sc with
  | crew => rfl
  | valley => rfl
  | _ => exact absurd ⟨nofun, nofun⟩ narrow

/-- A fence: it waits, or it drops what an acquire at its scope drops (`acq`), or nothing. -/
theorem Ready.fence {s : State} {i : Instr} {h : Head} {k : Nat} {c : Convoy} {block : State → Nat → Bool} {sc : Scope} (r : Ready s i h k c)
    (acq : Bool) (he : exec i s = .next (s.issueEach i block fun s k => .done (if acq then s.acquire (s.coreTh k) sc else s))) :
    (block s k = true → Waits s i)
    ∧ (block s k = false → (acq = true → sc ≠ .crew ∧ sc ≠ .valley → ∃ cs, Completes s i k { s with cores := cs } ∧ ∀ n, Tab.getD n {} cs =
          if n = s.coreTh k then { s.co n with copies := (s.co n).copies.filter fun x => !(x.kind == .si) } else s.co n)
      ∧ (acq = false ∨ ¬(sc ≠ .crew ∧ sc ≠ .valley) → Completes s i k s)) := by
  refine ⟨r.waits he, fun hb => ⟨fun acquires wide => ?_, fun plain => ?_⟩⟩
  · refine r.dropsCopies he hb (fun x => x.kind == .si) fun C P R => ?_
    rw [if_pos acquires, State.acquire_wide _ _ wide]
    rfl
  · refine r.nothing he hb fun C P R => ?_
    rcases plain with none_ | narrow
    · rw [none_]
      rfl
    · rw [State.acquire_narrow _ _ narrow, ite_self]

end Sys2Proof.Machine
end

section
/-! SUPPORT. CRESIZE (11 R291, 04 R110). -/

namespace Sys2Proof.Machine

/-! ### Ways lent -/

/-- A line that a core holds, recalled. -/
theorem State.L1Ok.recallOwn {s : State} (h : s.L1Ok) {core l : Nat} (held : (Tab.find l (s.co core).owned).isSome) :
    ActedOn s (s.recall l) core [l] false fun _ => false := by
  obtain ⟨d, hd⟩ := Option.isSome_iff_exists.1 held
  have owner := h.ownerOf_iff.2 hd
  obtain ⟨aligned, rising, inside⟩ := h.dirty owner
  have recalled : s.recall l = { s with mem := mergeDirty s.mem l d }.setCo core fun co => { co with owned := Tab.drop l co.owned } := by
    unfold State.recall
    rw [owner]
  have co (n : Nat) : (s.recall l).co n = if n = core then { s.co core with owned := Tab.drop l (s.co core).owned } else s.co n := by
    rw [recalled]
    exact State.co_setCo _ core n _
  refine ⟨h.recall l, ?_, fun n hn => ?_, fun m => ?_, ?_, fun x hx => ?_, fun x => ?_⟩
  · rw [recalled]
    rfl
  · rw [co, if_neg hn]
  · rw [co, if_pos rfl, Tab.find_drop]
    simp
  · rw [co, if_pos rfl]
  · rw [recalled]
    exact (readByte_mergeDirty s.mem l aligned d rising inside x).trans (if_neg (by simpa using hx))
  · rw [h.cohByte_recall]
    simp

theorem State.L1Ok.recallOwns {s : State} (h : s.L1Ok) {core : Nat} (ls : List Nat) (once : ls.Nodup)
    (held : ∀ l ∈ ls, (Tab.find l (s.co core).owned).isSome) : ActedOn s (ls.foldl State.recall s) core ls false fun _ => false := by
  induction ls generalizing s with
  | nil => exact .none h
  | cons l ls ih =>
      obtain ⟨apart, once⟩ := List.nodup_cons.1 once
      have first := h.recallOwn (held l List.mem_cons_self)
      refine first.cons (ih first.ok once fun m hm => ?_) apart
      have other : m ∉ [l] := fun e => apart (by rw [← List.mem_singleton.1 e]; exact hm)
      rw [first.owned, if_neg other]
      exact held m (List.mem_cons_of_mem l hm)

theorem State.recalls_noted (s : State) (C P R) (ls : List Nat) : ls.foldl State.recall (s.noted C P R) = (ls.foldl State.recall s).noted C P R := by
  induction ls generalizing s with
  | nil => rfl
  | cons l ls ih => rw [List.foldl_cons, List.foldl_cons, State.recall_noted, ih]

/-- Ways lent where no thread of the core holds a lease: lines recalled and copies dropped. -/
theorem State.lendWays_unleased {s : State} {core : Nat} (unleased : ∀ j, s.coreTh j = core → (s.th j).leases = []) :
    s.lendWays core = ((((s.co core).owned.map (·.1)).filter (s.lentLines core).1.contains).foldl State.recall (s.lentLines core).2).dropCopies core
      fun x => (s.lentLines core).1.contains x.line := by
  have unbroken (l : List (Nat × Thread)) (own : ∀ x ∈ l, s.coreTh x.1 = core) :
      l.foldl (fun s x => s.breakLeases x.1) (s.lentLines core).2 = (s.lentLines core).2 := by
    induction l with
    | nil => rfl
    | cons x l ih =>
        have none_ : ((s.lentLines core).2.th x.1).leases = [] := unleased x.1 (own x List.mem_cons_self)
        rw [List.foldl_cons, State.breakLeases_none none_]
        exact ih fun y hy => own y (List.mem_cons_of_mem x hy)
  have all := unbroken ((s.lentLines core).2.threads.filter fun x => (s.lentLines core).2.coreTh x.1 == core
      && x.2.leases.any fun l => (s.lentLines core).1.contains l.line) fun x hx => by
    obtain ⟨own, -⟩ := Bool.and_eq_true_iff.1 (List.mem_filter.1 hx).2
    exact beq_iff_eq.1 own
  unfold State.lendWays
  dsimp only
  rw [all]
  rfl

theorem State.lendWays_noted {s : State} {core : Nat} (C P R) (unleased : ∀ j, s.coreTh j = core → (s.th j).leases = []) :
    (s.noted C P R).lendWays core = (s.lendWays core).noted C P R := by
  rw [State.lendWays_unleased unleased, State.lendWays_unleased (s := s.noted C P R) unleased]
  have lines : (s.noted C P R).lentLines core = ((s.lentLines core).1, (s.lentLines core).2.noted C P R) := rfl
  rw [lines, show (s.noted C P R).co core = s.co core from rfl, State.recalls_noted]
  rfl

/-- What lending ways leaves: a core's L1 holds fewer lines, and no byte that an agent can read has changed. -/
structure WaysLent (s u : State) (core : Nat) : Prop where
  beside : u = { s with mem := u.mem, cores := u.cores, free := u.free }
  drawn : ∃ n, u.free = s.free + n
  others : ∀ n, n ≠ core → u.co n = s.co n
  owned : ∀ l, Tab.find l (u.co core).owned = none ∨ Tab.find l (u.co core).owned = Tab.find l (s.co core).owned
  bytes : ∀ x, u.cohByte x = s.cohByte x

theorem State.L1Ok.lendWays {s : State} (h : s.L1Ok) {core : Nat} (unleased : ∀ j, s.coreTh j = core → (s.th j).leases = []) :
    WaysLent s (s.lendWays core) core := by
  rw [State.lendWays_unleased unleased]
  have ok : (s.lentLines core).2.L1Ok := h.of_cores rfl
  have once : (((s.co core).owned.map (·.1)).filter (s.lentLines core).1.contains).Nodup := ((h.linesOk core).rising.imp Nat.ne_of_lt).filter _
  have acted := ok.recallOwns (core := core) _ once fun l hl => Tab.mem_keys.1 (List.mem_filter.1 hl).1
  generalize ((s.co core).owned.map (·.1)).filter (s.lentLines core).1.contains = ls at acted
  generalize ls.foldl State.recall (s.lentLines core).2 = t at acted
  have co (n : Nat) : (t.dropCopies core fun x => (s.lentLines core).1.contains x.line).co n =
      if n = core then { t.co core with copies := (t.co core).copies.filter fun x => !(s.lentLines core).1.contains x.line } else t.co n :=
    State.co_setCo t core n _
  refine ⟨?_, ⟨_, congrArg State.free acted.beside⟩, fun n hn => ?_, fun l => ?_, fun x => ?_⟩
  · rw [State.dropCopies, State.setCo, acted.beside]
    rfl
  · rw [co, if_neg hn, acted.others n hn]
    rfl
  · rw [co, if_pos rfl, acted.owned]
    split
    · exact .inl rfl
    · exact .inr rfl
  · rw [acted.ok.cohByte_dropCopies, acted.bytes]
    simp only [Bool.false_eq_true, false_and, if_false]
    exact congrFun (State.cohByte_congr rfl rfl) x

/-! ### CRESIZE issued -/

/-- Whether a place lies in a crew's scratch past what it has with `w` ways lent. -/
def Where.past (cr w : Nat) : Where → Bool
  | .crewScratch c o => c == cr && decide (2 ^ 19 + 2 ^ 17 * w ≤ o)
  | _ => false

theorem Where.past_iff {cr w : Nat} {x : Where} : x.past cr w = true ↔ ∃ o, x = .crewScratch cr o ∧ 2 ^ 19 + 2 ^ 17 * w ≤ o := by
  cases x with
  | crewScratch c o =>
      rw [Where.past, Bool.and_eq_true, beq_iff_eq, decide_eq_true_eq]
      constructor
      · rintro ⟨rfl, le⟩
        exact ⟨o, rfl, le⟩
      · rintro ⟨p, e, le⟩
        cases e
        exact ⟨rfl, le⟩
  | mem | repl | host | remote | plainScratch => exact ⟨nofun, nofun⟩

/-- What is poisoned of scratches, where a crew's ends. -/
def State.poisonKept (s : State) (cr w : Nat) : List Where := s.scrPoison.filter fun x => !x.past cr w

/-- A crew with `w` ways lent, as its thread `k` leaves it. -/
def Crew.resized (k w : Nat) (x : Crew) : Crew :=
  { x with ways := w, resizing := x.resizing.filter (· != k), scratch := x.scratch.filter fun y => decide (y.1 < 2 ^ 19 + 2 ^ 17 * w) }

/-- What follows where `w` ways are lent from now on. -/
def State.resized (s : State) (k w : Nat) : State := { s with scrPoison := s.poisonKept (crewOf k) w }.setCr (crewOf k) (Crew.resized k w)

theorem State.resizeEff_of_excl {s : State} {k w : Nat} (excl : (s.laTh k).rcd.excl = true) (few : w ≤ 10) :
    s.resizeEff k w = .done ((if (s.crewTh k).ways < w then s.lendWays (s.coreTh k) else s).resized k w) := by
  unfold State.resizeEff
  rw [excl]
  refine (if_neg (by decide)).trans ((if_neg (by omega)).trans ?_)
  rfl

section
variable {s : State} {h : Head} {k : Nat} {c : Convoy} {a : Spec} (r : Ready s (.cresize h a) h k c)
include r

theorem Ready.noteResize (free : s.resizeBlock a k = false) : s.noteResize (.cresize h a) a = s := by
  unfold State.noteResize
  simp only [r.front, r.head, r.actors]
  rw [List.filter_cons]
  simp [free]

theorem Ready.cresize (free : s.resizeBlock a k = false) : exec (.cresize h a) s =
    .next (s.issueEach (.cresize h a) (fun s k => s.resizeBlock a k) fun s k => s.resizeEff k (s.r32 k a).toNat) := by
  have he : exec (.cresize h a) s = .next ((s.noteResize (.cresize h a) a).issueEach (.cresize h a) (fun s k => s.resizeBlock a k)
      fun s k => s.resizeEff k (s.r32 k a).toNat) := rfl
  rw [he, r.noteResize free]

theorem Ready.resizes (excl : (s.laTh k).rcd.excl = true) (few : (s.r32 k a).toNat ≤ 10) (free : s.resizeWait k = false) {t : State}
    (beside : t = { s with mem := t.mem, cores := t.cores, free := t.free })
    (lent : ∀ C P R, (if (s.crewTh k).ways < (s.r32 k a).toNat then (s.noted C P R).lendWays (s.coreTh k) else s.noted C P R) = t.noted C P R) :
    Completes s (.cresize h a) k (t.resized k (s.r32 k a).toNat) := by
  have open_ : s.resizeBlock a k = false := by simp [State.resizeBlock, free]
  refine r.does (r.cresize open_) open_ _ fun C P R kept _ => ⟨(t.resized k (s.r32 k a).toNat).noted C P R, ?_, Like.noted _ C P R k, ?_⟩
  · have last : (t.noted C P R).resized k (s.r32 k a).toNat = (t.resized k (s.r32 k a).toNat).noted C P R := rfl
    rw [← last, ← lent C P R]
    exact State.resizeEff_of_excl (s := s.noted C P R) excl few
  · rw [beside]
    exact ⟨r.front, r.present, kept.unreserved⟩

theorem Ready.resizeUnowned (shared : (s.laTh k).rcd.excl = false) (handled : s.handled k 0x03 = true) :
    Leaves s (.cresize h a) k (s.trap k ⟨0x03, highBits c.word, none, none⟩) := by
  have open_ : s.resizeBlock a k = false := by simp [State.resizeBlock, shared]
  refine r.traps (r.cresize open_) open_ handled fun C P R => ?_
  unfold State.resizeEff State.illegalRaise
  rw [show ((s.noted C P R).laTh k).rcd.excl = false from shared, show (s.noted C P R).front = some c from r.front]
  rfl

theorem Ready.resizeMany (excl : (s.laTh k).rcd.excl = true) (many : 10 < (s.r32 k a).toNat) (handled : s.handled k 0x01 = true) :
    Leaves s (.cresize h a) k (s.trap k ⟨0x01, BitVec.ofNat 64 (s.r32 k a).toNat, none, none⟩) := by
  have open_ : s.resizeBlock a k = false := by simp [State.resizeBlock, many]
  refine r.traps (r.cresize open_) open_ handled fun C P R => ?_
  unfold State.resizeEff
  rw [show ((s.noted C P R).laTh k).rcd.excl = true from excl]
  exact (if_neg (by decide)).trans (if_pos many)

end

end Sys2Proof.Machine
end

section
/-! SUPPORT. The pieces of a range that lie on this device (11 R289). -/

namespace Sys2Proof.Machine

theorem Piece.any_hits (ps : List Piece) (l : Nat) : (ps.any fun p => p.hits none l)
    = ps.any fun p => p.dev.isNone && decide (p.pa < l + 128) && decide (l < p.pa + p.len) := by
  refine congrArg (ps.any ·) (funext fun p => ?_)
  unfold Piece.hits
  cases p.dev <;> rfl

/-- A piece that covers a line overlaps it. -/
theorem Piece.any_covers (ps : List Piece) (l : Nat) : (ps.any fun p => p.hits none l && p.covers l)
    = ps.any fun p => p.dev.isNone && decide (p.pa ≤ l) && decide (l + 128 ≤ p.pa + p.len) := by
  refine congrArg (ps.any ·) (funext fun p => ?_)
  unfold Piece.hits Piece.covers
  cases p.dev with
  | some d => rfl
  | none =>
      rw [Bool.eq_iff_iff]
      simp only [Bool.and_eq_true, decide_eq_true_eq, beq_self_eq_true, Option.isNone_none, true_and]
      omega

end Sys2Proof.Machine
end

section
/-! PROOF. O35: fences wait for what they order; the cache words act on their lines. -/

namespace Sys2Proof

open Machine

/-- Settles O35: what an L1 does to its own lines one after another (`ActedOn`) gives each cache word's effect; a fence drops at most copies. -/
theorem fencesAndCaches : Obligations.FencesAndCaches := by
  intro s k c h a b sc core wide drops si fence base len ps hit whole cache w cr
  have acts (i : Instr) (op : CacheOp) (he : exec i s = .next (s.issueCache i a b op)) : cache i (op == .clean) (op == .discard) := by
    intro ready ok free unleased writable
    have acted := ok.cacheOp core op ps
    refine ⟨(s.cacheOp core op ps).mem, (s.cacheOp core op ps).cores, ?_⟩
    intro u
    have same : u = s.cacheOp core op ps := acted.beside.symm
    clear_value u
    subst same
    refine ⟨ready.caches he free unleased (fun discard => ?_) ok, acted.others, fun l => ?_, ?_, fun x => ?_⟩
    · exact List.all_eq_true.1 (writable (beq_iff_eq.2 discard))
    · rw [acted.owned, Piece.any_hits]
      simp only [beq_iff_eq]
      rfl
    · exact acted.copies
    · rw [acted.bytes]
      refine if_congr ?_ rfl rfl
      rw [CacheOp.loses, Piece.any_hits, Piece.any_covers, Bool.and_eq_true]
      exact ⟨fun ⟨⟨lost, whole⟩, hit, held⟩ => ⟨lost, hit, whole, held⟩, fun ⟨lost, hit, whole, held⟩ => ⟨⟨lost, whole⟩, hit, held⟩⟩
  refine ⟨?_, ?_, ?_, ?_, ?_, ?_, ?_, ?_, ?_, ?_⟩
  · intro ready
    exact ready.fence (block := fun s k => !(s.loading k).isEmpty || s.merging k sc) true rfl
  · intro ready
    exact ready.fence (block := fun s k => s.releasing k sc) (sc := sc) false rfl
  · intro ready
    have both := ready.fence (block := fun s k => s.releasing k sc || s.merging k sc || noBlock s k) (sc := sc) true rfl
    simpa only [noBlock, Bool.or_false] using both
  · intro ready
    exact ready.fence (block := fun s k => s.releasing k sc || s.merging k sc || s.crewWrites k sc) true rfl
  · intro ready free
    refine ready.dropsCopies rfl ?_ (fun x => x.kind.isRo) fun C P R => rfl
    rw [free]
    rfl
  · exact acts _ .clean rfl
  · exact acts _ .inv rfl
  · exact acts _ .discard rfl
  · intro p ready free denied handled
    exact ready.discardDenied rfl free denied handled
  · intro ready past
    refine ⟨s.poisonKept cr w, fun y => ?_, fun excl few free => ⟨fun fewer => ?_, fun more ok unleased => ?_⟩, ready.resizeUnowned, ready.resizeMany⟩
    · rw [State.poisonKept, List.mem_filter, Bool.not_eq_true', ← Bool.not_eq_true, Where.past_iff]
    · exact ready.resizes excl few free (t := s) rfl fun C P R => if_neg (Nat.not_lt.2 fewer)
    · have lent := ok.lendWays unleased
      obtain ⟨drawn, free'⟩ := lent.drawn
      have done := ready.resizes excl few free lent.beside fun C P R => (if_pos more).trans (State.lendWays_noted C P R unleased)
      refine ⟨(s.lendWays core).mem, (s.lendWays core).cores, drawn, ?_⟩
      intro u
      have beside := lent.beside
      rw [free'] at beside
      have last : (s.lendWays core).resized k w = u.setCr cr (Crew.resized k w) := by
        rw [beside]
        rfl
      refine ⟨last ▸ done, lent.others, fun x => ?_, lent.owned⟩
      exact (congrFun (State.cohByte_congr (s := s.lendWays core) rfl rfl) x).trans (lent.bytes x)

end Sys2Proof
end
